-- ==== Sys2Proof/Word.lean ====
section
/-!
DEFINITION. The word types of the module and their plainest arithmetic: bytes, field extraction from a block held as one
little-endian number (R5, R6), and the index types of the module's parts (R20 to R23).
-/
namespace Sys2Proof

abbrev Byte := BitVec 8
/-- A register count or pointer that runs freely modulo 2^32 (R204). -/
abbrev Count := BitVec 32

/-- Logical tile index, `Y * 128 + X` (00 Shared names). -/
abbrev Tile := Fin 10240
abbrev PanelId := Fin 16
abbrev Slot := Fin 8
/-- Engine class: 0 array, 1 vector unit, 2 mover. -/
abbrev EngClass := Fin 3
/-- Ring identifier (R198). -/
abbrev RingId := Fin 262144
abbrev Port := Fin 32
abbrev HodId := Fin 32
abbrev IntakeId := Fin 4
abbrev Sill := Fin 16
abbrev HostDie := Fin 2
abbrev Die := Fin 40
abbrev CoreId := Fin 144
/-- Home agent `8 * host die + memory controller` (R340, R343). -/
abbrev HomeId := Fin 16
/-- HBM span `2 * sill + half` (R283). -/
abbrev SpanId := Fin 32
/-- PCIe root port `4 * host die + index` (R616). -/
abbrev RootPort := Fin 8

end Sys2Proof
end

