-- ==== Sys2Proof/Syntax.lean ====
section
/-!
DEFINITION. The commands of the block: one constructor of `Instr` per row of spec/opcode_table.json, and the operand
types they carry. A field block of the spec (a packet's parameters, a link field, a frame header) is one natural number
whose bit 0 is the block's bit 0 (R5, R6).
-/
namespace Sys2Proof

/-- Authority of an access or packet (R501). -/
inductive Auth where
  | owner
  | panel (p : PanelId)
deriving DecidableEq, Repr

/-- A part of the module that sends or receives, in the order of UTYPE (Table 19.1). -/
inductive Agent where
  | tile (t : Tile)
  | die (d : Die)
  | sill (s : Sill)
  | host (h : HostDie)
  | port (n : Port)
  | hod (h : HodId)
  | intake (n : IntakeId)
  | manager
deriving DecidableEq, Repr

/-- A link of the grout network (Table 8.6): mortar link `i` of edge `e` of a compute die, or UCIe link `k` of a ring
position (0 edge attachment, 1 previous hop, 2 next hop; sills at 0 to 15, host dies at 16 and 17, as INJECT DET 0x06
numbers them). -/
inductive LinkId where
  | mortar (d : Die) (e : Fin 4) (i : Fin 16)
  | ucie (pos : Fin 18) (k : Fin 3)
deriving DecidableEq, Repr

/-- How a response ended (Tables 8.3 and 19.2 CLASS 0x10). -/
inductive Resp where
  | ok
  | poisoned
  | hostPathDown
  | unmapped
  | errOther
deriving DecidableEq, Repr

/-- What the code of a protected unit found on a read (R75, R311, R341). -/
inductive CodeErr where
  | clean
  | correctable
  | uncorrectable
deriving DecidableEq, Repr

/-- The atomics of Table 10.5. -/
inductive AtomicOp where
  | add | swap | cas | and | or | xor | min | max | minu | maxu
deriving DecidableEq, Repr

/-- What a memory request asks (R83, R311, R354): bytes to read, bytes to write, or an atomic with its operands. -/
inductive MemOp where
  | read (len : Nat)
  | write (data : List Byte)
  | atomic (op : AtomicOp) (wide : Bool) (operand : Nat) (compare : Nat)
deriving DecidableEq, Repr

structure MemReq where
  src  : Agent
  /-- panel and job slot the request is for, when it is a job's -/
  job  : Option (PanelId × Slot)
  addr : Nat
  op   : MemOp
  tag  : BitVec 8
deriving DecidableEq, Repr

/-- A CACC packet (Table 11.2): sub-header fields, buffer address, and its elements as raw codes (FP32 for kind 0,
48-bit sums for kind 1). -/
structure CaccPacket where
  panel : PanelId
  slot  : Slot
  src   : Agent
  kind1 : Bool
  cof   : Bool
  cnf   : Bool
  cmv   : Bool
  cmaxe : Int
  rtid  : Fin 4096
  addr  : Nat
  vals  : List Nat
deriving DecidableEq, Repr

/-- COH_REQ commands (Table 10.5). -/
inductive CohCmd where
  | rdS | rdU | upg | evictE
deriving DecidableEq, Repr

/-- Snoop kinds and answers (Table 10.5). -/
inductive SnoopKind where
  | inv | shr
deriving DecidableEq, Repr

inductive SnoopRsp where
  | inv
  | shr
  | invData (data : Nat)
  | shrData (data : Nat)
  | hold
deriving DecidableEq, Repr

/-- A holder of coherent lines: a tile's host-window cache, or a host die's caches taken as one holder (R344). -/
inductive Holder where
  | tile (t : Tile)
  | host (h : HostDie)
deriving DecidableEq, Repr

/-- A snoop-filter slice: local column of a compute die, and whether it serves the tiles that leave southward (R344). -/
structure SliceId where
  die   : Die
  col   : Fin 16
  south : Bool
deriving DecidableEq, Repr

/-- A grant of a home agent (Table 10.5): DATA with S or E, or the ACK of an upgrade. -/
inductive Grant where
  | shared (data : Nat)
  | exclusive (data : Nat)
  | upgraded
deriving DecidableEq, Repr

/-- Which reservation of a home agent (R348). -/
inductive Reservation where
  | line (l : Nat)
  | table
  | set (n : Nat)
deriving DecidableEq, Repr

/-- The answer of the RISC-V IOMMU to an inbound address (R358): the translated physical address, an IMSIC, or a fault. -/
inductive IommuAnswer where
  | phys (a : Nat)
  | imsic (addr : Nat)
  | fault
deriving DecidableEq, Repr

/-- Privilege mode of a hart, for CSR access (R502). -/
inductive HartMode where
  | m | s | u | vs | vu
deriving DecidableEq, Repr

inductive TurnEnd where
  | pause | wfi | retired4096
deriving DecidableEq, Repr

/-- A received frame at a Course-mode port (R415): whether the FCS holds, the EtherType, the 48 B header as one number,
the payload. -/
structure CourseFrame where
  fcsOk   : Bool
  etype   : BitVec 16
  hdr     : Nat
  payload : List Byte
deriving DecidableEq, Repr

/-- A connection of the module (R418): the local panel and job slot, the peer's rank, the channel. -/
structure ConnKey where
  panel : PanelId
  slot  : Slot
  rank  : Fin 1024
  ch    : Fin 4
deriving DecidableEq, Repr

/-- An Ethernet frame at an Ethernet-mode port: the frame bytes and whether its FCS holds. The flow hash input is the
bytes R443 names. -/
structure EthFrame where
  bytes : List Byte
  fcsOk : Bool
deriving DecidableEq, Repr

/-- One IPv4 UDP fragment at the management port (R522). -/
structure Datagram where
  srcIp   : BitVec 32
  srcPort : BitVec 16
  ident   : BitVec 16
  /-- offset in bytes -/
  offset  : Nat
  more    : Bool
  bytes   : List Byte
deriving DecidableEq, Repr

/-- The session an Icral packet belongs to (Table 16.1). -/
inductive SessKey where
  | mailbox (p : PanelId) (i : Fin 64)
  | i3c
  | eth (ip : BitVec 32) (port : BitVec 16)
deriving DecidableEq, Repr

/-- An accepted Icral packet (Table 16.4): its session, authority and header fields, and its parameter bytes as one
number. -/
structure IcralReq where
  sess   : SessKey
  auth   : Auth
  opcode : BitVec 16
  panel  : PanelId
  check  : Bool
  seq    : Count
  tag    : BitVec 32
  plen   : Nat
  params : Nat
deriving DecidableEq, Repr

/-- The register of a mailbox ring that a write names (Table 16.17). -/
inductive IcrReg where
  | cfg | clog | msia | msid
deriving DecidableEq, Repr

/-- A boot phase (Table 18.3) and, for M3 to M5, what its tests found. -/
inductive BootPhase where
  | s1 | s2 | m1 | m2
  /-- dies absent or with a wrong IDCODE -/
  | m3 (wrongDies : List (Fin 58))
  /-- physical tiles (die, column, row) that failed a test -/
  | m4 (bad : List (Die × Fin 16 × Fin 17))
  /-- links that failed training, links below the floor, channels and packages that failed training -/
  | m5 (failed : List LinkId) (below : List LinkId) (channels : List (Fin 512)) (packages : List (Fin 32))
  | m6
  /-- whether both host core domains pass their self-test; whether each CXL-capable port found a Type 3 device -/
  | m7 (coresOk : Bool) (cxl : List RootPort)
deriving DecidableEq, Repr

/-- An operation at the J2 test access port (R634). -/
inductive TapOp where
  | trst
  | bypass
  | idcode
  | sample
  | extest
  /-- any other instruction of the chain -/
  | other (code : Nat)
  /-- Manufacturing: write of a repair field, `field` as R574 codes it -/
  | repairWrite (d : Die) (c : Fin 16) (field : BitVec 5)
  /-- service site: Returned to Manufacturing (R583) -/
  | toManufacturing
deriving DecidableEq, Repr

/-- The commands, in the order of the opcode table. -/
inductive Instr where
  -- work commands: control, array, vector, mover (Table 7.9)
  | nop (t : Tile) (c : EngClass)
  | fence (t : Tile) (c : EngClass)
  | cskip (t : Tile) (c : EngClass)
  | marker (t : Tile) (c : EngClass)
  | stamp (t : Tile)
  | mm (t : Tile)
  | mmAcc (t : Tile)
  | conv (t : Tile)
  | convAcc (t : Tile)
  | ws8 (t : Tile)
  | ws8Acc (t : Tile)
  | ws2 (t : Tile)
  | ws2Acc (t : Tile)
  | vew1 (t : Tile)
  | vew2 (t : Tile)
  | vfma (t : Tile)
  | vred (t : Tile)
  | vcvt (t : Tile)
  | vzmap (t : Tile)
  | moeCount (t : Tile)
  | moeScan (t : Tile)
  | moeSum (t : Tile)
  | mvCopy (t : Tile)
  | mvExpand (t : Tile)
  | mvFill (t : Tile)
  | moeDispatch (t : Tile)
  | moeGather (t : Tile)
  | rbAdd (t : Tile)
  | rbRead (t : Tile)
  -- rings, sequencer, engines
  | ringDoorbell (g : RingId) (count : Count) (auth : Auth)
  | ringEntryFetch (g : RingId)
  | sequencerSelect (t : Tile) (c : EngClass)
  | commandTranslated (t : Tile) (c : EngClass)
  | engineTakeCommand (t : Tile) (c : EngClass)
  | feederFill (t : Tile) (col : Bool) (i : Fin 32)
  | arrayStepIssue (t : Tile)
  | weightLoadPass (t : Tile)
  | arrayDrain (t : Tile)
  | commandComplete (t : Tile) (c : EngClass) (s : Slot)
  | remoteAddApply (src : Agent) (dst : Tile)
  | remoteAddAck (t : Tile)
  | moverTransactionResponse (t : Tile) (tag : BitVec 8) (r : Resp)
  | sramCorrectedWriteback (t : Tile) (bank : Fin 24)
  | remoteAgentRequest (t : Tile) (rq : MemReq) (e : CodeErr)
  | sillHbmRequest (s : Sill) (rq : MemReq) (e : CodeErr)
  | caccReceive (p : CaccPacket)
  | stagedRead (t : Tile) (s : Slot) (addr : Nat) (len : Nat) (tag : BitVec 8)
  | stagingFillComplete (q : SpanId) (line : Nat)
  | stagingInvalidate (p : PanelId) (v : BitVec 32) (auth : Auth)
  -- coherence
  | cohReq (h : HomeId) (line : Nat) (cmd : CohCmd) (age : BitVec 8) (who : Holder)
  | writeback (h : HomeId) (line : Nat) (who : Holder) (data : Nat)
  | homeNoncohAccess (h : HomeId) (rq : MemReq) (e : CodeErr)
  | homeAtomic (h : HomeId) (rq : MemReq)
  | sliceSnoop (sl : SliceId) (line : Nat) (k : SnoopKind)
  | sliceSnoopRsp (sl : SliceId) (line : Nat) (t : Tile) (r : SnoopRsp)
  | cacheSnoop (who : Holder) (line : Nat) (k : SnoopKind)
  | homeSnoopRsp (h : HomeId) (line : Nat) (src : Holder ⊕ SliceId) (r : SnoopRsp)
  | homeSnoopResend (h : HomeId) (line : Nat) (dst : Holder ⊕ SliceId)
  | cohGrantReceive (who : Holder) (line : Nat) (g : Grant)
  | cacheHoldExpiry (who : Holder) (line : Nat)
  | cohNackReceive (who : Holder) (line : Nat) (reason : Fin 3)
  | cohRetry (who : Holder) (line : Nat)
  | reservationExpiry (h : HomeId) (r : Reservation)
  -- inbound I/O, host cores
  | pcieInboundRequest (rp : RootPort) (rid : BitVec 16) (iova : Nat) (op : MemOp) (relaxed : Bool) (ans : IommuAnswer)
  | pcieWake (rp : RootPort)
  | mxZero (c : CoreId) (rd rs1 rs2 : BitVec 5)
  | mxOpa (c : CoreId) (rd rs1 rs2 : BitVec 5)
  | mxOpn (c : CoreId) (rd rs1 rs2 : BitVec 5)
  | mxLd (c : CoreId) (rd rs1 rs2 : BitVec 5)
  | mxSt (c : CoreId) (rd rs1 rs2 : BitVec 5)
  | mxStb (c : CoreId) (rd rs1 rs2 : BitVec 5)
  | mxMvr (c : CoreId) (rd rs1 rs2 : BitVec 5)
  | sbiSystemReset (c : CoreId) (type : BitVec 32)
  | tvplumbWrite (c : CoreId) (v : BitVec 64) (mode : HartMode)
  | plumbTurnEnd (h : HostDie) (g : Fin 8) (why : TurnEnd)
  | hostWarmReset
  | hostCoreRelease
  -- course commands and protocol
  | cNop (n : Port) (i : Fin 256)
  | cWrite (n : Port) (i : Fin 256)
  | cAcc (n : Port) (i : Fin 256)
  | cPut (n : Port) (i : Fin 256)
  | cBcast (n : Port) (i : Fin 256)
  | cAllreduce (n : Port) (i : Fin 256)
  | cRscatter (n : Port) (i : Fin 256)
  | cVote (n : Port) (i : Fin 256)
  | cAbort (n : Port) (i : Fin 256)
  | collectivePhaseAdvance (n : Port) (i : Fin 256)
  | courseCommandComplete (n : Port) (i : Fin 256)
  | courseDataReceive (n : Port) (f : CourseFrame)
  | courseFrameApplied (k : ConnKey) (seq : Count)
  | courseAckReceive (n : Port) (f : CourseFrame)
  | courseAckTimer (k : ConnKey)
  | courseRetxTimer (k : ConnKey) (seq : Count)
  | coursePathSkipExpiry (k : ConnKey) (path : Fin 8)
  | courseConnFailTimer (k : ConnKey) (seq : Count)
  | voteFrameReceive (n : Port) (f : CourseFrame)
  | voteTimeout (p : PanelId) (s : Slot)
  | courseAbortReceive (n : Port) (f : CourseFrame)
  | abortResend (p : PanelId) (s : Slot)
  | courseLinkDown (n : Port)
  | courseLinkHoldExpiry (n : Port)
  | coursePortRetrain (n : Port) (v : BitVec 32) (auth : Auth)
  | ethFrameReceive (n : Port) (f : EthFrame)
  | ethFrameTransmit (n : Port) (q : Fin 128)
  -- hod engines
  | hNop (h : HodId) (i : Fin 128)
  | hGather (h : HodId) (i : Fin 128)
  | hMerge (h : HodId) (i : Fin 128)
  | hUpdate (h : HodId) (i : Fin 128)
  | hodCommandComplete (h : HodId) (i : Fin 128)
  -- intake engines
  | iNop (n : IntakeId) (i : Fin 512)
  | iImage (n : IntakeId) (i : Fin 512)
  | iVideo (n : IntakeId) (i : Fin 512)
  | iAlign (n : IntakeId) (i : Fin 512)
  | iShuffle (n : IntakeId) (i : Fin 512)
  | intakeCommandComplete (n : IntakeId) (i : Fin 512)
  -- Icral paths
  | mailboxEntryFetch (p : PanelId) (i : Fin 64)
  | mgmtDatagramReceive (d : Datagram)
  | i3cPrivateWrite (bytes : List Byte)
  | i3cPrivateRead
  | sessionIdleExpiry (ip : BitVec 32) (port : BitVec 16)
  | reassemblyExpiry (ip : BitVec 32) (ident : BitVec 16)
  -- Icral opcodes
  | idQuery (q : IcralReq)
  | setModuleId (q : IcralReq)
  | statusQuery (q : IcralReq)
  | telemetry (q : IcralReq)
  | setPowerLimit (q : IcralReq)
  | setFabric (q : IcralReq)
  | hostReset (q : IcralReq)
  | moduleReset (q : IcralReq)
  | lifecycleTransition (q : IcralReq)
  | lifecycleStageImage (q : IcralReq)
  | lifecycleActivateImage (q : IcralReq)
  | lifecycleRecoveryBlock (q : IcralReq)
  | lifecycleRecoveryCommit (q : IcralReq)
  | imageStageDone (ok : Bool)
  | panelCreate (q : IcralReq)
  | panelDestroy (q : IcralReq)
  | panelReset (q : IcralReq)
  | panelResetComplete (p : PanelId)
  | grant (q : IcralReq)
  | grantRevoke (q : IcralReq)
  | keepDefine (q : IcralReq)
  | keepRelease (q : IcralReq)
  | keepAssign (q : IcralReq)
  | keepUnassign (q : IcralReq)
  | poolMap (q : IcralReq)
  | poolUnmap (q : IcralReq)
  | staging (q : IcralReq)
  | ringConfig (q : IcralReq)
  | segment (q : IcralReq)
  | segmentRead (q : IcralReq)
  | segmentUpdateComplete (p : PanelId) (s : Slot) (e : Fin 16)
  | window (q : IcralReq)
  | windowRead (q : IcralReq)
  | rtableWrite (q : IcralReq)
  | rtableRead (q : IcralReq)
  | rtableArm (q : IcralReq)
  | coursePort (q : IcralReq)
  | mgmtNet (q : IcralReq)
  | jobStart (q : IcralReq)
  | jobEnd (q : IcralReq)
  | inject (q : IcralReq)
  | injectDisarm (q : IcralReq)
  -- job steps and timers
  | jobSlotIdle (p : PanelId) (s : Slot)
  | jobWatchdogExpiry (p : PanelId) (s : Slot)
  | transactionTimeout (a : Agent) (tag : BitVec 8)
  | t3AccessTimeout (a : Agent) (tag : BitVec 8)
  | hostWatchdogExpiry (h : HostDie)
  -- register writes with a behaviour of their own
  | hwdogPeriodWrite (h : HostDie) (v : BitVec 64) (auth : Auth)
  | hwdogKick (h : HostDie) (v : BitVec 64) (auth : Auth)
  | tileSyncWrite (t : Tile) (s : Slot) (c : Fin 64) (v : BitVec 32) (auth : Auth)
  | tileSlotPauseWrite (t : Tile) (v : BitVec 32) (auth : Auth)
  | panelSuspendWrite (p : PanelId) (v : BitVec 32) (auth : Auth)
  | linkRetrainRequest (d : Die) (e : Fin 4) (i : Fin 16) (v : BitVec 32) (auth : Auth)
  | icrRingConfigWrite (p : PanelId) (i : Fin 64) (r : IcrReg) (v : BitVec 64) (auth : Auth)
  | modEvtCfgWrite (v : BitVec 64) (auth : Auth)
  | eventLogDoorbell (g : Option (PanelId × Fin 64)) (count : Count) (auth : Auth)
  | halt (v : BitVec 32) (auth : Auth)
  | haltRelease (v : BitVec 32) (auth : Auth)
  | thaw (v : BitVec 32) (auth : Auth)
  | skimLive (v : BitVec 32) (auth : Auth)
  | skimHalted (v : BitVec 32) (auth : Auth)
  | traceMark (p : PanelId) (v : BitVec 64) (auth : Auth)
  | timeSetWrite (v : BitVec 64) (auth : Auth)
  | timeSetExpiry
  | registerReadClear (addr : Nat) (wide : Bool) (auth : Auth)
  | registerWrite (addr : Nat) (wide : Bool) (v : BitVec 64) (auth : Auth)
  -- links
  | linkFlitReceive (l : LinkId) (field : BitVec 64) (content : Nat)
  | linkReplayTimeout (l : LinkId)
  | linkRetrain (l : LinkId) (badLanes : Nat)
  | linkRetrainComplete (l : LinkId)
  | spareLaneTest (l : LinkId) (err : Bool)
  | failedLinkLaneTest (l : LinkId) (badLanes : Nat)
  -- power, temperature, scrub, tests, wipes
  | powerManagerTick (inputW : Nat) (rails : List (Die × Nat)) (estimate : List (Die × Nat))
  | droopDetect (t : Tile) (mv : Nat)
  | tileTempSample (t : Tile) (quarterC : Int)
  | hbmTempSample (s : Sill) (degC : Nat)
  | lpddrPatrolScrub (h : HostDie) (pkg : Fin 16) (addr : Nat) (e : CodeErr) (passDone : Bool)
  | arrayPatternTest (t : Tile) (pass : Bool)
  | suspicionExpiry (t : Tile)
  | wipeComplete (id : Nat)
  -- boot, supplies, reset, clocks, managers
  | standbyPowerOn (sill0Ok : Bool)
  | standbyPowerLoss
  | mainPowerValid
  | mainPowerLoss (overV : Bool)
  | mainStart
  | bootPhaseComplete (ph : BootPhase)
  | rstNAssert (usec : Nat)
  | rstNRelease
  | moduleResetBegin
  | refclkValid
  | refclkLoss
  | refclkLossTimeout
  | refclkReturn
  | ppsEdge (at_ : Nat)
  | ppsLockLoss
  | managerHeartbeat
  | managerHeartbeatTimeout (standbyOk : Bool)
  | masonCoreTimeout (d : Fin 58)
  | courseLinkUp (n : Port) (half : Bool)
  | waitWordPoll (g : RingId)
  | droopRecovery (t : Tile)
  | writebackAckReceive (who : Holder) (line : Nat)
  | homeMemoryReadDone (h : HomeId) (line : Nat)
  | pciePresenceChange (rp : RootPort) (present : Bool)
  | i3cDynamicAddressAssign (addr : BitVec 7)
  | dhcpLeaseTimer (ans : Option (BitVec 32))
  | resumeCheckTimeout (p : PanelId) (s : Slot)
  | hodAccessResponse (h : HodId) (write : Bool) (r : Resp)
  | intakeAccessResponse (n : IntakeId) (write : Bool) (r : Resp)
  | skimComplete
  | testAccessPortOperation (op : TapOp)
  | standbyManagerLoss
  | dieTempSample (sill : Bool) (unit : Fin 16) (quarterC : Int)
deriving DecidableEq, Repr

end Sys2Proof
end

