-- ==== Sys2Proof/Machine/Bits.lean ====
section
/-!
DEFINITION. Bit fields of blocks held as one little-endian number (R5, R6), bytes, and the sparse tables in which State
keeps many like things: a list of key and value pairs, keys strictly rising, no entry equal to the table's default.
-/
namespace Sys2Proof.Machine

/-- Field of `n` bits at bit `lo` of block `w` (R6). -/
def bits (w lo n : Nat) : Nat := w / 2 ^ lo % 2 ^ n

def bit (w i : Nat) : Bool := w / 2 ^ i % 2 == 1

/-- `w` with the field of `n` bits at `lo` replaced by `v`. -/
def setBits (w lo n v : Nat) : Nat :=
  w % 2 ^ lo + v % 2 ^ n * 2 ^ lo + w / 2 ^ (lo + n) * 2 ^ (lo + n)

def b2n (b : Bool) : Nat := if b then 1 else 0

/-- The low `n` bytes of `v`, lowest first (R5). -/
def toBytes : Nat → Nat → List Byte
  | 0, _ => []
  | n + 1, v => BitVec.ofNat 8 v :: toBytes n (v / 256)

def ofBytes : List Byte → Nat
  | [] => 0
  | b :: bs => b.toNat + 256 * ofBytes bs

/-- Two's complement reading of the low `n` bits. -/
def signed (n w : Nat) : Int :=
  let v := w % 2 ^ n
  if v < 2 ^ (n - 1) then (v : Int) else (v : Int) - 2 ^ n

/-- Two's complement code of `v` in `n` bits. -/
def unsigned (n : Nat) (v : Int) : Nat := (v % (2 ^ n : Nat)).toNat

/-- Position of the highest set bit; 0 for 0. -/
def log2 (n : Nat) : Nat := Nat.log2 n

def ceilDiv (a b : Nat) : Nat := (a + b - 1) / b

/-- `a` saturating at `cap` (the RC counters of Table 19.6). -/
def satAdd (cap a n : Nat) : Nat := min cap (a + n)

def allB {α} (p : α → Bool) (l : List α) : Bool := l.all p

/-- Positions of the set bits of `w` below `n`. -/
def setPositions (n w : Nat) : List Nat := (List.range n).filter (bit w)

/-- Ranges `[a, a + n)` and `[b, b + m)` share an address. -/
def overlaps (a n b m : Nat) : Bool := decide (a < b + m ∧ b < a + n)

/-- `[a, a + n)` lies in `[b, b + m)`. -/
def within (a n b m : Nat) : Bool := decide (b ≤ a ∧ a + n ≤ b + m)

/-! Sparse tables. -/

abbrev Table (α : Type) := List (Nat × α)

/-- Entry `k`, the default `d` where none is listed. -/
def Table.get {α} (t : Table α) (d : α) (k : Nat) : α :=
  match t with
  | [] => d
  | (j, v) :: r => if j = k then v else Table.get r d k

/-- Places `(k, v)` before the first larger key. -/
def Table.ins {α} (k : Nat) (v : α) : Table α → Table α
  | [] => [(k, v)]
  | (j, u) :: r => if k < j then (k, v) :: (j, u) :: r else (j, u) :: Table.ins k v r

/-- Sets entry `k`; setting the default removes it. -/
def Table.set {α} [DecidableEq α] (t : Table α) (d : α) (k : Nat) (v : α) : Table α :=
  let r := t.filter (fun p => p.1 ≠ k)
  if v = d then r else Table.ins k v r

def Table.modify {α} [DecidableEq α] (t : Table α) (d : α) (k : Nat) (f : α → α) : Table α :=
  Table.set t d k (f (Table.get t d k))

/-- Keys strictly rising and no entry equal to the default. -/
def Table.wf {α} [DecidableEq α] (t : Table α) (d : α) : Bool :=
  match t with
  | [] => true
  | (k, v) :: r => decide (v ≠ d) && r.all (fun p => decide (k < p.1)) && Table.wf r d

/-- Entries for which `p` holds are kept. -/
def Table.keep {α} (t : Table α) (p : Nat → α → Bool) : Table α := t.filter (fun x => p x.1 x.2)

/-- Every listed entry rewritten by `f`; entries that become the default leave the table. -/
def Table.update {α} [DecidableEq α] (t : Table α) (d : α) (f : Nat → α → α) : Table α :=
  match t with
  | [] => []
  | (k, v) :: r =>
    let u := Table.update r d f
    let w := f k v
    if w = d then u.filter (fun p => p.1 ≠ k) else (k, w) :: u

/-- Value listed under key `k` in an association list. -/
def assoc {κ α} [DecidableEq κ] (l : List (κ × α)) (k : κ) : Option α :=
  (l.find? (fun p => p.1 = k)).map (·.2)

end Sys2Proof.Machine
end

