-- ==== Sys2Proof/Machine/Crc.lean ====
section
/-!
DEFINITION. Checks and digests: CRC-32C (R638), SHA-256 and SHA-384 (FIPS 180-4), ECDSA P-384 verification (FIPS 186-5).
The constants of the three standards come from outside the spec, which names the standards (PRESUMED, log 12).
-/
namespace Sys2Proof.Machine

def crcBit (c : Nat) : Nat := if c % 2 = 1 then c / 2 ^^^ 0x82F63B78 else c / 2

def crcByte (c : Nat) (b : Byte) : Nat :=
  crcBit (crcBit (crcBit (crcBit (crcBit (crcBit (crcBit (crcBit (c ^^^ b.toNat))))))))

/-- R638: CRC-32C of the bytes. -/
def crc32c (bs : List Byte) : Nat := bs.foldl crcByte 0xFFFFFFFF ^^^ 0xFFFFFFFF

/-- FIPS 180-4 round constants of SHA-256. -/
def sha256K : List (BitVec 32) :=
  [0x428A2F98#32, 0x71374491#32, 0xB5C0FBCF#32, 0xE9B5DBA5#32,
   0x3956C25B#32, 0x59F111F1#32, 0x923F82A4#32, 0xAB1C5ED5#32,
   0xD807AA98#32, 0x12835B01#32, 0x243185BE#32, 0x550C7DC3#32,
   0x72BE5D74#32, 0x80DEB1FE#32, 0x9BDC06A7#32, 0xC19BF174#32] ++
  [0xE49B69C1#32, 0xEFBE4786#32, 0x0FC19DC6#32, 0x240CA1CC#32,
   0x2DE92C6F#32, 0x4A7484AA#32, 0x5CB0A9DC#32, 0x76F988DA#32,
   0x983E5152#32, 0xA831C66D#32, 0xB00327C8#32, 0xBF597FC7#32,
   0xC6E00BF3#32, 0xD5A79147#32, 0x06CA6351#32, 0x14292967#32] ++
  [0x27B70A85#32, 0x2E1B2138#32, 0x4D2C6DFC#32, 0x53380D13#32,
   0x650A7354#32, 0x766A0ABB#32, 0x81C2C92E#32, 0x92722C85#32,
   0xA2BFE8A1#32, 0xA81A664B#32, 0xC24B8B70#32, 0xC76C51A3#32,
   0xD192E819#32, 0xD6990624#32, 0xF40E3585#32, 0x106AA070#32] ++
  [0x19A4C116#32, 0x1E376C08#32, 0x2748774C#32, 0x34B0BCB5#32,
   0x391C0CB3#32, 0x4ED8AA4A#32, 0x5B9CCA4F#32, 0x682E6FF3#32,
   0x748F82EE#32, 0x78A5636F#32, 0x84C87814#32, 0x8CC70208#32,
   0x90BEFFFA#32, 0xA4506CEB#32, 0xBEF9A3F7#32, 0xC67178F2#32]

/-- Initial hash value of SHA-256. -/
def sha256H : List (BitVec 32) :=
  [0x6A09E667#32, 0xBB67AE85#32, 0x3C6EF372#32, 0xA54FF53A#32,
   0x510E527F#32, 0x9B05688C#32, 0x1F83D9AB#32, 0x5BE0CD19#32]

/-- Round constants of SHA-512 and SHA-384. -/
def sha512K : List (BitVec 64) :=
  [0x428A2F98D728AE22#64, 0x7137449123EF65CD#64,
   0xB5C0FBCFEC4D3B2F#64, 0xE9B5DBA58189DBBC#64,
   0x3956C25BF348B538#64, 0x59F111F1B605D019#64,
   0x923F82A4AF194F9B#64, 0xAB1C5ED5DA6D8118#64,
   0xD807AA98A3030242#64, 0x12835B0145706FBE#64,
   0x243185BE4EE4B28C#64, 0x550C7DC3D5FFB4E2#64,
   0x72BE5D74F27B896F#64, 0x80DEB1FE3B1696B1#64,
   0x9BDC06A725C71235#64, 0xC19BF174CF692694#64] ++
  [0xE49B69C19EF14AD2#64, 0xEFBE4786384F25E3#64,
   0x0FC19DC68B8CD5B5#64, 0x240CA1CC77AC9C65#64,
   0x2DE92C6F592B0275#64, 0x4A7484AA6EA6E483#64,
   0x5CB0A9DCBD41FBD4#64, 0x76F988DA831153B5#64,
   0x983E5152EE66DFAB#64, 0xA831C66D2DB43210#64,
   0xB00327C898FB213F#64, 0xBF597FC7BEEF0EE4#64,
   0xC6E00BF33DA88FC2#64, 0xD5A79147930AA725#64,
   0x06CA6351E003826F#64, 0x142929670A0E6E70#64] ++
  [0x27B70A8546D22FFC#64, 0x2E1B21385C26C926#64,
   0x4D2C6DFC5AC42AED#64, 0x53380D139D95B3DF#64,
   0x650A73548BAF63DE#64, 0x766A0ABB3C77B2A8#64,
   0x81C2C92E47EDAEE6#64, 0x92722C851482353B#64,
   0xA2BFE8A14CF10364#64, 0xA81A664BBC423001#64,
   0xC24B8B70D0F89791#64, 0xC76C51A30654BE30#64,
   0xD192E819D6EF5218#64, 0xD69906245565A910#64,
   0xF40E35855771202A#64, 0x106AA07032BBD1B8#64] ++
  [0x19A4C116B8D2D0C8#64, 0x1E376C085141AB53#64,
   0x2748774CDF8EEB99#64, 0x34B0BCB5E19B48A8#64,
   0x391C0CB3C5C95A63#64, 0x4ED8AA4AE3418ACB#64,
   0x5B9CCA4F7763E373#64, 0x682E6FF3D6B2B8A3#64,
   0x748F82EE5DEFB2FC#64, 0x78A5636F43172F60#64,
   0x84C87814A1F0AB72#64, 0x8CC702081A6439EC#64,
   0x90BEFFFA23631E28#64, 0xA4506CEBDE82BDE9#64,
   0xBEF9A3F7B2C67915#64, 0xC67178F2E372532B#64] ++
  [0xCA273ECEEA26619C#64, 0xD186B8C721C0C207#64,
   0xEADA7DD6CDE0EB1E#64, 0xF57D4F7FEE6ED178#64,
   0x06F067AA72176FBA#64, 0x0A637DC5A2C898A6#64,
   0x113F9804BEF90DAE#64, 0x1B710B35131C471B#64,
   0x28DB77F523047D84#64, 0x32CAAB7B40C72493#64,
   0x3C9EBE0A15C9BEBC#64, 0x431D67C49C100D4C#64,
   0x4CC5D4BECB3E42B6#64, 0x597F299CFC657E2A#64,
   0x5FCB6FAB3AD6FAEC#64, 0x6C44198C4A475817#64]

/-- Initial hash value of SHA-384. -/
def sha384H : List (BitVec 64) :=
  [0xCBBB9D5DC1059ED8#64, 0x629A292A367CD507#64,
   0x9159015A3070DD17#64, 0x152FECD8F70E5939#64,
   0x67332667FFC00B31#64, 0x8EB44A8768581511#64,
   0xDB0C2E0D64F98FA7#64, 0x47B5481DBEFA4FA4#64]

/-- Big-endian words of `w` bits from bytes. -/
def beWords (k : Nat) : Nat → List Byte → List Nat
  | 0, _ => []
  | n + 1, bs => ofBytes (bs.take k).reverse :: beWords k n (bs.drop k)

/-- Padding of FIPS 180-4 for blocks of `blk` bytes. -/
def shaPad (blk : Nat) (bs : List Byte) : List Byte :=
  let lenBytes := blk / 8
  let z := (2 * blk - (bs.length + 1 + lenBytes) % blk) % blk
  bs ++ [0x80#8] ++ List.replicate z 0#8 ++ (toBytes lenBytes (8 * bs.length)).reverse

/-- `n` further words of the message schedule from the last 16, oldest first. -/
def shaSchedule {w : Nat} (s0 s1 : BitVec w → BitVec w) : Nat → List (BitVec w) → List (BitVec w)
  | 0, win => win
  | n + 1, win =>
    match win with
    | [] => []
    | x :: rest =>
      let nxt := s1 (win.getD 14 0) + win.getD 9 0 + s0 (win.getD 1 0) + x
      x :: shaSchedule s0 s1 n (rest ++ [nxt])

/-- One block: the eight working variables through every round, added to the hash value. -/
def shaBlock {w : Nat} (ks : List (BitVec w)) (s0 s1 b0 b1 : BitVec w → BitVec w) (h : List (BitVec w))
    (m : List (BitVec w)) : List (BitVec w) :=
  let ws := shaSchedule s0 s1 (ks.length - 16) m
  let r := (ks.zip ws).foldl (fun (v : List (BitVec w)) kw =>
    match v with
    | [a, b, c, d, e, f, g, hh] =>
      let t1 := hh + b1 e + ((e &&& f) ^^^ (~~~e &&& g)) + kw.1 + kw.2
      let t2 := b0 a + ((a &&& b) ^^^ (a &&& c) ^^^ (b &&& c))
      [t1 + t2, a, b, c, d + t1, e, f, g]
    | _ => v) h
  List.zipWith (· + ·) h r

def shaBlocks {w : Nat} (f : List (BitVec w) → List (BitVec w) → List (BitVec w)) (k : Nat) :
    Nat → List Byte → List (BitVec w) → List (BitVec w)
  | 0, _, h => h
  | n + 1, bs, h => shaBlocks f k n (bs.drop (16 * k)) (f h ((beWords k 16 bs).map (BitVec.ofNat w)))

/-- SHA-256 digest, 32 bytes in FIPS 180-4 output order. -/
def sha256 (bs : List Byte) : List Byte :=
  let p := shaPad 64 bs
  let blk := shaBlock sha256K
    (fun x => x.rotateRight 7 ^^^ x.rotateRight 18 ^^^ (x >>> 3))
    (fun x => x.rotateRight 17 ^^^ x.rotateRight 19 ^^^ (x >>> 10))
    (fun x => x.rotateRight 2 ^^^ x.rotateRight 13 ^^^ x.rotateRight 22)
    (fun x => x.rotateRight 6 ^^^ x.rotateRight 11 ^^^ x.rotateRight 25)
  (shaBlocks blk 4 (p.length / 64) p sha256H).flatMap (fun w => (toBytes 4 w.toNat).reverse)

/-- SHA-384 digest, 48 bytes. -/
def sha384 (bs : List Byte) : List Byte :=
  let p := shaPad 128 bs
  let blk := shaBlock sha512K
    (fun x => x.rotateRight 1 ^^^ x.rotateRight 8 ^^^ (x >>> 7))
    (fun x => x.rotateRight 19 ^^^ x.rotateRight 61 ^^^ (x >>> 6))
    (fun x => x.rotateRight 28 ^^^ x.rotateRight 34 ^^^ x.rotateRight 39)
    (fun x => x.rotateRight 14 ^^^ x.rotateRight 18 ^^^ x.rotateRight 41)
  ((shaBlocks blk 8 (p.length / 128) p sha384H).take 6).flatMap (fun w => (toBytes 8 w.toNat).reverse)

/-! ECDSA over P-384. -/

def p384P : Nat := 2 ^ 384 - 2 ^ 128 - 2 ^ 96 + 2 ^ 32 - 1
def p384B : Nat := 0xb3312fa7e23ee7e4988e056be3f82d19181d9c6efe8141120314088f5013875ac656398d8a2ed19d2a85c8edd3ec2aef
def p384N : Nat := 0xffffffffffffffffffffffffffffffffffffffffffffffffc7634d81f4372ddf581a0db248b0a77aecec196accc52973
def p384Gx : Nat := 0xaa87ca22be8b05378eb1c71ef320ad746e1d3b628ba79b9859f741e082542a385502f25dbf55296c3a545e3872760ab7
def p384Gy : Nat := 0x3617de4a96262c6f5d9e98bf9292dc29f8f41dbd289a147ce9da3113b5f0b8c00a60b1ce1d7e819d7a431d7c90ea0e5f

/-- `b ^ x mod m` over the low `k` bits of `x`, most significant first. -/
def powMod : Nat → Nat → Nat → Nat → Nat
  | 0, _, _, _ => 1
  | k + 1, b, x, m =>
    let r := powMod k b (x / 2) m
    let r2 := r * r % m
    if x % 2 = 1 then r2 * b % m else r2

def invMod (a m : Nat) : Nat := powMod 384 (a % m) (m - 2) m

/-- Point addition; `none` is the point at infinity. -/
def ecAdd (p q : Option (Nat × Nat)) : Option (Nat × Nat) :=
  match p, q with
  | none, r | r, none => r
  | some (x1, y1), some (x2, y2) =>
    let m := p384P
    if x1 = x2 ∧ (y1 + y2) % m = 0 then none
    else
      let l := if x1 = x2 then (3 * x1 * x1 + m - 3) * invMod (2 * y1) m % m
               else (y2 + m - y1) * invMod (x2 + m - x1) m % m
      let x3 := (l * l + 2 * m - x1 - x2) % m
      some (x3, (l * (x1 + m - x3) + m - y1) % m)

def ecMul : Nat → Nat → Option (Nat × Nat) → Option (Nat × Nat)
  | 0, _, _ => none
  | k + 1, x, p =>
    let r := ecMul k (x / 2) p
    let r2 := ecAdd r r
    if x % 2 = 1 then ecAdd r2 p else r2

def ofBytesBE (bs : List Byte) : Nat := ofBytes bs.reverse

/-- ECDSA P-384 with SHA-384: does the signature `(r, s)` verify for `msg` under the point `(qx, qy)`? -/
def ecdsaVerify (qx qy r s : Nat) (msg : List Byte) : Bool :=
  let m := p384P
  let onCurve := decide (qx < m ∧ qy < m ∧ qy * qy % m = (qx * qx * qx + (m - 3) * qx + p384B) % m)
  let inRange := decide (0 < r ∧ r < p384N ∧ 0 < s ∧ s < p384N)
  let w := invMod s p384N
  let e := ofBytesBE (sha384 msg)
  let pt := ecAdd (ecMul 384 (e * w % p384N) (some (p384Gx, p384Gy))) (ecMul 384 (r * w % p384N) (some (qx, qy)))
  onCurve && inRange && (match pt with | none => false | some (x, _) => decide (x % p384N = r))

end Sys2Proof.Machine
end

