-- ==== Sys2Proof/Config.lean ====
section
/-!
DEFINITION. What the spec leaves open: free values, constants without a body, so that no proof can rest on what they
are. Each is applied to the operands it depends on, or to the counter `free` of State where a fresh value is meant.
-/
namespace Sys2Proof.Config

/-- Result bits of an approximate function (Table 2.8), by VEW1 function code and FP32 operand bits (R67, R68): bounded
but not fixed by the spec (log 11). -/
opaque approx : Nat → BitVec 32 → BitVec 32

/-- Fresh free values: the value of the draw with a number that `free` of State counts (log 2). -/
opaque freeWord : Nat → Nat

/-! ### What the flashes and fuses of a delivered module hold (18; log 43) -/

/-- Image slot, 2 × flash + slot. -/
opaque flashImage : Nat → List Byte

/-- Preference byte of a flash. -/
opaque flashPref : Nat → Nat

/-- Fused key hash, 0 to 3, as a little-endian number of 48 bytes. -/
opaque keyHash : Nat → Nat

/-- IDCODE of sill 0 (R571). -/
opaque idcode : Nat

/-! ### Coded pictures (14; log 28): what the coding standards fix and the spec does not restate -/

/-- What the frame header of a JPEG image, or the parameter sets of a stream, declare. -/
structure PicHead where
  /-- coding supported (Table 14.3) -/
  supported : Bool := false
  /-- syntax error in headers -/
  bad : Bool := false
  w : Nat := 0
  h : Nat := 0
  /-- sampling factors of the components, luma first -/
  comps : List (Nat × Nat) := []
  depth : Nat := 8
  /-- DPB size of the sequence parameter set -/
  dpb : Nat := 0
  /-- CSPACE code of the stream's matrix and range (R489); 0 when it is none of Table 14.4's -/
  cspace : Nat := 0
  /-- chroma_sample_loc_type 1 -/
  centred : Bool := false
deriving DecidableEq, Repr, Inhabited

/-- How the decoding of a stream went: pictures output, pictures dropped, the first dropped one's decoding-order index, the
last cause (10 or 9), a syntax error before the first picture output. -/
structure VideoRun where
  pics : Nat := 0
  dropped : Nat := 0
  first : Nat := 0
  cause10 : Bool := false
  early : Bool := false
deriving DecidableEq, Repr, Inhabited

/-- Header of a coding (0 JPEG, 1 H.264, 2 H.265) over the input bytes. -/
opaque picHead : Nat → List Byte → PicHead

/-- Error in the entropy-coded data of a JPEG image, or its end before EOI. -/
opaque jpegError : List Byte → Bool

/-- Decoding of a stream with at most the given pictures output. -/
opaque videoRun : Nat → List Byte → Nat → VideoRun

/-- Decoded sample: coding, input, picture, plane, row, column. -/
opaque sample : Nat → List Byte → Nat → Nat → Nat → Nat → Nat

end Sys2Proof.Config
end

