-- ==== Sys2Proof/Machine/Num.lean ====
section
/-!
DEFINITION. Number formats and exact arithmetic (02): decoding of every element format, rounding once to a format's grid,
the conversions of R54 to R59 with their flags, deterministic stochastic rounding, and the FP32 operations of R65.
-/
namespace Sys2Proof.Machine

/-- A value: NaN, an infinity, or the exact number `± m * 2 ^ e`. A zero keeps its sign. -/
inductive Val where
  | nan
  | inf (neg : Bool)
  | num (neg : Bool) (m : Nat) (e : Int)
deriving DecidableEq, Repr

/-- How a format codes infinities and NaN (Table 2.1). -/
inductive Special where
  | ieee | e4m3 | none | int
deriving DecidableEq, Repr

structure Fmt where
  width : Nat
  expBits : Nat
  manBits : Nat
  bias : Nat
  kind : Special
  /-- exponent of the largest normal element -/
  emax : Int
deriving DecidableEq, Repr

def fmtE4M3 : Fmt := ⟨8, 4, 3, 7, .e4m3, 8⟩
def fmtE5M2 : Fmt := ⟨8, 5, 2, 15, .ieee, 15⟩
def fmtE2M3 : Fmt := ⟨6, 2, 3, 1, .none, 2⟩
def fmtE3M2 : Fmt := ⟨6, 3, 2, 3, .none, 4⟩
def fmtE2M1 : Fmt := ⟨4, 2, 1, 1, .none, 2⟩
def fmtInt8 : Fmt := ⟨8, 0, 6, 0, .int, 0⟩
def fmtInt4 : Fmt := ⟨4, 0, 2, 0, .int, 0⟩
def fmtBF16 : Fmt := ⟨16, 8, 7, 127, .ieee, 127⟩
def fmtFP16 : Fmt := ⟨16, 5, 10, 15, .ieee, 15⟩
def fmtFP32 : Fmt := ⟨32, 8, 23, 127, .ieee, 127⟩

/-- Format of an FMT code (Table 7.4); codes outside 1 to 10 read as FP32 and are refused before use. -/
def fmtOf (code : Nat) : Fmt :=
  match code with
  | 1 => fmtE4M3 | 2 => fmtE5M2 | 3 => fmtE2M3 | 4 => fmtE3M2 | 5 => fmtE2M1
  | 6 => fmtInt8 | 7 => fmtInt4 | 8 => fmtBF16 | 9 => fmtFP16 | _ => fmtFP32

/-- Block formats carry E8M0 scales (R209). -/
def isBlockFmt (code : Nat) : Bool := decide (1 ≤ code ∧ code ≤ 7)

/-- R39, R40: value of an element code. -/
def Fmt.decode (f : Fmt) (c : Nat) : Val :=
  let neg := bit c (f.width - 1)
  match f.kind with
  | .int => let v := signed f.width c; .num (decide (v < 0)) v.natAbs (-(f.manBits : Int))
  | k =>
    let ex := bits c f.manBits f.expBits
    let man := bits c 0 f.manBits
    if k = .ieee ∧ ex = 2 ^ f.expBits - 1 then (if man = 0 then .inf neg else .nan)
    else if k = .e4m3 ∧ c % 128 = 127 then .nan
    else if ex = 0 then .num neg man (1 - (f.bias : Int) - f.manBits)
    else .num neg (man + 2 ^ f.manBits) ((ex : Int) - f.bias - f.manBits)

/-- Greatest finite magnitude code. -/
def Fmt.maxCode (f : Fmt) : Nat :=
  match f.kind with
  | .ieee => (2 ^ f.expBits - 1) * 2 ^ f.manBits - 1
  | .e4m3 => 0x7E
  | .none => 2 ^ (f.width - 1) - 1
  | .int => 2 ^ (f.width - 1) - 1

/-- R50: the canonical NaN code. -/
def Fmt.nanCode (f : Fmt) : Nat :=
  match f.kind with
  | .ieee => if f.expBits = 5 ∧ f.manBits = 2 then 0x7E
             else (2 ^ f.expBits - 1) * 2 ^ f.manBits + 2 ^ (f.manBits - 1)
  | .e4m3 => 0x7F
  | _ => 0

def Fmt.infCode (f : Fmt) : Nat := (2 ^ f.expBits - 1) * 2 ^ f.manBits

/-- Code with the sign: sign bit for floating formats, two's complement for integers. -/
def Fmt.signedCode (f : Fmt) (neg : Bool) (c : Nat) : Nat :=
  match f.kind with
  | .int => if neg then unsigned f.width (-(c : Int)) else c
  | _ => c + b2n neg * 2 ^ (f.width - 1)

/-- Exponent of the leading bit of `m * 2 ^ e`, `m ≠ 0`. -/
def expOf (m : Nat) (e : Int) : Int := (log2 m : Int) + e

/-- Weight of one grid step at magnitude `m * 2 ^ e` (R56: the spacing of the binade, or the subnormal spacing). -/
def Fmt.quantum (f : Fmt) (m : Nat) (e : Int) : Int :=
  match f.kind with
  | .int => -(f.manBits : Int)
  | _ => max (expOf m e - f.manBits) (1 - (f.bias : Int) - f.manBits)

/-- Rounding mode at a conversion: to nearest even, or stochastic with the 32-bit draw `r` (R56). -/
inductive Rnd where
  | rne
  | dsr (r : Nat)
deriving DecidableEq, Repr

/-- `m * 2 ^ e` as a rounded multiple of `2 ^ q`. -/
def roundTo (rnd : Rnd) (m : Nat) (e q : Int) : Nat :=
  if q ≤ e then m * 2 ^ (e - q).toNat
  else
    let d := 2 ^ (q - e).toNat
    let n := m / d
    let r := m % d
    match rnd with
    | .rne => if 2 * r < d then n else if d < 2 * r then n + 1 else n + n % 2
    | .dsr u => if u < r * 2 ^ 32 / d then n + 1 else n

/-- Code, unbounded above, of `m * 2 ^ e` rounded to the grid of `f`. -/
def Fmt.roundCode (f : Fmt) (rnd : Rnd) (m : Nat) (e : Int) : Nat :=
  if m = 0 then 0
  else
    let q := f.quantum m e
    let n := roundTo rnd m e q
    match f.kind with
    | .int => n
    | _ => (q - (1 - (f.bias : Int) - f.manBits)).toNat * 2 ^ f.manBits + n

/-- Numeric status flags (Table 2.6), in the bit order of Table 2.7. -/
structure NFlags where
  ni : Bool := false
  nv : Bool := false
  of : Bool := false
  sat : Bool := false
  uf : Bool := false
  nf : Bool := false
deriving DecidableEq, Repr

def NFlags.none : NFlags := {}

def NFlags.or (a b : NFlags) : NFlags :=
  ⟨a.ni || b.ni, a.nv || b.nv, a.of || b.of, a.sat || b.sat, a.uf || b.uf, a.nf || b.nf⟩

def NFlags.toNat (a : NFlags) : Nat :=
  b2n a.ni + 2 * b2n a.nv + 4 * b2n a.of + 8 * b2n a.sat + 16 * b2n a.uf + 32 * b2n a.nf

/-- R51, R52, R54, Table 2.5 row 1: conversion of a value to FP32, BF16 or FP16, with the flags it sets. -/
def Fmt.convert (f : Fmt) (sat : Bool) (rnd : Rnd) (x : Val) : Nat × NFlags :=
  match x with
  | .nan => (f.nanCode, { nf := true })
  | .inf s => (f.signedCode s f.infCode, { nf := true })
  | .num s m e =>
    let c := f.roundCode rnd m e
    if f.maxCode < c then
      if sat then (f.signedCode s f.maxCode, { of := true, sat := true })
      else (f.signedCode s f.infCode, { of := true, nf := true })
    else (f.signedCode s c, { uf := decide (m ≠ 0 ∧ c = 0) })

/-- R45, R65: one rounding of an exact value to FP32. -/
def rne32 (sat : Bool) (x : Val) : Nat × NFlags := fmtFP32.convert sat .rne x

def val32 (w : Nat) : Val := fmtFP32.decode w

/-- R57: the generator. -/
def dsrMix (z : BitVec 64) : BitVec 64 :=
  let z := (z ^^^ (z >>> 30)) * 0xBF58476D1CE4E5B9#64
  let z := (z ^^^ (z >>> 27)) * 0x94D049BB133111EB#64
  z ^^^ (z >>> 31)

/-- R57: `dsr_bits(step, tensor, index)`. -/
def dsrBits (step tensor index : Nat) : Nat :=
  let key := dsrMix (BitVec.ofNat 64 (tensor % 2 ^ 32 * 2 ^ 32 + step % 2 ^ 32))
  let z := dsrMix (key + 0x9E3779B97F4A7C15#64 * BitVec.ofNat 64 (index + 1))
  z.toNat / 2 ^ 32

/-- The rounding of one conversion: mode bit RND and the identity the draw depends on (R56, R212). -/
structure RndCtx where
  stochastic : Bool
  step : Nat
  tensor : Nat
deriving DecidableEq, Repr

def RndCtx.at (c : RndCtx) (index : Nat) : Rnd :=
  if c.stochastic then .dsr (dsrBits c.step c.tensor index) else .rne

/-! Exact operations. -/

def Val.isNan : Val → Bool | .nan => true | _ => false
def Val.isFinite : Val → Bool | .num .. => true | _ => false
def Val.neg? : Val → Bool | .nan => false | .inf s => s | .num s .. => s

def Val.negate : Val → Val
  | .nan => .nan | .inf s => .inf (!s) | .num s m e => .num (!s) m e

def Val.abs : Val → Val
  | .nan => .nan | .inf _ => .inf false | .num _ m e => .num false m e

def sgn (s : Bool) (m : Nat) : Int := if s then -(m : Int) else m

/-- Exact sum of finite numbers as an integer multiple of the smaller unit. -/
def addNum (s1 : Bool) (m1 : Nat) (e1 : Int) (s2 : Bool) (m2 : Nat) (e2 : Int) : Int × Int :=
  let e := min e1 e2
  (sgn s1 m1 * 2 ^ (e1 - e).toNat + sgn s2 m2 * 2 ^ (e2 - e).toNat, e)

def Val.add (a b : Val) : Val :=
  match a, b with
  | .nan, _ | _, .nan => .nan
  | .inf s, .inf t => if s = t then .inf s else .nan
  | .inf s, _ | _, .inf s => .inf s
  | .num s1 m1 e1, .num s2 m2 e2 =>
    let r := addNum s1 m1 e1 s2 m2 e2
    if r.1 = 0 then .num (s1 && s2 && decide (m1 = 0 ∧ m2 = 0)) 0 r.2
    else .num (decide (r.1 < 0)) r.1.natAbs r.2

def Val.mul (a b : Val) : Val :=
  match a, b with
  | .nan, _ | _, .nan => .nan
  | .inf s, .inf t => .inf (s != t)
  | .inf s, .num t m _ | .num t m _, .inf s => if m = 0 then .nan else .inf (s != t)
  | .num s1 m1 e1, .num s2 m2 e2 => .num (s1 != s2) (m1 * m2) (e1 + e2)

def Val.fma (a b c : Val) : Val := (a.mul b).add c

/-- `a ÷ b` with 80 further bits and a sticky bit below them: rounds as the exact quotient does. -/
def Val.div (a b : Val) : Val :=
  match a, b with
  | .nan, _ | _, .nan => .nan
  | .inf _, .inf _ => .nan
  | .inf s, .num t _ _ => .inf (s != t)
  | .num s _ _, .inf t => .num (s != t) 0 0
  | .num s1 m1 e1, .num s2 m2 e2 =>
    if m2 = 0 then (if m1 = 0 then .nan else .inf (s1 != s2))
    else
      let n := m1 * 2 ^ 80
      .num (s1 != s2) (n / m2 * 2 + b2n (decide (n % m2 ≠ 0))) (e1 - e2 - 81)

/-- Integer square root by bits: `k` further result bits of `n`, from the partial root `r`. -/
def isqrtBits : Nat → Nat → Nat → Nat
  | 0, _, r => r
  | k + 1, n, r =>
    let t := r + 2 ^ k
    isqrtBits k n (if t * t ≤ n then t else r)

def isqrt (n : Nat) : Nat := isqrtBits (log2 n / 2 + 1) n 0

def Val.sqrt (a : Val) : Val :=
  match a with
  | .nan => .nan
  | .inf s => if s then .nan else .inf false
  | .num s m e =>
    if m = 0 then .num s 0 0
    else if s then .nan
    else
      let sh : Nat := if e % 2 = 0 then 80 else 81
      let n := m * 2 ^ sh
      let r := isqrt n
      .num false (r * 2 + b2n (decide (r * r ≠ n))) ((e - sh) / 2 - 1)

/-- Order of finite or infinite values; `none` when either is NaN. -/
def Val.lt (a b : Val) : Bool :=
  match a, b with
  | .nan, _ | _, .nan => false
  | .inf s, .inf t => s && !t
  | .inf s, .num .. => s
  | .num .., .inf t => !t
  | .num s1 m1 e1, .num s2 m2 e2 => decide ((addNum s1 m1 e1 (!s2) m2 e2).1 < 0)

def Val.eq (a b : Val) : Bool :=
  match a, b with
  | .nan, _ | _, .nan => false
  | .inf s, .inf t => s == t
  | .num s1 m1 e1, .num s2 m2 e2 => decide ((addNum s1 m1 e1 (!s2) m2 e2).1 = 0)
  | _, _ => false

/-- R65: minimum of IEEE 754-2019; −0 below +0. -/
def Val.min (a b : Val) : Val :=
  if a.isNan || b.isNan then .nan
  else if a.lt b then a else if b.lt a then b
  else if a.neg? then a else b

def Val.max (a b : Val) : Val :=
  if a.isNan || b.isNan then .nan
  else if a.lt b then b else if b.lt a then a
  else if a.neg? then b else a

def Val.one : Val := .num false 1 0
def Val.zero : Val := .num false 0 0

/-- Times `2 ^ k`. -/
def Val.scale (k : Int) : Val → Val
  | .num s m e => .num s m (e + k)
  | v => v

/-- The FP32 result of an exact value, with flags: NV when a NaN arises from inputs that held none (Table 2.6). -/
def fp32Result (sat : Bool) (inputs : List Val) (r : Val) : Nat × NFlags :=
  let (c, g) := rne32 sat r
  (c, { g with nv := r.isNan && inputs.all (fun v => !v.isNan), nf := false })

/-! Blocks. -/

/-- R58: scale code of a block from its finite values. -/
def blockScale (f : Fmt) (xs : List Val) : Nat :=
  let es := xs.filterMap (fun v => match v with
    | .num _ m e => if m = 0 then none else some (expOf m e)
    | _ => none)
  match es with
  | [] => 0x7F
  | e :: r =>
    let x := max (r.foldl max e - f.emax) (-127)
    (x + 127).toNat

/-- R58, R59, Table 2.5: one element at block exponent `k` (scale `2 ^ k`). A NaN or infinity that the format cannot
hold gives code 0 here; the caller writes the scale 0xFF (or R641 applies). -/
def blockElem (f : Fmt) (sat : Bool) (rnd : Rnd) (k : Int) (x : Val) : Nat × NFlags :=
  match x with
  | .nan =>
    match f.kind with
    | .ieee | .e4m3 => (f.nanCode, { nf := true })
    | _ => (0, {})
  | .inf s =>
    match f.kind with
    | .ieee => (f.signedCode s f.infCode, { nf := true })
    | .e4m3 => if sat then (f.signedCode s f.maxCode, { sat := true }) else (f.nanCode, { nf := true })
    | _ => if sat then (f.signedCode s f.maxCode, { sat := true }) else (0, {})
  | .num s m e =>
    let c := min (f.roundCode rnd m (e - k)) f.maxCode
    (f.signedCode s c, { uf := decide (m ≠ 0 ∧ c = 0) })

/-- The block cannot hold one of its values and takes the scale 0xFF (Table 2.5, last row). -/
def blockPoison (f : Fmt) (sat : Bool) (xs : List Val) : Bool :=
  (f.kind == .none || f.kind == .int) &&
    xs.any (fun v => match v with | .nan => true | .inf _ => !sat | _ => false)

/-- R58, R59: conversion of a block; element codes, scale code, flags. `ix` gives each element's index (R56). -/
def convertBlock (f : Fmt) (sat : Bool) (c : RndCtx) (xs : List (Val × Nat)) : List Nat × Nat × NFlags :=
  let vs := xs.map (·.1)
  if blockPoison f sat vs then (xs.map (fun _ => 0), 0xFF, { nf := true })
  else
    let s := blockScale f vs
    let rs := xs.map (fun p => blockElem f sat (c.at p.2) ((s : Int) - 127) p.1)
    (rs.map (·.1), s, rs.foldl (fun a p => a.or p.2) {})

/-- R641: conversion of one element at a single scale. -/
def convertSingle (f : Fmt) (sat : Bool) (rnd : Rnd) (scl : Nat) (x : Val) : Nat × NFlags :=
  if scl = 0xFF then (0, { nf := true })
  else blockElem f sat rnd ((scl : Int) - 127) x

/-- R64: value of an element with its scale code, before the range check of FP32. -/
def scaled (f : Fmt) (code scale : Nat) : Val :=
  if scale = 0xFF then .nan else (f.decode code).scale ((scale : Int) - 127)

/-- R64: the vector unit's reading of an element: exact in FP32, overflow under R51; NI on a non-finite input. -/
def readElem (f : Fmt) (sat : Bool) (code : Nat) (scale : Option Nat) : Nat × NFlags :=
  let v := match scale with
    | some s => scaled f code s
    | none => f.decode code
  match v with
  | .num .. => let r := rne32 sat v; (r.1, { r.2 with nf := false })
  | _ => ((rne32 sat v).1, { ni := true })

/-- Exact sum of values as Val; NaN and opposed infinities give NaN (R49). -/
def sumVals (vs : List Val) : Val := vs.foldl Val.add .zero

end Sys2Proof.Machine
end

