-- ==== Sys2Proof/Machine/State.lean ====
section
/-!
DEFINITION. The state of the module as plain data, the reasons a step could stop, and the state after power is first
applied (`State.reset`: no supply present, MSTATE 0, PHASE 0; every register at its Reset column). Sparse tables
(Machine/Bits.lean) hold the many like things; their defaults are the records' default fields, which are the reset values.
-/
namespace Sys2Proof.Machine

/-- Reasons of a fault. The spec has no stop of the module: every fault it names is a record and a job end, which are
states. Nothing raises this one; it is here because a step's outcome has the case. Safe: no command reaches it. -/
inductive Fault where
  | noneDefined
deriving DecidableEq, Repr

/-- Reasons of a refusal. -/
inductive Refusal where
  /-- Raised by exec for a row whose meaning is not modelled; no row is left in that state. Safe: the run stops. -/
  | notModelled (mnemonic : String)
deriving DecidableEq, Repr

/-! ### Tiles (03, 04, 05, 06, 07) -/

/-- Sync counter (R215), with the last update applied to it, which trace names (R606, kind 4). -/
structure SyncCtr where
  val : BitVec 16 := 0
  byTile : Nat := 0
  byEng : Nat := 0
  byRemote : Bool := false
deriving DecidableEq, Repr

/-- A 64 B work command and its extension entry (Tables 7.2 to 7.7), each block as one number. -/
structure WorkCmd where
  hdr : Nat := 0
  d0 : Nat := 0
  d1 : Nat := 0
  d2 : Nat := 0
  ext : Option Nat := none
deriving DecidableEq, Repr

/-- A translated operand (R291): physical address of its OFFSET (for TIER 0 in the tile's own window; for TIER 4 the T2
address read through a staging window), tier code, coherence attribute, VBASE + OFFSET (R294). -/
structure Opnd where
  addr : Nat := 0
  tier : Nat := 0
  coh : Bool := false
  vaddr : Nat := 0
deriving DecidableEq, Repr

/-- A translated command (R86): the command, its first entry's ring position, its operands, the slot's job generation,
its wait's trace (R606): 0 no record, 1 wait-begin written, 2 wait-satisfied written. -/
structure Cmd where
  cmd : WorkCmd := {}
  pos : Count := 0
  a : Opnd := {}
  b : Opnd := {}
  c : Opnd := {}
  gen : Nat := 0
  noted : Nat := 0
deriving DecidableEq, Repr

/-- A piece of a mover command's work (R79, R239 to R241, R642): bytes copied, pattern bytes, bytes written, bytes of a
screed frame read, values sent to a reduction buffer, elements read from one. -/
inductive Work where
  | copy (src dst len : Nat)
  | fill (dst len phase : Nat)
  | put (dst : Nat) (bytes : List Byte)
  | piece (frame off src len : Nat)
  | cacc (row e0 n addr : Nat)
  | rb (i0 n addr : Nat)
deriving DecidableEq, Repr

/-- A command the engine has taken and that has not completed. -/
structure Active where
  c : Cmd := {}
  /-- time the engine took it (R234) -/
  at_ : Nat := 0
  /-- OUTCOME: 0 performed, 1 skipped by its predicate, 2 skipped by CSKIP (Table 7.9a) -/
  outcome : Nat := 0
  flags : NFlags := {}
  /-- chunks begun (Table 7.9a CHUNKS) -/
  chunks : Nat := 0
  /-- nominal tc of the chunk in progress (R124, R224) -/
  chunkLen : Nat := 0
  /-- effective M of an array command (R161) -/
  effM : Nat := 0
  /-- steps, rows or transactions issued -/
  prog : Nat := 0
  /-- last work issued (R226) -/
  issued : Bool := false
  /-- work finished and writes performed (R227) -/
  done : Bool := false
  /-- flags and record in place, signal step held (R220) -/
  held : Bool := false
  /-- commands of the slot on the tile that a FENCE waits for: class and ring position -/
  fence : List (Nat × Count) := []
  /-- slot mask word of a wide-shallow command, read when it was taken (R131) -/
  mask : Nat := 0
  /-- set bits of a wide-shallow command's B brick map, by number, read when it was taken (R142, R148) -/
  marks : List Nat := []
  /-- a mover command's work still to issue, once planned -/
  plan : Option (List Work) := none
  /-- bytes of the frame being collected (MV_EXPAND), by offset; elements read (RB_READ), by index -/
  bytes : Table (List Byte) := []
  elems : Table Nat := []
  /-- frames expanded and bricks written (MV_EXPAND) -/
  frame : Nat := 0
  brick : Nat := 0
  /-- reduction entry at the first read (R383, R384) -/
  entry : Option Nat := none
deriving DecidableEq, Repr

/-- One engine of a tile: its FIFO lanes, the translation in progress, the rotating pointers, the commands started. -/
structure Engine where
  urgent : List Cmd := []
  normal : List Cmd := []
  /-- ring slot being translated, with the class bit of the command (R85, R88) -/
  xlat : Option (Nat × Bool) := none
  /-- sequencer selection pointer (R87) -/
  selPtr : Nat := 0
  /-- engine selection pointer (R222) -/
  engPtr : Nat := 0
  /-- slot of the command whose chunk is in progress -/
  running : Option Nat := none
  active : List Active := []
deriving DecidableEq, Repr

/-- An accumulator with its bound exponent G (R181). -/
structure Acc where
  v : Nat := 0
  g : Int := -126
deriving DecidableEq, Repr

/-- One block of a vector as a DPU reads it: elements formed (an omitted, padding or skipped position is none) and the
scale code. -/
structure Blk where
  els : List (Option Val) := []
  scale : Nat := 127
deriving DecidableEq, Repr

/-- A feeder entry: the step it serves, its blocks, whether a 2:4 index word of it is out of order, whether its data
read poisoned. -/
structure FeedEntry where
  step : Nat := 0
  blks : List Blk := []
  badIdx : Option Nat := none
  /-- the bad index was injected (DET 0x09) -/
  injIdx : Bool := false
  /-- address of poisoned data the entry read -/
  poison : Option Nat := none
deriving DecidableEq, Repr

/-- A drain waiting or in progress: the command (slot and ring position), the accumulator set, the output group, its
n-block and first m-block, its sub-blocks, K-blocks added per sub-block, the next pair of rows. -/
structure Drain where
  slot : Nat := 0
  pos : Count := 0
  ws : Bool := false
  set : Nat := 0
  group : Nat := 0
  nb : Nat := 0
  mb : Nat := 0
  subs : Nat := 0
  nU : List Nat := []
  next : Nat := 0
  /-- checks of the sub-block in progress that failed: row bits, column bits, corner, injected -/
  rows : Nat := 0
  cols : Nat := 0
  corner : Bool := false
  /-- an injection flipped a bit in this sub-block; whether in LOG mode (R194, R195) -/
  inj : Option Bool := none
  /-- a halt interrupted this sub-block's drain (R602) -/
  cut : Bool := false
deriving DecidableEq, Repr

/-- The array (R113 to R136, R177 to R181). -/
structure ArrayS where
  /-- accumulators 0 to 7 of the 33 × 33 DPUs, row by row -/
  accs : Table (List Acc) := []
  /-- set the next output group uses (R118) -/
  nextSet : Nat := 0
  /-- set and K-blocks added per sub-block of the group in progress; none between groups -/
  grp : Option (Nat × List Nat) := none
  rowFeed : Table (List FeedEntry) := []
  colFeed : Table (List FeedEntry) := []
  /-- B entries of the K-step in progress, held in the DPUs (R116) -/
  held : List FeedEntry := []
  drains : List Drain := []
  /-- weights loaded, at most two passes (R133): pass, and per output column its blocks -/
  wts : List (Nat × List (List Blk)) := []
deriving DecidableEq, Repr

/-- A mover transaction outstanding (R79): tag, slot, ring position, its work, bytes of a staged read once served
(R306). -/
structure Txn where
  tag : Nat := 0
  slot : Nat := 0
  pos : Count := 0
  work : Work := .put 0 []
  /-- a staged read not yet served -/
  waiting : Bool := false
  staged : Bool := false
  data : List Byte := []
  /-- how a staged read ended at its window -/
  bad : Resp := .ok
deriving DecidableEq, Repr

/-- Coherent line states of a cache (R342). -/
inductive LineState where
  | I | S | E | M
deriving DecidableEq, Repr

/-- A coherent line in a cache: state, 64 B of data, hold window running (R349), in the writeback buffer (R351), request
outstanding, last AGE sent (R348). -/
structure Line where
  st : LineState := .I
  data : Nat := 0
  hold : Bool := false
  wb : Bool := false
  req : Option CohCmd := none
  nacked : Bool := false
  age : Nat := 0
  /-- the data was poisoned in memory (R368, R639) -/
  pz : Bool := false
deriving DecidableEq, Repr

/-- A remote add on its way (R219). -/
structure RemoteAdd where
  src : Agent := .manager
  /-- engine class of the source; 3 for a unit other than a tile -/
  eng : Nat := 3
  dst : Nat := 0
  panel : Nat := 0
  slot : Nat := 0
  ctr : Nat := 0
  val : Nat := 0
  gen : Nat := 0
deriving DecidableEq, Repr

structure TileS where
  slotFault : BitVec 8 := 0
  thermal : Bool := false
  pause : BitVec 8 := 0
  temp : BitVec 12 := 0
  vmin : BitVec 12 := 0xFFF
  droopEvt : Nat := 0
  /-- MHz the island fell to at a droop, until its supply has recovered (R95) -/
  droop : Option Nat := none
  /-- TILE_NFLAG of each slot, in the bit order of Table 2.7 -/
  nflag : Table Nat := []
  /-- sync counters, slot × 64 + counter -/
  sync : Table SyncCtr := []
  /-- the three engines by class -/
  eng : Table Engine := []
  arr : ArrayS := {}
  txns : List Txn := []
  /-- unacknowledged remote adds (R220) -/
  unacked : Nat := 0
  /-- remote adds held while the plane is thawed (R604) -/
  heldAdds : List RemoteAdd := []
  /-- corrected words waiting for write-back: bank, address (R75) -/
  corrected : List (Nat × Nat) := []
  /-- coherent lines of the host-window cache by line number -/
  hwc : Table Line := []
  /-- time of the first checksum fault while suspect (R191, R192) -/
  suspect : Option Nat := none
  patternDue : Bool := false
  retire : Bool := false
  /-- checks not made (R184) -/
  unmade : Nat := 0

deriving DecidableEq, Repr

/-! ### Rings (07, 12 to 16, 19) -/

structure Ring where
  log2 : Nat := 0
  en : Bool := false
  /-- physical address of the first entry -/
  base : Nat := 0
  modr : Bool := false
  head : Count := 0
  tail : Count := 0
  clog : Nat := 0
  msia : Nat := 0
  msid : Nat := 0
  /-- fetched, unconsumed entries, the first at HEAD (R201) -/
  fetched : List Nat := []
  /-- commands still to skip after CSKIP (R233) -/
  cskip : Nat := 0
  /-- stopped by a fault until its job ends (R84, R204) -/
  stopped : Bool := false
  /-- records offered to a log since the ring was enabled (Table 19.1 LSEQ) -/
  lseq : Nat := 0
  /-- trace records discarded and not yet reported (R608) -/
  lost : Nat := 0
  /-- tail counts made available, with the authority of their doorbells (R501) -/
  avail : List (Count × Auth) := []
deriving DecidableEq, Repr

/-! ### Panels and jobs (09, 11, 12, 15, 16) -/

/-- A job slot of a panel: PNL_JOB and the context JOB_START set (Tables 15.14 and 16.13). -/
structure Job where
  /-- 0 idle, 1 running, 2 ending -/
  jstate : Nat := 0
  gen : Nat := 0
  ecause : Nat := 0
  jobLo : Nat := 0
  tag : Nat := 0
  jobId : Nat := 0
  rank : Nat := 0
  nmod : Nat := 0
  fallback : Bool := false
  plumb : Bool := false
  hdrAddr : Nat := 0
  outr : Nat := 0
  vtab : Nat := 0
  ptab : Nat := 0
  msia : Nat := 0
  msid : Nat := 0
  vtms : Nat := 2000
  maxskip : Nat := 16
  wdog : Nat := 0
  /-- a fault of the job is recorded already (R590) -/
  faulted : Bool := false
  /-- time of the cause that stands (R507) -/
  causeTs : Nat := 0
  /-- STEP of the module's own last READY; whether this module has committed it (R399, R400) -/
  vote : Option (Nat × Bool) := none
  /-- vote timer running (R402) -/
  vtimer : Bool := false
  /-- STEPs this module submitted (R399), and each READY it holds: rank and STEP (R400) -/
  voted : List Nat := []
  ready : List (Nat × Nat) := []
  /-- group rank whose first-come dispatch is next in plumb mode (R548) -/
  fcTurn : Nat := 0
deriving DecidableEq, Repr

/-- A staged read waiting on a fill (R306): tile, slot, T2 address, length, tag. -/
structure StagedWait where
  tile : Nat := 0
  slot : Nat := 0
  addr : Nat := 0
  len : Nat := 0
  tag : Nat := 0
deriving DecidableEq, Repr

/-- A fill of a staging window: line, demand or prefetch, stale (R309). -/
structure Fill where
  line : Nat := 0
  prefetch : Bool := false
  stale : Bool := false
deriving DecidableEq, Repr

/-- The staging window of one owned half (R304 to R309). -/
structure StageWin where
  /-- set → line held and whether it is stale -/
  held : Table (Option (Nat × Bool)) := []
  fills : List Fill := []
  queue : List Fill := []
  waits : List StagedWait := []
  /-- reads in the request class, beyond the 256 waiting -/
  class_ : List StagedWait := []
deriving DecidableEq, Repr

structure Panel where
  /-- 0 none, 1 resetting, 2 in service, 3 out of service -/
  state : Nat := 0
  b0 : Nat := 0
  wb : Nat := 0
  resets : Nat := 0
  oosc : Nat := 0
  /-- what follows the reset in progress: 0 or 1 service, 2 destruction -/
  after : Nat := 0
  /-- the reset in progress has begun its wipe (Table 15.9, step 5) -/
  wiped : Bool := false
  susp : BitVec 8 := 0
  iso : Nat := 0
  jend : Nat := 0
  jobs : Table Job := []
  /-- segment entries, slot × 16 + segment (Table 9.5) -/
  segs : Table Nat := []
  wins : Table Nat := []
  rtab : Table Nat := []
  wl : Nat := 0
  pf : Nat := 0
  stage : Table StageWin := []
  /-- T2 and T3 grants: base, length -/
  grants : List (Nat × Nat) := []
  trcCtl : Nat := 0
  stale : Nat := 0
  gendis : Nat := 0
  tdrop : Nat := 0
  edrop : Nat := 0
  cfgerr : Nat := 0
deriving DecidableEq, Repr

/-! ### Coherence (10) -/

/-- A directory entry (Table 10.4): owner when owned, sharer bits of compute and host dies, reservation: AGE and
requester code (R348). Busy is the home agent's transaction on the line. -/
structure DirEnt where
  owner : Option Holder := none
  cdie : Nat := 0
  hdie : Nat := 0
  res : Option (Nat × Nat) := none
  /-- recency, for the least recently used choice of R343 -/
  used : Nat := 0
deriving DecidableEq, Repr

/-- One snoop of a transaction: to whom, its kind, 0 sent, 1 answered Hold and to be sent again. -/
structure SnoopOut where
  dst : Holder ⊕ SliceId
  kind : SnoopKind := .inv
  held : Bool := false
deriving DecidableEq, Repr

/-- What a transaction does when its snoops are in (R347, R354, R355): grant the request, perform an access, evict. -/
inductive TransKind where
  | grant (who : Holder) (cmd : CohCmd)
  | access (rq : MemReq)
  | evict
deriving DecidableEq, Repr

structure Trans where
  kind : TransKind := .evict
  snoops : List SnoopOut := []
  /-- dirty data taken, when any -/
  dirty : Option Nat := none
  /-- the memory read is done (R347 example, HOME_MEMORY_READ_DONE) -/
  memDone : Bool := false
  /-- sharers that answered other than Inv, so that they stay sharers -/
  kept : Bool := false
deriving DecidableEq, Repr

structure Home where
  dir : Table DirEnt := []
  /-- transactions in progress by line (busy lines), at most 256 -/
  txns : Table (Option Trans) := []
  tableRes : Option (Nat × Nat) := none
  setRes : Table (Option (Nat × Nat)) := []
  clock : Nat := 0
deriving DecidableEq, Repr

/-- A snoop a slice serves (R345): kind, tiles still to answer, whether any kept a shared copy, dirty data, a Hold. -/
structure SliceTxn where
  kind : SnoopKind := .inv
  waits : List Nat := []
  shared : Bool := false
  dirty : Option Nat := none
  hold : Bool := false
deriving DecidableEq, Repr

structure Slice where
  /-- line → tiles that may hold it -/
  ents : Table (List Nat) := []
  txns : Table (Option SliceTxn) := []
deriving DecidableEq, Repr

/-- A host core (R334, R502, R550). -/
structure HostCore where
  x : Table (BitVec 64) := []
  v : Table (BitVec 512) := []
  /-- accumulator elements, acc × 1,024 + row × 32 + column -/
  acc : Table (BitVec 32) := []
  /-- mxctl.MS: 0 Off, 1 Initial, 2 Clean, 3 Dirty -/
  ms : Nat := 0
  vsDirty : Bool := false
  vstart : Nat := 0
  fflags : Nat := 0
  /-- supervisor CSR tvpanel (R502); no command of the table writes it -/
  tvpanel : Nat := 0
  tvplumb : Nat := 0
  /-- last exception: cause code and trap value; entry follows the RISC-V privileged specification, not this manual -/
  trap : Option (Nat × Nat) := none
  /-- last SBI return error code (R329) -/
  sbi : Option Int := none
deriving DecidableEq, Repr

structure Pkg where
  cecnt : Nat := 0
  uecnt : Nat := 0
  sref : Bool := false
  scrub : Nat := 0
  failed : Bool := false
deriving DecidableEq, Repr

structure HostS where
  /-- CSTATE: 0 running, 1 warm reset in progress, 2 held in reset -/
  cstate : Nat := 2
  /-- the core domain of a warm reset in progress has been reset (Table 10.8) -/
  domReset : Bool := false
  wrcnt : Nat := 0
  lost : Nat := 0
  nacks : Nat := 0
  holds : Nat := 0
  devict : Nat := 0
  pkgs : Table Pkg := []
  /-- the die's T2 is unmapped for a failed package (R577) -/
  t2Off : Bool := false
  /-- coherent lines of the die's caches, taken as one holder (R344) -/
  lines : Table Line := []
deriving DecidableEq, Repr

/-! ### Memory (09) -/

structure Stack where
  temp : Nat := 0
  step : Nat := 0
  stop : Bool := false
  outmap : Nat := 0
  failmap : Nat := 0
  cecnt : Nat := 0
  /-- corrected errors of each channel in the last 24 h, each with its time (R312) -/
  ce24 : Table (List Nat) := []
deriving DecidableEq, Repr

/-- A wipe in progress (R322): what it covers, as ranges; the panel it belongs to; the keep region it releases. -/
structure Wipe where
  id : Nat := 0
  /-- tier wiped; 8 is a panel's T0 and T1 together, 9 the module's T0 to T2 -/
  tier : Nat := 0
  ranges : List (Nat × Nat) := []
  panel : Option Nat := none
  keep : Option Nat := none
deriving DecidableEq, Repr

/-- A keep region (R318, R320). -/
structure Keep where
  defined : Bool := false
  base : Nat := 0
  len : Nat := 0
  panel : Option Nat := none
  lost : Bool := false
  wiping : Bool := false
deriving DecidableEq, Repr

/-! ### Debug (19) and time (20) -/

structure Dbg where
  halt : Bool := false
  thawed : Bool := false
  skmode : Bool := false
  skbands : Nat := 0
  skbusy : Bool := false
  skerr : Bool := false
  dumpok : Bool := false
  edrop : Nat := 0
  fatals : Nat := 0
  cfgerr : Nat := 0
  halton : Nat := 0
  /-- classes recorded since their HALTON bit was set (R600, the first record) -/
  haltSeen : Nat := 0
  skimAddr : Nat := 0
  dumpAddr : Nat := 0
  /-- MOD_HWDOG of each host die: PERIOD, EXPIRED, time the period began -/
  hwdog : Table (Nat × Bool × Nat) := []
deriving DecidableEq, Repr

structure TimeS where
  lock : Bool := false
  miss : Nat := 0
  armed : Option Nat := none
  lastEdge : Option Nat := none
  streak : Nat := 0
deriving DecidableEq, Repr

/-! ### Links (08) -/

/-- The receiving and sending side of a link at the die that holds its status register (R263 to R266, Tables 8.7, 8.9). -/
structure Link where
  /-- STATE when it is not that of the module as a whole: down before training, up after it -/
  st : Option Nat := none
  rate : Nat := 0
  half : Bool := false
  /-- recovery hold asserted (R264) -/
  hold : Bool := false
  /-- spare lanes in use, and withdrawn from the pool (R572) -/
  spares : Nat := 0
  withdrawn : Nat := 0
  /-- modules trained, of a UCIe link, when fewer than all -/
  mods : Option Nat := none
  replays : Nat := 0
  crcerr : Nat := 0
  retrains : Nat := 0
  /-- receiver: SEQ of the last flit accepted, waiting for a replay -/
  rxSeq : Nat := 255
  waitReplay : Bool := false
  /-- credits to return, per class; flits buffered at the input, per class (R253) -/
  credDue : List Nat := [0, 0, 0, 0]
  buffered : List Nat := [0, 0, 0, 0]
  /-- packets in progress at the input, per class: the rest of a packet that was discarded (R247) -/
  dropping : List Bool := [false, false, false, false]
  /-- sender: SEQ of the next flit, flits held for replay oldest first, replays in a row without an ACK -/
  txSeq : Nat := 0
  held : List Nat := []
  failedReplays : Nat := 0
  /-- times of the replays within the last second (R264) -/
  replayTimes : List Nat := []
  /-- sender: credits used, per class; flits waiting for the link with the input they came in at -/
  used : List Nat := [0, 0, 0, 0]
  waitq : List (Nat × Nat) := []
  /-- sender: input whose packet holds the output, per class, and the rotating pointer over classes (R254, R258) -/
  owner : List (Option Nat) := [none, none, none, none]
  classPtr : Nat := 0
  inPtr : List Nat := [0, 0, 0, 0]
  /-- receiver: link by which the packet in progress leaves, per class -/
  exit : List (Option Nat) := [none, none, none, none]
  /-- retraining: 0 none, 1 its test passed, 2 the link is to be failed, 3 to be held below the floor (R265, R266) -/
  trial : Nat := 0
  /-- flits sent by replays, link field and content: an output of the model -/
  sent : List Nat := []
deriving DecidableEq, Repr

/-! ### Course ports and connections (12) -/

/-- A frame a sender has assigned a SEQ (R419): what it carries, from which command (port, ring, position), its
transmissions. The payload is read from the source at each transmission (R432); a VOTE frame keeps its record. -/
structure SentFrame where
  seq : Nat := 0
  vote : Bool := false
  op : Nat := 0
  first : Bool := false
  last : Bool := false
  notify : Bool := false
  fence : Bool := false
  win : Nat := 0
  off : Nat := 0
  src : Nat := 0
  len : Nat := 0
  rtid : Nat := 0
  payload : List Byte := []
  cmd : Nat × Nat × Count := (0, 0, 0)
  sends : Nat := 1
  path : Nat := 0
  accepted : Bool := false
deriving DecidableEq, Repr

/-- A frame accepted and not yet applied (R420). -/
structure RxFrame where
  hdr : Nat := 0
  payload : List Byte := []
  port : Nat := 0
  applied : Bool := false
deriving DecidableEq, Repr

/-- One direction pair of a connection as this module holds it (R418 to R425). -/
structure Conn where
  live : Bool := false
  peerMod : Nat := 0
  peerPanel : Nat := 0
  peerSlot : Nat := 0
  jtag : Nat := 0
  /-- paths: local port, remote port -/
  paths : List (Nat × Nat) := []
  /-- next SEQ and latest applied prefix received (R419) -/
  seq : Nat := 0
  acked : Nat := 0
  rr : Nat := 0
  frames : List SentFrame := []
  /-- consecutive timer expiries of each path; 2 is a path skipped for 1 ms (R422) -/
  expiries : Table Nat := []
  /-- receiver: accepted prefix P, applied prefix A, bitmap from P -/
  p : Nat := 0
  a : Nat := 0
  bitmap : Nat := 0
  rx : Table (Option RxFrame) := []
  /-- P and A when the last ACK was sent (R421) -/
  ackP : Nat := 0
  ackA : Nat := 0
  nackAt : Option Nat := none
  /-- an ACK is owed for a duplicate (R420) -/
  ackSoon : Bool := false
deriving DecidableEq, Repr

/-- A frame on the wire, sent by the module. -/
structure TxFrame where
  port : Nat := 0
  remote : Nat := 0
  hdr : Nat := 0
  payload : List Byte := []
deriving DecidableEq, Repr

/-- A course command a port has started and not completed (R431). -/
structure CourseCmd where
  ring : Nat := 0
  pos : Count := 0
  w : Nat := 0
  /-- last frame sent -/
  sent : Bool := false
  /-- collective phase (R436): 0 reduce-scatter, 1 waiting for TACC, 2 all-gather, 3 waiting for TPUT, 4 waits met -/
  phase : Nat := 0
  /-- frames sent so far of the phase's list -/
  prog : Nat := 0
deriving DecidableEq, Repr

structure CPort where
  /-- 0 down, 1 training, 2 up, 3 retraining, 4 failed -/
  st : Nat := 0
  eth : Bool := false
  half : Bool := false
  hold : Bool := false
  txf : Nat := 0
  rxf : Nat := 0
  retx : Nat := 0
  dup : Nat := 0
  rxdrop : Nat := 0
  badf : Nat := 0
  feccor : Nat := 0
  fecunc : Nat := 0
  maxpay : Nat := 4096
  etype : Nat := 0x88B5
  vlanen : Bool := false
  pcp : Nat := 0
  vid : Nat := 0
  nrxq : Nat := 1
  mac : Option Nat := none
  cmds : List CourseCmd := []
deriving DecidableEq, Repr

/-- An ABORT being sent (R441): job slot, payload, the frames of one copy, copies still to send. -/
structure AbortOut where
  panel : Nat := 0
  slot : Nat := 0
  payload : Nat := 0
  frames : List TxFrame := []
  left : Nat := 0
deriving DecidableEq, Repr

/-! ### Hod engines (13) -/

/-- A hod command in progress: ring of the engine, position, its 128 B, its table descriptor, translated addresses, reads and
writes still to issue and outstanding, whether its reads are all in and its writes made, OUTCOME, flags. -/
structure HodCmd where
  ring : Nat := 0
  pos : Count := 0
  w : Nat := 0
  desc : Nat := 0
  tr : List Nat := []
  rLeft : Nat := 0
  rOut : Nat := 0
  wLeft : Nat := 0
  wOut : Nat := 0
  ran : Bool := false
  outcome : Nat := 0
  flags : Nat := 0
deriving DecidableEq, Repr

structure HodS where
  slotFault : Nat := 0
  rows : Nat := 0
  absent : Nat := 0
  stall : Nat := 0
  /-- rotating pointer over the rings of each slot (R458), and over slots (R459) -/
  ringPtr : Table Nat := []
  slotPtr : Nat := 0
  cmds : List HodCmd := []
deriving DecidableEq, Repr

/-! ### Intake engines (14) -/

structure IntCmd where
  ring : Nat := 0
  pos : Count := 0
  w : Nat := 0
  tr : List Nat := []
  /-- what the opcode's work still has to read and write, and what is outstanding (R476) -/
  rLeft : Nat := 0
  rOut : Nat := 0
  wLeft : Nat := 0
  wOut : Nat := 0
  ran : Bool := false
  flags : Nat := 0
  /-- status record but for its time (Table 14.5), when the command has one -/
  status : Nat := 0
deriving DecidableEq, Repr

structure IntS where
  pfault : Nat := 0
  pics : Nat := 0
  rej : Nat := 0
  drop : Nat := 0
  panelPtr : Nat := 0
  ringPtr : Table Nat := []
  cmds : List IntCmd := []
deriving DecidableEq, Repr

/-! ### Icral (16) -/

/-- A session of packets (R527): highest SEQ accepted, the replies of the 16 latest accepted SEQs, oldest first, time of
its last packet. -/
structure Session where
  high : Option Count := none
  replies : List (Count × List Byte) := []
  last : Nat := 0
deriving DecidableEq, Repr

/-- What a performed packet still waits for before its reply is formed. -/
inductive Wait where
  | panel (p : Nat)
  | wipe (id : Nat)
  | hosts
  | slot (p j : Nat)
  /-- commands translated under the replaced entry: ring and position (R86) -/
  | seg (p j e : Nat) (cmds : List (Nat × Count))
  | resume (p j : Nat)
  | port (n : Nat)
deriving DecidableEq, Repr

/-- An accepted packet without a reply (R528): the packet, its mailbox entry (position, reply buffer, RBLK, MSI), what it
waits for once performed, its clamp entries. -/
structure Accepted where
  q : IcralReq
  pos : Count := 0
  rpy : Nat := 0
  rblk : Nat := 0
  msi : Bool := false
  wait : Option Wait := none
  clamps : List Nat := []
deriving DecidableEq, Repr

/-- A datagram in reassembly (R522): bytes held by offset, total length once the last fragment is in. -/
structure Reasm where
  ip : BitVec 32 := 0
  port : BitVec 16 := 0
  ident : BitVec 16 := 0
  parts : List (Nat × List Byte) := []
  total : Option Nat := none
deriving DecidableEq, Repr

structure Mgmt where
  sessions : List (SessKey × Session) := []
  accepted : List Accepted := []
  frags : List Reasm := []
  /-- a 17th source was answered BUSY and needs a session (R522) -/
  want : Bool := false
  /-- reply datagrams sent: an output of the model -/
  tx : List (BitVec 32 × BitVec 16 × List Byte) := []
  i3cReply : Option (List Byte) := none
  /-- bytes returned by I3C private reads, and in-band interrupts raised (mandatory data bytes): outputs of the model -/
  i3cOut : List (List Byte) := []
  ibi : List Byte := []
  i3cAddr : Option (BitVec 7) := none
  static : Bool := false
  addr : Nat := 0
  masklen : Nat := 0
  gw : Nat := 0
  /-- address DHCP gave -/
  lease : Option Nat := none
  /-- allow-list: prefix and length -/
  allow : List (Nat × Nat) := []
deriving DecidableEq, Repr

/-! ### Power and readings (05, 16) -/

structure PowerS where
  /-- limit set, and limit in force since the last 100 ms window began (R535) -/
  limit : Nat := 16000
  limitNow : Nat := 16000
  /-- ticks and watts summed in the present window; mean of the last one; highest since TELEMETRY -/
  ticks : Nat := 0
  sum : Nat := 0
  pin : Nat := 0
  pmax : Nat := 0
  rails : Table Nat := []
  /-- core clocks of the host dies, MHz less the reset value 3,000 -/
  hostMHz : Table Nat := []
  hostTemp : Table Int := []
  sillTemp : Table Int := []
deriving DecidableEq, Repr

/-! ### Boot, repair, supplies (18, 20) -/

structure Boot where
  /-- 12 V within ratings; 54 V within ratings; input capacitance charged (R618) -/
  p12 : Bool := false
  p54 : Bool := false
  charged : Bool := false
  /-- reference: 0 never valid, 1 valid, 2 lost for at most 100 ms, 3 lost for longer -/
  ref : Nat := 0
  /-- RST_N released (R622); at reset nothing asserts it -/
  rstN : Bool := true
  tripped : Bool := false
  /-- FAULT output -/
  fault : Bool := false
  mstate : Nat := 0
  phase : Nat := 0
  holdc : Nat := 0
  lcs : Nat := 0
  rcause : Nat := 0
  mepoch : Nat := 0
  active : Nat := 0
  stby : Bool := false
  slot : Nat := 0
  fwst : Nat := 0
  recovery : Bool := false
  /-- both managers lost (R581) -/
  dead : Bool := false
  svn : Nat := 0
  minsvn : Nat := 0
  /-- times MINSVN has been raised, at most 64 -/
  raises : Nat := 0
  krev : Nat := 0
  /-- 54 V was lost while 12 V stayed (Table 18.2, cause 3) -/
  lost54 : Bool := false
  /-- image slots, 2 × flash + slot, and the preference bytes (R565); what the flashes hold first is free (log 43) -/
  flash : Table (Option (List Byte)) := []
  pref : Table (Option Nat) := []
  staged : List Byte := []
  /-- start-ups begun of an activated image that has not reached Ready; the preferences before it (R568) -/
  attempts : Option Nat := none
  prevPref : Option (Nat × Nat) := none
  blocks : Table (Option Nat) := []
  /-- module reset due, with its RCAUSE; life-cycle state it moves to -/
  rst : Option Nat := none
  target : Option Nat := none
  /-- main start, M0, is past (R563) -/
  started : Bool := false
  /-- hold-out causes found at this start-up, bit c for code c of Table 18.5 -/
  causes : Nat := 0
  /-- ranges the wipes of M6 cover beside T0 and T1 (Table 9.12) -/
  wipeDue : List (Nat × Nat) := []
  /-- links trained since the last module reset -/
  trained : Bool := false
  /-- main rails up -/
  rails : Bool := false
  /-- repair fields less the value 0x1F, by 16 × die + column, as the value XOR 0x1F; rows pending retirement -/
  repair : Table Nat := []
  pend : Table (Option Nat) := []
  dfail : Nat := 0
  /-- fatal records in the flashes, oldest first, at most 4 (R593) -/
  fatalRecs : List Nat := []
  /-- fatal records to write to the module log after the next Ready (R593) -/
  fatalDue : Bool := false
  /-- UCIe capability floor that SET_FABRIC set, for the next training (R266) -/
  ufloor : Nat := 0
  /-- time of the last heartbeat of the active manager (R579) -/
  beat : Nat := 0
  /-- keep-region bytes of LPDDR5X left self-refresh other than under the module's control -/
  srefLost : Bool := false
deriving DecidableEq, Repr

/-! ### The module -/

/-- A response that an agent of memory sent: to whom, its tag, how it ended, its data (R76, R282, R354). -/
structure MemRsp where
  dst : Agent := .manager
  tag : Nat := 0
  resp : Resp := .ok
  data : List Byte := []
deriving DecidableEq, Repr

structure State where
  /-- the block's queue of waiting commands, first in first out -/
  pending : List Instr := []
  /-- free values used so far (the model's own counter, log 2) -/
  free : Nat := 0
  /-- ns of the module's timescale -/
  now : Nat := 0
  time : TimeS := {}
  mem : Table Byte := []
  /-- poisoned protected units by unit address (R639) -/
  poison : Table Bool := []
  /-- lines poisoned by a home agent (R368), by line address -/
  linePoison : Table Bool := []
  /-- units whose poison an injection set (R538) -/
  injPoison : Table Bool := []
  /-- armed injections (R537): DET × 2^32 + TARGET → ARG, LOG mode -/
  inj : Table (Option (Nat × Bool)) := []
  tiles : Table TileS := []
  rings : Table Ring := []
  evt : Ring := {}
  adds : List RemoteAdd := []
  /-- remote-add acknowledgements on their way to each tile -/
  addAcks : Table Nat := []
  panels : Table Panel := []
  hbmStks : Table Stack := []
  wipes : List Wipe := []
  keeps : Table Keep := []
  /-- pool placements: base, length, ports, granularity, logical device (R286) -/
  pool : List (Nat × Nat × Nat × Nat × Nat) := []
  homes : Table Home := []
  hosts : Table HostS := []
  cores : Table HostCore := []
  slices : Table Slice := []
  snpRsps : List ((Holder ⊕ SliceId) × Nat × SnoopRsp) := []
  grants : List (Holder × Nat × Grant) := []
  /-- reduction packets on their way to a sill engine (R379) -/
  caccs : List CaccPacket := []
  nacks : List (Holder × Nat × Nat) := []
  wbAcks : List (Holder × Nat) := []
  /-- responses of the memory agents, oldest first: an output of the model -/
  rsps : List MemRsp := []
  dbg : Dbg := {}
  /-- die clock ceilings, MHz, less the reset value 400 -/
  ceils : Table Nat := []
  /-- interrupts delivered to host cores: address, data -/
  msis : List (Nat × Nat) := []
  /-- hart holding the turn of each plumb group, host die × 8 + group (R551) -/
  plumb : Table (Option Nat) := []
  /-- PCIe: bit r for root port r: CXL mode (R632), PERST_N released (R631), a device present (Table 20.8) -/
  cxl : Nat := 0
  perst : Nat := 0
  present : Nat := 0
  /-- links by key: 64 × die + 16 × edge + index for mortar, 2,560 + 3 × position + link for UCIe -/
  links : Table Link := []
  ports : Table CPort := []
  /-- connections by key ((panel × 8 + slot) × 1024 + rank) × 4 + channel -/
  conns : Table Conn := []
  courseTx : List TxFrame := []
  /-- frames sent by Ethernet-mode ports: port, bytes (R443) -/
  ethTx : List (Nat × List Byte) := []
  aborts : List AbortOut := []
  hods : Table HodS := []
  intakes : Table IntS := []
  /-- module ID and whether it is assigned (R27) -/
  modId : Nat := 0
  midset : Bool := false
  /-- firmware release running: major, minor, patch, one byte each from bit 0 (R544) -/
  fw : Nat := 0
  /-- ring mode strict (R270) -/
  strict : Bool := false
  mgmt : Mgmt := {}
  power : PowerS := {}
  boot : Boot := {}
  /-- what the last register read returned: an output of the model -/
  regRsp : Nat := 0
  /-- next wipe number -/
  wipeNext : Nat := 0
deriving DecidableEq, Repr

def State.reset : State := {}

end Sys2Proof.Machine
end

