-- ==== Sys2Proof/Machine/Ops.lean ====
section
/-!
DEFINITION. The named operations over State: access to the many parts, memory by physical address, the coherent taking of
lines, records and logs, the end of a job, remote adds. No arm of the model touches these parts in another way.
-/
namespace Sys2Proof.Machine

/-! ### Access to the parts -/

def State.tile (s : State) (t : Nat) : TileS := s.tiles.get {} t
def State.setTile (s : State) (t : Nat) (v : TileS) : State := { s with tiles := s.tiles.set {} t v }
def State.modTile (s : State) (t : Nat) (f : TileS → TileS) : State := s.setTile t (f (s.tile t))

def State.engine (s : State) (t c : Nat) : Engine := (s.tile t).eng.get {} c
def State.setEngine (s : State) (t c : Nat) (e : Engine) : State :=
  s.modTile t (fun x => { x with eng := x.eng.set {} c e })
def State.modEngine (s : State) (t c : Nat) (f : Engine → Engine) : State := s.setEngine t c (f (s.engine t c))

def State.modArr (s : State) (t : Nat) (f : ArrayS → ArrayS) : State :=
  s.modTile t (fun x => { x with arr := f x.arr })

def State.ring (s : State) (g : Nat) : Ring := s.rings.get {} g
def State.setRing (s : State) (g : Nat) (r : Ring) : State := { s with rings := s.rings.set {} g r }
def State.modRing (s : State) (g : Nat) (f : Ring → Ring) : State := s.setRing g (f (s.ring g))

def State.panel (s : State) (p : Nat) : Panel := s.panels.get {} p
def State.setPanel (s : State) (p : Nat) (v : Panel) : State := { s with panels := s.panels.set {} p v }
def State.modPanel (s : State) (p : Nat) (f : Panel → Panel) : State := s.setPanel p (f (s.panel p))

def State.job (s : State) (p j : Nat) : Job := (s.panel p).jobs.get {} j
def State.setJob (s : State) (p j : Nat) (v : Job) : State :=
  s.modPanel p (fun x => { x with jobs := x.jobs.set {} j v })
def State.modJob (s : State) (p j : Nat) (f : Job → Job) : State := s.setJob p j (f (s.job p j))

def State.stack (s : State) (k : Nat) : Stack := s.hbmStks.get {} k
def State.modStack (s : State) (k : Nat) (f : Stack → Stack) : State :=
  { s with hbmStks := s.hbmStks.set {} k (f (s.stack k)) }

def State.keep (s : State) (k : Nat) : Keep := s.keeps.get {} k
def State.modKeep (s : State) (k : Nat) (f : Keep → Keep) : State :=
  { s with keeps := s.keeps.set {} k (f (s.keep k)) }

def State.home (s : State) (h : Nat) : Home := s.homes.get {} h
def State.modHome (s : State) (h : Nat) (f : Home → Home) : State :=
  { s with homes := s.homes.set {} h (f (s.home h)) }

def State.host (s : State) (h : Nat) : HostS := s.hosts.get {} h
def State.modHost (s : State) (h : Nat) (f : HostS → HostS) : State :=
  { s with hosts := s.hosts.set {} h (f (s.host h)) }

def State.core (s : State) (c : Nat) : HostCore := s.cores.get {} c
def State.modCore (s : State) (c : Nat) (f : HostCore → HostCore) : State :=
  { s with cores := s.cores.set {} c (f (s.core c)) }

def State.port (s : State) (n : Nat) : CPort := s.ports.get {} n
def State.modPort (s : State) (n : Nat) (f : CPort → CPort) : State :=
  { s with ports := s.ports.set {} n (f (s.port n)) }

def State.conn (s : State) (k : Nat) : Conn := s.conns.get {} k
def State.hod (s : State) (h : Nat) : HodS := s.hods.get {} h
def State.modHod (s : State) (h : Nat) (f : HodS → HodS) : State := { s with hods := s.hods.modify {} h f }

def State.intake (s : State) (n : Nat) : IntS := s.intakes.get {} n
def State.modIntake (s : State) (n : Nat) (f : IntS → IntS) : State := { s with intakes := s.intakes.modify {} n f }

def State.setConn (s : State) (k : Nat) (c : Conn) : State := { s with conns := s.conns.set {} k c }
def State.modConn (s : State) (k : Nat) (f : Conn → Conn) : State := s.setConn k (f (s.conn k))

/-- Draws the next free value (log 2). -/
def State.draw (s : State) : Nat × State := (Config.freeWord s.free, { s with free := s.free + 1 })

/-! ### Geometry -/

def tileX (t : Nat) : Nat := t % 128
def tileY (t : Nat) : Nat := t / 128

/-- Compute die of a tile (Table 1.2). -/
def tileDie (t : Nat) : Nat := tileY t / 16 * 8 + tileX t / 16

/-- R249, R306: the tile leaves north for Y 0 to 39. -/
def leavesNorth (t : Nat) : Bool := decide (tileY t < 40)

/-- Sill at the edge through which column X leaves (Table 1.2). -/
def sillOf (x : Nat) (north : Bool) : Nat := if north then x / 16 else 15 - x / 16

/-- HBM span of the half serving column X at an edge (R283). -/
def spanOf (x : Nat) (north : Bool) : Nat := 2 * sillOf x north + x % 16 / 8

def tileSpan (t : Nat) : Nat := spanOf (tileX t) (leavesNorth t)

/-- R498: column X lies in panel record `q`. -/
def Panel.holdsCol (q : Panel) (x : Nat) : Bool :=
  decide (q.state ≠ 0 ∧ 8 * q.b0 ≤ x ∧ x < 8 * (q.b0 + q.wb))

/-- Panel that holds column X. -/
def State.colPanel (s : State) (x : Nat) : Option Nat :=
  (List.range 16).find? (fun p => (s.panel p).holdsCol x)

def State.tilePanel (s : State) (t : Nat) : Option Nat := s.colPanel (tileX t)

def Panel.holdsTile (q : Panel) (t : Nat) : Bool := q.holdsCol (tileX t)

/-- Tiles of a panel (R498). -/
def Panel.tiles (q : Panel) : List Nat :=
  if q.state = 0 then []
  else (List.range 80).flatMap (fun y => (List.range (8 * q.wb)).map (fun i => y * 128 + 8 * q.b0 + i))

/-- Spans a panel owns: for each band, the half at the north and at the south edge (R283, R500). -/
def Panel.spans (q : Panel) : List Nat :=
  if q.state = 0 then []
  else (List.range q.wb).map (fun i => spanOf (8 * (q.b0 + i)) true) ++
       (List.range q.wb).map (fun i => spanOf (8 * (q.b0 + i)) false)

/-- Column band of span `q`: the inverse of `spanOf`. -/
def spanBand (q : Nat) : Nat :=
  let sill := q / 2
  let dieCol := if sill < 8 then sill else 15 - sill
  2 * dieCol + q % 2

def State.spanPanel (s : State) (q : Nat) : Option Nat := s.colPanel (8 * spanBand q)

/-- Tile ring of a slot and class (R198). -/
def tileRing (t slot c : Nat) : Nat := t * 24 + slot * 3 + c

/-! ### Physical map (R281 to R287) -/

inductive Region where
  | lpddr (a : Nat)
  | staged (a : Nat)
  | hbm (q off : Nat)
  | window (t off : Nat)
  | mmio (off : Nat)
  | pool (off : Nat)
  | unmapped
deriving DecidableEq, Repr

def hbmBase : Nat := 0x100000000000
def spanSize : Nat := 0x600000000
def channelSize : Nat := 0x60000000
def winBase : Nat := 0x200000000000
def winSize : Nat := 0x400000
def sramSize : Nat := 0x300000
def mmioBase : Nat := 0x300000000000
def poolBase : Nat := 0x8000000000000
def stagedBase : Nat := 0x080000000000
def tib2 : Nat := 2 ^ 41

/-- Table 9.2. -/
def regionOf (a : Nat) : Region :=
  if a < tib2 then .lpddr a
  else if stagedBase ≤ a ∧ a < stagedBase + tib2 then .staged (a - stagedBase)
  else if hbmBase ≤ a ∧ a < hbmBase + 32 * spanSize then .hbm ((a - hbmBase) / spanSize) ((a - hbmBase) % spanSize)
  else if winBase ≤ a ∧ a < winBase + 10240 * winSize then .window ((a - winBase) / winSize) ((a - winBase) % winSize)
  else if mmioBase ≤ a ∧ a < mmioBase + 2 ^ 40 then .mmio (a - mmioBase)
  else if poolBase ≤ a ∧ a < poolBase + 2 ^ 51 then .pool (a - poolBase)
  else .unmapped

def winAddr (t off : Nat) : Nat := winBase + t * winSize + off
def spanAddr (q : Nat) : Nat := hbmBase + q * spanSize

/-- Channels of a stack half in service, by channel number in the stack (R283, R313). -/
def State.halfChannels (s : State) (q : Nat) : List Nat :=
  (List.range 16).filterMap (fun i =>
    let c := 16 * (q % 2) + i
    if bit (s.stack (q / 2)).outmap c then none else some c)

/-- Bytes of span `q` that are mapped (R283). -/
def State.spanMapped (s : State) (q : Nat) : Nat := (s.halfChannels q).length * channelSize

/-- Global channel and channel offset of a mapped span offset (R284). -/
def State.hbmChannel (s : State) (q off : Nat) : Nat × Nat :=
  let cs := s.halfChannels q
  let n := max 1 cs.length
  let k := off / 4096
  (32 * (q / 2) + cs.getD (k % n) 0, k / n * 4096 + off % 4096)

/-- A pool placement covers the window offset (R286). -/
def State.poolBacked (s : State) (off : Nat) : Bool :=
  s.pool.any (fun e => decide (e.1 ≤ off ∧ off < e.1 + e.2.1))

/-- The byte exists: R76, R281 to R287, R304, R577. -/
def State.mapped (s : State) (a : Nat) : Bool :=
  match regionOf a with
  | .lpddr a => !(s.host (a / 2 ^ 40)).t2Off
  | .hbm q off => decide (off < s.spanMapped q)
  | .window _ off => decide (off < sramSize)
  | .pool off => s.poolBacked off
  | _ => false

/-- Memory of the coherence domain: T2 and mapped T3 (R342). -/
def isCoherent (a : Nat) : Bool :=
  match regionOf a with | .lpddr _ | .pool _ => true | _ => false

/-- Home agent of a coherent address (R340, R343). -/
def State.homeOf (s : State) (a : Nat) : Nat :=
  match regionOf a with
  | .lpddr a => 8 * (a / 2 ^ 40) + a % 2 ^ 40 / 256 % 16 / 2
  | .pool off =>
    match s.pool.find? (fun e => decide (e.1 ≤ off ∧ off < e.1 + e.2.1)) with
    | some e => 8 * ((setPositions 8 e.2.2.1).headD 0 / 4)
    | none => 0
  | _ => 0

/-! ### Bytes -/

/-- The canonical form of memory: addresses strictly rising, no byte listed that an unlisted address reads as. -/
abbrev Memory.wf (m : List Host.Cell) : Bool := Table.wf m 0

def State.readByte (s : State) (a : Nat) : Byte := s.mem.get 0 a
def State.writeByte (s : State) (a : Nat) (b : Byte) : State := { s with mem := s.mem.set 0 a b }

def State.readBytes (s : State) (n a : Nat) : List Byte := (List.range n).map (fun i => s.readByte (a + i))

def writeMem : Table Byte → Nat → List Byte → Table Byte
  | m, _, [] => m
  | m, a, b :: bs => writeMem (m.set 0 a b) (a + 1) bs

/-- Unit of protection at an address (R639). -/
def unitSize (a : Nat) : Nat := match regionOf a with | .window .. => 8 | _ => 32

/-- R639: a write of a whole unit clears its poison; a partial write leaves it. -/
def clearPoison (pz : Table Bool) (lp : Bool) (a n : Nat) : Table Bool :=
  pz.keep (fun u _ => !within u (if lp then 64 else unitSize u) a n)

def State.writeBytes (s : State) (a : Nat) (bs : List Byte) : State :=
  { s with mem := writeMem s.mem a bs
           poison := clearPoison s.poison false a bs.length
           injPoison := clearPoison s.injPoison false a bs.length
           linePoison := clearPoison s.linePoison true a bs.length }

def State.readNat (s : State) (n a : Nat) : Nat := ofBytes (s.readBytes n a)
def State.writeNat (s : State) (n a v : Nat) : State := s.writeBytes a (toBytes n v)

/-- Some unit of `[a, a + n)` is poisoned. -/
def State.poisoned (s : State) (a n : Nat) : Bool :=
  s.poison.any (fun p => overlaps p.1 (unitSize p.1) a n) || s.linePoison.any (fun p => overlaps p.1 64 a n)

def State.setPoison (s : State) (u : Nat) : State := { s with poison := s.poison.set false u true }

/-- Some poisoned unit of `[a, a + n)` was poisoned by an injection (R538). -/
def State.poisonInj (s : State) (a n : Nat) : Bool := s.injPoison.any (fun p => overlaps p.1 (unitSize p.1) a n)

/-- Cause code of poisoned data by the memory it lies in (Table 19.2, CLASS 0x05). -/
def poisonCause (a : Nat) : Nat :=
  match regionOf a with | .window .. => 1 | .hbm .. => 2 | .pool _ => 4 | _ => 3

/-- R324: a wipe in progress covers the address. -/
def State.wiping (s : State) (a : Nat) : Bool :=
  s.wipes.any (fun w => w.ranges.any (fun r => decide (r.1 ≤ a ∧ a < r.1 + r.2)))

/-- A wipe writes zeros with valid codes (R323). -/
def State.wipeRange (s : State) (a n : Nat) : State :=
  { s with mem := s.mem.keep (fun k _ => !decide (a ≤ k ∧ k < a + n))
           poison := s.poison.keep (fun k _ => !decide (a ≤ k ∧ k < a + n))
           injPoison := s.injPoison.keep (fun k _ => !decide (a ≤ k ∧ k < a + n))
           linePoison := s.linePoison.keep (fun k _ => !decide (a ≤ k ∧ k < a + n)) }

/-- The channel serving the address fails or its stack has stopped (R312, R317). -/
def State.hbmDown (s : State) (a : Nat) : Bool :=
  match regionOf a with
  | .hbm q off =>
    let st := s.stack (q / 2)
    st.stop || bit st.failmap ((s.hbmChannel q off).1 % 32)
  | _ => false

/-- How a read of `[a, a + n)` ends by the memory's own state (R282, R311, R312, R317, R324, R639). -/
def State.readResp (s : State) (a n : Nat) : Resp :=
  if n = 0 then .ok
  else if !s.mapped a || !s.mapped (a + n - 1) || s.wiping a then .unmapped
  else if s.hbmDown a || s.hbmDown (a + n - 1) then .errOther
  else if s.poisoned a n then .poisoned
  else .ok

/-- As for a read, but poison does not stop a write. -/
def State.writeResp (s : State) (a n : Nat) : Resp :=
  match s.readResp a n with | .poisoned => .ok | r => r

/-! ### Coherent lines (R342, R351, R355) -/

def lineOf (a : Nat) : Nat := a / 64

/-- Lines that `[a, a + n)` touches. -/
def linesOf (a n : Nat) : List Nat :=
  if n = 0 then [] else (List.range (lineOf (a + n - 1) - lineOf a + 1)).map (fun i => lineOf a + i)

def State.cacheLine (s : State) (w : Holder) (l : Nat) : Line :=
  match w with
  | .tile t => (s.tile t).hwc.get {} l
  | .host h => (s.host h).lines.get {} l

def State.setCacheLine (s : State) (w : Holder) (l : Nat) (v : Line) : State :=
  match w with
  | .tile t => s.modTile t (fun x => { x with hwc := x.hwc.set {} l v })
  | .host h => s.modHost h (fun x => { x with lines := x.lines.set {} l v })

def toHolderTile (t : Nat) : Holder := .tile (Fin.ofNat 10240 t)
def toHolderHost (h : Nat) : Holder := .host (Fin.ofNat 2 h)

/-- Every cache that holds or is writing back the line. -/
def State.holders (s : State) (l : Nat) : List Holder :=
  (s.tiles.filterMap (fun p =>
    let x := p.2.hwc.get {} l
    if x.st ≠ .I ∨ x.wb then some (toHolderTile p.1) else none)) ++
  (s.hosts.filterMap (fun p =>
    let x := p.2.lines.get {} l
    if x.st ≠ .I ∨ x.wb then some (toHolderHost p.1) else none))

/-- The line is in a transaction of its home agent, or a grant of it is on its way. -/
def State.lineBusy (s : State) (l : Nat) : Bool :=
  ((s.home (s.homeOf (64 * l))).txns.get none l).isSome || s.grants.any (fun g => g.2.1 = l)

/-- Writes a line's data to memory; poisoned data poisons it again. -/
def State.writeLine (s : State) (l data : Nat) (pz : Bool) : State :=
  let s := s.writeNat 64 (64 * l) data
  if pz then (s.setPoison (64 * l)).setPoison (64 * l + 32) else s

/-- Takes dirty data of one cache into memory and leaves the line there I (`inv`) or S. -/
def takeLine (inv : Bool) (l : Nat) (s : State) (w : Holder) : State :=
  let x := s.cacheLine w l
  let s := if x.st = .M ∨ x.wb then s.writeLine l x.data x.pz else s
  let st := if inv then LineState.I else if x.st = .I then .I else .S
  s.setCacheLine w l { x with st := st, hold := if st = .I then false else x.hold, data := if st = .I then 0 else x.data }

/-- R354, R355: the home agent brings memory up to date, with every cached copy invalidated or the owner made a sharer. A
line whose grant is on its way keeps its directory entry. -/
def State.takeLines (s : State) (inv : Bool) (ls : List Nat) : State :=
  ls.foldl (fun s l =>
    let s := (s.holders l).foldl (takeLine inv l) s
    if s.grants.any (fun g => g.2.1 = l) then s
    else s.modHome (s.homeOf (64 * l)) (fun h =>
      let d := h.dir.get {} l
      let hs := match d.owner with
        | some (.tile t) => (d.cdie ||| 2 ^ tileDie t, d.hdie)
        | some (.host x) => (d.cdie, d.hdie ||| 2 ^ x.val)
        | none => (d.cdie, d.hdie)
      let d' : DirEnt := if inv then { d with owner := none, cdie := 0, hdie := 0 }
        else { d with owner := none, cdie := hs.1, hdie := hs.2 }
      { h with dir := h.dir.set {} l d' })) s

/-- Every byte of `[a, a + n)` as memory and caches together hold it, without changing either. -/
def State.peek (s : State) (n a : Nat) : List Byte :=
  if isCoherent a then (s.takeLines false (linesOf a n)).readBytes n a else s.readBytes n a

def State.peekNat (s : State) (n a : Nat) : Nat := ofBytes (s.peek n a)

/-- A coherent read by an agent outside the caches: bytes and the state after the owner became a sharer (R355). -/
def State.cohRead (s : State) (n a : Nat) : List Byte × State :=
  if isCoherent a then let s := s.takeLines false (linesOf a n); (s.readBytes n a, s)
  else (s.readBytes n a, s)

/-- A write served ahead of grants on their way: they carry the line as memory then holds it. -/
def State.freshGrants (s : State) (ls : List Nat) : State :=
  { s with grants := s.grants.map (fun g =>
      if ls.contains g.2.1 then (g.1, g.2.1, match g.2.2 with
        | .shared _ => .shared (s.readNat 64 (64 * g.2.1))
        | .exclusive _ => .exclusive (s.readNat 64 (64 * g.2.1))
        | .upgraded => .exclusive (s.readNat 64 (64 * g.2.1)))
      else g) }

/-- A coherent write by an agent outside the caches (R355). -/
def State.cohWrite (s : State) (a : Nat) (bs : List Byte) : State :=
  let ls := linesOf a bs.length
  if isCoherent a then ((s.takeLines true ls).writeBytes a bs).freshGrants ls else s.writeBytes a bs

def State.cohWriteNat (s : State) (n a v : Nat) : State := s.cohWrite a (toBytes n v)

/-! ### Records and logs (R586 to R592) -/

/-- An error or event record before a log gives it its LSEQ (Table 19.1). -/
structure Event where
  cls : Nat
  cause : Nat := 0
  inj : Bool := false
  jend : Bool := false
  fatal : Bool := false
  job : Option (Nat × Nat) := none
  unit : Agent := .manager
  ring : Nat := 0
  pos : Nat := 0
  addr : Nat := 0
  vaddr : Nat := 0
  detail : Nat := 0
deriving DecidableEq, Repr

/-- UTYPE and UNIT (Table 19.1). -/
def agentCode : Agent → Nat × Nat
  | .tile t => (0, t.val)
  | .die d => (1, d.val)
  | .sill s => (2, s.val)
  | .host h => (3, h.val)
  | .port n => (4, n.val)
  | .hod h => (5, h.val)
  | .intake n => (6, n.val)
  | .manager => (7, 0)

def tileAgent (t : Nat) : Agent := .tile (Fin.ofNat 10240 t)
def sillAgent (k : Nat) : Agent := .sill (Fin.ofNat 16 k)
def portAgent (n : Nat) : Agent := .port (Fin.ofNat 32 n)
def hostAgent (h : Nat) : Agent := .host (Fin.ofNat 2 h)
def dieAgent (d : Nat) : Agent := .die (Fin.ofNat 40 d)
def hodAgent (h : Nat) : Agent := .hod (Fin.ofNat 32 h)
def intakeAgent (n : Nat) : Agent := .intake (Fin.ofNat 4 n)

/-- The 64 B record (Table 19.1). -/
def Event.code (e : Event) (lseq now : Nat) (tsync : Bool) : Nat :=
  let (pv, p, j) := match e.job with | some (p, j) => (1, p, j) | none => (0, 0, 0)
  e.cls % 256 + e.cause % 256 * 2 ^ 8 + b2n e.inj * 2 ^ 16 + b2n e.jend * 2 ^ 17 + b2n e.fatal * 2 ^ 18 +
  pv * 2 ^ 19 + p % 16 * 2 ^ 20 + j % 8 * 2 ^ 24 + lseq % 2 ^ 32 * 2 ^ 32 + now % 2 ^ 64 * 2 ^ 64 +
  b2n tsync * 2 ^ 128 + (agentCode e.unit).1 * 2 ^ 129 + (agentCode e.unit).2 * 2 ^ 132 + e.ring % 2 ^ 18 * 2 ^ 146 +
  e.pos % 2 ^ 32 * 2 ^ 192 + e.addr % 2 ^ 52 * 2 ^ 224 + e.vaddr % 2 ^ 48 * 2 ^ 288 + e.detail % 2 ^ 128 * 2 ^ 384

/-- Entries between HEAD and TAIL (R204). -/
def Ring.count (r : Ring) : Nat := (r.tail - r.head).toNat
def Ring.size (r : Ring) : Nat := 2 ^ r.log2
/-- Address of the entry at a position (Table 3.11). -/
def Ring.entryAddr (r : Ring) (pos : Count) : Nat := r.base + pos.toNat % r.size * 64
def Ring.full (r : Ring) : Bool := decide (r.size ≤ r.count)

/-- R588: one record offered to a log; the ring after it, and the address written when it was. -/
def Ring.offer (r : Ring) : Ring × Option Nat :=
  if r.en && !r.full then ({ r with tail := r.tail + 1, lseq := r.lseq + 1 }, some (r.entryAddr r.tail))
  else ({ r with lseq := r.lseq + 1 }, none)

def panelLog (p : Nat) : Nat := 261120 + 64 * p

def State.logTo (s : State) (e : Event) (r : Ring) : State × Ring × Bool :=
  match r.offer with
  | (r', some a) => (s.cohWriteNat 64 a (e.code r.lseq s.now s.time.lock), r', true)
  | (r', none) => (s, r', false)

/-- R602: a sub-block whose drain the halt interrupts. -/
def ArrayS.cutDrain (a : ArrayS) : ArrayS :=
  { a with drains := match a.drains with
    | d :: ds => { d with cut := d.cut || (!d.ws && decide (d.next % 16 ≠ 0)) } :: ds
    | [] => [] }

/-- R600: the halt tree is asserted; every tile stops. -/
def State.assertHalt (s : State) : State :=
  if s.dbg.halt then s
  else { s with
    dbg := { s.dbg with halt := true, thawed := false }
    tiles := s.tiles.update {} (fun _ x => { x with arr := x.arr.cutDrain }) }

/-- R600: MOD_HALTON asserts the halt at the first record of a class whose bit is set. -/
def State.haltOn (s : State) (cls : Nat) : State :=
  if cls < 64 ∧ bit s.dbg.halton cls ∧ !bit s.dbg.haltSeen cls then
    { s with dbg := { s.dbg with haltSeen := s.dbg.haltSeen + 2 ^ cls } }.assertHalt
  else s

/-- Writes a record to its logs (R587, R588). -/
def State.emit (s : State) (e : Event) : State :=
  let s := match e.job with
    | some (p, _) =>
      let (s, r, ok) := s.logTo e (s.ring (panelLog p))
      let s := s.setRing (panelLog p) r
      if ok then s else s.modPanel p (fun x => { x with edrop := satAdd 0xFFFF x.edrop 1 })
    | none => s
  let (s, r, ok) := s.logTo e s.evt
  let s := { s with evt := r }
  let s := if ok then s else { s with dbg := { s.dbg with edrop := satAdd 0xFFFF s.dbg.edrop 1 } }
  s.haltOn e.cls

/-! ### Injections (R537, R538) -/

def injKey (det target : Nat) : Nat := det * 2 ^ 32 + target

/-- The armed injection of a detector and target: ARG, LOG mode. -/
def State.armed (s : State) (det target : Nat) : Option (Nat × Bool) := s.inj.get none (injKey det target)

def State.disarm (s : State) (det target : Nat) : State := { s with inj := s.inj.set none (injKey det target) none }

/-- Corrected words waiting for their write-back (R75), unique. -/
def TileS.addCorrected (t : TileS) (a : Nat) : TileS :=
  let w := (a / 64 % 24, a / 8 * 8)
  if t.corrected.contains w then t else { t with corrected := t.corrected ++ [w] }

/-- DET 0x01 fires at a read of a tile's SRAM at physical address `a` (Table 16.15): in END mode a single-bit error is
corrected and a double-bit error poisons the unit; in LOG mode the event is only recorded. -/
def State.fireSram (s : State) (t a : Nat) (job : Option (Nat × Nat)) : State :=
  match s.armed 1 t with
  | none => s
  | some (arg, log) =>
    let s := s.disarm 1 t
    if log then
      (if arg = 0 then s.emit { cls := 0x20, cause := 18, inj := true, unit := tileAgent t, detail := 1 + t * 2 ^ 32 }
       else s.emit { cls := 5, cause := 1, inj := true, job := job, unit := tileAgent t, addr := a })
    else if arg = 0 then
      (s.modTile t (fun x => x.addCorrected (a % winSize))).emit
        { cls := 0x20, cause := 18, inj := true, unit := tileAgent t, detail := 1 + t * 2 ^ 32 }
    else { s with poison := s.poison.set false (a / 8 * 8) true, injPoison := s.injPoison.set false (a / 8 * 8) true }

/-- DET 0x03 and 0x04 fire at a read of an HBM channel or an LPDDR package (Table 16.15). A correctable error is counted
by the caller's code path; its event record is written here. -/
def State.fireMem (s : State) (det target a : Nat) (job : Option (Nat × Nat)) : State × Bool :=
  match s.armed det target with
  | none => (s, false)
  | some (arg, log) =>
    let s := s.disarm det target
    let unit : Agent := if det = 3 then sillAgent (target / 32) else hostAgent (target / 16)
    if arg = 0 then
      (s.emit { cls := 0x20, cause := 18, inj := true, unit := unit, detail := det + target * 2 ^ 32 }, !log)
    else if log then
      (s.emit { cls := 5, cause := poisonCause a, inj := true, job := job, unit := unit, addr := a }, false)
    else
      ({ s with poison := s.poison.set false (a / 32 * 32) true, injPoison := s.injPoison.set false (a / 32 * 32) true }, false)

/-! ### Trace (R605 to R609) -/

/-- Trace record fields (Table 19.5). -/
structure Trace where
  kind : Nat
  unit : Nat := 0
  slot : Nat := 0
  eng : Nat := 3
  pos : Nat := 0
  ctr : Nat := 0
  val : Nat := 0
  ptile : Nat := 0
  peng : Nat := 0
  prem : Bool := false
  arg : Nat := 0
  /-- time stamp when it is not the present time -/
  ts : Option Nat := none
deriving DecidableEq, Repr

def Trace.code (r : Trace) (now : Nat) (tsync : Bool) : Nat :=
  r.kind + r.unit % 2 ^ 14 * 2 ^ 8 + r.slot % 8 * 2 ^ 22 + r.eng % 4 * 2 ^ 25 + r.ts.getD now % 2 ^ 64 * 2 ^ 32 +
  r.pos % 2 ^ 32 * 2 ^ 96 + r.ctr % 64 * 2 ^ 128 + r.val % 2 ^ 16 * 2 ^ 134 + r.ptile % 2 ^ 14 * 2 ^ 150 +
  r.peng % 4 * 2 ^ 164 + b2n r.prem * 2 ^ 166 + b2n tsync * 2 ^ 167 + r.arg % 2 ^ 64 * 2 ^ 192

/-- Writes one record to a trace ring, one to an entry, the entry's other half KIND 0; a full or disabled ring discards
it, and a loss record goes ahead of the next record that finds room (R606, R608). -/
def State.traceTo (s : State) (p g : Nat) (rec : Trace) : State :=
  let put (s : State) (rec : Trace) : State × Bool :=
    let r := s.ring g
    if r.en && !r.full then
      ((s.cohWriteNat 64 (r.entryAddr r.tail) (rec.code s.now s.time.lock)).setRing g { r with tail := r.tail + 1 }, true)
    else (s, false)
  let lost := (s.ring g).lost
  let s := if lost = 0 then s else
    let (s, ok) := put s { rec with kind := 11, ctr := 0, val := 0, ptile := 0, peng := 0, prem := false, arg := lost, ts := none }
    if ok then s.modRing g (fun r => { r with lost := 0 }) else s
  let (s, ok) := put s rec
  if ok then s
  else (s.modRing g (fun r => { r with lost := r.lost + 1 })).modPanel p
    (fun x => { x with tdrop := satAdd 0xFFFF x.tdrop 1 })

/-- Trace ring of a panel for the half with span `q` (R606). -/
def Panel.traceRing (x : Panel) (p q : Nat) : Nat :=
  261120 + 64 * p + 1 + ((x.spans.filter (fun r => decide (r < q))).length)

/-- Trace is on for the slot and the record's kind (R605, R606). -/
def Panel.traces (x : Panel) (slot kind : Nat) : Bool :=
  bit x.trcCtl slot &&
    (if kind = 8 then true
     else if kind ≤ 2 then bit x.trcCtl 9
     else if kind ≤ 7 then bit x.trcCtl 8
     else bit x.trcCtl 10)

/-- A record made by a tile of a panel. -/
def State.traceTile (s : State) (t : Nat) (rec : Trace) : State :=
  match s.tilePanel t with
  | some p =>
    if (s.panel p).traces rec.slot rec.kind then
      s.traceTo p ((s.panel p).traceRing p (tileSpan t)) { rec with unit := t }
    else s
  | none => s

/-- A record of a course port, hod engine or intake engine; `q` is its half when it has one (R606). -/
def State.traceUnit (s : State) (p : Nat) (q : Option Nat) (rec : Trace) : State :=
  if (s.panel p).traces rec.slot rec.kind then
    s.traceTo p (match q with | some q => (s.panel p).traceRing p q | none => 261120 + 64 * p + 1) { rec with eng := 3 }
  else s

/-! ### Course frames (12) -/

/-- Header fields of a Course frame the module sends (Table 12.2). -/
structure CHdr where
  type : Nat
  dst : Nat
  spanel : Nat
  dpanel : Nat
  ch : Nat := 0
  first : Bool := false
  last : Bool := false
  notify : Bool := false
  fence : Bool := false
  op : Nat := 0
  slot : Nat
  jtag : Nat
  seq : Nat := 0
  ackseq : Nat := 0
  win : Nat := 0
  off : Nat := 0
  cof : Bool := false
  cnf : Bool := false
  cmv : Bool := false
  cmaxe : Nat := 0
  cx : Nat := 0
deriving DecidableEq, Repr

/-- The header with SRCMOD, LEN, TS, TSYNC and CRC filled in. -/
def State.courseHdr (s : State) (h : CHdr) (payload : List Byte) : Nat :=
  let w := 1 + h.type % 16 * 2 ^ 4 + s.modId % 1024 * 2 ^ 8 + h.dst % 1024 * 2 ^ 18 + h.spanel % 16 * 2 ^ 28 +
    h.dpanel % 16 * 2 ^ 32 + h.ch % 4 * 2 ^ 36 + b2n h.first * 2 ^ 38 + b2n h.last * 2 ^ 39 +
    b2n h.notify * 2 ^ 40 + b2n h.fence * 2 ^ 41 + h.op % 4 * 2 ^ 42 + h.slot % 8 * 2 ^ 44 +
    h.jtag % 2 ^ 16 * 2 ^ 48 + h.seq % 2 ^ 32 * 2 ^ 64 + h.ackseq % 2 ^ 32 * 2 ^ 96 + h.win % 256 * 2 ^ 128 +
    h.off % 2 ^ 44 * 2 ^ 136 + payload.length % 2 ^ 13 * 2 ^ 180 + b2n h.cof * 2 ^ 193 + b2n h.cnf * 2 ^ 194 +
    b2n h.cmv * 2 ^ 195 + h.cmaxe % 1024 * 2 ^ 196 + h.cx % 1024 * 2 ^ 206 + s.now % 2 ^ 64 * 2 ^ 224 +
    b2n s.time.lock * 2 ^ 288
  w + crc32c (toBytes 48 w ++ payload) * 2 ^ 352

/-- Sends a frame from a port: onto the wire, counted in TXF. -/
def State.sendFrame (s : State) (port remote : Nat) (h : CHdr) (payload : List Byte) : State :=
  let f : TxFrame := ⟨port, remote, s.courseHdr h payload, payload⟩
  { s with courseTx := s.courseTx ++ [f] }.modPort port
    (fun x => { x with txf := satAdd 0xFFFFFFFF x.txf 1 })

def connKey (p j rank ch : Nat) : Nat := ((p * 8 + j) * 1024 + rank) * 4 + ch

/-- Connections of a job slot: key and record. -/
def State.jobConns (s : State) (p j : Nat) : List (Nat × Conn) :=
  s.conns.filter (fun k => k.1 / 4 / 1024 = p * 8 + j && k.2.live)

/-- Sends an ABORT with an outcome code to every other rank on every up path of channel 0, and arms its two further
copies (R441). -/
def State.sendAbort (s : State) (p j step outcome peer : Nat) : State :=
  let payload := toBytes 16 (step % 2 ^ 64 + outcome % 8 * 2 ^ 64 + peer % 1024 * 2 ^ 67)
  let own := (s.job p j).rank
  let dests := (s.jobConns p j).filter (fun k => k.1 % 4 = 0 && k.1 / 4 % 1024 ≠ own)
  let frames := dests.flatMap (fun k => (k.2.paths.filter (fun q => (s.port q.1).st = 2)).map (fun q =>
    (q, ({ type := 4, dst := k.2.peerMod, spanel := p, dpanel := k.2.peerPanel, slot := j, jtag := k.2.jtag } : CHdr))))
  if frames.isEmpty then s
  else
    let s := frames.foldl (fun s f => s.sendFrame f.1.1 f.1.2 f.2 payload) s
    let recs := frames.map (fun f => ({ port := f.1.1, remote := f.1.2, hdr := s.courseHdr f.2 payload, payload := payload } : TxFrame))
    let out : AbortOut := ⟨p, j, ofBytes payload, recs, 2⟩
    { s with aborts := s.aborts ++ [out] }

/-! ### The end of a job (R506 to R509, R590) -/

/-- Commands of a slot leave one engine: FIFO entries, the translation in progress, started commands (R508). -/
def Engine.dropSlot (e : Engine) (j : Nat) : Engine :=
  { e with
    urgent := e.urgent.filter (fun c => bits c.cmd.hdr 9 3 ≠ j)
    normal := e.normal.filter (fun c => bits c.cmd.hdr 9 3 ≠ j)
    xlat := match e.xlat with | some x => if x.1 = j then none else some x | none => none
    running := if e.running = some j then none else e.running
    active := e.active.filter (fun a => bits a.c.cmd.hdr 9 3 ≠ j) }

/-- The array forgets a slot's group, feeder entries and drains (R119). -/
def ArrayS.dropSlot (a : ArrayS) (j : Nat) (running : Bool) : ArrayS :=
  let a := { a with drains := a.drains.filter (fun d => d.slot ≠ j) }
  if running then { a with grp := none, rowFeed := [], colFeed := [], held := [], wts := [] } else a

/-- Steps 1 to 3 of R508 on one tile, but for the wait for outstanding requests. -/
def TileS.stopSlot (t : TileS) (j : Nat) : TileS :=
  let inArray := decide ((t.eng.get {} 0).running = some j)
  { t with
    arr := t.arr.dropSlot j inArray
    eng := (List.range 3).foldl (fun g c => Table.modify g {} c (fun e => e.dropSlot j)) t.eng }

/-- Steps 1 and 2 of R508 in the panel: tiles, rings, connections, remote adds, ports and engines. -/
def State.stopSlot (s : State) (p j : Nat) : State :=
  let q := s.panel p
  let s := { s with tiles := s.tiles.update {} (fun t x => if q.holdsTile t then x.stopSlot j else x) }
  let gone := s.adds.filter (fun a => a.panel = p && a.slot = j)
  let s := { s with adds := s.adds.filter (fun a => !(a.panel = p && a.slot = j)) }
  let s := gone.foldl (fun s a => match a.src with
    | .tile t => s.modTile t.val (fun x => { x with unacked := x.unacked - 1 })
    | _ => s) s
  let s := { s with rings := s.rings.update {} (fun g r =>
    if g < 245760 ∧ g % 24 / 3 = j ∧ q.holdsTile (g / 24) then { r with cskip := 0 } else r) }
  let s := { s with conns := s.conns.filter (fun k => k.1 / 4 / 1024 ≠ p * 8 + j) }
  let s := { s with hods := s.hods.update {} (fun h x =>
    if s.spanPanel h = some p then { x with cmds := x.cmds.filter (fun c => c.ring / 16 ≠ j) } else x) }
  let s := { s with intakes := s.intakes.update {} (fun _ x =>
    { x with cmds := x.cmds.filter (fun c => !(c.ring / 32 = p && c.ring % 32 / 4 = j)) }) }
  { s with ports := s.ports.update {} (fun _ n =>
    { n with cmds := n.cmds.filter (fun c => !(c.ring / 16 = p && c.ring % 16 / 2 = j)) }) }

/-- R507, R508 step 1: a cause ends a running job; of causes at one time the lowest code stands. -/
def State.endJob (s : State) (p j ecause : Nat) : State :=
  let b := s.job p j
  if b.jstate = 1 then
    (s.setJob p j { b with jstate := 2, ecause := ecause, causeTs := s.now, vtimer := false }).stopSlot p j
  else if b.jstate = 2 ∧ b.causeTs = s.now ∧ ecause < b.ecause then s.setJob p j { b with ecause := ecause }
  else s

/-- STEP that an ABORT of the job names: its READY not yet decided, else the epoch after the last (R440, R441). -/
def Job.voteStep (b : Job) : Nat := match b.vote with | some v => v.1 | none => 0

/-- R590: a fault that ends a job: the job's first fault is recorded with JEND = 1, the job ends with ECAUSE 2 and its
other modules get ABORT with reason local fault. -/
def State.faultJob (s : State) (p j : Nat) (e : Event) : State :=
  let b := s.job p j
  if b.jstate = 0 then s
  else if b.faulted then s
  else
    let s := s.setJob p j { b with faulted := true }
    let s := s.emit { e with job := some (p, j), jend := decide (b.jstate = 1) }
    let s := if b.jstate = 1 then s.sendAbort p j b.voteStep 6 b.rank else s
    s.endJob p j 2

/-- A fault found on a tile: SLOT_FAULT and every ring of the slot stopped there (R84, R214), then the job's end. -/
def State.faultTile (s : State) (t j : Nat) (e : Event) : State :=
  let s := s.modTile t (fun x => { x with slotFault := x.slotFault ||| BitVec.ofNat 8 (2 ^ j) })
  match s.tilePanel t with
  | some p => s.faultJob p j { e with unit := tileAgent t }
  | none => s

/-- R508 step 3: every request of the slot has been answered. -/
def State.slotQuiet (s : State) (p j : Nat) : Bool :=
  let q := s.panel p
  s.tiles.all (fun k => !(q.holdsTile k.1) || k.2.txns.all (fun x => decide (x.slot ≠ j)))

/-! ### Sync counters and remote adds (R215 to R220) -/

def ctrKey (slot c : Nat) : Nat := slot * 64 + c
def TileS.ctr (t : TileS) (slot c : Nat) : SyncCtr := t.sync.get {} (ctrKey slot c)

/-- Applies an update to a counter, remembering its maker (R217, R606). -/
def State.setCtr (s : State) (t slot c : Nat) (v : BitVec 16) (byTile byEng : Nat) (rem : Bool) : State :=
  s.modTile t (fun x => { x with sync := x.sync.set {} (ctrKey slot c) ⟨v, byTile, byEng, rem⟩ })

/-- Sends a remote add into the network (R219), of an agent other than a tile. -/
def State.sendAdd (s : State) (src : Agent) (panel dst slot ctr val : Nat) : State :=
  { s with adds := s.adds ++ [⟨src, 3, dst, panel, slot, ctr, val % 2 ^ 16, (s.job panel slot).gen⟩] }

/-- Raises an MSI to the host cores. -/
def State.msi (s : State) (addr data : Nat) : State := { s with msis := s.msis ++ [(addr, data)] }

/-- R600, R604: the plane is stopped; only the thawed parts of a tile act. -/
def State.halted (s : State) : Bool := s.dbg.halt
def State.frozen (s : State) : Bool := s.dbg.halt && !s.dbg.thawed

end Sys2Proof.Machine
end

