-- ==== Sys2Proof/Machine/Operands.lean ====
section
/-!
DEFINITION. The work command's fields (Tables 7.2 to 7.13), the geometry of its operands (R103 to R106, R141, R150, R210),
the checks made at translation (R84, R207 to R213, R235 to R242, R288 to R292, R296, R302, R375, R555, R640) and the
translation of its descriptors (R291, R294).
-/
namespace Sys2Proof.Machine

/-! ### Header (Table 7.2) -/

def WorkCmd.op (w : WorkCmd) : Nat := bits w.hdr 0 8
def WorkCmd.urg (w : WorkCmd) : Bool := bit w.hdr 8
def WorkCmd.slot (w : WorkCmd) : Nat := bits w.hdr 9 3
def WorkCmd.eng (w : WorkCmd) : Nat := bits w.hdr 12 2
def WorkCmd.xt (w : WorkCmd) : Bool := bit w.hdr 14
def WorkCmd.crec (w : WorkCmd) : Bool := bit w.hdr 15
def WorkCmd.sat (w : WorkCmd) : Bool := bit w.hdr 16
def WorkCmd.rnd (w : WorkCmd) : Bool := bit w.hdr 17
def WorkCmd.waitCtr (w : WorkCmd) : Nat := bits w.hdr 24 6
def WorkCmd.waitEn (w : WorkCmd) : Bool := bit w.hdr 30
def WorkCmd.waitEq (w : WorkCmd) : Bool := bit w.hdr 31
def WorkCmd.waitVal (w : WorkCmd) : Nat := bits w.hdr 32 16
def WorkCmd.sigCtr (w : WorkCmd) : Nat := bits w.hdr 48 6
def WorkCmd.sigOp (w : WorkCmd) : Nat := bits w.hdr 54 2
def WorkCmd.sigVal (w : WorkCmd) : Nat := bits w.hdr 56 16
def WorkCmd.sigTile (w : WorkCmd) : Nat := bits w.hdr 72 14
def WorkCmd.condSrc (w : WorkCmd) : Nat := bits w.hdr 88 2
def WorkCmd.condZ (w : WorkCmd) : Bool := bit w.hdr 90
def WorkCmd.trim (w : WorkCmd) : Bool := bit w.hdr 91
def WorkCmd.condArg (w : WorkCmd) : Nat := bits w.hdr 92 20
def WorkCmd.chk (w : WorkCmd) : Nat := bits w.hdr 112 4
def WorkCmd.opx (w : WorkCmd) : Nat := bits w.hdr 116 12

/-- Extension bits; a command without an extension reads zeros (R212). -/
def WorkCmd.x (w : WorkCmd) (lo n : Nat) : Nat := bits (w.ext.getD 0) lo n
def WorkCmd.step (w : WorkCmd) : Nat := w.x 0 32
def WorkCmd.tensor (w : WorkCmd) : Nat := w.x 32 32
def WorkCmd.row0 (w : WorkCmd) : Nat := w.x 64 32
def WorkCmd.col0 (w : WorkCmd) : Nat := w.x 96 32
def WorkCmd.ldt (w : WorkCmd) (own : Nat) : Nat := if w.ext.isSome then w.x 128 32 else own

/-- A command's two entries as they lie in the ring. -/
def WorkCmd.ofEntries (e : Nat) (x : Option Nat) : WorkCmd :=
  ⟨bits e 0 128, bits e 128 128, bits e 256 128, bits e 384 128, x⟩

/-- R56, R212: rounding context of a command. -/
def WorkCmd.rctx (w : WorkCmd) : RndCtx := ⟨w.rnd, w.step, w.tensor⟩

/-- R212: index of output element (m, n), for a command whose output has `own` columns. -/
def WorkCmd.index (w : WorkCmd) (own m n : Nat) : Nat := (w.row0 + m) * w.ldt own + w.col0 + n

/-! ### Opcodes (Table 7.9) -/

def isArrayOp (op : Nat) : Bool := decide (0x10 ≤ op ∧ op ≤ 0x17)
def isConvOp (op : Nat) : Bool := decide (op = 0x12 ∨ op = 0x13)
def isWsOp (op : Nat) : Bool := decide (0x14 ≤ op ∧ op ≤ 0x17)
def isControlOp (op : Nat) : Bool := decide (op ≤ 3)
def isVecOp (op : Nat) : Bool := decide (0x40 ≤ op ∧ op ≤ 0x45)
def isMoeOp (op : Nat) : Bool := decide ((0x50 ≤ op ∧ op ≤ 0x52) ∨ op = 0x88 ∨ op = 0x89)

/-- Engine classes an opcode is valid on; none for an undefined opcode. -/
def opEngines (op : Nat) : List Nat :=
  if isControlOp op then [0, 1, 2]
  else if op = 0x04 then [2]
  else if isArrayOp op then [0]
  else if isVecOp op ∨ (0x50 ≤ op ∧ op ≤ 0x52) then [1]
  else if op = 0x80 ∨ op = 0x81 ∨ op = 0x82 ∨ op = 0x88 ∨ op = 0x89 ∨ op = 0x8C ∨ op = 0x8D then [2]
  else []

/-- Column Ext of Table 7.9: 0 forbidden, 1 optional, 2 required. -/
def opExt (op : Nat) : Nat :=
  if isConvOp op || isWsOp op || isMoeOp op then 2
  else if op = 0x10 ∨ op = 0x11 ∨ (0x40 ≤ op ∧ op ≤ 0x44) ∨ op = 0x8D then 1
  else 0

/-- Descriptors an opcode uses as operands (immediates apart). -/
def opUses (op : Nat) : List Nat :=
  if isControlOp op then []
  else if op = 0x40 ∨ op = 0x43 ∨ op = 0x44 ∨ op = 0x45 ∨ op = 0x50 ∨ op = 0x80 ∨ op = 0x81 ∨ op = 0x8C ∨ op = 0x8D
    then [0, 2]
  else if op = 0x82 then [2]
  else [0, 1, 2]

def WorkCmd.desc (w : WorkCmd) (i : Nat) : Nat := if i = 0 then w.d0 else if i = 1 then w.d1 else w.d2

/-- OPX bits an opcode defines (Table 7.11, R240, R375, R383). -/
def opOpxMask (op : Nat) : Nat :=
  match op with
  | 0x40 => 0x1F | 0x41 => 0x1F | 0x43 => 3 | 0x44 => 3 | 0x45 => 1
  | 0x81 => 0xFFF | 0x8C => 0xFFF | 0x8D => 0xFFF
  | _ => 0

/-! ### Descriptors (Tables 7.3 to 7.6) -/

def dSeg (d : Nat) : Nat := bits d 0 4
def dOff (d : Nat) : Nat := bits d 4 44
def dFmt (d : Nat) : Nat := bits d 48 4
def dLayout (d : Nat) : Nat := bits d 52 2
def dScale (d : Nat) : Nat := bits d 54 2
def dScl (d : Nat) : Nat := bits d 56 8
-- array form
def aRows (d : Nat) : Nat := bits d 64 13 + 1
def aBlk (d : Nat) : Nat := bits d 77 8 + 1
def aS1 (d : Nat) : Nat := bits d 85 16
def aS0 (d : Nat) : Nat := bits d 101 12
def aSpo (d : Nat) : Nat := bits d 113 15
def aSparse (d : Nat) : Bool := decide (2 ≤ dLayout d)
def aBrick (d : Nat) : Bool := decide (dLayout d % 2 = 1)
-- linear form
def lCols (d : Nat) : Nat := bits d 64 16 + 1
def lRows (d : Nat) : Nat := bits d 80 16 + 1
def lStride (d : Nat) : Nat := bits d 96 20 * 8
def lSpo (d : Nat) : Nat := bits d 116 12

/-- Element width in bits; 8 for raw bytes. -/
def fmtWidth (f : Nat) : Nat := if f = 0 then 8 else (fmtOf f).width

/-- Vector size of R103. -/
def vecSize (f : Nat) : Nat := 4 * fmtWidth f

/-- Vector size with the index word of a 2:4 vector (R150). -/
def aVec (d : Nat) : Nat := vecSize (dFmt d) + (if aSparse d then 8 else 0)

/-- Strides in bytes (Table 7.5). -/
def aS1b (d : Nat) : Nat := if aBrick d then aS1 d * 256 else aS1 d * 8
def aS0b (d : Nat) : Nat := aS0 d * 256

/-- R104: offset of vector (m, b) from the base. -/
def vecOff (d m b : Nat) : Nat :=
  if aBrick d then m / 32 * aS1b d + b * aS0b d + m % 32 * aVec d else m * aS1b d + b * aVec d

/-- R106: offset of the scale of the vector at offset `x` from the base. -/
def scaleOff (d x : Nat) : Nat := aSpo d * 128 + x / aVec d

def lRowBytes (d : Nat) : Nat := ceilDiv (lCols d * fmtWidth (dFmt d)) 8

/-- Greatest vector offset of an array operand. -/
def aMaxOff (d : Nat) : Nat :=
  let m := aRows d - 1
  let k := aBlk d - 1
  max (vecOff d m k) (if 32 ≤ aRows d then vecOff d (32 * (aRows d / 32) - 1) k else 0)

/-- R291: extent of an array operand. -/
def aExtent (d : Nat) : Nat :=
  let x := aMaxOff d
  max (x + aVec d) (if dScale d = 2 then scaleOff d x + 1 else 0)

/-- R291: extent of a linear operand; `sp24` for the 2:4 rows VCVT writes (R237). -/
def lExtent (d : Nat) (sp24 : Bool) : Nat :=
  let row := if sp24 then lCols d / 64 * (vecSize (dFmt d) + 8) else if dLayout d = 2 then lCols d else lRowBytes d
  let scales := if sp24 then lRows d * (lCols d / 64)
    else if dLayout d = 1 then lRows d / 32 * lCols d else lRows d * (lCols d / 32)
  max ((lRows d - 1) * lStride d + row) (if dScale d = 2 then lSpo d * 1024 + scales else 0)

/-! ### Convolution (Table 7.10, R126) -/

structure ConvP where
  ni : Nat
  hi : Nat
  wi : Nat
  cb : Nat
  kh : Nat
  kw : Nat
  sh : Nat
  sw : Nat
  dh : Nat
  dw : Nat
  pt : Nat
  pb : Nat
  pl : Nat
  pr : Nat
  sp : Nat
deriving DecidableEq, Repr

def WorkCmd.conv (w : WorkCmd) : ConvP :=
  { ni := w.x 320 8 + 1, hi := w.x 328 12 + 1, wi := w.x 340 12 + 1, cb := w.x 352 7 + 1,
    kh := w.x 359 4 + 1, kw := w.x 363 4 + 1, sh := w.x 367 3 + 1, sw := w.x 370 3 + 1,
    dh := w.x 373 3 + 1, dw := w.x 376 3 + 1, pt := w.x 384 4, pb := w.x 388 4, pl := w.x 392 4,
    pr := w.x 396 4, sp := w.x 416 16 * 8 }

/-- Output size along one axis; 0 when the kernel does not fit. -/
def convOut (i p q d k s : Nat) : Nat :=
  if d * (k - 1) + 1 ≤ i + p + q then (i + p + q - d * (k - 1) - 1) / s + 1 else 0

def ConvP.ho (c : ConvP) : Nat := convOut c.hi c.pt c.pb c.dh c.kh c.sh
def ConvP.wo (c : ConvP) : Nat := convOut c.wi c.pl c.pr c.dw c.kw c.sw

/-- Highest input index that an axis of `n` outputs reads (R127): the last output of each kernel position that meets the input. -/
def convLast (i p d k s n : Nat) : Option Nat :=
  (List.range k).foldl (fun m j =>
    let o := min (n - 1) ((i - 1 + p - j * d) / s)
    if 0 < n ∧ j * d ≤ i - 1 + p ∧ p ≤ o * s + j * d then some (max (m.getD 0) (o * s + j * d - p)) else m) none

/-- Offset of the last vector of size `v` that a convolution reads; none when every vector is padding. -/
def ConvP.lastRead (c : ConvP) (v : Nat) : Option Nat :=
  match convLast c.hi c.pt c.dh c.kh c.sh c.ho, convLast c.wi c.pl c.dw c.kw c.sw c.wo with
  | some h, some x => some ((((c.ni - 1) * c.hi + h) * c.wi + x) * c.sp + (c.cb - 1) * v)
  | _, _ => none

/-! ### Array classes (Tables 2.3, 4.2, 5.2) -/

/-- Table 2.3: the pair is permitted, and its dense class: 0 N, 1 D, 2 W. -/
def pairClass (fa fb : Nat) : Option Nat :=
  if fa = 8 ∧ fb = 8 then some 2
  else if fa = 6 ∧ fb = 6 then some 2
  else if fa = 7 ∧ fb = 7 then some 1
  else if fa = 5 ∧ fb = 5 then some 1
  else if 1 ≤ fa ∧ fa ≤ 5 ∧ 1 ≤ fb ∧ fb ≤ 5 then some 0
  else none

/-- Blocks per step, tc per step, least step slots, greatest square K, greatest weight-store depth. -/
structure ACls where
  bps : Nat
  q : Nat
  smin : Nat
  kmax : Nat
  dmax : Nat
deriving DecidableEq, Repr

def aClass (fa fb : Nat) (sparse : Bool) : ACls :=
  match pairClass fa fb, sparse with
  | some 1, false => ⟨2, 1, 2, 8192, 8⟩
  | some 1, true => ⟨4, 1, 4, 8192, 8⟩
  | some 2, _ => ⟨1, 4, 1, 1024, if fa = 8 then 4 else 8⟩
  | _, true => ⟨2, 1, 4, 8192, 8⟩
  | _, false => ⟨1, 1, 2, 4096, 8⟩

/-- M, N and K-blocks of an array command (R235). -/
def WorkCmd.m (w : WorkCmd) : Nat := aRows w.d0
def WorkCmd.n (w : WorkCmd) : Nat := aRows w.d1
def kBlocks (d : Nat) : Nat := if aSparse d then 2 * aBlk d else aBlk d
def WorkCmd.kb (w : WorkCmd) : Nat := kBlocks w.d0
def WorkCmd.sparse (w : WorkCmd) : Bool := aSparse w.d0 || aSparse w.d1
def WorkCmd.cls (w : WorkCmd) : ACls := aClass (dFmt w.d0) (dFmt w.d1) w.sparse
def WorkCmd.accum (w : WorkCmd) : Bool := decide (w.op % 2 = 1)

/-- Position rows P and columns Q of a wide-shallow shape. -/
def wsP (op : Nat) : Nat := if op = 0x14 ∨ op = 0x15 then 8 else 2
def wsQ (op : Nat) : Nat := if op = 0x14 ∨ op = 0x15 then 128 else 512

/-! ### Malformed-command causes (Table 7.8) -/

/-- Causes that hold among `l`. -/
def causes (l : List (Nat × Bool)) : List Nat := (l.filter (·.2)).map (·.1)

/-- R209 and the form's rules on one descriptor. `arr` array form, `raw` raw permitted, `screed` LAYOUT 2 permitted. -/
def descCauses (d : Nat) (arr raw screed : Bool) : List Nat :=
  let f := dFmt d
  let spo := if arr then aSpo d else lSpo d
  causes [
    (4, decide (11 ≤ f) || (decide (f = 0) && !raw)),
    (4, decide (dScale d = 3) || (decide (f ≤ 10) && (isBlockFmt f != decide (dScale d = 1 ∨ dScale d = 2)))),
    (4, decide ((dScl d ≠ 0 ∧ dScale d ≠ 1) ∨ (spo ≠ 0 ∧ dScale d ≠ 2))),
    (4, !arr && (decide (dLayout d = 3) || (decide (dLayout d = 2) && !screed)))]

/-- Table 7.6, R210, R296: shape of a linear descriptor. -/
def linCauses (d : Nat) (sp24 : Bool) : List Nat :=
  let row := if sp24 then ceilDiv (lCols d) 64 * (vecSize (dFmt d) + 8) else if dLayout d = 2 then lCols d else lRowBytes d
  causes [
    (5, decide (dOff d % 8 ≠ 0)),
    (5, decide (1 < lRows d ∧ lStride d < row)),
    (5, decide (dScale d = 2 ∧ dLayout d = 0 ∧ lCols d % 32 ≠ 0)),
    (5, decide (dScale d = 2 ∧ dLayout d = 1 ∧ lRows d % 32 ≠ 0)),
    (5, decide (dLayout d = 2 ∧ (lCols d % 64 ≠ 0 ∨ lCols d < 4096)))]

/-- R105: base and strides of an array operand. -/
def arrCauses (d : Nat) : List Nat :=
  let v := aVec d
  causes [
    (5, decide (dOff d % 64 ≠ 0)),
    (5, aBrick d && decide (aS0b d % (32 * v) ≠ 0 ∨ aS1b d % (32 * v) ≠ 0)),
    (5, !aBrick d && decide (aS0 d ≠ 0 ∨ aS1b d % v ≠ 0 ∨ aS1b d < aBlk d * v))]

/-- Extension reserved bits by opcode (R211, Tables 7.10 and 7.13), as bit ranges `[lo, hi]` that must be zero. -/
def extReserved (op : Nat) : List (Nat × Nat) :=
  if isArrayOp op then
    [(179, 190), (211, 222), (243, 254), (275, 286), (292, 319), (383, 383), (400, 415), (432, 511)] ++
    (if isConvOp op then [] else [(320, 431)]) ++ (if isWsOp op then [] else [(288, 291), (256, 274)])
  else if isMoeOp op then
    [(172, 175), (181, 191), (204, 207), (222, 223), (238, 239), (275, 287), (307, 319), (339, 351), (364, 367), (380, 511)]
  else [(160, 511)]

def headCauses (w : WorkCmd) (slot c : Nat) (inPanel : Nat → Bool) : List Nat :=
  let op := w.op
  let opx := w.opx
  causes [
    (1, decide (bits w.hdr 18 6 ≠ 0 ∨ bits w.hdr 86 2 ≠ 0)),
    (1, decide (c ≠ 2 ∧ w.chk ≠ 0)),
    (1, decide (opx &&& opOpxMask op ≠ opx)),
    (1, decide (op = 0x40 ∧ 16 ≤ opx)),
    (1, decide (w.condSrc = 3)),
    (1, (List.range 3).any (fun i => !(opUses op).contains i && decide (w.desc i ≠ 0) &&
          !(decide (i = 0 ∧ (op = 2 ∨ op = 3 ∨ op = 0x82))))),
    (1, decide (op = 2 ∧ w.d0 / 256 ≠ 0)),
    (1, decide (op = 3 ∧ (w.d0 / 2 ^ 34 ≠ 0 ∨ bits w.d0 32 2 = 3))),
    (1, decide (op = 0x82 ∧ w.d0 / 2 ^ 64 ≠ 0)),
    (1, w.ext.isSome && (extReserved op).any (fun r => decide (w.x r.1 (r.2 - r.1 + 1) ≠ 0))),
    (2, !(opEngines op).contains c),
    (3, decide (w.slot ≠ slot ∨ w.eng ≠ c)),
    (5, decide (c = 2 ∧ 6 < w.chk)),
    (8, decide (w.condSrc = 2 ∧ sramSize < w.condArg * 4 + 4)),
    (8, w.trim && !(decide (0x10 ≤ op ∧ op ≤ 0x13))),
    (9, if w.sigOp = 3 then !inPanel w.sigTile else decide (w.sigTile ≠ 0)),
    (10, decide (opExt op = 2 ∧ w.ext.isNone) || decide (opExt op = 0 ∧ w.ext.isSome)),
    (12, decide (w.condSrc = 1 ∧ 63 < w.condArg)),
    (12, decide (op = 2 ∧ w.d0 % 256 = 0))]

/-- Maps an array command names (Table 7.10): offset in SRAM and bits, for A brick, B brick, A row and the slot mask. -/
def WorkCmd.mapA (w : WorkCmd) : Option Nat := if bit (w.ext.getD 0) 191 then some (w.x 160 19 * 8) else none
def WorkCmd.mapB (w : WorkCmd) : Option Nat := if bit (w.ext.getD 0) 223 then some (w.x 192 19 * 8) else none
def WorkCmd.mapR (w : WorkCmd) : Option Nat := if bit (w.ext.getD 0) 255 then some (w.x 224 19 * 8) else none
def WorkCmd.maskOff (w : WorkCmd) : Option Nat := if bit (w.ext.getD 0) 287 then some (w.x 256 19 * 8) else none
def WorkCmd.wsd (w : WorkCmd) : Nat := w.x 288 4

def mapBad (o : Option Nat) (nbits : Nat) : Bool :=
  match o with | some a => decide (sramSize < a + ceilDiv nbits 8) | none => false

/-- R108, R126 to R130, R138, R149, R235: shape and pair of an array command. -/
def arrayCauses (w : WorkCmd) : List Nat :=
  let op := w.op
  let (a, b, c) := (w.d0, w.d1, w.d2)
  let ws := isWsOp op
  let k := w.cls
  let cv := w.conv
  let kel := 32 * w.kb
  descCauses a true false false ++ descCauses b true false false ++ descCauses c true false false ++
  (if isConvOp op then [] else arrCauses a) ++ arrCauses b ++ arrCauses c ++
  causes [
    (4, aSparse c || (isBlockFmt (dFmt c) && decide (dScale c ≠ 2))),
    (5, decide (kBlocks a ≠ kBlocks b ∨ aRows c ≠ aRows a ∨ 32 * aBlk c ≠ aRows b)),
    (5, !ws && decide (aRows a % 32 ≠ 0 ∨ 8192 < aRows a ∨ aRows b % 32 ≠ 0 ∨ 8192 < aRows b ∨ k.kmax < kel)),
    (5, ws && decide (aRows b % 32 ≠ 0 ∨ wsQ op < aRows b ∨ 8192 < kel ∨ 8 * wsP op < aRows a)),
    (5, isConvOp op && w.ext.isSome && (decide (dLayout a ≠ 0 ∨ aS0 a ≠ 0 ∨ aS1 a ≠ 0 ∨ dOff a % 64 ≠ 0) ||
        decide (cv.ho = 0 ∨ cv.wo = 0 ∨ aRows a ≠ cv.ni * cv.ho * cv.wo ∨ aBlk a ≠ cv.kh * cv.kw * cv.cb) ||
        decide (cv.sp % vecSize (dFmt a) ≠ 0 ∨ cv.sp < cv.cb * vecSize (dFmt a)))),
    (6, (pairClass (dFmt a) (dFmt b)).isNone),
    (6, aSparse a && aSparse b),
    (6, w.sparse && !(decide (1 ≤ dFmt a ∧ dFmt a ≤ 5 ∧ 1 ≤ dFmt b ∧ dFmt b ≤ 5))),
    (6, ws && aSparse a),
    (7, ws && w.ext.isSome && (decide (w.wsd = 0 ∨ k.dmax < w.wsd) || (w.sparse && decide (w.wsd % 2 = 1)))),
    (8, mapBad w.mapA (ceilDiv (aRows a) 32 * aBlk a) || mapBad w.mapB (ceilDiv (aRows b) 32 * aBlk b) ||
        mapBad w.mapR (aRows a) || mapBad w.maskOff 64),
    (8, ws && (w.mapA.isSome || w.mapR.isSome)),
    (8, !ws && w.maskOff.isSome)]

/-! ### Vector shapes (R236, R237, Table 7.12) -/

/-- Cost per element group of a VEW1 function. -/
def vew1Cost (fn : Nat) : Nat :=
  match fn with
  | 0 | 1 | 2 => 1
  | 5 | 6 | 8 => 2
  | 7 | 9 | 10 | 11 | 12 | 13 => 3
  | _ => 4

/-- Nominal tc of one row (or of one group of 32 source rows, where the command works in such groups). -/
def vecRowTime (w : WorkCmd) : Nat :=
  let op := w.op
  let (x, z, y) := (w.d0, w.d1, w.d2)
  let two (d : Nat) : Bool := decide (dFmt d = 8 ∨ dFmt d = 9)
  let lanes := if two x && two y && (!(opUses op).contains 1 || two z) then 128 else 64
  let c := if op = 0x40 then vew1Cost (w.opx % 32) else if op = 0x41 ∧ w.opx % 8 = 3 then 4 else 1
  let read := lRowBytes x + (if (opUses op).contains 1 then lRowBytes z else 0) + (if op = 0x42 then lRowBytes y else 0)
  let write := if op = 0x45 then 0
    else if op = 0x44 ∧ bit w.opx 1 then lCols x / 64 * (vecSize (dFmt y) + 8)
    else if op = 0x43 then ceilDiv (fmtWidth (dFmt y)) 8
    else ceilDiv (lCols x * fmtWidth (dFmt y)) 8
  let t := max (ceilDiv (lCols x) lanes * c) (ceilDiv (read + write) 256)
  if (op = 0x44 ∧ (bit w.opx 0 ∨ dLayout y = 1)) ∨ (op = 0x45 ∧ !bit w.opx 0) then 32 * t else t

/-- Bits of the map VZMAP writes (R141, R640). -/
def zmapBits (w : WorkCmd) : Nat :=
  if bit w.opx 0 then lRows w.d0 else ceilDiv (lRows w.d0) 32 * ceilDiv (lCols w.d0) 32

def sameShape (a b : Nat) : Bool := decide (lRows a = lRows b ∧ lCols a = lCols b)

def vectorCauses (w : WorkCmd) : List Nat :=
  let op := w.op
  let (x, z, y) := (w.d0, w.d1, w.d2)
  let sp := decide (op = 0x44) && bit w.opx 1
  let useZ := (opUses op).contains 1
  let bc := w.opx / 8 % 4
  descCauses x false false false ++ (if useZ then descCauses z false false false else []) ++
  descCauses y false (decide (op = 0x45)) false ++
  linCauses x false ++ (if useZ then linCauses z false else []) ++ linCauses y sp ++
  causes [
    (4, sp && (!(decide (1 ≤ dFmt y ∧ dFmt y ≤ 5)) || decide (dScale y ≠ 2) || decide (dLayout y ≠ 0))),
    (4, decide (op = 0x45) && decide (dFmt y ≠ 0 ∨ dLayout y ≠ 0 ∨ dScale y ≠ 0)),
    (5, decide (op = 0x40 ∨ op = 0x42) && !sameShape x y),
    (5, decide (op = 0x42) && !sameShape x z),
    (5, decide (op = 0x41) && (!sameShape x y ||
        decide (lRows z ≠ (if bc = 0 ∨ bc = 2 then lRows x else 1) ∨ lCols z ≠ (if bc = 0 ∨ bc = 1 then lCols x else 1)))),
    (5, decide (op = 0x43) && decide (lRows y ≠ lRows x ∨ lCols y ≠ 1)),
    (5, decide (op = 0x44) && (if bit w.opx 0 then decide (lRows y ≠ lCols x ∨ lCols y ≠ lRows x) else !sameShape x y)),
    (5, sp && decide (lCols y % 64 ≠ 0)),
    (5, decide (op = 0x45) && decide (lRows y ≠ 1 ∨ lCols y * 8 < zmapBits w)),
    (5, decide (16384 < lCols x ∨ (op ≠ 0x45 ∧ 16384 < lCols y) ∨ 448 < vecRowTime w))]

/-! ### Dispatch fields (Table 7.13) -/

def WorkCmd.moeE (w : WorkCmd) : Nat := w.x 160 12 + 1
def WorkCmd.moeK (w : WorkCmd) : Nat := w.x 176 3 + 1
def WorkCmd.moeSpill (w : WorkCmd) : Bool := bit (w.ext.getD 0) 179
def WorkCmd.moeFC (w : WorkCmd) : Bool := bit (w.ext.getD 0) 180
def WorkCmd.moeT (w : WorkCmd) : Nat := w.x 192 12 + 1
def WorkCmd.moeRank (w : WorkCmd) : Nat := w.x 208 14
def WorkCmd.moeG (w : WorkCmd) : Nat := w.x 224 14 + 1
def WorkCmd.moeRI (w : WorkCmd) : Nat := (w.x 240 8 + 1) * 64
def WorkCmd.moeRO (w : WorkCmd) : Nat := (w.x 248 8 + 1) * 64
def WorkCmd.moeRoute (w : WorkCmd) : Nat := w.x 256 19 * 8
def WorkCmd.moeRec (w : WorkCmd) : Nat := w.x 288 19 * 8
def WorkCmd.moeBase (w : WorkCmd) : Nat := w.x 320 19 * 8
def WorkCmd.moeE0 (w : WorkCmd) : Nat := w.x 352 12
def WorkCmd.moeEcnt (w : WorkCmd) : Nat := w.x 368 12 + 1

def rawBytes (d : Nat) : Nat := lCols d * lRows d

/-- A structure descriptor: raw bytes in the number the structure has. -/
def structCauses (d n : Nat) : List Nat :=
  descCauses d false true false ++ linCauses d false ++
  causes [(4, decide (dFmt d ≠ 0)), (5, decide (rawBytes d ≠ n))]

/-- R163, R242: shapes of the dispatch opcodes. -/
def moeCauses (w : WorkCmd) : List Nat :=
  let op := w.op
  let tk := w.moeT * w.moeK
  let plc := 16 * w.moeE
  causes [(5, decide (w.moeG ≤ w.moeRank ∧ (op = 0x50 ∨ op = 0x88))),
          (5, decide (op = 0x51 ∧ w.moeE < w.moeE0 + w.moeEcnt)),
          (5, decide ((op = 0x88 ∨ op = 0x52) ∧ sramSize < w.moeRoute + 8 * tk ∧ op = 0x88)),
          (5, decide (op = 0x52 ∧ sramSize < w.moeRec + 4 * tk)),
          (5, decide (op = 0x88 ∧ !w.moeFC ∧ sramSize < w.moeBase + 4 * w.moeE)),
          (5, decide (lRows w.d2 ≠ w.moeT ∧ op = 0x52))] ++
  (match op with
   | 0x50 => structCauses w.d0 (8 * tk) ++ structCauses w.d2 (2 * w.moeE)
   | 0x51 => structCauses w.d0 (2 * w.moeG * w.moeE) ++ structCauses w.d1 plc ++
             structCauses w.d2 (4 * w.moeG * w.moeE + 8 * w.moeE)
   | 0x52 => structCauses w.d0 (8 * tk) ++ descCauses w.d1 false false false ++ linCauses w.d1 false ++
             descCauses w.d2 false false false ++ linCauses w.d2 false ++
             causes [(5, decide (lRows w.d1 ≠ tk ∨ lCols w.d1 ≠ lCols w.d2))]
   | 0x88 => structCauses w.d0 (w.moeT * w.moeRI) ++ structCauses w.d1 plc ++ structCauses w.d2 (4 * tk)
   | _ => structCauses w.d0 (4 * tk) ++ structCauses w.d1 plc ++ structCauses w.d2 (tk * w.moeRO))

/-! ### Mover shapes (R239 to R241, R302, R375, R383, R384, R555) -/

/-- RB_READ writes a norm fragment (R384). -/
def isFragment (w : WorkCmd) : Bool := decide (dFmt w.d2 = 0 ∧ lCols w.d2 = 32 ∧ lRows w.d2 = 1)

def moverCauses (w : WorkCmd) : List Nat :=
  let (a, c) := (w.d0, w.d2)
  match w.op with
  | 0x80 =>
    descCauses a false true true ++ descCauses c false true false ++ linCauses a false ++ linCauses c false ++
    causes [(4, decide (dFmt a ≠ 0 ∨ dFmt c ≠ 0)), (5, decide (rawBytes a ≠ rawBytes c))]
  | 0x81 =>
    descCauses a false true true ++ linCauses a false ++ descCauses c true false false ++ arrCauses c ++
    causes [(4, decide (dLayout a ≠ 2 ∨ dFmt a ≠ 0)),
            (4, decide (8 < dFmt c)), (4, isBlockFmt (dFmt c) && decide (dScale c ≠ 2)),
            (5, decide (aRows c % 32 ≠ 0)),
            (8, bit w.opx 1 && decide (sramSize < w.opx / 4 * 4096 + ceilDiv (aRows c / 32 * aBlk c) 8))]
  | 0x82 => descCauses c false true false ++ linCauses c false
  | 0x8C =>
    descCauses a false false false ++ linCauses a false ++ linCauses c false ++
    causes [(4, decide (dFmt a ≠ 10)),
            (5, decide (dFmt c ≠ 0 ∨ dLayout c ≠ 0 ∨ dScale c ≠ 0)),
            (5, decide (lRows c ≠ lRows a ∨ lCols c ≠ 6 * lCols a))]
  | 0x8D =>
    linCauses a false ++ descCauses c false true false ++ linCauses c false ++
    causes [(5, decide (dFmt a ≠ 0 ∨ dLayout a ≠ 0 ∨ dScale a ≠ 0 ∨ lCols a % 6 ≠ 0)),
            (4, decide (dFmt c = 0) && !isFragment w),
            (5, decide (dFmt c ≠ 0) && decide (lRows c ≠ lRows a ∨ lCols c ≠ lCols a / 6))]
  | 0x04 =>
    descCauses a false true false ++ linCauses a false ++ descCauses c false true false ++ linCauses c false ++
    causes [(4, decide (dFmt a ≠ 0 ∨ dFmt c ≠ 0)),
            (5, decide (lRows a ≠ 1 ∨ lCols a ≠ 32 ∨ lRows c ≠ 1 ∨ lCols c ≠ 64))]
  | _ => []

/-- Output columns that LDT must cover (R211), for opcodes that write converted elements. -/
def outCols (w : WorkCmd) : Option Nat :=
  let op := w.op
  if isArrayOp op then some w.n
  else if op = 0x43 then some 1
  else if 0x40 ≤ op ∧ op ≤ 0x44 then some (lCols w.d2)
  else if op = 0x52 then some (lCols w.d2)
  else if op = 0x8D ∧ dFmt w.d2 ≠ 0 then some (lCols w.d2)
  else none

/-- Every cause that translation finds (R213). -/
def malformed (w : WorkCmd) (slot c : Nat) (inPanel : Nat → Bool) : List Nat :=
  let op := w.op
  headCauses w slot c inPanel ++
  (if (opEngines op).isEmpty then []
   else (if isArrayOp op then arrayCauses w
     else if isVecOp op then vectorCauses w
     else if isMoeOp op then (if w.ext.isSome then moeCauses w else [])
     else moverCauses w) ++
    (match outCols w, w.ext with
     | some n, some _ => causes [(10, decide (w.x 128 32 < w.col0 + n))]
     | _, _ => []))

def lowest (l : List Nat) : Option Nat :=
  match l with
  | [] => none
  | x :: r => some (r.foldl min x)

/-! ### Segments (Tables 9.5, 9.6) and translation (R84, R291, R292) -/

def sgVbase (e : Nat) : Nat := bits e 0 48
def sgPbase (e : Nat) : Nat := bits e 64 52
def sgLen (e : Nat) : Nat := bits e 128 44 + 1
def sgTier (e : Nat) : Nat := bits e 176 3
def sgPR (e : Nat) : Bool := bit e 180
def sgPW (e : Nat) : Bool := bit e 181
def sgPA (e : Nat) : Bool := bit e 182
def sgComp (e : Nat) : Bool := bit e 183
def sgCoh (e : Nat) : Bool := bit e 184
def sgValid (e : Nat) : Bool := bit e 191

/-- How a command uses a descriptor: index, written, accumulated into, own SRAM required, extent. -/
structure Use where
  i : Nat
  write : Bool := false
  acc : Bool := false
  own : Bool := false
  ext : Nat := 0
deriving DecidableEq, Repr

/-- Descriptors a command uses, with their extents (R84, R236, R291, R375). -/
def uses (w : WorkCmd) : List Use :=
  let op := w.op
  if isArrayOp op then
    let cv := w.conv
    let v := vecSize (dFmt w.d0)
    let ea := if isConvOp op then (match cv.lastRead v with
        | some last => max (last + v) (if dScale w.d0 = 2 then aSpo w.d0 * 128 + last / v + 1 else 0)
        | none => 0)
      else aExtent w.d0
    [⟨0, false, false, true, ea⟩, ⟨1, false, false, true, aExtent w.d1⟩, ⟨2, true, false, true, aExtent w.d2⟩]
  else if isVecOp op ∨ (0x50 ≤ op ∧ op ≤ 0x52) then
    (opUses op).map (fun i => ⟨i, decide (i = 2), false, true,
      lExtent (w.desc i) (decide (op = 0x44 ∧ i = 2) && bit w.opx 1)⟩)
  else if op = 0x81 then [⟨0, false, false, false, lExtent w.d0 false⟩, ⟨2, true, false, true, aExtent w.d2⟩]
  else if op = 0x8C then [⟨0, false, false, true, lExtent w.d0 false⟩, ⟨2, true, true, false, lExtent w.d2 false⟩]
  else (opUses op).map (fun i => ⟨i, decide (i = 2), false, false, lExtent (w.desc i) false⟩)

/-- R292: the segment permits the use. -/
def permits (w : WorkCmd) (u : Use) (e : Nat) : Bool :=
  let op := w.op
  let lay2 := decide (dLayout (w.desc u.i) = 2) && decide (op = 0x80 ∨ op = 0x81) && decide (u.i = 0)
  (if u.acc then sgPA e else if u.write then sgPW e else sgPR e) &&
  (decide (sgTier e ≠ 4) || (decide (op = 0x80 ∨ op = 0x81) && decide (u.i = 0))) &&
  (!sgComp e || (lay2 && decide (op = 0x81)) || decide (op = 0x80)) &&
  (!lay2 || sgComp e)

/-- R291: the operand lies in the executing tile's own populated SRAM. -/
def ownSram (t e off ext : Nat) : Bool :=
  match sgTier e with
  | 0 => true
  | 1 => within (sgPbase e + off) ext (winAddr t 0) sramSize
  | _ => false

/-- R291: physical address of the operand (for TIER 4 the T2 address). -/
def operandAddr (t e off : Nat) : Nat :=
  if sgTier e = 0 then winAddr t (sgPbase e + off) else sgPbase e + off

/-- A translation fault: cause of CLASS 0x01, descriptor, virtual and physical address. -/
structure XFault where
  cause : Nat
  i : Nat
  vaddr : Nat := 0
  addr : Nat := 0
deriving DecidableEq, Repr

/-- R84: translates one use through the slot's segment entries. -/
def translateUse (segs : Table Nat) (t slot : Nat) (w : WorkCmd) (u : Use) : Except XFault Opnd :=
  let d := w.desc u.i
  let e := segs.get 0 (slot * 16 + dSeg d)
  let va := sgVbase e + dOff d
  let pa := operandAddr t e (dOff d)
  if !sgValid e then .error ⟨1, u.i, 0, 0⟩
  else if sgLen e < dOff d + u.ext then .error ⟨2, u.i, va, pa⟩
  else if !permits w u e then .error ⟨3, u.i, va, pa⟩
  else if u.own && !ownSram t e (dOff d) u.ext then .error ⟨4, u.i, va, pa⟩
  else .ok ⟨pa, sgTier e, sgCoh e, va⟩

def opndOf (l : List (Nat × Opnd)) (i : Nat) : Opnd := (assoc l i).getD {}

def translateAll (segs : Table Nat) (t slot : Nat) (w : WorkCmd) : List Use → Except XFault (List (Nat × Opnd))
  | [] => .ok []
  | u :: us =>
    match translateUse segs t slot w u with
    | .error f => .error f
    | .ok o =>
      match translateAll segs t slot w us with
      | .error f => .error f
      | .ok r => .ok ((u.i, o) :: r)

/-- R239: one operand of MV_COPY resolves to the tile's own SRAM. -/
def copyOwn (segs : Table Nat) (t slot : Nat) (w : WorkCmd) : Bool :=
  let own (d : Nat) : Bool := ownSram t (segs.get 0 (slot * 16 + dSeg d)) (dOff d) (lExtent d false)
  own w.d0 || own w.d2

/-- R555: the stamp context, 64 B at HDR + 64, lies in a keep region assigned to the panel. -/
def State.stampContextOk (s : State) (p j : Nat) : Bool :=
  s.keeps.any (fun k => k.2.defined && decide (k.2.panel = some p) && within ((s.job p j).hdrAddr + 64) 64 k.2.base k.2.len)

/-- What translation of a command gives (R84, R213): a malformed cause, a translation fault, or the translated command. -/
inductive Xlat where
  | malformed (cause : Nat)
  | fault (f : XFault)
  | ok (a b c : Opnd)
deriving DecidableEq, Repr

def State.translate (s : State) (t p slot c : Nat) (w : WorkCmd) : Xlat :=
  let segs := (s.panel p).segs
  match lowest (malformed w slot c (fun u => decide (u < 10240) && (s.panel p).holdsTile u)) with
  | some k => .malformed k
  | none =>
    match translateAll segs t slot w (uses w) with
    | .error f => .fault f
    | .ok os =>
      if w.op = 0x80 ∧ !copyOwn segs t slot w then .fault ⟨4, 2, (opndOf os 2).vaddr, (opndOf os 2).addr⟩
      else if w.op = 0x04 ∧ !s.stampContextOk p slot then .fault ⟨5, 0, 0, (s.job p slot).hdrAddr + 64⟩
      else .ok (opndOf os 0) (opndOf os 1) (opndOf os 2)

end Sys2Proof.Machine
end

