-- ==== Sys2Proof/Machine/Flags.lean ====
section
/-!
DEFINITION. Numeric status flags of commands (R61 to R63, Tables 2.6 and 2.7): their gathering by a command and TILE_NFLAG.
-/
namespace Sys2Proof.Machine

/-- The flags of a list of conversions or operations, together. -/
def gather (l : List NFlags) : NFlags := l.foldl NFlags.or {}

def NFlags.ofNat (n : Nat) : NFlags := ⟨bit n 0, bit n 1, bit n 2, bit n 3, bit n 4, bit n 5⟩

/-- R62: a completed command's flags are ORed into TILE_NFLAG of its slot. -/
def TileS.orFlags (t : TileS) (slot : Nat) (f : NFlags) : TileS :=
  { t with nflag := t.nflag.modify 0 slot (fun v => v ||| f.toNat) }

/-- Flags a command has gathered so far, kept with its Active record. -/
def Active.gather (a : Active) (f : NFlags) : Active := { a with flags := a.flags.or f }

/-- R13, Table 2.7: a write of ones clears. -/
def TileS.clearFlags (t : TileS) (slot w : Nat) : TileS :=
  { t with nflag := t.nflag.modify 0 slot (fun v => v &&& (63 - w % 64)) }

end Sys2Proof.Machine
end

