-- ==== Sys2Proof/Machine/Dpu.lean ====
section
/-!
DEFINITION. The DPU (02 R44 to R53), the checksum operands and bounds (06 R177 to R182), the reading of operand vectors
(R103 to R106, R126 to R128, R141 to R153) and the conversion of output rows (R54 to R60, R120, R121).
-/
namespace Sys2Proof.Machine

/-! ### One block update -/

/-- Products that are formed: positions where both elements are read. -/
def formed (a b : Blk) : List (Val × Val) :=
  (a.els.zip b.els).filterMap (fun p => match p.1, p.2 with | some x, some y => some (x, y) | _, _ => none)

/-- A non-finite element or a scale of 0xFF that takes part in a product. -/
def nonFinite (a b : Blk) (ps : List (Val × Val)) : Bool :=
  !ps.isEmpty && (decide (a.scale = 0xFF) || decide (b.scale = 0xFF) || ps.any (fun p => !p.1.isFinite || !p.2.isFinite))

/-- R46: L of a BF16 block, the greatest of e_a + e_b − 252 over its non-zero products. -/
def bf16L (ps : List (Val × Val)) : Option Int :=
  (ps.filterMap (fun p => match p.1, p.2 with
    | .num _ m1 e1, .num _ m2 e2 => if m1 * m2 = 0 then none else some (e1 + 134 + (e2 + 134) - 252)
    | _, _ => none)).foldl (fun o x => match o with | none => some x | some y => some (max x y)) none

/-- R46: a product's magnitude truncated toward zero to a multiple of 2^(L − 40). -/
def truncProduct (l : Int) (v : Val) : Val :=
  match v with
  | .num s m e =>
    let q := l - 40
    if q ≤ e then v else .num s (m / 2 ^ (q - e).toNat) q
  | v => v

/-- R44, R46, R49: the block's sum with both scales applied. -/
def blockSum (bf16 : Bool) (a b : Blk) (ps : List (Val × Val)) : Val :=
  if a.scale = 0xFF ∨ b.scale = 0xFF then .nan
  else
    let prods := ps.map (fun p => p.1.mul p.2)
    let prods := if bf16 then (match bf16L ps with | some l => prods.map (truncProduct l) | none => prods) else prods
    (sumVals prods).scale ((a.scale : Int) + b.scale - 254)

/-- E of R58 for an FP32 accumulator, at least −126; a non-finite one gives −126. -/
def accE (v : Nat) : Int :=
  match val32 v with
  | .num _ m e => if m = 0 then -126 else max (expOf m e) (-126)
  | _ => -126

/-- R45, R46, R49, R51, R181: one accumulator update of a visible DPU. -/
def dpuUpdate (bf16 sat : Bool) (acc : Acc) (a b : Blk) : Acc × NFlags :=
  let ps := formed a b
  if ps.isEmpty then (acc, {})
  else
    let ni := nonFinite a b ps
    let r := blockSum bf16 a b ps
    match r with
    | .num _ 0 _ => (acc, { ni := ni })
    | _ =>
      let x := (val32 acc.v).add r
      let (c, g) := rne32 sat x
      let nanIn := decide (a.scale = 0xFF ∨ b.scale = 0xFF) || ps.any (fun p => p.1.isNan || p.2.isNan) || (val32 acc.v).isNan
      let l := if bf16 then (match bf16L ps with | some l => l - 11 | none => -126) else -126
      ({ v := c, g := max acc.g (max (accE c) l) },
       { ni := ni, nv := x.isNan && !nanIn, of := g.of, sat := g.sat })

/-- R178: a checksum DPU's update, always in non-finite mode, without flags. -/
def chkUpdate (acc : Acc) (a b : Blk) : Acc :=
  let ps := formed a b
  if ps.isEmpty then acc
  else match blockSum false a b ps with
    | .num _ 0 _ => acc
    | r =>
      let c := (rne32 false ((val32 acc.v).add r)).1
      { v := c, g := max acc.g (accE c) }

/-- R178, R179: element-by-element exact sum of scaled vectors; a position that no vector reads is none. -/
def sumBlk (bs : List Blk) : Blk :=
  { els := (List.range 32).map (fun j =>
      let xs := bs.filterMap (fun b => (b.els.getD j none).map (fun v =>
        if b.scale = 0xFF then Val.nan else v.scale ((b.scale : Int) - 127)))
      if xs.isEmpty then none else some (sumVals xs))
    scale := 127 }

/-! ### Checks (R182 to R184, R187) -/

def pow2 (k : Int) : Val := .num false 1 k

/-- R182: τ for visible accumulators `xs` and checksum accumulator `y`. -/
def tolerance (f n : Nat) (xs : List Acc) (y : Acc) : Val :=
  (Val.num false (f * n) 0).mul (sumVals ((y :: xs).map (fun a => pow2 (a.g - 24))))

/-- R182, R184: a check; none when it is unmade, else whether it fails. -/
def checkFails (f n : Nat) (xs : List Acc) (y : Acc) : Option Bool :=
  if (y :: xs).any (fun a => !(val32 a.v).isFinite) then none
  else
    let d := ((sumVals (xs.map (fun a => val32 a.v))).add (val32 y.v).negate).abs
    some ((tolerance f n xs y).lt d)

/-! ### Reading operand vectors -/

/-- Element codes of a packed vector of `n` elements (R103). -/
def codes (fmt n w : Nat) : List Nat := (List.range n).map (fun j => bits w (fmtWidth fmt * j) (fmtWidth fmt))

def packCodes (fmt : Nat) : List Nat → Nat
  | [] => 0
  | c :: cs => c % 2 ^ fmtWidth fmt + 2 ^ fmtWidth fmt * packCodes fmt cs

/-- A vector as a feeder takes it: its blocks (two for a 2:4 vector), an index word out of order (R152), the address of
poisoned data. -/
structure VecRead where
  blks : List Blk := []
  bad : Option Nat := none
  poison : Option Nat := none
deriving DecidableEq, Repr

def omitted : Blk := { els := List.replicate 32 none }

/-- R152: some group's two positions are out of order. -/
def badIndex (ix : Nat) : Bool := (List.range 16).any (fun g => decide (bits ix (4 * g + 2) 2 ≤ bits ix (4 * g) 2))

/-- R150, R153: dense form of the half `h` of a sparse vector. -/
def denseHalf (els : List Val) (ix h : Nat) : List (Option Val) :=
  (List.range 32).map (fun k =>
    let j := 16 * h + k / 4 * 2
    if bits ix (2 * j) 2 = k % 4 then els[j]? else if bits ix (2 * j + 2) 2 = k % 4 then els[j + 1]? else none)

def State.vecScale (s : State) (d base x : Nat) : Nat :=
  if dScale d = 1 then dScl d else if dScale d = 2 then s.readNat 1 (base + scaleOff d x) else 127

/-- Reads the vector at offset `x` from the operand's base. -/
def State.readVec (s : State) (d base x : Nat) : VecRead :=
  let v := vecSize (dFmt d)
  let sc := s.vecScale d base x
  let els := (codes (dFmt d) 32 (s.readNat v (base + x))).map (fmtOf (dFmt d)).decode
  let pz := if s.poisoned (base + x) (aVec d) then some (base + x)
    else if dScale d = 2 ∧ s.poisoned (base + scaleOff d x) 1 then some (base + scaleOff d x) else none
  if aSparse d then
    let ix := s.readNat 8 (base + x + v)
    { blks := [⟨denseHalf els ix 0, sc⟩, ⟨denseHalf els ix 1, sc⟩]
      bad := if badIndex ix then some ix else none
      poison := pz }
  else { blks := [⟨els.map some, sc⟩], poison := pz }

/-- R141: bit `i` of a map at SRAM offset `off` of a tile. -/
def State.mapBit (s : State) (t off i : Nat) : Bool := bit (s.readNat 1 (winAddr t (off + i / 8))) (i % 8)

def State.mapGet (s : State) (t : Nat) (m : Option Nat) (i : Nat) : Bool :=
  match m with | some off => s.mapBit t off i | none => false

/-- Units of an operand along K: K-blocks, or the pairs of a 2:4 operand (R141, R150). -/
def kUnits (d kb : Nat) : Nat := if aSparse d then kb / 2 else kb

/-- The operand's unit that holds K-block `b`. -/
def unitOf (d b : Nat) : Nat := if aSparse d then b / 2 else b

/-- R127: offset from the base of the input vector of output row `m` and K-block `b`; none for a padding vector. -/
def convOff (c : ConvP) (v m b : Nat) : Option Nat :=
  let ho := c.ho
  let wo := c.wo
  let (n, r) := (m / (ho * wo), m % (ho * wo))
  let (oh, ow) := (r / wo, r % wo)
  let (k, cb) := (b / c.cb, b % c.cb)
  let (kh, kw) := (k / c.kw, k % c.kw)
  let h : Int := (oh * c.sh : Int) - c.pt + kh * c.dh
  let w : Int := (ow * c.sw : Int) - c.pl + kw * c.dw
  if 0 ≤ h ∧ h < c.hi ∧ 0 ≤ w ∧ w < c.wi then
    some (((n * c.hi + h.toNat) * c.wi + w.toNat) * c.sp + cb * v)
  else none

/-- Vector of A for row `m`, unit `u`. -/
def State.readA (s : State) (w : WorkCmd) (base m u : Nat) : VecRead :=
  if isConvOp w.op then
    match convOff w.conv (vecSize (dFmt w.d0)) m u with
    | some x => s.readVec w.d0 base x
    | none => { blks := [omitted] }
  else s.readVec w.d0 base (vecOff w.d0 m u)

/-- Units of an operand that K-blocks `b0` to `b0 + n − 1` lie in. -/
def unitsIn (d b0 n : Nat) : List Nat :=
  if aSparse d then (List.range (n / 2)).map (fun i => b0 / 2 + i) else (List.range n).map (fun i => b0 + i)

def omittedUnit (d : Nat) : VecRead := { blks := if aSparse d then [omitted, omitted] else [omitted] }

def joinReads (rs : List VecRead) (step : Nat) : FeedEntry :=
  { step := step
    blks := rs.flatMap (·.blks)
    badIdx := (rs.filterMap (·.bad)).head?
    poison := (rs.filterMap (·.poison)).head? }

/-! ### Output rows (R54 to R60, R120, R121, R135) -/

/-- Conversion of the 32 values of one output row; codes, scale, flags. -/
def convertRow (fmt : Nat) (sat : Bool) (rc : RndCtx) (xs : List (Nat × Nat)) : List Nat × Nat × NFlags :=
  if isBlockFmt fmt then convertBlock (fmtOf fmt) sat rc (xs.map (fun p => (val32 p.1, p.2)))
  else
    let rs := xs.map (fun p => (fmtOf fmt).convert sat (rc.at p.2) (val32 p.1))
    (rs.map (·.1), 127, gather (rs.map (·.2)))

/-- R64: the destination's elements read back for accumulate mode. -/
def State.readRow (s : State) (d base x : Nat) (sat : Bool) : List (Nat × NFlags) :=
  let sc := if isBlockFmt (dFmt d) then some (s.vecScale d base x) else none
  (codes (dFmt d) 32 (s.readNat (vecSize (dFmt d)) (base + x))).map (fun c => readElem (fmtOf (dFmt d)) sat c sc)

/-- R121: RNE_fp32(acc + c). -/
def addOld (sat : Bool) (x : Nat) (c : Nat) : Nat × NFlags :=
  fp32Result sat [val32 x, val32 c] ((val32 x).add (val32 c))

/-- Writes output row `m`, block `nb`, from its 32 accumulator values; the state and the flags. -/
def State.writeRow (s : State) (w : WorkCmd) (base m nb : Nat) (vals : List Nat) : State × NFlags :=
  let d := w.d2
  let x := vecOff d m nb
  let old := if w.accum then s.readRow d base x w.sat else []
  let sums : List (Nat × NFlags) := if w.accum then (vals.zip old).map (fun p => addOld w.sat p.1 p.2.1)
    else vals.map (fun v => (v, {}))
  let ix := (List.range 32).map (fun c => w.index w.n m (32 * nb + c))
  let (cs, sc, f) := convertRow (dFmt d) w.sat w.rctx ((sums.map (·.1)).zip ix)
  let s := s.writeNat (vecSize (dFmt d)) (base + x) (packCodes (dFmt d) cs)
  let s := if dScale d = 2 then s.writeNat 1 (base + scaleOff d x) sc else s
  (s, (f.or (gather (sums.map (·.2)))).or (gather (old.map (·.2))))

/-- Address of poisoned data that an accumulate-mode drain of the row would read. -/
def State.rowPoison (s : State) (w : WorkCmd) (base m nb : Nat) : Option Nat :=
  let x := vecOff w.d2 m nb
  if !w.accum then none
  else if s.poisoned (base + x) (vecSize (dFmt w.d2)) then some (base + x)
  else if dScale w.d2 = 2 ∧ s.poisoned (base + scaleOff w.d2 x) 1 then some (base + scaleOff w.d2 x)
  else none

end Sys2Proof.Machine
end

