-- ==== Sys2Proof/Machine/UnitCmd.lean ====
section
/-!
DEFINITION. Commands of course ports (12 Tables 12.4 and 12.5): their fields and the check a port makes while it fetches one
(R430); the memory a panel owns or was granted (R283, R498, R500, Table 9.6); reduction entries (Table 11.1).
-/
namespace Sys2Proof.Machine

/-! ### Reduction tensor entries -/

def rtBase (e : Nat) : Nat := bits e 0 52
def rtValid (e : Nat) : Bool := bit e 63
def rtCount (e : Nat) : Nat := bits e 64 32 + 1
def rtX (e : Nat) : Int := signed 10 (bits e 96 10)
def rtG (e : Nat) : Nat := bits e 112 5
def rtAuto (e : Nat) : Bool := bit e 117
def rtMargin (e : Nat) : Nat := bits e 118 3
def rtOF (e : Nat) : Bool := bit e 128
def rtNF (e : Nat) : Bool := bit e 129
def rtMval (e : Nat) : Bool := bit e 130
def rtMaxe (e : Nat) : Int := signed 10 (bits e 136 10)

/-! ### A panel's memory -/

/-- `[a, a + n)` is covered by the ranges, taken from `a` onwards. -/
def covered (rs : List (Nat × Nat)) : Nat → Nat → Nat → Bool
  | 0, _, n => decide (n = 0)
  | k + 1, a, n =>
    if n = 0 then true
    else match rs.find? (fun r => decide (r.1 ≤ a ∧ a < r.1 + r.2)) with
      | some r => let m := min n (r.1 + r.2 - a); covered rs k (a + m) (n - m)
      | none => false

/-- Mapped parts of the panel's HBM spans. -/
def State.t1Ranges (s : State) (p : Nat) : List (Nat × Nat) := (s.panel p).spans.map (fun q => (spanAddr q, s.spanMapped q))

/-- The same outside its staging windows (R305). -/
def State.t1Free (s : State) (p : Nat) : List (Nat × Nat) :=
  (s.panel p).spans.map (fun q => (spanAddr q, s.spanMapped q - (s.panel p).wl * 65536))

/-- T2 or T3 bytes granted to the panel. -/
def State.granted (s : State) (p a n : Nat) : Bool :=
  let g := (s.panel p).grants
  covered g (g.length + 1) a n

def State.inT1 (s : State) (p a n : Nat) : Bool :=
  let r := s.t1Ranges p
  covered r (r.length + 1) a n

/-- T2 bytes granted to the panel. -/
def State.inT2 (s : State) (p a n : Nat) : Bool :=
  s.granted p a n && (match regionOf a, regionOf (a + n - 1) with | .lpddr _, .lpddr _ => true | _, _ => false)

/-- `[a, a + n)` lies in windows of the panel's tiles. -/
def State.inWindows (s : State) (p a n : Nat) : Bool :=
  match regionOf a, regionOf (a + n - 1) with
  | .window t _, .window u _ => decide (n ≠ 0) && (List.range (u + 1 - t)).all (fun i => (s.panel p).holdsTile (t + i))
  | _, _ => false

/-! ### Course commands (Table 12.4) -/

def ccOp (w : Nat) : Nat := bits w 0 8
def ccPanel (w : Nat) : Nat := bits w 8 4
def ccCh (w : Nat) : Nat := bits w 12 2
def ccRec (w : Nat) : Bool := bit w 14
def ccFence (w : Nat) : Bool := bit w 15
def ccPeer (w : Nat) : Nat := bits w 16 10
def ccRtid (w : Nat) : Nat := bits w 32 12
def ccWin (w : Nat) : Nat := bits w 44 8
def ccWaddr (w : Nat) : Nat := bits w 64 52
def ccWval (w : Nat) : Nat := bits w 128 64
def ccRoff (w : Nat) : Nat := bits w 192 44
def ccSrc (w : Nat) : Nat := bits w 256 52
def ccTacc (w : Nat) : Nat := bits w 256 32
def ccTput (w : Nat) : Nat := bits w 288 32
def ccBytes (w : Nat) : Nat := bits w 320 32
def ccFirstel (w : Nat) : Nat := bits w 352 32
def ccSigtile (w : Nat) : Nat := bits w 384 14
def ccSigslot (w : Nat) : Nat := bits w 398 3
def ccSigctr (w : Nat) : Nat := bits w 401 6
def ccSigen (w : Nat) : Bool := bit w 407
def ccSigval (w : Nat) : Nat := bits w 408 16

def ccCollective (op : Nat) : Bool := decide (op = 0x10 ∨ op = 0x11)
def ccSingle (op : Nat) : Bool := decide (1 ≤ op ∧ op ≤ 3)
def ccBytesOp (op : Nat) : Bool := decide (op = 1 ∨ op = 8)
def ccRtidOp (op : Nat) : Bool := decide (op = 2 ∨ op = 3)

/-- R199, Table 12.4: reserved fields, with [319:308] part of TPUT in a collective. -/
def ccReserved (w : Nat) : Bool :=
  decide (bits w 26 6 ≠ 0 ∨ bits w 52 12 ≠ 0 ∨ bits w 116 12 ≠ 0 ∨ bits w 236 20 ≠ 0 ∨ bits w 424 88 ≠ 0) ||
  (!ccCollective (ccOp w) && decide (bits w 308 12 ≠ 0))

/-- R430: the source of a command that names bytes. -/
def State.courseSrcOk (s : State) (p a n : Nat) : Bool :=
  decide (n = 0) || s.granted p a n || s.inT1 p a n || s.inWindows p a n

/-- R430: a wait word's address is 8 B-aligned, in T1 or T2 of the panel, or 0. -/
def State.waitAddrOk (s : State) (p a : Nat) : Bool :=
  decide (a = 0) || (decide (a % 8 = 0) && (s.inT1 p a 8 || s.inT2 p a 8))

/-- R430, R417: the RTID's entry is valid and covers the elements, which start at a multiple of 4. -/
def State.courseElemsOk (s : State) (p w : Nat) : Bool :=
  let e := (s.panel p).rtab.get 0 (ccRtid w)
  let op := ccOp w
  if ccRtidOp op then
    rtValid e && decide (ccFirstel w + ccBytes w ≤ rtCount e) && decide (ccFirstel w % 4 = 0)
  else if ccCollective op then rtValid e
  else true

/-- R430: the entry is a command the port may start. -/
def State.courseOk (s : State) (p j w : Nat) : Bool :=
  let op := ccOp w
  decide (op ≤ 3 ∨ op = 8 ∨ op = 0x10 ∨ op = 0x11 ∨ op = 0x20 ∨ op = 0x21) &&
  decide (ccPanel w = p) && !ccReserved w &&
  (!ccSingle op || decide (ccPeer w ≤ (s.job p j).nmod)) &&
  s.waitAddrOk p (ccWaddr w) &&
  (!ccBytesOp op || s.courseSrcOk p (ccSrc w) (ccBytes w)) &&
  (!decide (op = 0x20) || s.courseSrcOk p (ccSrc w) 64) &&
  s.courseElemsOk p w &&
  (!ccSigen w || (decide (ccSigslot w = j) && (s.panel p).holdsTile (ccSigtile w) && decide (ccSigtile w < 10240)))

end Sys2Proof.Machine
end

