-- ==== Sys2Proof/Machine/Sequencer.lean ====
section
/-!
DEFINITION. Rings, doorbells, the sequencer and the completion of tile commands (03, 07): RING_DOORBELL, RING_ENTRY_FETCH,
SEQUENCER_SELECT, COMMAND_TRANSLATED, COMMAND_COMPLETE, REMOTE_ADD_APPLY, REMOTE_ADD_ACK, SRAM_CORRECTED_WRITEBACK and the
control opcodes NOP, FENCE, CSKIP, MARKER.
-/
namespace Sys2Proof.Machine

/-! ### Who owns a ring (Table 7.1, R430, R457, R474) -/

/-- A ring's owner, the panel it belongs to, its job slot. -/
structure Owner where
  unit : Agent := .manager
  panel : Option Nat := none
  slot : Option Nat := none
deriving DecidableEq, Repr

def State.ringOwner (s : State) (g : Nat) : Owner :=
  if g < 245760 then ⟨tileAgent (g / 24), s.tilePanel (g / 24), some (g % 24 / 3)⟩
  else if g < 253952 then
    let i := (g - 245760) % 256
    if (s.port ((g - 245760) / 256)).eth then ⟨portAgent ((g - 245760) / 256), none, none⟩
    else ⟨portAgent ((g - 245760) / 256), some (i / 16), some (i % 16 / 2)⟩
  else if g < 258048 then
    let h := (g - 253952) / 128
    ⟨hodAgent h, s.spanPanel h, some ((g - 253952) % 128 / 16)⟩
  else if g < 260096 then
    let i := (g - 258048) % 512
    ⟨intakeAgent ((g - 258048) / 512), some (i / 32), some (i % 32 / 4)⟩
  else if g < 261120 then ⟨.manager, some ((g - 260096) / 64), none⟩
  else ⟨.manager, some ((g - 261120) / 64), none⟩

/-- The job a ring's fault ends. -/
def Owner.job (o : Owner) : Option (Nat × Nat) :=
  match o.panel, o.slot with | some p, some j => some (p, j) | _, _ => none

/-- Tile and trace rings count their stale doorbells (Table 19.6). -/
def countsStale (g : Nat) : Bool := decide (g < 245760 ∨ 261120 ≤ g)

/-- Rings the module produces (R199). -/
def isTraceRing (g : Nat) : Bool := decide (261120 ≤ g)
def isMailbox (g : Nat) : Bool := decide (260096 ≤ g ∧ g < 261120)

/-- R503, R504: the authority reaches the owner's panel; module authority reaches everything. -/
def reaches (auth : Auth) (p : Option Nat) : Bool :=
  match auth with | .owner => true | .panel q => decide (p = some q.val)

/-- R504: an access outside its authority's reach: counted in the requesting panel's ISO and recorded; the core that made
it is not an operand of the command, so the detail is a free value (log 2). -/
def State.outOfReach (s : State) (auth : Auth) (addr : Nat) : State :=
  match auth with
  | .owner => s
  | .panel q =>
    let (v, s) := s.draw
    let s := s.modPanel q (fun x => { x with iso := satAdd 0xFFFF x.iso 1 })
    s.emit { cls := 0x13, cause := 2, unit := .manager, addr := addr, detail := v % 256 }

/-! ### Doorbells (R90, R204, R205, R589) -/

/-- What a doorbell's count does to a ring's pointers (R204). -/
inductive Bell where
  | duplicate | stale | accept | overflow
deriving DecidableEq, Repr

def bellOf (r : Ring) (t : Count) : Bell :=
  if t = r.tail then .duplicate
  else if 0x80000000 ≤ (t - r.tail).toNat then .stale
  else if (t - r.head).toNat ≤ r.size then .accept
  else .overflow

/-- R589: a consumer doorbell. -/
def consumerBell (r : Ring) (h : Count) : Option Ring :=
  if (h - r.head).toNat ≤ (r.tail - r.head).toNat then some { r with head := h } else none

def State.countStale (s : State) (g : Nat) (p : Option Nat) : State :=
  match p with
  | some p => if countsStale g then s.modPanel p (fun x => { x with stale := satAdd 0xFFFF x.stale 1 }) else s
  | none => s

/-- R205: a doorbell to a disabled ring is ignored and recorded. -/
def State.bellDisabled (s : State) (g : Nat) (t : Count) : State :=
  let o := s.ringOwner g
  s.emit { cls := 4, job := o.job, unit := o.unit, ring := g, detail := t.toNat }

/-- R204, R205, R540: an overflow ends the ring's job and stops the ring; on a mailbox ring it clears EN. -/
def State.bellOverflow (s : State) (g : Nat) (t : Count) : State :=
  let o := s.ringOwner g
  let e : Event := { cls := 3, unit := o.unit, ring := g, pos := (s.ring g).tail.toNat, detail := t.toNat }
  if isMailbox g then (s.modRing g (fun r => { r with en := false })).emit e
  else
    let s := s.modRing g (fun r => { r with stopped := true })
    match o.job with
    | some (p, j) =>
      if (s.job p j).jstate = 0 then s.emit { e with job := some (p, j) }
      else if g < 245760 then s.faultTile (g / 24) j e
      else s.faultJob p j e
    | none => s.emit e

/-- Address of a ring's doorbell register. -/
def bellAddr (g : Nat) : Nat :=
  mmioBase +
    (if g < 245760 then g / 24 * 0x10000 + 0x410 + 0x20 * (g % 24)
     else if g < 253952 then 0x46001010 + (g - 245760) / 256 * 0x10000 + 0x20 * ((g - 245760) % 256)
     else if g < 258048 then 0x45001010 + (g - 253952) / 128 * 0x10000 + 0x20 * ((g - 253952) % 128)
     else if g < 260096 then 0x48001010 + (g - 258048) / 512 * 0x10000 + 0x20 * ((g - 258048) % 512)
     else if g < 261120 then 0x47001010 + (g - 260096) / 64 * 0x10000 + 0x40 * ((g - 260096) % 64)
     else 0x44003010 + (g - 261120) / 64 * 0x10000 + 0x20 * ((g - 261120) % 64))

/-- R540: a mailbox ring enabled under module authority is out of a panel's reach. -/
def State.modulesOwn (s : State) (g : Nat) (auth : Auth) : Bool :=
  isMailbox g && (s.ring g).modr && decide (auth ≠ .owner)

/-- R90, R199, R204, R205, R501, R540, R589: a doorbell write is performed. A doorbell to a stopped tile waits (R600,
R604). -/
def State.doorbell (s : State) (g : Nat) (t : Count) (auth : Auth) : State :=
  let o := s.ringOwner g
  if g < 245760 ∧ s.halted then s
  else if !reaches auth o.panel || s.modulesOwn g auth then s.outOfReach auth (bellAddr g)
  else
    let r := s.ring g
    if !r.en then s.bellDisabled g t
    else if isTraceRing g then
      (match consumerBell r t with
       | some r' => s.setRing g r'
       | none => s.countStale g o.panel)
    else match bellOf r t with
      | .duplicate => s
      | .stale => s.countStale g o.panel
      | .accept => s.setRing g { r with tail := t, avail := if isMailbox g then r.avail ++ [(t, auth)] else r.avail }
      | .overflow => s.bellOverflow g t

def execRingDoorbell (g : RingId) (count : Count) (auth : Auth) (s : State) : Host.Outcome State Fault Refusal :=
  .next (s.doorbell g count auth)

/-! ### Fetch (R201, R202, R206) -/

/-- Entries the next fetch of a ring takes: from HEAD plus what it holds, to the end of the aligned pair, below TAIL, with
at most two held. -/
def Ring.fetchCount (r : Ring) : Nat :=
  let k := r.fetched.length
  let pos := r.head + BitVec.ofNat 32 k
  let pair := if pos.toNat % 2 = 0 then 2 else 1
  min pair (min (2 - k) (r.count - k))

/-- R201: class and cause of a fetch that reads poisoned data or receives ERR. -/
def errCause (a : Nat) (r : Resp) : Nat × Nat :=
  match r with
  | .poisoned => (5, poisonCause a)
  | .hostPathDown => (0x10, 1)
  | .unmapped => (0x10, 2)
  | _ => (0x10, 3)

/-- The first of the entries `i`, `i + 1`, … (`n` of them from position `pos`) whose read does not end OK. -/
def State.badEntry (s : State) (r : Ring) (pos : Count) : Nat → Option (Count × Nat × Resp)
  | 0 => none
  | n + 1 =>
    let a := r.entryAddr pos
    match s.readResp a 64 with
    | .ok => s.badEntry r (pos + 1) n
    | e => some (pos, a, e)

def State.readEntries (s : State) (r : Ring) (pos : Count) : Nat → List Nat × State
  | 0 => ([], s)
  | n + 1 =>
    let (bs, s) := s.cohRead 64 (r.entryAddr pos)
    let (es, s) := s.readEntries r (pos + 1) n
    (ofBytes bs :: es, s)

/-- R501, R508: the slot's job runs, so its rings are served. -/
def State.running (s : State) (p j : Nat) : Bool := decide ((s.job p j).jstate = 1)

/-- The ring is one its unit may fetch from now: enabled, not stopped, its slot's job running, its tile not stopped. -/
def State.ringLive (s : State) (g : Nat) : Bool :=
  let r := s.ring g
  r.en && !r.stopped && (match (s.ringOwner g).job with | some (p, j) => s.running p j | none => false) &&
  (decide (245760 ≤ g) || !(s.halted || (match (s.ringOwner g).slot with
    | some j => (s.tile (g / 24)).slotFault.getLsbD j | none => false)))

/-- R430: a course port checks each command while it fetches it; a malformed one ends the ring's job and is not held. -/
def State.takeEntries (s : State) (g : Nat) : Count → List Nat → State
  | _, [] => s
  | pos, e :: es =>
    let o := s.ringOwner g
    match o.unit, o.job with
    | .port _, some (p, j) =>
      if s.courseOk p j e then (s.modRing g (fun r => { r with fetched := r.fetched ++ [e] })).takeEntries g (pos + 1) es
      else (s.modRing g (fun r => { r with stopped := true })).faultJob p j
        { cls := 0x0E, cause := 2, unit := o.unit, ring := g, pos := pos.toNat, detail := ccPeer e + ccCh e * 2 ^ 10 }
    | _, _ => (s.modRing g (fun r => { r with fetched := r.fetched ++ [e] })).takeEntries g (pos + 1) es

/-- RING_ENTRY_FETCH (R201): mailbox rings are served by MAILBOX_ENTRY_FETCH, trace rings have no fetch. -/
def State.fetchEntry (s : State) (g : Nat) : State :=
  let r := s.ring g
  let n := r.fetchCount
  let pos := r.head + BitVec.ofNat 32 r.fetched.length
  if !s.ringLive g || decide (n = 0) then s
  else match s.badEntry r pos n with
    | some (bad, a, e) =>
      let (c, k) := errCause a e
      let s := s.setRing g { r with stopped := true, fetched := [] }
      let ev : Event := { cls := c, cause := k, unit := (s.ringOwner g).unit, ring := g, pos := bad.toNat, addr := a,
                          inj := s.poisonInj a 64 }
      match (s.ringOwner g).job with
      | some (p, j) => if g < 245760 then s.faultTile (g / 24) j ev else s.faultJob p j ev
      | none => s
    | none =>
      let (es, s) := s.readEntries r pos n
      s.takeEntries g pos es

def execRingEntryFetch (g : RingId) (s : State) : Host.Outcome State Fault Refusal := .next (s.fetchEntry g)

/-! ### Waits (R215) and their trace (R606) -/

/-- R215: the counter meets the wait. -/
def waitMet (v : BitVec 16) (eq : Bool) (val : Nat) : Bool :=
  if eq then decide (v.toNat = val) else decide ((v - BitVec.ofNat 16 val).toNat < 2 ^ 15)

def TileS.waitMet (t : TileS) (w : WorkCmd) : Bool :=
  !w.waitEn || Machine.waitMet (t.ctr w.slot w.waitCtr).val w.waitEq w.waitVal

/-- Of two entries of one ring, whether the first stands earlier (R204's modulus). -/
def posBefore (a b : Count) : Bool := decide ((b - a).toNat < 2 ^ 31)

/-- A slot's oldest FIFO entry in either lane, with the lane (R221). -/
def Engine.oldest (e : Engine) (j : Nat) : Option (Bool × Cmd) :=
  match e.urgent.find? (fun c => c.cmd.slot = j), e.normal.find? (fun c => c.cmd.slot = j) with
  | some u, some n => if posBefore u.pos n.pos then some (true, u) else some (false, n)
  | some u, none => some (true, u)
  | none, some n => some (false, n)
  | none, none => none

/-- The slot's command that has started and not issued its last work (R221, R226). -/
def Engine.started (e : Engine) (j : Nat) : Option Active :=
  e.active.find? (fun a => a.c.cmd.slot = j && !a.issued)

/-- Replaces a FIFO entry, named by its lane, slot and position. -/
def Engine.putEntry (e : Engine) (urg : Bool) (c : Cmd) : Engine :=
  let f := fun (x : Cmd) => if x.cmd.slot = c.cmd.slot ∧ x.pos = c.pos then c else x
  if urg then { e with urgent := e.urgent.map f } else { e with normal := e.normal.map f }

/-- R606: a command that becomes a candidate with its wait unsatisfied writes a wait-begin record; when its wait is met,
a wait-satisfied record naming the update. -/
def State.noteWait (s : State) (t c j : Nat) : State :=
  let e := s.engine t c
  match e.started j, e.oldest j with
  | none, some (urg, x) =>
    let w := x.cmd
    let k := (s.tile t).ctr j w.waitCtr
    if x.noted = 0 ∧ !(s.tile t).waitMet w then
      let s := s.traceTile t { kind := 3, slot := j, eng := c, pos := x.pos.toNat, ctr := w.waitCtr, val := w.waitVal }
      s.setEngine t c (e.putEntry urg { x with noted := 1 })
    else if x.noted = 1 ∧ (s.tile t).waitMet w then
      let s := s.traceTile t { kind := 4, slot := j, eng := c, pos := x.pos.toNat, ctr := w.waitCtr, val := k.val.toNat,
                               ptile := k.byTile, peng := k.byEng, prem := k.byRemote }
      s.setEngine t c (e.putEntry urg { x with noted := 2 })
    else s
  | _, _ => s

def State.noteWaits (s : State) (t c : Nat) : State := (List.range 8).foldl (fun s j => s.noteWait t c j) s

/-! ### Selection (R87, R88, R91, R206, R510) -/

/-- The head command's header, when all of its entries are fetched (R206). -/
def Ring.headCmd (r : Ring) : Option WorkCmd :=
  match r.fetched with
  | [] => none
  | h :: rest =>
    if bit h 14 then (match rest with | x :: _ => some (WorkCmd.ofEntries h (some x)) | [] => none)
    else some (WorkCmd.ofEntries h none)

/-- The lane has room for the slot (R87, R223). -/
def Engine.room (e : Engine) (urg : Bool) (j : Nat) : Bool :=
  if urg then decide (e.urgent.length < 2) && e.urgent.all (fun c => decide (c.cmd.slot ≠ j))
  else decide (e.normal.length < 14) && decide ((e.normal.filter (fun c => c.cmd.slot = j)).length < 4)

/-- The class bit of the eligible head command of a slot's ring (R87), if there is one. -/
def State.eligible (s : State) (t c j : Nat) : Option Bool :=
  match s.tilePanel t, (s.ring (tileRing t j c)).headCmd with
  | some p, some w =>
    if s.ringLive (tileRing t j c) && !(s.tile t).pause.getLsbD j && !(s.panel p).susp.getLsbD j &&
       (s.engine t c).room w.urg j then some w.urg else none
  | _, _ => none

/-- Slots in the order of a rotating pointer (R87, R222). -/
def rotate (n k : Nat) : List Nat := (List.range n).map (fun i => (k + i) % n)

def State.pick (s : State) (t c : Nat) (urg : Bool) : Option Nat :=
  (rotate 8 (s.engine t c).selPtr).find? (fun j => s.eligible t c j = some urg)

/-- SEQUENCER_SELECT: one ring of the class goes into translation; an urgent head abandons the translation of a normal
command (R88). -/
def State.select (s : State) (t c : Nat) : State :=
  let e := s.engine t c
  let start (j : Nat) (u : Bool) : State := s.setEngine t c { e with xlat := some (j, u), selPtr := (j + 1) % 8 }
  match e.xlat with
  | none =>
    (match s.pick t c true with
     | some j => start j true
     | none => match s.pick t c false with | some j => start j false | none => s)
  | some (_, true) => s
  | some (_, false) => match s.pick t c true with | some j => start j true | none => s

def execSequencerSelect (t : Tile) (c : EngClass) (s : State) : Host.Outcome State Fault Refusal := .next (s.select t c)

/-! ### Translation (R84, R85, R203, R213) -/

/-- HEAD passes the head command's entries (R203). -/
def Ring.pass (r : Ring) (n : Nat) : Ring :=
  { r with head := r.head + BitVec.ofNat 32 n, fetched := r.fetched.drop n }

def State.translated (s : State) (t c : Nat) : State :=
  let e := s.engine t c
  if s.halted then s
  else match e.xlat, s.tilePanel t with
  | some (j, _), some p =>
    let g := tileRing t j c
    let r := s.ring g
    (match r.headCmd with
     | none => s
     | some w =>
       let s := s.setEngine t c { e with xlat := none }
       let s := s.setRing g (r.pass (if w.xt then 2 else 1))
       let ev : Event := { cls := 2, ring := g, pos := r.head.toNat }
       match s.translate t p j c w with
       | .malformed k => s.faultTile t j { ev with cause := k }
       | .fault f => s.faultTile t j { ev with cls := 1, cause := f.cause, addr := f.addr, vaddr := f.vaddr, detail := f.i }
       | .ok oa ob oc =>
         let x : Cmd := { cmd := w, pos := r.head, a := oa, b := ob, c := oc, gen := (s.job p j).gen }
         let s := s.modEngine t c (fun e =>
           if w.urg then { e with urgent := e.urgent ++ [x] } else { e with normal := e.normal ++ [x] })
         s.noteWait t c j)
  | _, _ => s

def execCommandTranslated (t : Tile) (c : EngClass) (s : State) : Host.Outcome State Fault Refusal :=
  .next (s.translated t c)

/-! ### Engine records -/

/-- The engine's running command: the one whose chunk is in progress and whose last work is not issued. -/
def Engine.current (e : Engine) : Option Active := e.running.bind e.started

/-- Replaces the started record of a slot. -/
def Engine.putActive (e : Engine) (a : Active) : Engine :=
  { e with active := e.active.map (fun x => if x.c.cmd.slot = a.c.cmd.slot ∧ x.c.pos = a.c.pos then a else x) }

def State.putActive (s : State) (t c : Nat) (a : Active) : State := s.modEngine t c (fun e => e.putActive a)

/-- A fault found by an engine in a command of its own (R188, R214, R462): the command stops with no completion and no
signal, its slot's rings on the tile stop, its job ends. -/
def State.faultCmd (s : State) (t c : Nat) (x : Cmd) (e : Event) : State :=
  let s := s.modTile t (fun y =>
    { y with arr := if c = 0 then y.arr.dropSlot x.cmd.slot (decide ((y.eng.get {} 0).running = some x.cmd.slot)) else y.arr
             eng := y.eng.modify {} c (fun e =>
               { e with active := e.active.filter (fun a => !(a.c.cmd.slot = x.cmd.slot && a.c.pos = x.pos))
                        running := if e.running = some x.cmd.slot then none else e.running }) })
  s.faultTile t x.cmd.slot { e with ring := tileRing t x.cmd.slot c, pos := x.pos.toNat }

/-- R226, R227: a command's last work is issued and its writes are performed. -/
def Active.finish (a : Active) : Active := { a with issued := true, done := true }

def Engine.stop (e : Engine) (j : Nat) : Engine := if e.running = some j then { e with running := none } else e

/-! ### Control opcodes (R226, R232 to R234) -/

/-- The started control command of opcode `op` on an engine, oldest slot first. -/
def Engine.control (e : Engine) (op : Nat) : Option Active :=
  e.active.find? (fun a => a.c.cmd.op = op && !a.issued)

/-- NOP: nothing beyond its wait, condition and signal. -/
def execNop (t : Tile) (c : EngClass) (s : State) : Host.Outcome State Fault Refusal :=
  .next (if s.halted then s else match (s.engine t c).control 0 with
    | some a => s.putActive t c a.finish
    | none => s)

/-- A FENCE's commands have all completed: none of those it named is still active. -/
def State.fenceMet (s : State) (t : Nat) (a : Active) : Bool :=
  a.fence.all (fun f => ((s.engine t f.1).active.all (fun b => !(b.c.cmd.slot = a.c.cmd.slot && b.c.pos = f.2))))

/-- FENCE: finishes once every command of its slot on the tile that had started before it was taken has completed. -/
def execFence (t : Tile) (c : EngClass) (s : State) : Host.Outcome State Fault Refusal :=
  .next (if s.halted then s else match (s.engine t c).active.find? (fun a => a.c.cmd.op = 1 && !a.issued && s.fenceMet t a) with
    | some a => s.putActive t c a.finish
    | none => s)

/-- CSKIP (R233): the next N commands of its ring are skipped. -/
def execCskip (t : Tile) (c : EngClass) (s : State) : Host.Outcome State Fault Refusal :=
  .next (if s.halted then s else match (s.engine t c).control 2 with
    | some a =>
      (s.putActive t c a.finish).modRing (tileRing t a.c.cmd.slot c) (fun r => { r with cskip := a.c.cmd.d0 % 256 })
    | none => s)

/-- MARKER (R234, R609): a range-marker record, time-stamped when the engine took the command. -/
def execMarker (t : Tile) (c : EngClass) (s : State) : Host.Outcome State Fault Refusal :=
  .next (if s.halted then s else match (s.engine t c).control 3 with
    | some a =>
      let s := s.putActive t c a.finish
      s.traceTile t { kind := 8, slot := a.c.cmd.slot, eng := c, pos := a.c.pos.toNat, arg := a.c.cmd.d0 % 2 ^ 34, ts := some a.at_ }
    | none => s)

/-! ### Completion (R217, R219, R220, R227, R228) -/

/-- Completion record (Table 7.9a). -/
def Active.record (a : Active) : Nat :=
  a.c.pos.toNat + a.flags.toNat * 2 ^ 32 + a.outcome * 2 ^ 38 + a.c.gen % 256 * 2 ^ 40 + min 255 a.chunks * 2 ^ 48

/-- R218, R217: a local update of a counter by a signal. -/
def State.localSignal (s : State) (t c : Nat) (w : WorkCmd) (pos : Count) : State :=
  let old := ((s.tile t).ctr w.slot w.sigCtr).val
  let v := if w.sigOp = 1 then old + BitVec.ofNat 16 w.sigVal else BitVec.ofNat 16 w.sigVal
  let s := s.setCtr t w.slot w.sigCtr v t c false
  s.traceTile t { kind := 5, slot := w.slot, eng := c, pos := pos.toNat, ctr := w.sigCtr, val := w.sigVal }

/-- The oldest command of a slot on an engine. -/
def Engine.oldestActive (e : Engine) (j : Nat) : Option Active := e.active.find? (fun a => a.c.cmd.slot = j)

def Engine.removeActive (e : Engine) (a : Active) : Engine :=
  { e with active := e.active.filter (fun x => !(x.c.cmd.slot = a.c.cmd.slot && x.c.pos = a.c.pos)) }

/-- The signal step (R217, R219, R220); a remote add that finds eight unacknowledged holds the step. -/
def State.signal (s : State) (t c : Nat) (a : Active) : State :=
  let w := a.c.cmd
  match w.sigOp with
  | 0 => s.modEngine t c (fun e => e.removeActive a)
  | 3 =>
    (match s.tilePanel t with
     | none => s
     | some p =>
       if 8 ≤ (s.tile t).unacked then s.putActive t c { a with held := true }
       else
         let x : RemoteAdd := { src := tileAgent t, eng := c, dst := w.sigTile, panel := p, slot := w.slot,
                                ctr := w.sigCtr, val := w.sigVal, gen := a.c.gen }
         let s := { s with adds := s.adds ++ [x] }
         let s := s.modTile t (fun x => { x with unacked := x.unacked + 1 })
         let s := s.traceTile t { kind := 6, slot := w.slot, eng := c, pos := a.c.pos.toNat, ctr := w.sigCtr,
                                  val := w.sigVal, ptile := w.sigTile }
         s.modEngine t c (fun e => e.removeActive a))
  | _ => (s.localSignal t c w a.c.pos).modEngine t c (fun e => e.removeActive a)

/-- COMMAND_COMPLETE: flags into TILE_NFLAG, completion record, signal, in that order (R217, R227). -/
def State.complete (s : State) (t c j : Nat) : State :=
  if s.halted then s
  else match (s.engine t c).oldestActive j with
  | none => s
  | some a =>
    if !a.done then s
    else if a.held then s.signal t c a
    else
      let r := s.ring (tileRing t j c)
      let at_ := r.clog + a.c.pos.toNat % r.size * 8
      if a.c.cmd.crec ∧ s.writeResp at_ 8 ≠ .ok then
        let (cl, k) := errCause at_ (s.writeResp at_ 8)
        s.faultCmd t c a.c { cls := cl, cause := k, addr := at_ }
      else
        let s := s.modTile t (fun x => x.orFlags j a.flags)
        let s := if a.c.cmd.crec then s.cohWriteNat 8 at_ a.record else s
        let s := s.traceTile t { kind := 2, slot := j, eng := c, pos := a.c.pos.toNat, arg := a.outcome + a.flags.toNat * 4 }
        (s.signal t c a).noteWaits t c

def execCommandComplete (t : Tile) (c : EngClass) (j : Slot) (s : State) : Host.Outcome State Fault Refusal :=
  .next (s.complete t c j)

/-! ### Remote adds (R218, R219, R604) -/

def Agent.isTile : Agent → Option Nat | .tile t => some t.val | _ => none

/-- A remote add is applied, or discarded by its generation and counted. -/
def State.applyAdd (s : State) (x : RemoteAdd) : State :=
  if (s.job x.panel x.slot).gen % 256 ≠ x.gen % 256 then
    s.modPanel x.panel (fun q => { q with gendis := satAdd 0xFFFF q.gendis 1 })
  else
    let old := ((s.tile x.dst).ctr x.slot x.ctr).val
    let src := match x.src with | .tile t => t.val | u => (agentCode u).2
    let s := s.setCtr x.dst x.slot x.ctr (old + BitVec.ofNat 16 x.val) src x.eng true
    s.traceTile x.dst { kind := 7, slot := x.slot, eng := x.eng, ctr := x.ctr, val := x.val, ptile := src }

/-- REMOTE_ADD_APPLY: the oldest remote add of a source on its way to a tile arrives. Its acknowledgement returns to a
source tile. While the plane is thawed it is held at the tile. -/
def State.remoteAdd (s : State) (src : Agent) (dst : Nat) : State :=
  if s.frozen then s
  else match s.adds.find? (fun x => x.src = src && x.dst = dst) with
  | none => s
  | some x =>
    let s := { s with adds := s.adds.erase x }
    let s := match src with
      | .tile t => { s with addAcks := s.addAcks.modify 0 t (· + 1) }
      | _ => s
    if s.halted then s.modTile dst (fun y => { y with heldAdds := y.heldAdds ++ [x] })
    else (s.applyAdd x).noteWaits dst 0 |>.noteWaits dst 1 |>.noteWaits dst 2

def execRemoteAddApply (src : Agent) (dst : Tile) (s : State) : Host.Outcome State Fault Refusal :=
  .next (s.remoteAdd src dst)

/-- REMOTE_ADD_ACK: an acknowledgement frees one of the tile's eight. -/
def execRemoteAddAck (t : Tile) (s : State) : Host.Outcome State Fault Refusal :=
  .next (if s.addAcks.get 0 t.val = 0 || s.frozen then s
    else ({ s with addAcks := s.addAcks.modify 0 t.val (· - 1) }).modTile t (fun x => { x with unacked := x.unacked - 1 }))

/-! ### Corrected words (R75) -/

/-- SRAM_CORRECTED_WRITEBACK: a bank writes back the oldest of its corrected words; the corrected value is what memory
already holds. -/
def execSramCorrectedWriteback (t : Tile) (bank : Fin 24) (s : State) : Host.Outcome State Fault Refusal :=
  .next (if s.halted then s else s.modTile t (fun x => match x.corrected.find? (fun w => w.1 = bank.val) with
    | some w => { x with corrected := x.corrected.erase w }
    | none => x))

end Sys2Proof.Machine
end

