-- ==== Sys2Proof/Machine/Array.lean ====
section
/-!
DEFINITION. The array (04, 05, 06): output groups and steps in their order, feeders, weight loads, drains with their checks,
and the commands MM, MM_ACC, CONV, CONV_ACC, WS8, WS8_ACC, WS2, WS2_ACC, FEEDER_FILL, ARRAY_STEP_ISSUE, WEIGHT_LOAD_PASS,
ARRAY_DRAIN. One execution of an opcode row runs its command to the next chunk boundary (R124).
-/
namespace Sys2Proof.Machine

/-! ### Square-mode geometry (R108 to R112, R143, R144, R161) -/

structure Geo where
  mBlocks : Nat
  mGroups : Nat
  nBlocks : Nat
  kSteps : Nat
deriving DecidableEq, Repr

def Active.geo (a : Active) : Geo :=
  let w := a.c.cmd
  { mBlocks := a.effM / 32, mGroups := ceilDiv (a.effM / 32) 4, nBlocks := w.n / 32, kSteps := ceilDiv w.kb w.cls.bps }

def Geo.groups (g : Geo) : Nat := g.nBlocks * g.mGroups

/-- R109: n-block and first m-block of output group `i`, and its sub-blocks. -/
def Geo.nb (g : Geo) (i : Nat) : Nat := i / max 1 g.mGroups
def Geo.mb (g : Geo) (i : Nat) : Nat := 4 * (i % max 1 g.mGroups)
def Geo.subs (g : Geo) (i : Nat) : Nat := min 4 (g.mBlocks - g.mb i)

/-- K-blocks of K-step `kk`: first and number (R110, R111, R154). -/
def WorkCmd.stepBlocks (w : WorkCmd) (kk : Nat) : Nat × Nat :=
  (kk * w.cls.bps, min w.cls.bps (w.kb - kk * w.cls.bps))

/-- The A brick of m-block `mb`, K-block `b` is marked zero (R141). -/
def State.aMarked (s : State) (t : Nat) (w : WorkCmd) (mb b : Nat) : Bool :=
  s.mapGet t w.mapA (mb * kUnits w.d0 w.kb + unitOf w.d0 b)

def State.bMarked (s : State) (t : Nat) (w : WorkCmd) (nb b : Nat) : Bool :=
  s.mapGet t w.mapB (nb * kUnits w.d1 w.kb + unitOf w.d1 b)

/-- R143: step (g, kk) of a group is skipped. -/
def State.stepSkipped (s : State) (t : Nat) (w : WorkCmd) (mb nb kk : Nat) : Bool :=
  let (b0, n) := w.stepBlocks kk
  (List.range n).all (fun i => s.aMarked t w mb (b0 + i) || s.bMarked t w nb (b0 + i)) ||
  (w.mapR.isSome && (List.range 32).all (fun r => s.mapGet t w.mapR (32 * mb + r)))

/-- Steps of output group `i` in order (R110), skipped ones left out; a step is kk × 4 + g. -/
def State.groupSteps (s : State) (t : Nat) (a : Active) (i : Nat) : List Nat :=
  let g := a.geo
  (List.range g.kSteps).flatMap (fun kk => (List.range (g.subs i)).filterMap (fun sub =>
    if s.stepSkipped t a.c.cmd (g.mb i + sub) (g.nb i) kk then none else some (kk * 4 + sub)))

/-- R112, R144: length of an output group in tc, stalls apart. -/
def State.groupLen (s : State) (t : Nat) (a : Active) (i : Nat) : Nat :=
  let k := a.c.cmd.cls
  let st := s.groupSteps t a i
  ((List.range a.geo.kSteps).map (fun kk =>
    let n := (st.filter (fun x => x / 4 = kk)).length
    if n = 0 then 0 else max n k.smin * k.q)).foldl (· + ·) 0

/-- A command's progress: output group (or pass) and the next step within it. -/
def progAt (grp st : Nat) : Nat := grp * 2 ^ 20 + st
def Active.grp (a : Active) : Nat := a.prog / 2 ^ 20
def Active.nextStep (a : Active) : Nat := a.prog % 2 ^ 20

/-! ### Feeders (R77, R113, R142, R145, R152) -/

/-- DET 0x09 fires at an index word checked (Table 16.15): the entry takes a bad index in END mode. -/
def State.fireIndex (s : State) (t : Nat) (job : Option (Nat × Nat)) (e : FeedEntry) (sparse : Bool) : State × FeedEntry :=
  if !sparse then (s, e)
  else match s.armed 9 t with
    | none => (s, e)
    | some (_, log) =>
      let s := s.disarm 9 t
      if log then (s.emit { cls := 7, inj := true, job := job, unit := tileAgent t }, e)
      else (s, { e with badIdx := some (e.badIdx.getD 0), injIdx := true })

def State.jobOf (s : State) (t j : Nat) : Option (Nat × Nat) := (s.tilePanel t).map (fun p => (p, j))

/-- Entry of row feeder `r` for step `st` of group `i`. -/
def State.rowEntry (s : State) (t : Nat) (a : Active) (i st r : Nat) : FeedEntry :=
  let w := a.c.cmd
  let g := a.geo
  let mb := g.mb i + st % 4
  let (b0, n) := w.stepBlocks (st / 4)
  let masked := s.mapGet t w.mapR (32 * mb + r)
  joinReads ((unitsIn w.d0 b0 n).map (fun u =>
    if masked || s.mapGet t w.mapA (mb * kUnits w.d0 w.kb + u) then omittedUnit w.d0
    else s.readA w a.c.a.addr (32 * mb + r) u)) st

/-- Entry of column feeder `c` for K-step `kk` of group `i`. -/
def State.colEntry (s : State) (t : Nat) (a : Active) (i kk c : Nat) : FeedEntry :=
  let w := a.c.cmd
  let nb := a.geo.nb i
  let (b0, n) := w.stepBlocks kk
  joinReads ((unitsIn w.d1 b0 n).map (fun u =>
    if s.mapGet t w.mapB (nb * kUnits w.d1 w.kb + u) then omittedUnit w.d1
    else s.readVec w.d1 a.c.b.addr (vecOff w.d1 (32 * nb + c) u))) kk

/-- Key of a feeder entry's step in the command: group and step. -/
def entryKey (i st : Nat) : Nat := progAt i st

/-- Keys of the K-steps among steps, each once. -/
def colKeys (ks : List Nat) : List Nat :=
  ks.foldl (fun l k =>
    let c := entryKey (k / 2 ^ 20) (k % 2 ^ 20 / 4)
    if l.contains c then l else l ++ [c]) []

/-- The first key after those a feeder holds. -/
def nextKey (held : List FeedEntry) (ks : List Nat) : Option Nat :=
  match held.getLast? with
  | none => ks.head?
  | some e => ks.find? (fun k => decide (e.step < k))

/-- FEEDER_FILL: a feeder fills the next step's entry while it has a free one (R113); the steps filled ahead are those of
the output group in progress (log 13). -/
def State.feederFill (s : State) (t : Nat) (col : Bool) (f : Nat) : State :=
  match (s.engine t 0).current with
  | none => s
  | some a =>
    let w := a.c.cmd
    if s.halted || !isArrayOp w.op || isWsOp w.op then s
    else
      let arr := (s.tile t).arr
      let q := if col then arr.colFeed.get [] f else arr.rowFeed.get [] f
      let ks := ((s.groupSteps t a a.grp).map (entryKey a.grp)).filter (fun k => decide (a.prog ≤ k))
      let ks := if col then colKeys (if arr.held.isEmpty then ks
        else ks.filter (fun k => decide ((arr.held.headD {}).step < entryKey (k / 2 ^ 20) (k % 2 ^ 20 / 4)))) else ks
      if 8 ≤ q.length then s
      else match nextKey q ks with
        | none => s
        | some k =>
          let s := s.fireSram t (if col then a.c.b.addr else a.c.a.addr) (s.jobOf t w.slot)
          let e := if col then s.colEntry t a (k / 2 ^ 20) (k % 2 ^ 20) f else s.rowEntry t a (k / 2 ^ 20) (k % 2 ^ 20) f
          let (s, e) := s.fireIndex t (s.jobOf t w.slot) { e with step := k } (aSparse (if col then w.d1 else w.d0))
          s.modArr t (fun x => if col then { x with colFeed := x.colFeed.modify [] f (· ++ [e]) }
            else { x with rowFeed := x.rowFeed.modify [] f (· ++ [e]) })

def execFeederFill (t : Tile) (col : Bool) (i : Fin 32) (s : State) : Host.Outcome State Fault Refusal :=
  .next (s.feederFill t col i)

/-! ### Accumulators and steps (R111, R118, R119, R177 to R181) -/

def zeroAccs : List Acc := List.replicate 1089 {}

/-- Drains that must end before a set is free: any drain of the set, or any wide-shallow drain (R119, R134). -/
def ArrayS.setFree (x : ArrayS) (set : Nat) : Bool := x.drains.all (fun d => !d.ws && decide (d.set ≠ set))

/-- One step's update of all 33 × 33 DPUs in accumulator `k`: `as` are the 32 rows' blocks, `bs` the 32 columns' blocks of
one K-block. -/
def gridUpdate (bf16 sat : Bool) (accs : List Acc) (as bs : List Blk) : List Acc × NFlags :=
  let asum := sumBlk as
  let bsum := sumBlk bs
  let rs := (List.range 1089).map (fun i =>
    let (r, c) := (i / 33, i % 33)
    let acc := accs.getD i {}
    if r < 32 ∧ c < 32 then dpuUpdate bf16 sat acc (as.getD r {}) (bs.getD c {})
    else (chkUpdate acc (if r < 32 then as.getD r {} else asum) (if c < 32 then bs.getD c {} else bsum), {}))
  (rs.map (·.1), gather (rs.map (·.2)))

/-- All K-blocks of a step in increasing K (R111). -/
def gridSteps (bf16 sat : Bool) (accs : List Acc) (rows cols : List FeedEntry) (n : Nat) : List Acc × NFlags :=
  (List.range n).foldl (fun (p : List Acc × NFlags) i =>
    let r := gridUpdate bf16 sat p.1 (rows.map (fun e => e.blks.getD i omitted)) (cols.map (fun e => e.blks.getD i omitted))
    (r.1, p.2.or r.2)) (accs, {})

def Acc.table (x : ArrayS) (k : Nat) : List Acc := let l := x.accs.get [] k; if l.isEmpty then zeroAccs else l

def isBf16 (w : WorkCmd) : Bool := decide (dFmt w.d0 = 8)

/-- An output group begins: it takes the next set and starts its accumulators at +0.0. -/
def ArrayS.beginGroup (x : ArrayS) (subs : Nat) : ArrayS :=
  let set := x.nextSet
  { x with
    grp := some (set, List.replicate subs 0)
    nextSet := 1 - set
    accs := (List.range 4).foldl (fun a g => Table.set a [] (4 * set + g) []) x.accs }

/-- An output group's last step has issued: its drain joins the port's line. -/
def ArrayS.endGroup (x : ArrayS) (a : Active) (i : Nat) : ArrayS :=
  match x.grp with
  | none => x
  | some (set, nU) =>
    let g := a.geo
    { x with
      grp := none
      held := []
      drains := x.drains ++ [{ slot := a.c.cmd.slot, pos := a.c.pos, set := set, group := i, nb := g.nb i, mb := g.mb i,
                               subs := g.subs i, nU := nU }] }

/-- R124: after group `i`, the chunk ends, goes on, or the command has issued its last step. -/
def State.afterGroup (s : State) (t : Nat) (a : Active) (i : Nat) : State :=
  let len := a.chunkLen + s.groupLen t a i
  let a := { a with prog := progAt (i + 1) 0, chunkLen := len }
  if a.geo.groups ≤ i + 1 then
    (s.putActive t 0 { a with issued := true }).modEngine t 0 (fun e => e.stop a.c.cmd.slot)
  else if 512 < len + s.groupLen t a (i + 1) then
    (s.putActive t 0 { a with chunkLen := 0 }).modEngine t 0 (fun e => e.stop a.c.cmd.slot)
  else s.putActive t 0 a

/-- The entries at the heads of the feeders for step `k`, when all hold it. -/
def ArrayS.rowHeads (x : ArrayS) (k : Nat) : Option (List FeedEntry) :=
  let l := (List.range 32).map (fun r => (x.rowFeed.get [] r).head?)
  if l.all (fun e => e.map (·.step) = some k) then some (l.filterMap id) else none

def ArrayS.colHeads (x : ArrayS) (k : Nat) : Option (List FeedEntry) :=
  if !x.held.isEmpty && decide ((x.held.headD {}).step = k) then some x.held
  else
    let l := (List.range 32).map (fun c => (x.colFeed.get [] c).head?)
    if l.all (fun e => e.map (·.step) = some k) then some (l.filterMap id) else none

/-- What a step finds wrong in its entries: a poisoned address or a bad index word, with INJ. -/
def entriesFault (es : List FeedEntry) : Option Event :=
  match (es.filterMap (·.poison)).head? with
  | some a => some { cls := 5, cause := 1, addr := a }
  | none =>
    match es.find? (fun e => e.badIdx.isSome) with
    | some e => some { cls := 7, inj := e.injIdx, detail := e.badIdx.getD 0 }
    | none => none

/-- R538: a poison fault carries INJ when an injection set the poison. -/
def State.markInj (s : State) (e : Event) : Event :=
  if e.cls = 5 then { e with inj := s.poisonInj e.addr 64 } else e

/-- A group's next step with the entries it takes (R115): accumulators, counts, flags, feeder heads released. -/
def State.issueStep (s : State) (t : Nat) (a : Active) (i st : Nat) (rows cols : List FeedEntry) : State :=
  match entriesFault (rows ++ cols) with
  | some e => s.faultCmd t 0 a.c (s.markInj e)
  | none =>
    let w := a.c.cmd
    let x := (s.tile t).arr
    match x.grp with
    | none => s
    | some (set, nU) =>
      let n := (w.stepBlocks (st / 4)).2
      let k := 4 * set + st % 4
      let (accs, f) := gridSteps (isBf16 w) w.sat (Acc.table x k) rows cols n
      let s := s.modArr t (fun x => { x with
        accs := x.accs.set [] k accs
        held := cols
        grp := some (set, nU.set (st % 4) (nU.getD (st % 4) 0 + n))
        rowFeed := x.rowFeed.update [] (fun _ q => if (q.headD {}).step = progAt i st then q.drop 1 else q)
        colFeed := x.colFeed.update [] (fun _ q =>
          if (q.headD {}).step = entryKey i (st / 4) then q.drop 1 else q) })
      let a := { (a.gather f) with prog := progAt i (st + 1) }
      let s := s.putActive t 0 a
      if (s.groupSteps t a i).any (fun k => decide (st < k)) then s
      else (s.modArr t (fun x => x.endGroup a i)).afterGroup t a i

/-- The next step of the group in progress, the group begun first when its set is free; a group without steps goes
straight to its drain (R144). None when the array must wait. -/
inductive StepPlan where
  | wait
  | step (i st : Nat)
  | empty (i : Nat)
deriving DecidableEq, Repr

def State.planStep (s : State) (t : Nat) (a : Active) : StepPlan :=
  let x := (s.tile t).arr
  let i := a.grp
  if a.geo.groups ≤ i then .wait
  else if x.grp.isNone && !x.setFree x.nextSet then .wait
  else match (s.groupSteps t a i).find? (fun k => decide (a.nextStep ≤ k)) with
    | some k => .step i k
    | none => .empty i

def State.ensureGroup (s : State) (t : Nat) (a : Active) : State :=
  s.modArr t (fun x => if x.grp.isNone then x.beginGroup (a.geo.subs a.grp) else x)

/-- Row entries of a step: what the row feeders hold, else (where `fill`) what they would fetch. -/
def State.stepRows (s : State) (t : Nat) (a : Active) (i st : Nat) (fill : Bool) (held : Option (List FeedEntry)) :
    State × Option (List FeedEntry) :=
  match held with
  | some l => (s, some l)
  | none =>
    if fill then
      let s := s.fireSram t a.c.a.addr (s.jobOf t a.c.cmd.slot)
      let l := (List.range 32).map (fun r => { s.rowEntry t a i st r with step := progAt i st })
      let (s, e0) := s.fireIndex t (s.jobOf t a.c.cmd.slot) (l.headD {}) (aSparse a.c.cmd.d0)
      (s, some (e0 :: l.drop 1))
    else (s, none)

/-- Column entries of a step. -/
def State.stepCols (s : State) (t : Nat) (a : Active) (i st : Nat) (fill : Bool) (held : Option (List FeedEntry)) :
    State × Option (List FeedEntry) :=
  match held with
  | some l => (s, some l)
  | none =>
    if fill then
      let l := (List.range 32).map (fun c => { s.colEntry t a i (st / 4) c with step := entryKey i (st / 4) })
      let (s, e0) := s.fireIndex t (s.jobOf t a.c.cmd.slot) (l.headD {}) (aSparse a.c.cmd.d1)
      (s, some (e0 :: l.drop 1))
    else (s, none)

/-- One step of the running square command. `fill` takes entries that the feeders do not hold yet from SRAM first. -/
def State.squareStep (s : State) (t : Nat) (a : Active) (fill : Bool) : State :=
  match s.planStep t a with
  | .wait => s
  | .empty i => ((s.ensureGroup t a).modArr t (fun x => x.endGroup a i)).afterGroup t a i
  | .step i st =>
    let x := (s.tile t).arr
    let r := s.stepRows t a i st fill (x.rowHeads (progAt i st))
    let c := r.1.stepCols t a i st fill (x.colHeads (entryKey i (st / 4)))
    match r.2, c.2 with
    | some rs, some cs => (c.1.ensureGroup t a).issueStep t a i st rs cs
    | _, _ => c.1

/-! ### Wide-shallow (R130 to R136, R148, R156, R186) -/

/-- Active tokens in increasing order (R131). -/
def Active.tokens (a : Active) : List Nat := setPositions a.c.cmd.m a.mask

/-- The B brick of n-block `nb` and unit `u` is marked zero. -/
def Active.marked (a : Active) (nb u : Nat) : Bool := a.marks.contains (nb * kUnits a.c.cmd.d1 a.c.cmd.kb + u)

/-- R148: every n-block marks the K-block. -/
def Active.skipsBlock (a : Active) (b : Nat) : Bool :=
  let w := a.c.cmd
  w.mapB.isSome && (List.range (w.n / 32)).all (fun nb => a.marked nb (unitOf w.d1 b))

/-- K-blocks of pass `p` that are not skipped (R132, R148). -/
def Active.passBlocks (a : Active) (p : Nat) : List Nat :=
  let w := a.c.cmd
  (List.range w.kb).filter (fun b => decide (b / max 1 w.wsd = p) && !a.skipsBlock b)

def WorkCmd.passes (w : WorkCmd) : Nat := ceilDiv w.kb (max 1 w.wsd)

/-- Steps of a pass: per accumulator (dealing round), the pass's blocks in groups of bps. -/
def Active.passSteps (a : Active) (p : Nat) : Nat := ceilDiv (a.passBlocks p).length a.c.cmd.cls.bps
def Active.rounds (a : Active) : Nat := ceilDiv a.tokens.length (wsP a.c.cmd.op)

/-- Length of one weight vector in the store's halves: two passes fit (R133, R156). -/
def Active.fitsHalf (a : Active) (p : Nat) : Bool :=
  let w := a.c.cmd
  let n := (a.passBlocks p).length
  decide ((if aSparse w.d1 then n / 2 else n) * aVec w.d1 ≤ 128)

/-- R133, R156: tc of a pass's weight load. -/
def Active.loadLen (a : Active) (p : Nat) : Nat :=
  let w := a.c.cmd
  let n := (a.passBlocks p).length
  let rate := if 32 < aVec w.d1 then 16 else 32
  ceilDiv (w.n * (if aSparse w.d1 then n / 2 else n)) rate

/-- R132: tc of a pass's compute. -/
def Active.passLen (a : Active) (p : Nat) : Nat := a.rounds * a.passSteps p * a.c.cmd.cls.q

/-- R136: nominal length. -/
def Active.wsLen (a : Active) : Nat :=
  let go := (List.range a.c.cmd.passes).foldl (fun (st : Nat × Nat) p =>
    let (t, _) := st
    let last := t + a.passLen p
    if a.c.cmd.passes ≤ p + 1 then (last, last)
    else if a.fitsHalf p && a.fitsHalf (p + 1) then (max last (t + a.loadLen (p + 1)), last)
    else (last + a.loadLen (p + 1), last)) (a.loadLen 0, 0)
  go.2

/-- Weights of a pass for output column `n`; marked bricks are not read (R142). -/
def State.wsWeights (s : State) (a : Active) (p n : Nat) : VecRead :=
  let w := a.c.cmd
  let us := (a.passBlocks p).foldl (fun l b => if l.contains (unitOf w.d1 b) then l else l ++ [unitOf w.d1 b]) []
  let rs := us.map (fun u =>
    if a.marked (n / 32) u then omittedUnit w.d1 else s.readVec w.d1 a.c.b.addr (vecOff w.d1 n u))
  { blks := rs.flatMap (·.blks), bad := (rs.filterMap (·.bad)).head?, poison := (rs.filterMap (·.poison)).head? }

/-- WEIGHT_LOAD_PASS: the weights of the next pass not yet loaded. -/
def State.weightLoad (s : State) (t : Nat) : State :=
  match (s.engine t 0).current with
  | none => s
  | some a =>
    let w := a.c.cmd
    let x := (s.tile t).arr
    let p := match x.wts.getLast? with | some q => q.1 + 1 | none => a.grp
    if s.halted || !isWsOp w.op || decide (w.passes ≤ p) then s
    else if !(x.wts.isEmpty || (decide (x.wts.length = 1) && a.fitsHalf (p - 1) && a.fitsHalf p)) then s
    else if x.wts.isEmpty && decide (p = 0) && !x.drains.isEmpty then s
    else
      let s := s.fireSram t a.c.b.addr (s.jobOf t w.slot)
      let rs := (List.range w.n).map (fun n => s.wsWeights a p n)
      let e : FeedEntry := joinReads rs 0
      let (s, e) := s.fireIndex t (s.jobOf t w.slot) e (aSparse w.d1)
      match entriesFault [e] with
      | some ev => s.faultCmd t 0 a.c (s.markInj ev)
      | none =>
        s.modArr t (fun x => { x with
          wts := x.wts ++ [(p, rs.map (·.blks))]
          accs := if p = 0 then [] else x.accs })

def execWeightLoadPass (t : Tile) (s : State) : Host.Outcome State Fault Refusal := .next (s.weightLoad t)

/-- One accumulator's update by a step of round `k`: position row `p` serves token `k × P + p`; the visible DPU of row `p`
and column `n` is cell (pQ + n), the checksum DPU of row `p` and column group `h` is (pQ/32 + h, 32). -/
def wsUpdate (w : WorkCmd) (accs : List Acc) (toks : List (Option (List Blk))) (wts : List (List Blk)) (i n : Nat) :
    List Acc × NFlags :=
  let q := wsQ w.op
  let one (st : List Acc × NFlags) (b : Nat) : List Acc × NFlags :=
    let rs : List (Acc × NFlags) := (List.range 1089).map (fun cell =>
      let (r, c) := (cell / 33, cell % 33)
      let acc := st.1.getD cell {}
      if 32 ≤ r then (acc, {})
      else
        let row := if c < 32 then (32 * r + c) / q else r / (q / 32)
        match toks.getD row none with
        | none => (acc, {})
        | some tk =>
          let ab := tk.getD b omitted
          if c < 32 then
            let col := (32 * r + c) % q
            if w.n ≤ col then (acc, {})
            else dpuUpdate (isBf16 w) w.sat acc ab ((wts.getD col []).getD b omitted)
          else
            let h := r % (q / 32)
            if w.n ≤ 32 * h then (acc, {})
            else (chkUpdate acc ab (sumBlk ((List.range 32).map (fun j => (wts.getD (32 * h + j) []).getD b omitted))), {}))
    (rs.map (·.1), st.2.or (gather (rs.map (·.2))))
  (List.range n).foldl (fun st j => one st (i + j)) (accs, {})

/-- The token's vectors for K-blocks of a pass. -/
def State.wsToken (s : State) (a : Active) (p tok : Nat) : VecRead :=
  let w := a.c.cmd
  let rs := (a.passBlocks p).map (fun b => s.readVec w.d0 a.c.a.addr (vecOff w.d0 tok b))
  { blks := rs.flatMap (·.blks), poison := (rs.filterMap (·.poison)).head? }

/-- A wide-shallow command's last step has issued: its drain (R135). -/
def Active.wsDrain (a : Active) : Drain :=
  { slot := a.c.cmd.slot, pos := a.c.pos, ws := true, subs := a.tokens.length,
    nU := [((List.range a.c.cmd.kb).filter (fun b => !a.skipsBlock b)).length] }

/-- A pass without blocks, or its last step done: on to the next pass, or the drain. -/
def State.wsAdvance (s : State) (t : Nat) (a : Active) (p : Nat) : State :=
  let s := s.modArr t (fun x => { x with wts := x.wts.filter (fun q => decide (q.1 ≠ p)) })
  if a.c.cmd.passes ≤ p + 1 then
    let s := s.modArr t (fun x => { x with drains := x.drains ++ [a.wsDrain], nextSet := 0 })
    (s.putActive t 0 { a with prog := progAt (p + 1) 0, issued := true }).modEngine t 0 (fun e => e.stop a.c.cmd.slot)
  else s.putActive t 0 { a with prog := progAt (p + 1) 0 }

/-- One wide-shallow step: all position rows together. -/
def State.wsStep (s : State) (t : Nat) (a : Active) : State :=
  let w := a.c.cmd
  let p := a.grp
  let x := (s.tile t).arr
  match x.wts.find? (fun q => q.1 = p) with
  | none => s
  | some (_, wts) =>
    let steps := a.passSteps p
    if a.rounds * steps ≤ a.nextStep then s.wsAdvance t a p
    else
      let k := a.nextStep / steps
      let i := a.nextStep % steps * w.cls.bps
      let n := min w.cls.bps ((a.passBlocks p).length - i)
      let P := wsP w.op
      let s := s.fireSram t a.c.a.addr (s.jobOf t w.slot)
      let reads := (List.range P).map (fun r => (a.tokens[k * P + r]?).map (fun tok => s.wsToken a p tok))
      match ((reads.filterMap id).filterMap (·.poison)).head? with
      | some ad => s.faultCmd t 0 a.c { cls := 5, cause := 1, addr := ad, inj := s.poisonInj ad 64 }
      | none =>
        let (accs, f) := wsUpdate w (Acc.table x k) (reads.map (fun o => o.map (·.blks))) wts i n
        let s := s.modArr t (fun x => { x with accs := x.accs.set [] k accs })
        let a := { (a.gather f) with prog := a.prog + 1 }
        let s := s.putActive t 0 a
        if a.rounds * steps ≤ a.nextStep then s.wsAdvance t a p else s

/-- ARRAY_STEP_ISSUE: the running command's next step, from entries the feeders hold (R115). -/
def execArrayStepIssue (t : Tile) (s : State) : Host.Outcome State Fault Refusal :=
  .next (if s.halted then s else match (s.engine t 0).current with
    | none => s
    | some a =>
      if isWsOp a.c.cmd.op then s.wsStep t a
      else if isArrayOp a.c.cmd.op then s.squareStep t a false
      else s)

/-! ### Drain (R120 to R122, R135, R183 to R195) -/

def flipBit (v b : Nat) : Nat := if bit v b then v - 2 ^ b else v + 2 ^ b

/-- R194: an armed array injection takes effect as a sub-block's drain begins. -/
def State.fireArray (s : State) (t : Nat) (d : Drain) (k : Nat) : State × Option Bool :=
  match s.armed 2 t with
  | none => (s, none)
  | some (arg, log) =>
    if bits arg 0 3 ≠ d.slot then (s, none)
    else
      let (r, c, b) := (bits arg 3 6, bits arg 9 6, bits arg 15 5)
      let s := s.disarm 2 t
      (s.modArr t (fun x => { x with accs := x.accs.set [] k ((Acc.table x k).modify (r * 33 + c)
        (fun a => { a with v := flipBit a.v b })) }), some log)

/-- Check detail (Table 6.3). -/
def checkDetail (t : Nat) (d : Drain) (sub : Nat) : Nat :=
  t + d.slot * 2 ^ 14 + b2n d.ws * 2 ^ 17 + b2n d.inj.isSome * 2 ^ 18 + b2n d.corner * 2 ^ 19 +
  (if d.ws then 0 else sub * 2 ^ 20 + d.set * 2 ^ 22 + d.group % 2 ^ 16 * 2 ^ 96) + d.rows * 2 ^ 32 + d.cols * 2 ^ 64

/-- R191, R192: a checksum fault that was not injected. -/
def State.suspicion (s : State) (t : Nat) : State :=
  let ev (k : Nat) : Event := { cls := 0x20, cause := k, unit := tileAgent t }
  match (s.tile t).suspect with
  | none => (s.modTile t (fun x => { x with suspect := some s.now, patternDue := true })).emit (ev 5)
  | some t0 =>
    if s.now - t0 ≤ 86400000000000 then
      (s.modTile t (fun x => { x with retire := true, patternDue := true })).emit (ev 7)
    else (s.modTile t (fun x => { x with suspect := some s.now, patternDue := true })).emit (ev 5)

/-- What a drain tc does about failed checks of a finished sub-block: stop (END), record and go on (LOG), or go on. -/
def State.actChecks (s : State) (t : Nat) (a : Active) (d : Drain) (sub : Nat) : State × Bool :=
  if d.rows = 0 ∧ d.cols = 0 ∧ !d.corner then (s, true)
  else
    let e : Event := { cls := 6, detail := checkDetail t d sub, inj := d.inj.isSome, unit := tileAgent t,
                       ring := tileRing t a.c.cmd.slot 0, pos := a.c.pos.toNat }
    match d.inj with
    | some true => (s.emit { e with job := s.jobOf t a.c.cmd.slot }, true)
    | some false => (s.faultCmd t 0 a.c e, false)
    | none => ((s.suspicion t).faultCmd t 0 a.c e, false)

/-- A check's outcome added to a set of failure bits, and the number unmade. -/
def addCheck (st : Nat × Nat) (i : Nat) (r : Option Bool) : Nat × Nat :=
  match r with
  | none => (st.1, st.2 + 1)
  | some true => (st.1 ||| 2 ^ i, st.2)
  | some false => st

def cellRow (l : List Acc) (r n : Nat) : List Acc := (List.range n).map (fun c => l.getD (r * 33 + c) {})
def cellCol (l : List Acc) (c n : Nat) : List Acc := (List.range n).map (fun r => l.getD (r * 33 + c) {})

/-- Updates the drain at the port (the first of its line). -/
def State.putDrain (s : State) (t : Nat) (d : Drain) : State := s.modArr t (fun x => { x with drains := d :: x.drains.drop 1 })

def wFactor (w : WorkCmd) : Nat := if pairClass (dFmt w.d0) (dFmt w.d1) = some 2 then 2 else 1

/-- The drain's command. -/
def State.drainCmd (s : State) (t : Nat) (d : Drain) : Option Active :=
  (s.engine t 0).active.find? (fun a => a.c.cmd.slot = d.slot && a.c.pos = d.pos)

/-- Writes rows `(m, nb, values)` of the command, gathering flags. -/
def State.drainRows (s : State) (t : Nat) (a : Active) (rows : List (Nat × Nat × List Nat)) : State :=
  let (s, f) := rows.foldl (fun (p : State × NFlags) r =>
    let (s, f) := p.1.writeRow a.c.cmd a.c.c.addr r.1 r.2.1 r.2.2
    (s, p.2.or f)) (s, {})
  s.modEngine t 0 (fun e => { e with active := e.active.map (fun x =>
    if x.c.cmd.slot = a.c.cmd.slot ∧ x.c.pos = a.c.pos then x.gather f else x) })

/-- The drain at the port has performed its last write; the command is done when it was its last drain (R122). -/
def State.endDrain (s : State) (t : Nat) (a : Active) : State :=
  let s := s.modArr t (fun x => { x with drains := x.drains.drop 1 })
  let more := (s.tile t).arr.drains.any (fun d => d.slot = a.c.cmd.slot && d.pos = a.c.pos)
  s.modEngine t 0 (fun e => { e with active := e.active.map (fun x =>
    if x.c.cmd.slot = a.c.cmd.slot ∧ x.c.pos = a.c.pos ∧ x.issued ∧ !more then { x with done := true } else x) })

/-- The first tc of a sub-block's drain: an armed injection takes effect, and no check has failed. -/
def State.drainBegin (s : State) (t : Nat) (d : Drain) (k : Nat) : State × Drain :=
  if d.next % 16 = 0 then
    ((s.fireArray t d k).1, { d with rows := 0, cols := 0, corner := false, inj := (s.fireArray t d k).2, cut := false })
  else (s, d)

/-- Checks that a drain tc of accumulator set `l` makes: the two rows, and at the last tc the columns and the corner
(R183 to R186); the drain with them, and how many were not made. -/
def Drain.squareChecks (d : Drain) (w : WorkCmd) (l : List Acc) : Drain × Nat :=
  let r0 := d.next % 16 * 2
  let n := d.nU.getD (d.next / 16) 0
  let f := wFactor w
  let chk (i : Nat) : Option Bool := checkFails f n (cellRow l i 32) (l.getD (i * 33 + 32) {})
  let (rows, un) := addCheck (addCheck (d.rows, 0) r0 (chk r0)) (r0 + 1) (chk (r0 + 1))
  let last := decide (r0 = 30)
  let (cols, un) := if last then
      (List.range 32).foldl (fun st c => addCheck st c (checkFails f n (cellCol l c 32) (l.getD (32 * 33 + c) {}))) (0, un)
    else (0, un)
  let corner := if last then checkFails f n (cellCol l 32 32) (l.getD 1088 {}) else some false
  let un := if corner = none then un + 1 else un
  if d.cut then (d, if last then 65 else 0) else ({ d with rows := rows, cols := cols, corner := corner = some true }, un)

/-- The writes of a drain tc: poison that a partial write would read ends the job; after the last one the drain leaves the
port. -/
def State.drainWrite (s : State) (t : Nat) (a : Active) (d : Drain) (rows : List (Nat × Nat × List Nat)) (last : Bool) : State :=
  match (rows.filterMap (fun r => s.rowPoison a.c.cmd a.c.c.addr r.1 r.2.1)).head? with
  | some ad => s.faultCmd t 0 a.c { cls := 5, cause := 1, addr := ad, inj := s.poisonInj ad 64 }
  | none => if last then (s.drainRows t a rows).endDrain t a else (s.drainRows t a rows).putDrain t d

/-- One drain tc of a square-mode group: two rows. -/
def State.squareDrain (s : State) (t : Nat) (a : Active) (d : Drain) : State :=
  let sub := d.next / 16
  let r0 := d.next % 16 * 2
  let k := 4 * d.set + sub
  let b := s.drainBegin t d k
  let l := Acc.table (b.1.tile t).arr k
  let c := b.2.squareChecks a.c.cmd l
  let d := c.1
  let s := b.1.modTile t (fun x => { x with unmade := x.unmade + c.2 })
  let go := if r0 = 30 then s.actChecks t a d sub else (s, true)
  if !go.2 then go.1
  else
    let m := 32 * (d.mb + sub) + r0
    let vals (r : Nat) : List Nat := (cellRow l r 32).map (·.v)
    go.1.drainWrite t a { d with next := d.next + 1 } [(m, d.nb, vals r0), (m + 1, d.nb, vals (r0 + 1))]
      (decide (d.next + 1 = 16 * d.subs))

/-- Units (token, column group) that a drain tc of a wide-shallow command takes, in the order of R135: token number in
dealing order, position row, column group. -/
def Active.wsUnits (a : Active) (next : Nat) : List (Nat × Nat × Nat) :=
  let hs := a.c.cmd.n / 32
  ([2 * next, 2 * next + 1].filter (fun u => decide (u < a.tokens.length * hs))).map (fun u =>
    (u / max 1 hs, u / max 1 hs % wsP a.c.cmd.op, u % max 1 hs))

/-- Accumulators of a unit and its checksum DPU. -/
def Active.wsAccs (a : Active) (x : ArrayS) (u : Nat × Nat × Nat) : List Acc × Acc :=
  let q := wsQ a.c.cmd.op
  let l := Acc.table x (u.1 / wsP a.c.cmd.op)
  ((List.range 32).map (fun c =>
     let cell := u.2.1 * q + 32 * u.2.2 + c
     l.getD (cell / 32 * 33 + cell % 32) {}),
   l.getD ((u.2.1 * (q / 32) + u.2.2) * 33 + 32) {})

/-- Group checks of R187 that a drain tc makes, and how many were not made. -/
def Active.wsChecks (a : Active) (x : ArrayS) (d : Drain) : Nat × Nat :=
  (a.wsUnits d.next).foldl (fun st u =>
    let (xs, y) := a.wsAccs x u
    addCheck st (u.2.1 * (wsQ a.c.cmd.op / 32) + u.2.2) (checkFails (wFactor a.c.cmd) (d.nU.getD 0 0) xs y)) (0, 0)

/-- One drain tc of a wide-shallow command: two 32-column rows in the order of R135. -/
def State.wsDrainTc (s : State) (t : Nat) (a : Active) (d : Drain) : State :=
  let b : State × Drain := if d.next = 0 then ((s.fireArray t d 0).1, { d with inj := (s.fireArray t d 0).2 }) else (s, d)
  let x := (b.1.tile t).arr
  let c := a.wsChecks x b.2
  let d := if b.2.cut then { b.2 with cut := false } else { b.2 with rows := c.1 }
  let s := b.1.modTile t (fun x => { x with unmade := x.unmade + c.2 })
  let go := s.actChecks t a d 0
  if !go.2 then go.1
  else
    go.1.drainWrite t a { d with next := d.next + 1, rows := 0, inj := if d.rows = 0 then d.inj else none }
      ((a.wsUnits d.next).map (fun u => (a.tokens.getD u.1 0, u.2.2, (a.wsAccs x u).1.map (·.v))))
      (decide (a.tokens.length * (a.c.cmd.n / 32) ≤ 2 * d.next + 2))

/-- ARRAY_DRAIN: one tc of the drain port. -/
def State.drainTc (s : State) (t : Nat) : State :=
  if s.halted then s
  else match (s.tile t).arr.drains with
  | [] => s
  | d :: _ =>
    match s.drainCmd t d with
    | none => s.modArr t (fun x => { x with drains := x.drains.drop 1 })
    | some a => if d.ws then s.wsDrainTc t a d else s.squareDrain t a d

def execArrayDrain (t : Tile) (s : State) : Host.Outcome State Fault Refusal := .next (s.drainTc t)

/-! ### The array opcodes -/

/-- Runs the drain port for at most `n` tc, until nothing waits. -/
def drainAll : Nat → Nat → State → State
  | 0, _, s => s
  | n + 1, t, s => if (s.tile t).arr.drains.isEmpty then s else drainAll n t (s.drainTc t)

/-- Drain tc that clear the port's line. -/
def ArrayS.drainTcs (x : ArrayS) : Nat := (x.drains.map (fun d => if d.ws then 64 * 16 else 16 * d.subs)).foldl (· + ·) 0

/-- One move of the running command: its next step when one can issue, else a tc of the drain port. -/
def State.squareMove (s : State) (t : Nat) (a : Active) : State :=
  match s.planStep t a with
  | .wait => s.drainTc t
  | _ => s.squareStep t a true

/-- Moves of a square command until its chunk ends or a halt stops the tile; `n` bounds them. -/
def squareRun : Nat → Nat → State → State
  | 0, _, s => s
  | n + 1, t, s =>
    if s.halted then s
    else match (s.engine t 0).current with
    | some a => squareRun n t (s.squareMove t a)
    | none => s

/-- Moves enough for the rest of a square command: steps, group ends, and drains. -/
def Active.fuel (a : Active) (x : ArrayS) : Nat := a.geo.groups * (a.geo.kSteps * 4 + 66) + x.drainTcs + 1

/-- The last chunk is followed by the rest of the command's drains. -/
def State.lastDrains (s : State) (t : Nat) (a : Active) : State :=
  if (s.engine t 0).active.any (fun x => x.c.cmd.slot = a.c.cmd.slot && x.c.pos = a.c.pos && x.issued) then
    drainAll ((s.tile t).arr.drainTcs) t s
  else s

/-- A square opcode's row: the running command of that opcode, to its chunk's end. -/
def State.runSquare (s : State) (t op : Nat) : State :=
  if s.halted then s
  else match (s.engine t 0).current with
  | some a => if a.c.cmd.op = op then (squareRun (a.fuel (s.tile t).arr) t s).lastDrains t a else s
  | none => s

def execMm (t : Tile) (s : State) : Host.Outcome State Fault Refusal := .next (s.runSquare t 0x10)
def execMmAcc (t : Tile) (s : State) : Host.Outcome State Fault Refusal := .next (s.runSquare t 0x11)
def execConv (t : Tile) (s : State) : Host.Outcome State Fault Refusal := .next (s.runSquare t 0x12)
def execConvAcc (t : Tile) (s : State) : Host.Outcome State Fault Refusal := .next (s.runSquare t 0x13)

/-- One move of a running wide-shallow command: earlier drains, the pass's weight load, or a step. -/
def State.wsMove (s : State) (t : Nat) (a : Active) : State :=
  let x := (s.tile t).arr
  if a.grp = 0 ∧ x.wts.isEmpty ∧ !x.drains.isEmpty then s.drainTc t
  else if x.wts.any (fun q => q.1 = a.grp) then s.wsStep t a
  else s.weightLoad t

/-- Moves enough for a wide-shallow command: loads, steps, drains before it. -/
def Active.wsFuel (a : Active) (x : ArrayS) : Nat :=
  a.c.cmd.passes * (a.rounds * (a.c.cmd.kb + 1) + 2) + x.drainTcs + 1

def wsRun : Nat → Nat → State → State
  | 0, _, s => s
  | n + 1, t, s =>
    if s.halted then s
    else match (s.engine t 0).current with
    | some a => wsRun n t (s.wsMove t a)
    | none => s

/-- A wide-shallow opcode's row: the running command whole (R136). -/
def State.runWs (s : State) (t op : Nat) : State :=
  if s.halted then s
  else match (s.engine t 0).current with
  | some a => if a.c.cmd.op = op then (wsRun (a.wsFuel (s.tile t).arr) t s).lastDrains t a else s
  | none => s

def execWs8 (t : Tile) (s : State) : Host.Outcome State Fault Refusal := .next (s.runWs t 0x14)
def execWs8Acc (t : Tile) (s : State) : Host.Outcome State Fault Refusal := .next (s.runWs t 0x15)
def execWs2 (t : Tile) (s : State) : Host.Outcome State Fault Refusal := .next (s.runWs t 0x16)
def execWs2Acc (t : Tile) (s : State) : Host.Outcome State Fault Refusal := .next (s.runWs t 0x17)

end Sys2Proof.Machine
end

