-- ==== Sys2Proof/Machine/Take.lean ====
section
/-!
DEFINITION. ENGINE_TAKE_COMMAND: candidates and their choice (R89, R221, R222, R226, R510), conditions and trim (R158 to
R162), CSKIP runs (R233), and the checks an engine makes when it takes a command (R131, R136, R214).
-/
namespace Sys2Proof.Machine

/-- What an engine may take for a slot. -/
inductive Cand where
  | started (a : Active)
  | entry (urg : Bool) (c : Cmd)
deriving DecidableEq, Repr

def Cand.urg : Cand → Bool
  | .started a => a.c.cmd.urg
  | .entry u _ => u

/-- R221, R226, R510: the slot's ready candidate. A waiting control command keeps its slot (R226). -/
def State.candidate (s : State) (t c j : Nat) : Option Cand :=
  let e := s.engine t c
  let susp := match s.tilePanel t with | some p => (s.panel p).susp.getLsbD j | none => true
  if susp then none
  else match e.started j with
    | some a => if isControlOp a.c.cmd.op then none else some (.started a)
    | none =>
      match e.oldest j with
      | some (u, x) => if (s.tile t).waitMet x.cmd then some (.entry u x) else none
      | none => none

/-- R191, R193: a tile whose pattern test is due, or that is marked for retirement, runs no array command. -/
def State.engineOpen (s : State) (t c : Nat) : Bool :=
  !s.halted && decide ((s.engine t c).running = none) &&
  !(decide (c = 0) && ((s.tile t).patternDue || (s.tile t).retire))

/-- R222: the slot the engine takes. -/
def State.choose (s : State) (t c : Nat) : Option (Nat × Cand) :=
  let order := rotate 8 (s.engine t c).engPtr
  let cs := order.filterMap (fun j => (s.candidate t c j).map (fun x => (j, x)))
  (cs.find? (fun x => x.2.urg)).or cs.head?

def Engine.removeEntry (e : Engine) (x : Cmd) : Engine :=
  let keep := fun (y : Cmd) => !(y.cmd.slot = x.cmd.slot && y.pos = x.pos)
  { e with urgent := e.urgent.filter keep, normal := e.normal.filter keep }

/-- The condition's source value (R158, R159); a word that reads poisoned is an error. -/
def State.condValue (s : State) (t : Nat) (w : WorkCmd) : Except Nat Nat :=
  match w.condSrc with
  | 1 => .ok ((s.tile t).ctr w.slot (w.condArg % 64)).val.toNat
  | 2 =>
    let a := winAddr t (w.condArg * 4)
    if s.poisoned a 4 then .error a else .ok (s.readNat 4 a)
  | _ => .ok 1

/-- R158, R161: the command runs, with its effective M; none when it is skipped. -/
def condRuns (w : WorkCmd) (v : Nat) : Option Nat :=
  if w.condSrc = 0 then some w.m
  else if decide (v = 0) != w.condZ then none
  else if w.trim then
    let m := 32 * ceilDiv (min v w.m) 32
    if m = 0 then none else some m
  else some w.m

/-- R131, R136, R148: what a wide-shallow command reads when it is taken, and the checks on it. -/
def State.wsTake (s : State) (t : Nat) (a : Active) : Except Event Active :=
  let w := a.c.cmd
  let mask := match w.maskOff with | some off => s.readNat 8 (winAddr t off) | none => 2 ^ w.m - 1
  let pz := match w.maskOff with | some off => s.poisoned (winAddr t off) 8 | none => false
  let marks := if w.mapB.isSome then (List.range (w.n / 32 * kUnits w.d1 w.kb)).filter (s.mapGet t w.mapB) else []
  let a := { a with mask := mask, marks := marks }
  if pz then .error { cls := 5, cause := 1, addr := winAddr t (w.maskOff.getD 0) }
  else if 2 ^ w.m ≤ mask then .error { cls := 2, cause := 11 }
  else if 512 < a.wsLen then .error { cls := 2, cause := 7 }
  else .ok a

/-- Commands of the slot on the tile that have started and not completed (FENCE, Table 7.9). -/
def State.fenceList (s : State) (t j : Nat) : List (Nat × Count) :=
  (List.range 3).flatMap (fun c => ((s.engine t c).active.filter (fun a => a.c.cmd.slot = j)).map (fun a => (c, a.c.pos)))

/-- Places a taken command among the engine's started ones. -/
def State.addActive (s : State) (t c : Nat) (a : Active) (run : Bool) : State :=
  s.modEngine t c (fun e => { e with active := e.active ++ [a], running := if run then some a.c.cmd.slot else e.running })

/-- A FIFO entry is taken: condition, engine checks, start. -/
def State.start (s : State) (t c : Nat) (x : Cmd) : State :=
  let w := x.cmd
  let g := tileRing t w.slot c
  let s := s.traceTile t { kind := 1, slot := w.slot, eng := c, pos := x.pos.toNat, arg := w.op }
  let a : Active := { c := x, at_ := s.now, effM := w.m }
  if 0 < (s.ring g).cskip then
    (s.modRing g (fun r => { r with cskip := r.cskip - 1 })).addActive t c { a.finish with outcome := 2 } false
  else
    let s := if w.condSrc = 2 then s.fireSram t (winAddr t (w.condArg * 4)) (s.jobOf t w.slot) else s
    match s.condValue t w with
    | .error ad => (s.addActive t c a false).faultCmd t c x { cls := 5, cause := 1, addr := ad, inj := s.poisonInj ad 4 }
    | .ok v =>
      match condRuns w v with
      | none => s.addActive t c { a.finish with outcome := 1 } false
      | some m =>
        let a := { a with effM := m }
        if isControlOp w.op then s.addActive t c { a with fence := s.fenceList t w.slot } false
        else if isWsOp w.op then
          (match s.wsTake t a with
           | .error e => (s.addActive t c a false).faultCmd t c x (s.markInj e)
           | .ok a =>
             if a.tokens.isEmpty then
               (s.modArr t (fun y => { y with nextSet := 0 })).addActive t c { a.finish with chunks := 1 } false
             else s.addActive t c { a with chunks := 1 } true)
        else s.addActive t c { a with chunks := 1 } true

/-- The chosen candidate of slot `j` is taken: a started command begins its next chunk, a FIFO entry starts. -/
def State.takeCand (s : State) (t c j : Nat) : Cand → State
  | .started a =>
    (s.putActive t c { a with chunks := a.chunks + 1, chunkLen := 0 }).modEngine t c
      (fun e => { e with running := some j, engPtr := (j + 1) % 8 })
  | .entry _ x =>
    ((s.modEngine t c (fun e => { (e.removeEntry x) with engPtr := (j + 1) % 8 })).start t c x).noteWaits t c

/-- A ready candidate of the engine is taken; with none the engine idles. -/
def State.takeReady (s : State) (t c : Nat) : State :=
  match s.choose t c with
  | none => s
  | some x => s.takeCand t c x.1 x.2

/-- ENGINE_TAKE_COMMAND: at a command or chunk boundary the engine takes a ready candidate. -/
def State.take (s : State) (t c : Nat) : State :=
  if !s.engineOpen t c then s else (s.noteWaits t c).takeReady t c

def execEngineTakeCommand (t : Tile) (c : EngClass) (s : State) : Host.Outcome State Fault Refusal := .next (s.take t c)

end Sys2Proof.Machine
end

