-- ==== Sys2Proof/Machine/Coherence.lean ====
section
/-!
DEFINITION. The coherence domain (10 R342 to R355): requests of caches, the home agents' transactions and reservations, slices and
snoops, grants, holds, writebacks, accesses outside the caches and atomics.
-/
namespace Sys2Proof.Machine

/-! ### Caches -/

def ageMax : Nat := 255

/-- Set of a host-window cache: 128 sets (the indexing is the model's, log 17). -/
def hwcSet (l : Nat) : Nat := l % 128

/-- The line takes a way: held, or requested. -/
def Line.takes (x : Line) : Bool := decide (x.st ≠ .I) || x.req.isSome

/-- Misses and writebacks outstanding in a tile's cache (R82). -/
def TileS.missCount (t : TileS) : Nat := (t.hwc.filter (fun p => p.2.req.isSome || p.2.wb)).length

def TileS.setLines (t : TileS) (l : Nat) : List (Nat × Line) :=
  t.hwc.filter (fun p => decide (hwcSet p.1 = hwcSet l) && p.2.takes)

def State.modLine (s : State) (w : Holder) (l : Nat) (f : Line → Line) : State := s.setCacheLine w l (f (s.cacheLine w l))

/-- Frees a way of the line's set: the first line there that is neither requested nor in its hold (the choice is the
model's, log 17). M goes to the writeback buffer, E sends an eviction notice, S leaves silently. -/
def State.evictWay (s : State) (t l : Nat) : State :=
  match ((s.tile t).setLines l).find? (fun p => p.2.req.isNone && !p.2.hold && !p.2.wb) with
  | none => s
  | some (k, x) =>
    s.setCacheLine (toHolderTile t) k (match x.st with
      | .M => { x with st := .I, wb := true }
      | .E => { st := .I, req := some .evictE }
      | _ => {})

/-- A tile engine's access to a line that it does not hold as it needs: a COH_REQ is sent, after an eviction when the set
is full, and unless 32 misses and writebacks are outstanding (R82). -/
def State.missLine (s : State) (t l : Nat) (write : Bool) : State :=
  let x := s.cacheLine (toHolderTile t) l
  if x.req.isSome || x.wb || decide (32 ≤ (s.tile t).missCount) then s
  else
    let s := if x.takes || decide (((s.tile t).setLines l).length < 8) then s else s.evictWay t l
    if x.takes || decide (((s.tile t).setLines l).length < 8) then
      let cmd : CohCmd := if write then (if x.st = .S then .upg else .rdU) else .rdS
      s.modLine (toHolderTile t) l (fun x => { x with req := some cmd, nacked := false, age := 0 })
    else s

/-- The line serves the access: held for a read, E or M for a write (R342). -/
def Line.serves (x : Line) (write : Bool) : Bool :=
  x.req.isNone && (if write then decide (x.st = .E ∨ x.st = .M) else decide (x.st ≠ .I))

/-- Bytes of a held line. -/
def Line.bytes (x : Line) (off n : Nat) : List Byte := toBytes n (x.data / 256 ^ off)

/-- A write into a line held in E or M. -/
def Line.put (x : Line) (off : Nat) (bs : List Byte) : Line :=
  { x with st := .M, data := setBits x.data (8 * off) (8 * bs.length) (ofBytes bs),
           pz := x.pz && decide (bs.length < 64) }

/-! ### Codes, slices -/

/-- Requester code (Table 10.4 OWNER). -/
def holderCode : Holder → Nat
  | .tile t => t.val
  | .host h => 0x4000 + h.val

/-- The slice covering a tile (R344). -/
def sliceOf (t : Nat) : SliceId := ⟨Fin.ofNat 40 (tileDie t), Fin.ofNat 16 (tileX t), !leavesNorth t⟩
def sliceKey (s : SliceId) : Nat := s.die.val * 32 + s.col.val * 2 + b2n s.south

def State.slice (s : State) (k : SliceId) : Slice := s.slices.get {} (sliceKey k)
def State.modSlice (s : State) (k : SliceId) (f : Slice → Slice) : State :=
  { s with slices := s.slices.set {} (sliceKey k) (f (s.slice k)) }

/-- Slices of a compute die: dies of die rows 0 and 1 leave northward, 3 and 4 southward, row 2 both ways. -/
def dieSlices (d : Nat) : List SliceId :=
  (List.range 16).flatMap (fun c =>
    (if d / 8 ≤ 2 then [(⟨Fin.ofNat 40 d, Fin.ofNat 16 c, false⟩ : SliceId)] else []) ++
    (if 2 ≤ d / 8 then [(⟨Fin.ofNat 40 d, Fin.ofNat 16 c, true⟩ : SliceId)] else []))

def addTile (l : List Nat) (t : Nat) : List Nat := if l.contains t then l else l ++ [t]

/-- The slice learns of a tile's copy when a grant passes it, and forgets it when its writeback or notice passes. -/
def State.sliceAdd (s : State) (t l : Nat) : State :=
  s.modSlice (sliceOf t) (fun x => { x with ents := x.ents.modify [] l (fun ts => addTile ts t) })
def State.sliceDrop (s : State) (t l : Nat) : State :=
  s.modSlice (sliceOf t) (fun x => { x with ents := x.ents.modify [] l (fun ts => ts.erase t) })

/-! ### Home agents -/

def Home.set (l : Nat) : Nat := l % 131072

def Home.busy (h : Home) (l : Nat) : Bool := (h.txns.get none l).isSome

/-- Directory entries of a line's set, the line's own apart. -/
def Home.ways (h : Home) (l : Nat) : List (Nat × DirEnt) :=
  h.dir.filter (fun p => decide (Home.set p.1 = Home.set l ∧ p.1 ≠ l))

def Home.tracked (h : Home) (l : Nat) : Bool := h.dir.any (fun p => decide (p.1 = l))

/-- Ways a request for the line could take: free ones and those not busy. -/
def Home.wayCount (h : Home) (l : Nat) : Nat :=
  (16 - (h.ways l).length) + ((h.ways l).filter (fun p => !h.busy p.1)).length

def State.modDir (s : State) (h l : Nat) (f : DirEnt → DirEnt) : State :=
  s.modHome h (fun x => { x with dir := x.dir.modify {} l f })
def State.setTrans (s : State) (h l : Nat) (t : Option Trans) : State :=
  s.modHome h (fun x => { x with txns := x.txns.set none l t })

/-- The greater age wins a reservation, then the lower code (R348). -/
def reserve (r : Option (Nat × Nat)) (age code : Nat) : Option (Nat × Nat) :=
  match r with
  | none => some (age, code)
  | some (a, c) => if a < age ∨ (a = age ∧ code < c) then some (age, code) else some (a, c)

def heldByOther (r : Option (Nat × Nat)) (code : Nat) : Bool :=
  match r with | some (_, c) => decide (c ≠ code) | none => false

def unreserve (r : Option (Nat × Nat)) (code : Nat) : Option (Nat × Nat) :=
  match r with | some (a, c) => if c = code then none else some (a, c) | none => none

/-- Snoops a line needs before it can be invalidated, or its owner made a sharer. -/
def dirSnoops (d : DirEnt) (who : Option Holder) (inv : Bool) : List SnoopOut :=
  let k := if inv then SnoopKind.inv else SnoopKind.shr
  let one (w : Holder) : List SnoopOut :=
    if who = some w then [] else match w with
      | .tile t => [⟨.inr (sliceOf t.val), k, false⟩]
      | .host h => [⟨.inl (.host h), k, false⟩]
  match d.owner with
  | some w => one w
  | none =>
    if inv then
      (setPositions 40 d.cdie).flatMap (fun die => (dieSlices die).map (fun sl => ⟨.inr sl, k, false⟩)) ++
      (setPositions 2 d.hdie).flatMap (fun h => one (toHolderHost h))
    else []

/-- NACK with the counter of HST_COH_STAT. -/
def State.nack (s : State) (h l reason : Nat) (who : Holder) : State :=
  ({ s with nacks := s.nacks ++ [(who, l, reason)] }).modHost (h / 8)
    (fun x => { x with nacks := satAdd 0xFFFF x.nacks 1 })

/-- Reason a COH_REQ is answered NACK (R347 step 1, R348). -/
def State.nackReason (s : State) (h l code : Nat) : Option Nat :=
  let x := s.home h
  let d := x.dir.get {} l
  if x.busy l || heldByOther d.res code then some 0
  else if 256 ≤ x.txns.length ∨ (255 ≤ x.txns.length ∧ heldByOther x.tableRes code = true) then some 1
  else if x.tracked l then none
  else
    let n := x.wayCount l
    let r := x.setRes.get none (Home.set l)
    if n = 0 ∨ (n = 1 ∧ heldByOther r code = true) then some 2 else none

/-- Keeps a NACKed request's reservation. -/
def State.keepRes (s : State) (h l reason age code : Nat) : State :=
  s.modHome h (fun x => match reason with
    | 0 => { x with dir := x.dir.modify {} l (fun d => { d with res := reserve d.res age code }) }
    | 1 => { x with tableRes := reserve x.tableRes age code }
    | _ => { x with setRes := x.setRes.modify none (Home.set l) (fun r => reserve r age code) })

/-- The reserved request arrived. -/
def State.dropRes (s : State) (h l code : Nat) : State :=
  s.modHome h (fun x => { x with
    dir := x.dir.modify {} l (fun d => { d with res := unreserve d.res code })
    tableRes := unreserve x.tableRes code
    setRes := x.setRes.modify none (Home.set l) (fun r => unreserve r code) })

/-- Recency of an entry (R343). -/
def State.touch (s : State) (h l : Nat) : State :=
  s.modHome h (fun x => { x with clock := x.clock + 1, dir := x.dir.modify {} l (fun d => { d with used := x.clock + 1 }) })

/-- The least recently used entry of the set that is not busy. -/
def Home.victim (h : Home) (l : Nat) : Option Nat :=
  let c := (h.ways l).filter (fun p => !h.busy p.1)
  match c with
  | [] => none
  | p :: r => some (r.foldl (fun (b : Nat × DirEnt) q => if q.2.used < b.2.used then q else b) p).1

/-- A full set starts the eviction of its least recently used entry. -/
def State.makeWay (s : State) (h l : Nat) : State :=
  let x := s.home h
  if x.tracked l ∨ (x.ways l).length < 16 then s
  else match x.victim l with
    | none => s
    | some v => s.setTrans h v (some { kind := .evict, snoops := dirSnoops (x.dir.get {} v) none true, memDone := true })

/-! ### Atomics (Table 10.5, R354) -/

def atomicNew (op : AtomicOp) (wide : Bool) (old v cmp : Nat) : Nat :=
  let n := if wide then 64 else 32
  let m := 2 ^ n
  let (o, v, c) := (old % m, v % m, cmp % m)
  match op with
  | .add => (o + v) % m
  | .swap => v
  | .cas => if o = c then v else o
  | .and => o &&& v
  | .or => o ||| v
  | .xor => o ^^^ v
  | .min => if signed n o < signed n v then o else v
  | .max => if signed n v < signed n o then o else v
  | .minu => min o v
  | .maxu => max o v

def atomicSize (wide : Bool) : Nat := if wide then 8 else 4

def State.respond (s : State) (rq : MemReq) (r : Resp) (data : List Byte) : State :=
  { s with rsps := s.rsps ++ [⟨rq.src, rq.tag.toNat, r, data⟩] }

/-- Bytes a request touches. -/
def opSize : MemOp → Nat
  | .read n => n
  | .write bs => bs.length
  | .atomic _ w _ _ => atomicSize w

def opWrites : MemOp → Bool | .read _ => false | _ => true

/-- Performs a request on memory and sends its response: poisoned data stops a read or an atomic, not a write. -/
def State.perform (s : State) (rq : MemReq) : State :=
  match rq.op with
  | .read n =>
    let r := s.readResp rq.addr n
    s.respond rq r (if r = .ok then s.readBytes n rq.addr else List.replicate n 0)
  | .write bs =>
    let r := s.writeResp rq.addr bs.length
    (if r = .ok then s.writeBytes rq.addr bs else s).respond rq r []
  | .atomic op w v c =>
    let n := atomicSize w
    let r := s.readResp rq.addr n
    if r = .ok then
      let old := s.readNat n rq.addr
      (s.writeNat n rq.addr (atomicNew op w old v c)).respond rq .ok (toBytes n old)
    else s.respond rq r (List.replicate n 0)

/-- R282: an unmapped access is recorded; an atomic counts as a write. -/
def State.recordUnmapped (s : State) (u : Agent) (a : Nat) (write : Bool) : State :=
  s.emit { cls := 0x14, cause := if write then 2 else 1, unit := u, addr := a }

/-! ### The end of a transaction (R347 step 4) -/

/-- Whether every answer a transaction waits for is in. -/
def Trans.ready (t : Trans) : Bool :=
  t.snoops.isEmpty && (t.memDone || t.dirty.isSome || (match t.kind with | .grant _ .upg => true | _ => false))

/-- Sharer bits once the owner became a sharer. -/
def DirEnt.shareOwner (d : DirEnt) (kept : Bool) : DirEnt :=
  match d.owner with
  | none => d
  | some w =>
    if !kept then { d with owner := none }
    else match w with
      | .tile t => { d with owner := none, cdie := d.cdie ||| 2 ^ tileDie t.val }
      | .host h => { d with owner := none, hdie := d.hdie ||| 2 ^ h.val }

def DirEnt.addSharer (d : DirEnt) (w : Holder) : DirEnt :=
  match w with
  | .tile t => { d with cdie := d.cdie ||| 2 ^ tileDie t.val }
  | .host h => { d with hdie := d.hdie ||| 2 ^ h.val }

def State.sendGrant (s : State) (h l : Nat) (who : Holder) (cmd : CohCmd) (kept : Bool) : State :=
  let d := ((s.home h).dir.get {} l).shareOwner kept
  let data := s.readNat 64 (64 * l)
  let alone := decide (d.owner = none ∧ d.cdie = 0 ∧ d.hdie = 0)
  let (g, d') : Grant × DirEnt := match cmd with
    | .rdS => if alone then (.exclusive data, { d with owner := some who }) else (.shared data, d.addSharer who)
    | .upg => (if (s.cacheLine who l).st = .S then .upgraded else .exclusive data, { d with owner := some who, cdie := 0, hdie := 0 })
    | _ => (.exclusive data, { d with owner := some who, cdie := 0, hdie := 0 })
  let s := { (s.modDir h l (fun _ => d')) with grants := s.grants ++ [(who, l, g)] }
  let s := match who with | .tile t => s.sliceAdd t.val l | .host _ => s
  s.touch h l

def State.finish (s : State) (h l : Nat) (t : Trans) : State :=
  let s := match t.dirty with | some v => s.writeNat 64 (64 * l) v | none => s
  let s := s.setTrans h l none
  match t.kind with
  | .grant who cmd => s.sendGrant h l who cmd t.kept
  | .access rq =>
    let s := if opWrites rq.op then s.modDir h l (fun d => { d with owner := none, cdie := 0, hdie := 0 })
      else s.modDir h l (fun d => d.shareOwner t.kept)
    (s.perform rq).touch h l
  | .evict =>
    (s.modDir h l (fun _ => {})).modHost (h / 8) (fun x => { x with devict := satAdd 0xFFFF x.devict 1 })

/-- A grant waits for its way. -/
def Home.hasWay (x : Home) (l : Nat) (t : Trans) : Bool :=
  match t.kind with
  | .grant .. => x.tracked l || decide ((x.ways l).length < 16)
  | _ => true

/-- Ends a transaction of the line that is ready, then, when a way came free, one that waited for it. -/
def State.settle (s : State) (h l : Nat) : State :=
  let x := s.home h
  match x.txns.get none l with
  | none => s
  | some t =>
    if t.ready && x.hasWay l t then
      let s := s.finish h l t
      if t.kind = .evict then
        let y := s.home h
        match y.txns.find? (fun p => match p.2 with
          | some u => decide (Home.set p.1 = Home.set l) && u.ready && y.hasWay p.1 u
          | none => false) with
        | some (k, some u) => s.finish h k u
        | _ => s
      else s
    else s

/-! ### COH_REQ (R347, R348, R352) -/

/-- A request of this cache for this line is on its way to the home agent, and nothing has answered it. -/
def State.requestOut (s : State) (h l : Nat) (cmd : CohCmd) (age : Nat) (who : Holder) : Bool :=
  let x := s.cacheLine who l
  let sent := match who with | .tile _ => decide (x.req = some cmd ∧ x.age = age) && !x.nacked | .host d => decide ((s.host d).cstate = 0) && (x.req.isNone || (decide (x.req = some cmd) && !x.nacked))
  sent && s.homeOf (64 * l) = h && isCoherent (64 * l) &&
  !(match (s.home h).txns.get none l with | some t => (match t.kind with | .grant w _ => decide (w = who) | _ => false) | none => false) &&
  s.grants.all (fun g => !(g.1 = who && g.2.1 = l)) && s.nacks.all (fun g => !(g.1 = who && g.2.1 = l))

/-- EvictE: the entry forgets a clean owner. -/
def State.evictNotice (s : State) (h l : Nat) (who : Holder) : State :=
  let s := s.modLine who l (fun x => { x with req := none, st := .I, hold := false })
  let s := match who with | .tile t => s.sliceDrop t.val l | .host _ => s
  if !(s.home h).busy l && decide (((s.home h).dir.get {} l).owner = some who) then
    s.modDir h l (fun d => { d with owner := none })
  else s

/-- The command served: an Upg of a cache no longer recorded as a sharer is served as RdU. -/
def servedCmd (d : DirEnt) (cmd : CohCmd) (who : Holder) : CohCmd :=
  if cmd = .upg then
    (if (match who with | .tile t => bit d.cdie (tileDie t.val) | .host h => bit d.hdie h.val) || decide (d.owner = some who) then .upg else .rdU)
  else cmd

/-- A request of a host die's caches stands in them from here on: no row of the table sends it. -/
def State.hostAsks (s : State) (l : Nat) (cmd : CohCmd) (age : Nat) (who : Holder) : State :=
  match who with
  | .host _ => s.modLine who l (fun x => { x with req := some cmd, age := age })
  | .tile _ => s

/-- A transaction that will grant line `l` begins, with the snoops its directory entry asks for. -/
def State.openGrant (s : State) (h l : Nat) (cmd : CohCmd) (who : Holder) : State :=
  let d := (s.home h).dir.get {} l
  let c := servedCmd d cmd who
  let sn := dirSnoops d (some who) (decide (c ≠ .rdS))
  let kept := decide (d.owner = some who)
  (s.setTrans h l (some { kind := .grant who c, snoops := sn, kept := kept && decide (c = .rdS) })).settle h l

/-- COH_REQ: a request reaches its home agent (R347, R348). -/
def State.cohReq (s : State) (h l : Nat) (cmd : CohCmd) (age : Nat) (who : Holder) : State :=
  if !s.requestOut h l cmd age who then s
  else
    let s := s.hostAsks l cmd age who
    if cmd = .evictE then s.evictNotice h l who
    else match s.nackReason h l (holderCode who) with
    | some r => (s.keepRes h l r age (holderCode who)).nack h l r who
    | none => ((s.dropRes h l (holderCode who)).makeWay h l).openGrant h l cmd who

def execCohReq (h : HomeId) (line : Nat) (cmd : CohCmd) (age : BitVec 8) (who : Holder) (s : State) :
    Host.Outcome State Fault Refusal := .next (s.cohReq h line cmd age.toNat who)

/-- HOME_MEMORY_READ_DONE. -/
def State.memRead (s : State) (h l : Nat) : State :=
  match (s.home h).txns.get none l with
  | some t => (s.setTrans h l (some { t with memDone := true })).settle h l
  | none => s

def execHomeMemoryReadDone (h : HomeId) (line : Nat) (s : State) : Host.Outcome State Fault Refusal :=
  .next (s.memRead h line)

/-! ### Snoops (R345, R349, R350, R351) -/

def State.rspOut (s : State) (src : Holder ⊕ SliceId) (l : Nat) : Option SnoopRsp :=
  (s.snpRsps.find? (fun p => decide (p.1 = src ∧ p.2.1 = l))).map (·.2.2)

def State.pushRsp (s : State) (src : Holder ⊕ SliceId) (l : Nat) (r : SnoopRsp) : State :=
  { s with snpRsps := s.snpRsps ++ [(src, l, r)] }
def State.popRsp (s : State) (src : Holder ⊕ SliceId) (l : Nat) (r : SnoopRsp) : State :=
  { s with snpRsps := s.snpRsps.erase (src, l, r) }

/-- The home agent of the line has a snoop of this kind out to the unit. -/
def State.snoopOut (s : State) (dst : Holder ⊕ SliceId) (l : Nat) (k : SnoopKind) : Bool :=
  match (s.home (s.homeOf (64 * l))).txns.get none l with
  | some t => t.snoops.any (fun x => decide (x.dst = dst ∧ x.kind = k) && !x.held) && (s.rspOut dst l).isNone
  | none => false

/-- The requester of the transaction, which is not snooped. -/
def State.requester (s : State) (l : Nat) : Option Holder :=
  match (s.home (s.homeOf (64 * l))).txns.get none l with
  | some t => (match t.kind with | .grant w _ => some w | _ => none)
  | none => none

/-- SLICE_SNOOP: a slice takes a snoop; without a copy it answers Inv at once. -/
def State.sliceSnoop (s : State) (sl : SliceId) (l : Nat) (k : SnoopKind) : State :=
  let x := s.slice sl
  if !s.snoopOut (.inr sl) l k || (x.txns.get none l).isSome then s
  else
    let ts := (x.ents.get [] l).filter (fun t => decide (s.requester l ≠ some (toHolderTile t)))
    if ts.isEmpty then s.pushRsp (.inr sl) l .inv
    else s.modSlice sl (fun x => { x with txns := x.txns.set none l (some { kind := k, waits := ts }) })

def execSliceSnoop (sl : SliceId) (line : Nat) (k : SnoopKind) (s : State) : Host.Outcome State Fault Refusal :=
  .next (s.sliceSnoop sl line k)

/-- A cache's answer and its line afterwards. -/
def Line.snoop (x : Line) (k : SnoopKind) : SnoopRsp × Line :=
  if x.wb then ((match k with | .inv => .invData x.data | .shr => .shrData x.data), x)
  else if x.req.isSome || x.hold then (.hold, x)
  else match k, x.st with
    | _, .I => (.inv, x)
    | .inv, .M => (.invData x.data, {})
    | .inv, _ => (.inv, {})
    | .shr, .M => (.shrData x.data, { x with st := .S })
    | .shr, _ => (.shr, { x with st := .S })

/-- CACHE_SNOOP: of a tile, from its slice; of a host die, from the home agent. A snoop waits behind a grant (R350). -/
def State.cacheSnoop (s : State) (who : Holder) (l : Nat) (k : SnoopKind) : State :=
  let due := match who with
    | .tile t => !s.frozen && (match (s.slice (sliceOf t.val)).txns.get none l with
        | some x => x.waits.contains t.val && decide (x.kind = k)
        | none => false)
    | .host _ => s.snoopOut (.inl who) l k
  if !due || (s.rspOut (.inl who) l).isSome || s.grants.any (fun g => g.1 = who && g.2.1 = l) then s
  else
    let (r, x) := (s.cacheLine who l).snoop k
    (s.setCacheLine who l x).pushRsp (.inl who) l r

def execCacheSnoop (who : Holder) (line : Nat) (k : SnoopKind) (s : State) : Host.Outcome State Fault Refusal :=
  .next (s.cacheSnoop who line k)

/-- What a tile's answer changes at its slice. -/
def SliceTxn.take (x : SliceTxn) (t : Nat) (r : SnoopRsp) : SliceTxn :=
  let x := { x with waits := x.waits.erase t }
  match r with
  | .inv => x
  | .shr => { x with shared := true }
  | .invData d => { x with dirty := some d }
  | .shrData d => { x with dirty := some d, shared := true }
  | .hold => { x with hold := true }

/-- The slice's one answer. -/
def SliceTxn.answer (x : SliceTxn) : SnoopRsp :=
  if x.hold then .hold
  else match x.dirty, x.shared with
    | some d, true => .shrData d
    | some d, false => .invData d
    | none, true => .shr
    | none, false => .inv

def leaves : SnoopRsp → Bool | .inv | .invData _ => true | _ => false

/-- SLICE_SNOOP_RSP: a tile's answer reaches its slice; the last one sends the combined answer. -/
def State.sliceSnoopRsp (s : State) (sl : SliceId) (l : Nat) (t : Nat) (r : SnoopRsp) : State :=
  match (s.slice sl).txns.get none l with
  | none => s
  | some x =>
    if !(x.waits.contains t) || decide (s.rspOut (.inl (toHolderTile t)) l ≠ some r) then s
    else
      let s := s.popRsp (.inl (toHolderTile t)) l r
      let s := if leaves r then s.modSlice sl (fun y => { y with ents := y.ents.modify [] l (fun ts => ts.erase t) }) else s
      let x := x.take t r
      if x.waits.isEmpty then
        (s.modSlice sl (fun y => { y with txns := y.txns.set none l none })).pushRsp (.inr sl) l x.answer
      else s.modSlice sl (fun y => { y with txns := y.txns.set none l (some x) })

def execSliceSnoopRsp (sl : SliceId) (line : Nat) (t : Tile) (r : SnoopRsp) (s : State) :
    Host.Outcome State Fault Refusal := .next (s.sliceSnoopRsp sl line t r)

/-- What an answer changes in a transaction. -/
def Trans.take (t : Trans) (src : Holder ⊕ SliceId) (r : SnoopRsp) : Trans :=
  match r with
  | .hold => { t with snoops := t.snoops.map (fun x => if x.dst = src then { x with held := true } else x) }
  | r =>
    let t := { t with snoops := t.snoops.filter (fun x => decide (x.dst ≠ src)) }
    match r with
    | .shr => { t with kept := true }
    | .invData d => { t with dirty := some d }
    | .shrData d => { t with dirty := some d, kept := true }
    | _ => t

/-- HOME_SNOOP_RSP. -/
def State.homeSnoopRsp (s : State) (h l : Nat) (src : Holder ⊕ SliceId) (r : SnoopRsp) : State :=
  match (s.home h).txns.get none l with
  | none => s
  | some t =>
    if !(t.snoops.any (fun x => decide (x.dst = src) && !x.held)) || decide (s.rspOut src l ≠ some r) then s
    else
      let s := s.popRsp src l r
      let s := if r = .hold then s.modHost (h / 8) (fun x => { x with holds := satAdd 0xFFFF x.holds 1 }) else s
      (s.setTrans h l (some (t.take src r))).settle h l

def execHomeSnoopRsp (h : HomeId) (line : Nat) (src : Holder ⊕ SliceId) (r : SnoopRsp) (s : State) :
    Host.Outcome State Fault Refusal := .next (s.homeSnoopRsp h line src r)

/-- HOME_SNOOP_RESEND (R347 step 3): a snoop answered Hold goes out again. -/
def State.resend (s : State) (h l : Nat) (dst : Holder ⊕ SliceId) : State :=
  match (s.home h).txns.get none l with
  | none => s
  | some t => s.setTrans h l (some { t with snoops := t.snoops.map (fun x => if x.dst = dst then { x with held := false } else x) })

def execHomeSnoopResend (h : HomeId) (line : Nat) (dst : Holder ⊕ SliceId) (s : State) : Host.Outcome State Fault Refusal :=
  .next (s.resend h line dst)

/-! ### Grants, NACKs, writebacks at the cache -/

/-- The part of a stopped tile that handles the message does not run. -/
def State.cacheStopped (s : State) (who : Holder) : Bool := match who with | .tile _ => s.frozen | .host _ => false

/-- COH_GRANT_RECEIVE: the line is installed; E starts its hold window (R349). -/
def Line.install (x : Line) (g : Grant) (pz : Bool) : Line :=
  match g with
  | .shared d => { st := .S, data := d, pz := pz }
  | .exclusive d => { st := .E, data := d, hold := true, pz := pz }
  | .upgraded => { st := .E, data := x.data, hold := true, pz := x.pz }

def State.grantReceive (s : State) (who : Holder) (l : Nat) (g : Grant) : State :=
  if s.cacheStopped who || !(s.grants.contains (who, l, g)) then s
  else
    let s := { s with grants := s.grants.erase (who, l, g) }
    s.modLine who l (fun x => x.install g (s.poisoned (64 * l) 64))

def execCohGrantReceive (who : Holder) (line : Nat) (g : Grant) (s : State) : Host.Outcome State Fault Refusal :=
  .next (s.grantReceive who line g)

/-- CACHE_HOLD_EXPIRY. -/
def execCacheHoldExpiry (who : Holder) (line : Nat) (s : State) : Host.Outcome State Fault Refusal :=
  .next (if s.cacheStopped who then s else s.modLine who line (fun x => { x with hold := false }))

/-- COH_NACK_RECEIVE: the request waits to be retried. -/
def State.nackReceive (s : State) (who : Holder) (l reason : Nat) : State :=
  if s.cacheStopped who || !(s.nacks.contains (who, l, reason)) then s
  else ({ s with nacks := s.nacks.erase (who, l, reason) }).modLine who l (fun x => { x with nacked := true })

def execCohNackReceive (who : Holder) (line : Nat) (reason : Fin 3) (s : State) : Host.Outcome State Fault Refusal :=
  .next (s.nackReceive who line reason.val)

/-- COH_RETRY: the request goes out again with its AGE one greater; a stopped tile's cache sends none (R600). -/
def execCohRetry (who : Holder) (line : Nat) (s : State) : Host.Outcome State Fault Refusal :=
  .next (if (match who with | .tile _ => s.halted | .host _ => false) || !(s.cacheLine who line).nacked then s
    else s.modLine who line (fun x => { x with nacked := false, age := min ageMax (x.age + 1) }))

/-- RESERVATION_EXPIRY: the 2 µs of R348 passed. -/
def execReservationExpiry (h : HomeId) (r : Reservation) (s : State) : Host.Outcome State Fault Refusal :=
  .next (s.modHome h (fun x => match r with
    | .line l => if x.busy l then x else { x with dir := x.dir.modify {} l (fun d => { d with res := none }) }
    | .table => { x with tableRes := none }
    | .set n => { x with setRes := x.setRes.set none n none }))

/-- WRITEBACK (R351): always acknowledged; written only while the entry names the sender as owner. A host die's caches
write back a line they hold in E or M. -/
def State.writeback (s : State) (h l : Nat) (who : Holder) (data : Nat) : State :=
  let x := s.cacheLine who l
  let out := match who with
    | .tile _ => x.wb && decide (x.data = data) && s.wbAcks.all (fun a => !(a = (who, l)))
    | .host _ => decide (x.st = .E ∨ x.st = .M) && !x.wb
  if !out || decide (s.homeOf (64 * l) ≠ h) then s
  else
    let s := match who with
      | .host _ => s.modLine who l (fun x => { x with st := .I, wb := true, data := data % 2 ^ 512 })
      | .tile t => s.sliceDrop t.val l
    let s := if ((s.home h).dir.get {} l).owner = some who then
        (s.writeLine l (data % 2 ^ 512) x.pz).modDir h l (fun d => { d with owner := none })
      else s
    { s with wbAcks := s.wbAcks ++ [(who, l)] }

def execWriteback (h : HomeId) (line : Nat) (who : Holder) (data : Nat) (s : State) : Host.Outcome State Fault Refusal :=
  .next (s.writeback h line who data)

/-- WRITEBACK_ACK_RECEIVE: the buffer frees. -/
def State.wbAck (s : State) (who : Holder) (l : Nat) : State :=
  if s.cacheStopped who || !(s.wbAcks.contains (who, l)) then s
  else ({ s with wbAcks := s.wbAcks.erase (who, l) }).modLine who l
    (fun x => { x with wb := false, data := if x.st = LineState.I then 0 else x.data, pz := x.pz && decide (x.st ≠ LineState.I) })

def execWritebackAckReceive (who : Holder) (line : Nat) (s : State) : Host.Outcome State Fault Refusal :=
  .next (s.wbAck who line)

/-! ### Accesses outside the caches (R293, R354, R355) -/

/-- The part of a request that falls in one line. -/
def reqInLine (rq : MemReq) (l : Nat) : MemReq :=
  let lo := max rq.addr (64 * l)
  let hi := min (rq.addr + opSize rq.op) (64 * l + 64)
  { rq with addr := lo, op := match rq.op with
    | .read _ => .read (hi - lo)
    | .write bs => .write ((bs.drop (lo - rq.addr)).take (hi - lo))
    | op => op }

/-- LPDDR5X package of a T2 address: 16 × die + package (R340). -/
def lpddrPkg (a : Nat) : Nat := 16 * (a / 2 ^ 40) + a % 2 ^ 40 / 256 % 16

def State.modPkg (s : State) (k : Nat) (f : Pkg → Pkg) : State :=
  s.modHost (k / 16) (fun x => { x with pkgs := x.pkgs.modify {} (k % 16) f })

/-- An uncorrectable read is counted. -/
def State.countUe (s : State) (k : Nat) : State := s.modPkg k (fun x => { x with uecnt := satAdd 0xFF x.uecnt 1 })

/-- A package's first uncorrectable error or training failure is recorded (R577). -/
def State.packageFails (s : State) (k : Nat) : State :=
  if ((s.host (k / 16)).pkgs.get {} (k % 16)).failed then s
  else (s.modPkg k (fun x => { x with failed := true })).emit
    { cls := 0x18, cause := 3, unit := hostAgent (k / 16), detail := k }

/-- What a package's code found on a read of `a` (R341, R577): counted; uncorrectable data is poisoned. -/
def State.lpddrCode (s : State) (a : Nat) (e : CodeErr) : State :=
  match regionOf a, e with
  | .lpddr _, .correctable => s.modPkg (lpddrPkg a) (fun x => { x with cecnt := satAdd 0xFFFF x.cecnt 1 })
  | .lpddr _, .uncorrectable => ((s.countUe (lpddrPkg a)).setPoison (a / 32 * 32)).packageFails (lpddrPkg a)
  | _, _ => s

/-- An armed DET 0x04 fires at a read of its package; an injected error decides no repair (R538). -/
def State.fireLpddr (s : State) (a : Nat) (job : Option (Nat × Nat)) : State :=
  match regionOf a with
  | .lpddr _ =>
    let two := (match s.armed 4 (lpddrPkg a) with | some (arg, log) => decide (arg = 1) && !log | none => false)
    let (s, ce) := s.fireMem 4 (lpddrPkg a) a job
    if ce then s.lpddrCode a .correctable else if two then s.countUe (lpddrPkg a) else s
  | _ => s

/-- An access starts at its home agent, line by line; a line being served makes it wait in the request class. -/
def State.homeAccess (s : State) (h : Nat) (rq : MemReq) (e : CodeErr) : State :=
  let ls := linesOf rq.addr (opSize rq.op)
  let unit := hostAgent (h / 8)
  if opSize rq.op = 0 || !isCoherent rq.addr || s.homeOf rq.addr ≠ h || ls.any (fun l => s.lineBusy l) ||
     256 < (s.home h).txns.length + ls.length then s
  else if !s.mapped rq.addr || !s.mapped (rq.addr + opSize rq.op - 1) then
    (s.recordUnmapped unit rq.addr (opWrites rq.op)).respond rq .unmapped (List.replicate (match rq.op with | .write _ => 0 | o => opSize o) 0)
  else
    let s := match rq.op with
      | .write _ => s
      | _ => (s.lpddrCode rq.addr e).fireLpddr rq.addr (rq.job.map (fun j => (j.1.val, j.2.val)))
    ls.foldl (fun s l =>
      let d := (s.home h).dir.get {} l
      (s.setTrans h l (some { kind := .access (reqInLine rq l), snoops := dirSnoops d none (opWrites rq.op), memDone := true })).settle h l) s

def execHomeNoncohAccess (h : HomeId) (rq : MemReq) (e : CodeErr) (s : State) : Host.Outcome State Fault Refusal :=
  .next (match rq.op with | .atomic .. => s | _ => s.homeAccess h rq e)

/-- HOME_ATOMIC: of a naturally aligned target (R354). -/
def execHomeAtomic (h : HomeId) (rq : MemReq) (s : State) : Host.Outcome State Fault Refusal :=
  .next (match rq.op with
    | .atomic _ w _ _ => if rq.addr % atomicSize w = 0 then s.homeAccess h rq .clean else s
    | _ => s)

end Sys2Proof.Machine
end

