-- ==== Sys2Proof/Machine/Memory.lean ====
section
/-!
DEFINITION. Memory agents: HBM codes and failing channels (09 R311, R312), the tile's remote agent (03 R75, R76, R83), the
sill's accesses (R354), the reduction engine (11 R372 to R382), staging windows (09 R304 to R309).
-/
namespace Sys2Proof.Machine

/-! ### Faults of several jobs -/

/-- Running jobs of a panel. -/
def State.liveJobs (s : State) (p : Nat) : List (Nat × Nat) :=
  (List.range 8).filterMap (fun j => if s.running p j then some (p, j) else none)

/-- A fault that ends every job of some panels: one record for each job, or one record without a job (log 18). -/
def State.faultJobs (s : State) (js : List (Nat × Nat)) (e : Event) : State :=
  if js.isEmpty then s.emit e else js.foldl (fun s j => s.faultJob j.1 j.2 e) s

/-! ### HBM in service (R311, R312) -/

/-- ns in 24 h. -/
def dayNs : Nat := 86400000000000

/-- A channel becomes failing: FAILMAP, its record, the end of the owning panel's jobs. -/
def State.channelFails (s : State) (k c : Nat) : State :=
  let st := s.stack k
  if bit st.failmap c || bit st.outmap c then s
  else
    let s := s.modStack k (fun x => { x with failmap := x.failmap ||| 2 ^ c })
    let q := 2 * k + c / 16
    let js := match s.spanPanel q with | some p => s.liveJobs p | none => []
    s.faultJobs js { cls := 0x18, cause := 1, unit := sillAgent k, detail := 32 * k + c }

/-- A corrected symbol error: counted, and the 1,001st within 24 h fails the channel; an injected one counts only in
CECNT. -/
def State.hbmCorrected (s : State) (k c : Nat) (inj : Bool) : State :=
  let s := s.modStack k (fun x => { x with
    cecnt := satAdd 0xFFFF x.cecnt 1
    ce24 := if inj then x.ce24 else x.ce24.modify [] c (fun l => s.now :: l.filter (fun t => decide (s.now < t + dayNs))) })
  if !inj && decide (1000 < ((s.stack k).ce24.get [] c).length) then s.channelFails k c else s

/-- What the symbol code found on a read of HBM address `a`. -/
def State.hbmCode (s : State) (a : Nat) (e : CodeErr) : State :=
  match regionOf a with
  | .hbm q off =>
    let g := (s.hbmChannel q off).1
    (match e with
     | .clean => s
     | .correctable => s.hbmCorrected (g / 32) (g % 32) false
     | .uncorrectable => (s.setPoison (a / 32 * 32)).channelFails (g / 32) (g % 32))
  | _ => s

/-- Armed injections of the memory that holds `a` fire at a read of it (Table 16.15, DET 0x01, 0x03, 0x04). -/
def State.fireRead (s : State) (a : Nat) (job : Option (Nat × Nat)) : State :=
  match regionOf a with
  | .window t _ => s.fireSram t a job
  | .hbm q off =>
    let g := (s.hbmChannel q off).1
    let (s, ce) := s.fireMem 3 g a job
    if ce then s.hbmCorrected (g / 32) (g % 32) true else s
  | .lpddr _ => s.fireLpddr a job
  | _ => s

def rqJob (rq : MemReq) : Option (Nat × Nat) := rq.job.map (fun j => (j.1.val, j.2.val))

/-- An atomic's target is naturally aligned (R354). -/
def rqAligned (rq : MemReq) : Bool := match rq.op with | .atomic _ w _ _ => decide (rq.addr % atomicSize w = 0) | _ => true

/-- Zeros that a refused read carries. -/
def zerosFor (rq : MemReq) : List Byte := match rq.op with | .write _ => [] | o => List.replicate (opSize o) 0

/-! ### Remote agent (R75, R76, R83, R354) -/

/-- What a SEC-DED code found on a read of a tile's SRAM at physical address `a`. -/
def State.sramCode (s : State) (t a : Nat) (e : CodeErr) : State :=
  match e with
  | .clean => s
  | .correctable => s.modTile t (fun x => x.addCorrected (a % winSize))
  | .uncorrectable => s.setPoison (a / 8 * 8)

/-- REMOTE_AGENT_REQUEST. A misaligned atomic changes nothing and is answered ERR (log 19). -/
def State.remoteAgent (s : State) (t : Nat) (rq : MemReq) (e : CodeErr) : State :=
  let n := opSize rq.op
  if s.frozen || !within rq.addr n (winAddr t 0) winSize || decide (n = 0) then s
  else if !s.mapped (rq.addr + n - 1) then
    let r : Resp := match rq.op, rq.src with
      | .write _, .tile _ => .unmapped
      | .write _, _ => .ok
      | _, _ => .unmapped
    (s.recordUnmapped (tileAgent t) rq.addr (opWrites rq.op)).respond rq r (zerosFor rq)
  else if !rqAligned rq then s.respond rq .errOther (zerosFor rq)
  else
    let s := match rq.op with
      | .write _ => s
      | _ => (s.sramCode t rq.addr e).fireSram t rq.addr (rqJob rq)
    match rq.op with
    | .write _ => s.perform rq
    | _ => if s.poisoned rq.addr n then s.respond rq .errOther (zerosFor rq) else s.perform rq

def execRemoteAgentRequest (t : Tile) (rq : MemReq) (e : CodeErr) (s : State) : Host.Outcome State Fault Refusal :=
  .next (s.remoteAgent t rq e)

/-! ### Sill (R282, R311, R312, R317, R354) -/

/-- SILL_HBM_REQUEST. -/
def State.sillRequest (s : State) (k : Nat) (rq : MemReq) (e : CodeErr) : State :=
  let n := opSize rq.op
  match regionOf rq.addr with
  | .hbm q _ =>
    if q / 2 ≠ k ∨ n = 0 then s
    else if !s.mapped rq.addr || !s.mapped (rq.addr + n - 1) then
      (s.recordUnmapped (sillAgent k) rq.addr (opWrites rq.op)).respond rq .unmapped (zerosFor rq)
    else if !rqAligned rq then s.respond rq .errOther (zerosFor rq)
    else
      let s := match rq.op with
        | .write _ => s
        | _ => if s.hbmDown rq.addr then s else (s.hbmCode rq.addr e).fireRead rq.addr (rqJob rq)
      s.perform rq
  | _ => s

def execSillHbmRequest (k : Sill) (rq : MemReq) (e : CodeErr) (s : State) : Host.Outcome State Fault Refusal :=
  .next (s.sillRequest k rq e)

/-! ### Reduction engine -/

/-- R380, R383: why a packet or read of `n` elements at `addr` is refused. -/
def rtRefuse (e addr n : Nat) : Option Nat :=
  if !rtValid e then some 1
  else if addr < rtBase e ∨ rtBase e + 6 * rtCount e < addr + 6 * n then some 2
  else if (addr - rtBase e) % 24 ≠ 0 then some 3
  else none

/-- Status of a contribution: OF, NF, greatest exponent. -/
structure RStat where
  of : Bool := false
  nf : Bool := false
  maxe : Option Int := none
deriving DecidableEq, Repr

def maxOpt (a b : Option Int) : Option Int :=
  match a, b with
  | some x, some y => some (max x y)
  | some x, none => some x
  | none, y => y

def RStat.or (a b : RStat) : RStat := ⟨a.of || b.of, a.nf || b.nf, maxOpt a.maxe b.maxe⟩

/-- R376: contribution of an FP32 value. -/
def contribution (e : Nat) (g : Nat) : Int × RStat :=
  match val32 g with
  | .num s m ex =>
    if m = 0 then (0, {})
    else
      let st : RStat := { maxe := some (expOf m ex) }
      let v := roundTo .rne m ex (rtX e)
      if 2 ^ (47 - rtG e) ≤ v then (0, { st with of := true }) else (sgn s v, st)
  | _ => (0, { nf := true })

/-- Status merged into an entry (R379): OR for OF and NF, maximum for MAXE. -/
def rtMerge (e : Nat) (st : RStat) : Nat :=
  let e := setBits e 128 1 (b2n (rtOF e || st.of))
  let e := setBits e 129 1 (b2n (rtNF e || st.nf))
  match maxOpt (if rtMval e then some (rtMaxe e) else none) st.maxe with
  | some x => setBits (setBits e 130 1 1) 136 10 (unsigned 10 x)
  | none => e

/-- R377: adds modulo 2^48. -/
def State.addElem (s : State) (a : Nat) (v : Int) : State :=
  s.writeNat 6 a (unsigned 48 (signed 48 (s.readNat 6 a) + v))

/-- R382: the arm of one entry. -/
def rtArm (e : Nat) : Nat :=
  let x := if rtAuto e && rtMval e then min 127 (max (-256) (rtMaxe e + 1 + rtMargin e - 47 + rtG e)) else rtX e
  let e := setBits e 96 10 (unsigned 10 x)
  setBits (setBits e 128 3 0) 136 10 0

/-- DET 0x0E (Table 16.15) at the next contribution to an entry. -/
def State.fireReduction (s : State) (p rtid j : Nat) : State × Option RStat :=
  let tgt := 4096 * p + rtid
  match s.armed 0x0E tgt with
  | none => (s, none)
  | some (arg, log) =>
    let s := (s.disarm 0x0E tgt).emit { cls := 0x20, cause := 18, inj := true, job := some (p, j), unit := .manager, detail := 0x0E + tgt * 2 ^ 32 }
    (s, if log then none else some (if arg = 0 then { nf := true } else { of := true }))

/-- The mover transaction of a tile that carries the packet. -/
def State.caccTxn (s : State) (p : CaccPacket) : Option (Nat × Txn) :=
  match p.src with
  | .tile t => ((s.tile t).txns.find? (fun x => decide (x.slot = p.slot.val) && (match x.work with
      | .cacc _ _ _ a => decide (a = p.addr) | _ => false))).map (fun x => (t.val, x))
  | _ => none

/-- The job that sent a packet ends with a reduction fault (R380). -/
def State.caccFault (s : State) (p : CaccPacket) (cause : Nat) : State :=
  let ev : Event := { cls := 0x0A, cause := cause, addr := p.addr, detail := p.rtid.val, unit := p.src }
  match s.caccTxn p with
  | some (t, x) => s.faultCmd t 2 { cmd := { hdr := p.slot.val * 2 ^ 9 }, pos := x.pos } ev
  | none => s.faultJob p.panel p.slot ev

/-- A packet's elements are added and its status merged. -/
def State.caccApply (s : State) (p : CaccPacket) : State :=
  let e := (s.panel p.panel).rtab.get 0 p.rtid.val
  if p.kind1 then
    let s := p.vals.zipIdx.foldl (fun s v => s.addElem (p.addr + 6 * v.2) (signed 48 v.1)) s
    let st : RStat := ⟨p.cof, p.cnf, if p.cmv then some p.cmaxe else none⟩
    s.modPanel p.panel (fun q => { q with rtab := q.rtab.set 0 p.rtid.val (rtMerge e st) })
  else
    let (s, forced) := s.fireReduction p.panel p.rtid.val p.slot
    let cs := p.vals.zipIdx.map (fun v => match forced, v.2 with
      | some st, 0 => ((0 : Int), st)
      | _, _ => contribution e v.1)
    let s := cs.zipIdx.foldl (fun s v => s.addElem (p.addr + 6 * v.2) v.1.1) s
    let st := cs.foldl (fun a v => a.or v.2) ({} : RStat)
    s.modPanel p.panel (fun q => { q with rtab := q.rtab.set 0 p.rtid.val (rtMerge e st) })

/-- CACC_RECEIVE: a packet reaches the engine that holds its entry. -/
def State.caccReceive (s : State) (p : CaccPacket) : State :=
  let e := (s.panel p.panel).rtab.get 0 p.rtid.val
  let s := { s with caccs := s.caccs.erase p }
  match rtRefuse e p.addr p.vals.length with
  | some c => s.caccFault p c
  | none =>
    if s.writeResp p.addr (6 * p.vals.length) = .ok then s.caccApply p
    else
      let (cl, k) := errCause p.addr (s.writeResp p.addr (6 * p.vals.length))
      match s.caccTxn p with
      | some (t, x) => s.faultCmd t 2 { cmd := { hdr := p.slot.val * 2 ^ 9 }, pos := x.pos } { cls := cl, cause := k, addr := p.addr }
      | none => s.faultJob p.panel p.slot { cls := cl, cause := k, addr := p.addr, unit := p.src }

def execCaccReceive (p : CaccPacket) (s : State) : Host.Outcome State Fault Refusal := .next (s.caccReceive p)

/-! ### Staging windows -/

def lineSize : Nat := 65536

/-- Base of the staging window of span `q` (R305). -/
def State.stageBase (s : State) (q wl : Nat) : Nat := spanAddr q + s.spanMapped q - wl * lineSize

def State.modStage (s : State) (p q : Nat) (f : StageWin → StageWin) : State :=
  s.modPanel p (fun x => { x with stage := x.stage.modify {} q f })

/-- The window holds line `n`, not stale. -/
def StageWin.has (w : StageWin) (wl n : Nat) : Bool := decide (w.held.get none (n % wl) = some (n, false))
def StageWin.filling (w : StageWin) (n : Nat) : Bool := (w.fills ++ w.queue).any (fun f => f.line = n)

/-- Fills start while fewer than 16 are in progress: demand before prefetch, each in arrival order (R308). -/
def StageWin.startFills : Nat → StageWin → StageWin
  | 0, w => w
  | n + 1, w =>
    if 16 ≤ w.fills.length then w
    else match (w.queue.find? (fun f => !f.prefetch)).or w.queue.head? with
      | some f => StageWin.startFills n { w with fills := w.fills ++ [f], queue := w.queue.erase f }
      | none => w

/-- A demand fill of line `n`; a prefetch of it still waiting becomes the demand fill. -/
def StageWin.demand (w : StageWin) (n : Nat) : StageWin :=
  if w.fills.any (fun f => f.line = n) then w
  else { w with queue := w.queue.filter (fun f => f.line ≠ n) ++ [⟨n, false, false⟩] }

def StageWin.prefetch (w : StageWin) (wl n pf : Nat) : StageWin :=
  (List.range pf).foldl (fun w i =>
    let m := n + 1 + i
    if w.has wl m || w.filling m || decide (2 ^ 25 ≤ m) then w else { w with queue := w.queue ++ [⟨m, true, false⟩] }) w

/-- A staged read waits, among the 256 or in the request class. -/
def StageWin.wait (w : StageWin) (x : StagedWait) : StageWin :=
  if w.waits.length < 256 then { w with waits := w.waits ++ [x] } else { w with class_ := w.class_ ++ [x] }

/-- Serves a staged read from the window: the data, or how it failed, goes to its mover transaction. -/
def State.serveStaged (s : State) (q wl : Nat) (x : StagedWait) : State :=
  let a := s.stageBase q wl + x.addr / lineSize % wl * lineSize + x.addr % lineSize
  let s := s.fireRead a ((s.spanPanel q).map (fun p => (p, x.slot)))
  let r := s.readResp a x.len
  let bs := if r = .ok then s.readBytes x.len a else []
  s.modTile x.tile (fun t => { t with txns := t.txns.map (fun y =>
    if y.tag = x.tag then { y with waiting := false, data := bs, bad := r } else y) })

/-- A staged read is judged at its window: served, or made to wait on a fill (R306, R307). -/
def State.stagedArrive (s : State) (p q : Nat) (rd : StagedWait) : State :=
  let wl := (s.panel p).wl
  let n := rd.addr / lineSize
  if ((s.panel p).stage.get {} q).has wl n then s.serveStaged q wl rd
  else s.modStage p q (fun w => (((w.demand n).prefetch wl n (s.panel p).pf).wait rd).startFills 16)

/-- STAGED_READ: a mover's read through a TIER 4 segment reaches its window; `addr` is the T2 address (R306, R307). -/
def State.stagedRead (s : State) (t slot addr len tag : Nat) : State :=
  match s.tilePanel t, (s.tile t).txns.find? (fun x => decide (x.tag = tag)) with
  | some p, some x =>
    let q := tileSpan t
    let wl := (s.panel p).wl
    let w := (s.panel p).stage.get {} q
    let rd : StagedWait := ⟨t, slot, addr, len, tag⟩
    if !(x.staged && x.waiting) || decide (x.slot ≠ slot) || decide (wl = 0) || (w.waits ++ w.class_).contains rd then s
    else s.stagedArrive p q rd
  | _, _ => s

def execStagedRead (t : Tile) (slot : Slot) (addr len : Nat) (tag : BitVec 8) (s : State) : Host.Outcome State Fault Refusal :=
  .next (s.stagedRead t slot addr len tag.toNat)

/-- The fill's data: T2 as it stands now, read coherently, with its poison. -/
def State.fillLine (s : State) (q wl n : Nat) : State :=
  let src := n * lineSize
  let dst := s.stageBase q wl + n % wl * lineSize
  let (bs, s) := s.cohRead lineSize src
  let pz := (List.range (lineSize / 32)).filter (fun i => s.poisoned (src + 32 * i) 32)
  let s := s.writeBytes dst bs
  pz.foldl (fun s i => s.setPoison (dst + 32 * i)) s

/-- STAGING_FILL_COMPLETE: the line is written, its reads served in arrival order, further fills start. A stale fill
serves its reads and leaves the set not held (R309). Reads of the request class then reach the window as others left. -/
def State.fillDone (s : State) (q n : Nat) : State :=
  match s.spanPanel q with
  | none => s
  | some p =>
    let wl := (s.panel p).wl
    match ((s.panel p).stage.get {} q).fills.find? (fun f => f.line = n) with
    | none => s
    | some f =>
      let s := s.fillLine q wl n
      let w := (s.panel p).stage.get {} q
      let mine := w.waits.filter (fun x => x.addr / lineSize = n)
      let w' : StageWin := { w with
        held := w.held.set none (n % wl) (some (n, f.stale))
        fills := w.fills.erase f
        queue := w.queue.filter (fun g => g.line ≠ n)
        waits := w.waits.filter (fun x => x.addr / lineSize ≠ n)
        class_ := w.class_.drop mine.length }
      let s := s.modStage p q (fun _ => w'.startFills 16)
      let s := mine.foldl (fun s x => s.serveStaged q wl x) s
      (w.class_.take mine.length).foldl (fun s x => s.stagedArrive p q x) s

def execStagingFillComplete (q : SpanId) (line : Nat) (s : State) : Host.Outcome State Fault Refusal :=
  .next (s.fillDone q line)

/-- R309: every held line and every fill in progress becomes stale. -/
def Panel.invalidateStaging (p : Panel) : Panel :=
  { p with stage := p.stage.update {} (fun _ w => { w with
      held := w.held.update none (fun _ h => h.map (fun x => (x.1, true)))
      fills := w.fills.map (fun f => { f with stale := true }) }) }

/-- SEG_STAGE_STAT.INVB. -/
def Panel.invBusy (p : Panel) : Bool := p.stage.any (fun w => w.2.fills.any (fun f => f.stale))

end Sys2Proof.Machine
end

