-- ==== Sys2Proof/Machine/HostCore.lean ====
section
/-!
DEFINITION. Host cores and inbound I/O: the matrix extension (10 R334 to R339), plumb groups (17 R550, R551), inbound device
requests and the sideband (10 R357 to R359, 20 R631). Address translation of the cores is not modelled: a register's value
is a physical address (log 22).
-/
namespace Sys2Proof.Machine

/-! ### Traps of Xtvmx (RISC-V privileged specification codes) -/

def illegalInst : Nat := 2
def virtualInst : Nat := 22

def State.trap (s : State) (c cause tval : Nat) : State := s.modCore c (fun x => { x with trap := some (cause, tval) })

/-- Host die of a core, its group, and whether it belongs to one (R550). -/
def coreDie (c : Nat) : Nat := c / 72
def HostCore.grouped (x : HostCore) : Bool := bit x.tvplumb 0
def HostCore.group (x : HostCore) : Nat := bits x.tvplumb 1 3

def plumbKey (h g : Nat) : Nat := h * 8 + g

/-- Members of a group, in ascending hart index. -/
def State.plumbMembers (s : State) (h g : Nat) : List Nat :=
  (List.range 72).filterMap (fun i =>
    let c := 72 * h + i
    if (s.core c).grouped && decide ((s.core c).group = g) then some c else none)

/-- R551, R361: the core runs, and holds its group's turn when it has one. -/
def State.mayRetire (s : State) (c : Nat) : Bool :=
  let x := s.core c
  decide ((s.host (coreDie c)).cstate = 0) &&
  (!x.grouped || decide (s.plumb.get none (plumbKey (coreDie c) x.group) = some c))

def HostCore.xreg (x : HostCore) (r : BitVec 5) : Nat := if r = 0 then 0 else (x.x.get 0 r.toNat).toNat
def HostCore.vreg (x : HostCore) (r : Nat) : Nat := (x.v.get 0 r).toNat

def accKey (acc i j : Nat) : Nat := acc * 1024 + i * 32 + j
def HostCore.elem (x : HostCore) (acc i j : Nat) : Nat := (x.acc.get 0 (accKey acc i j)).toNat
def HostCore.setElem (x : HostCore) (acc i j v : Nat) : HostCore :=
  { x with acc := x.acc.set 0 (accKey acc i j) (BitVec.ofNat 32 v) }

/-- Writing an accumulator sets MS to Dirty (R334). -/
def HostCore.dirty (x : HostCore) : HostCore := { x with ms := 3 }

/-- Runs an Xtvmx instruction on a core: MS Off or a bad field is illegal (R334, R335). -/
def State.runMx (s : State) (c : Nat) (legal : Bool) (f : State → State) : State :=
  if !s.mayRetire c then s
  else if (s.core c).ms = 0 || !legal then s.trap c illegalInst 0
  else f s

def grid32 : List (Nat × Nat) := (List.range 32).flatMap (fun i => (List.range 32).map (fun j => (i, j)))

/-- mx.zero -/
def execMxZero (c : CoreId) (rd rs1 rs2 : BitVec 5) (s : State) : Host.Outcome State Fault Refusal :=
  .next (s.runMx c (decide (rd.toNat < 4 ∧ rs1 = 0 ∧ rs2 = 0)) (fun s =>
    s.modCore c (fun x => (grid32.foldl (fun x p => x.setElem rd.toNat p.1 p.2 0) x).dirty)))

/-! ### Outer products (R336) -/

def fNX : Nat := 1
def fUF : Nat := 2
def fOF : Nat := 4
def fNV : Nat := 16

def isSnan (f : Fmt) (c : Nat) : Bool := (f.decode c).isNan && !bit c (f.manBits - 1)

/-- IEEE 754 flags of one rounding of exact `v` to FP32 code `r`, tininess detected after rounding. -/
def fp32Flags (v : Val) (r : Nat) : Nat :=
  match v with
  | .num _ m e =>
    if m = 0 then 0
    else
      let ovf := (val32 r).isFinite = false
      let inexact := ovf || !(v.eq (val32 r))
      let n := roundTo .rne m e (expOf m e - 23)
      let tiny := decide (expOf n (expOf m e - 23) < -126)
      (if inexact then fNX else 0) + (if ovf then fOF else 0) + (if inexact && tiny then fUF else 0)
  | _ => 0

/-- One element: acc ± a × b, exact, rounded once; flags. -/
def mxElem (neg : Bool) (acc a b : Nat) : Nat × Nat :=
  let (x, y, z) := (fmtBF16.decode a, fmtBF16.decode b, val32 acc)
  let p := if neg then (x.mul y).negate else x.mul y
  let v := p.add z
  let r := (rne32 false v).1
  let ins := isSnan fmtBF16 a || isSnan fmtBF16 b || isSnan fmtFP32 acc
  let made := (p.isNan && !(x.isNan || y.isNan)) || (v.isNan && !(p.isNan || z.isNan))
  (r, if ins || made then fNV else fp32Flags v r)

def HostCore.outer (x : HostCore) (neg : Bool) (acc vs1 vs2 : Nat) : HostCore :=
  let a := x.vreg vs1
  let b := x.vreg vs2
  let es := grid32.map (fun p => (p, mxElem neg (x.elem acc p.1 p.2) (bits a (16 * p.1) 16) (bits b (16 * p.2) 16)))
  let y := es.foldl (fun (y : HostCore) e => y.setElem acc e.1.1 e.1.2 e.2.1) x
  { y.dirty with fflags := es.foldl (fun f e => f ||| e.2.2) x.fflags }

/-- mx.opa -/
def execMxOpa (c : CoreId) (rd rs1 rs2 : BitVec 5) (s : State) : Host.Outcome State Fault Refusal :=
  .next (s.runMx c (decide (rd.toNat < 4)) (fun s => s.modCore c (fun x => x.outer false rd.toNat rs1.toNat rs2.toNat)))

/-- mx.opn -/
def execMxOpn (c : CoreId) (rd rs1 rs2 : BitVec 5) (s : State) : Host.Outcome State Fault Refusal :=
  .next (s.runMx c (decide (rd.toNat < 4)) (fun s => s.modCore c (fun x => x.outer true rd.toNat rs1.toNat rs2.toNat)))

/-! ### Rows in memory (R330, R337) -/

/-- Table 10.2 permits the access of `n` bytes at `a`; the registers take only single words, so a row there faults. -/
def State.coreMay (s : State) (a n : Nat) : Bool :=
  match regionOf a with
  | .lpddr _ | .hbm .. | .window .. | .pool _ => s.mapped a && s.mapped (a + n - 1)
  | _ => false

def rowAddr (base stride i : Nat) : Nat := (base + i * stride) % 2 ^ 64

/-- mx.ld: misaligned operands, then rows in order; a row that cannot be read leaves the accumulator. -/
def State.mxLd (s : State) (c acc base stride : Nat) : State :=
  if base % 128 ≠ 0 then s.trap c 4 base
  else if stride % 128 ≠ 0 then s.trap c 4 ((base + stride) % 2 ^ 64)
  else match (List.range 32).find? (fun i => let a := rowAddr base stride i; !s.coreMay a 128 || decide (s.readResp a 128 ≠ .ok)) with
  | some i => s.trap c 5 (rowAddr base stride i)
  | none =>
    (List.range 32).foldl (fun s i =>
      let (bs, s) := s.cohRead 128 (rowAddr base stride i)
      let w := ofBytes bs
      s.modCore c (fun x => ((List.range 32).foldl (fun x j => x.setElem acc i j (bits w (32 * j) 32)) x).dirty)) s

def execMxLd (c : CoreId) (rd rs1 rs2 : BitVec 5) (s : State) : Host.Outcome State Fault Refusal :=
  .next (s.runMx c (decide (rd.toNat < 4)) (fun s => s.mxLd c rd.toNat ((s.core c).xreg rs1) ((s.core c).xreg rs2)))

/-- Stores rows in order until one faults; each value as given by `conv`, `n` bytes a row. -/
def State.storeRows (s : State) (c acc base stride n : Nat) (conv : Nat → List Byte) : List Nat → State
  | [] => s
  | i :: r =>
    let a := rowAddr base stride i
    if s.coreMay a n && decide (s.writeResp a n = .ok) then
      (s.cohWrite a ((List.range 32).flatMap (fun j => conv ((s.core c).elem acc i j)))).storeRows c acc base stride n conv r
    else s.trap c 7 a

def State.mxStore (s : State) (c acc base stride n : Nat) (conv : Nat → List Byte) : State :=
  if base % n ≠ 0 then s.trap c 6 base
  else if stride % n ≠ 0 then s.trap c 6 ((base + stride) % 2 ^ 64)
  else s.storeRows c acc base stride n conv (List.range 32)

/-- mx.st -/
def execMxSt (c : CoreId) (rd rs1 rs2 : BitVec 5) (s : State) : Host.Outcome State Fault Refusal :=
  .next (s.runMx c (decide (rd.toNat < 4)) (fun s =>
    s.mxStore c rd.toNat ((s.core c).xreg rs1) ((s.core c).xreg rs2) 128 (toBytes 4)))

def toBF16 (v : Nat) : List Byte := toBytes 2 (fmtBF16.convert false .rne (val32 v)).1

/-- mx.stb -/
def execMxStb (c : CoreId) (rd rs1 rs2 : BitVec 5) (s : State) : Host.Outcome State Fault Refusal :=
  .next (s.runMx c (decide (rd.toNat < 4)) (fun s =>
    s.mxStore c rd.toNat ((s.core c).xreg rs1) ((s.core c).xreg rs2) 64 toBF16))

/-- mx.mvr (R338) -/
def HostCore.mvr (x : HostCore) (vd row acc : Nat) : HostCore :=
  let half (h : Nat) : BitVec 512 := BitVec.ofNat 512
    ((List.range 16).foldl (fun w j => w + x.elem acc (row % 32) (16 * h + j) * 2 ^ (32 * j)) 0)
  { x with v := (x.v.set 0 vd (half 0)).set 0 (vd + 1) (half 1), vsDirty := true }

def execMxMvr (c : CoreId) (rd rs1 rs2 : BitVec 5) (s : State) : Host.Outcome State Fault Refusal :=
  .next (s.runMx c (decide (rs2.toNat < 4 ∧ rd.toNat % 2 = 0 ∧ (s.core c).vstart = 0)) (fun s =>
    s.modCore c (fun x => x.mvr rd.toNat (x.xreg rs1) rs2.toNat)))

/-! ### Plumb groups (R550, R551) -/

def State.setTurn (s : State) (h g : Nat) (c : Option Nat) : State := { s with plumb := s.plumb.set none (plumbKey h g) c }

/-- A write of tvplumb by M or S mode; other modes trap (R502). A membership change gives the next turn of both groups
to the lowest member; a member's write ends its turn. -/
def State.writeTvplumb (s : State) (c v : Nat) (mode : HartMode) : State :=
  if !s.mayRetire c then s
  else match mode with
  | .vs | .vu => s.trap c virtualInst 0
  | .u => s.trap c illegalInst 0
  | _ =>
    let old := s.core c
    let s := s.modCore c (fun x => { x with tvplumb := v % 16 })
    let h := coreDie c
    let lowest (s : State) (g : Nat) : State := s.setTurn h g (s.plumbMembers h g).head?
    let s := if old.grouped then lowest s old.group else s
    if (s.core c).grouped then lowest s (s.core c).group else s

def execTvplumbWrite (c : CoreId) (v : BitVec 64) (mode : HartMode) (s : State) : Host.Outcome State Fault Refusal :=
  .next (s.writeTvplumb c v.toNat mode)

/-- PLUMB_TURN_END: the turn passes to the next higher member, or wraps to the lowest. -/
def State.turnEnd (s : State) (h g : Nat) : State :=
  match s.plumb.get none (plumbKey h g) with
  | none => s
  | some c => s.setTurn h g (((s.plumbMembers h g).find? (fun d => decide (c < d))).or (s.plumbMembers h g).head?)

def execPlumbTurnEnd (h : HostDie) (g : Fin 8) (why : TurnEnd) (s : State) : Host.Outcome State Fault Refusal :=
  .next (match why with | .pause | .wfi | .retired4096 => s.turnEnd h g)

/-! ### Inbound requests (R358, R359, R365) -/

def ioRq (h : Nat) (op : MemOp) (a : Nat) : MemReq := ⟨hostAgent h, none, a, op, 0⟩

/-- An inbound request that is not allowed: Unsupported Request for a read, a posted write discarded, and a record. -/
def State.refuseIo (s : State) (h cause rid a : Nat) (op : MemOp) : State :=
  let s := s.emit { cls := 0x16, cause := cause, unit := hostAgent h, addr := a, detail := rid }
  match op with
  | .write _ => s
  | _ => s.respond (ioRq h op a) .errOther []

/-- PCIE_INBOUND_REQUEST: T2 and the IMSICs only; coherent under R355. The atomics of PCIe are not in Table 10.7 and are
refused as a target that is not permitted (log 23). A line being served makes the request wait. -/
def State.inbound (s : State) (rp rid : Nat) (op : MemOp) (ans : IommuAnswer) : State :=
  let h := rp / 4
  if (s.host h).cstate ≠ 0 then s
  else match ans with
  | .fault => s.refuseIo h 1 rid 0 op
  | .imsic a =>
    (match op with
     | .write bs => s.msi a (ofBytes (bs.take 4))
     | _ => s.refuseIo h 2 rid a op)
  | .phys a =>
    let n := opSize op
    let ok := (match regionOf a, regionOf (a + n - 1) with | .lpddr _, .lpddr _ => true | _, _ => false) && decide (0 < n)
    (match op with
     | .atomic .. => s.refuseIo h 2 rid a op
     | _ =>
       if !ok then s.refuseIo h 2 rid a op
       else if (linesOf a n).any (fun l => s.lineBusy l) then s
       else match op with
       | .write bs => if s.writeResp a n = .ok then s.cohWrite a bs else s.recordUnmapped (hostAgent h) a true
       | _ =>
         let s := s.fireLpddr a none
         if s.readResp a n = .ok then
           let (bs, s) := s.cohRead n a
           s.respond (ioRq h op a) .ok bs
         else s.respond (ioRq h op a) (s.readResp a n) [])

def execPcieInboundRequest (rp : RootPort) (rid : BitVec 16) (_iova : Nat) (op : MemOp) (_relaxed : Bool) (ans : IommuAnswer)
    (s : State) : Host.Outcome State Fault Refusal := .next (s.inbound rp rid.toNat op ans)

/-- An MSI to the host cores whose address and data the platform set: free values (log 2). -/
def State.platformMsi (s : State) : State :=
  let (a, s) := s.draw
  let (d, s) := s.draw
  s.msi a d

/-- PCIE_WAKE -/
def execPcieWake (_rp : RootPort) (s : State) : Host.Outcome State Fault Refusal := .next s.platformMsi

/-- PCIE_PRESENCE_CHANGE: native hot-plug raises its MSI while the host die runs. -/
def State.presence (s : State) (rp : Nat) (there : Bool) : State :=
  if bit s.present rp = there then s
  else
    let s := { s with present := setBits s.present rp 1 (b2n there) }
    if (s.host (rp / 4)).cstate = 0 then s.platformMsi else s

def execPciePresenceChange (rp : RootPort) (present : Bool) (s : State) : Host.Outcome State Fault Refusal :=
  .next (s.presence rp present)

end Sys2Proof.Machine
end

