-- ==== Sys2Proof/Machine/Mgmt.lean ====
section
/-!
DEFINITION. The Icral manager's shared operations (16): sessions and cached replies (R525 to R528), the order of packets
(R529), parameter fields and clamps (R531, R532), replies and their delivery (R520, R522 to R525), performance of a packet.
-/
namespace Sys2Proof.Machine

/-! ### Status codes (Table 16.7) -/

def stOk : Nat := 0x0000
def stInProgress : Nat := 0x0100
def stBusy : Nat := 0x0101
def stStale : Nat := 0x0102
def stBadHeader : Nat := 0x0200
def stBadCrc : Nat := 0x0201
def stEntryBad : Nat := 0x0202
def stBadOpcode : Nat := 0x0300
def stNoAuthority : Nat := 0x0301
def stBadLength : Nat := 0x0302
def stBadField : Nat := 0x0303
def stModuleState : Nat := 0x0400
def stPanelState : Nat := 0x0401
def stConflict : Nat := 0x0402
def stNoResource : Nat := 0x0403
def stRefusedResume : Nat := 0x0404

/-! ### Sessions -/

def State.modMgmt (s : State) (f : Mgmt → Mgmt) : State := { s with mgmt := f s.mgmt }

def State.session (s : State) (k : SessKey) : Session := (assoc s.mgmt.sessions k).getD {}

def putAssoc {κ α} [DecidableEq κ] (l : List (κ × α)) (k : κ) (v : α) : List (κ × α) :=
  if l.any (fun p => p.1 = k) then l.map (fun p => if p.1 = k then (k, v) else p) else l ++ [(k, v)]

def State.setSession (s : State) (k : SessKey) (v : Session) : State :=
  s.modMgmt (fun m => { m with sessions := putAssoc m.sessions k v })

def State.dropSession (s : State) (k : SessKey) : State :=
  s.modMgmt (fun m => { m with sessions := m.sessions.filter (fun p => p.1 ≠ k) })

/-- The packet of a session being performed (R527, R528). -/
def State.performing (s : State) (k : SessKey) : Option Accepted := s.mgmt.accepted.find? (fun a => a.q.sess = k)

/-- Ring of a mailbox session (Table 7.1). -/
def mailboxRing (p i : Nat) : Nat := 260096 + 64 * p + i

/-! ### Replies (Table 16.5, R524, R525) -/

/-- A 32 B header without its CRC, completed by the CRC over it and the bytes that follow. -/
def sealed (w : Nat) (rest : List Byte) : List Byte := toBytes 32 (w + crc32c (toBytes 32 w ++ rest) * 2 ^ 128) ++ rest

/-- The reply with a header bit set and its CRC formed again. -/
def reseal (reply : List Byte) (bitNo : Nat) : List Byte :=
  sealed (setBits (setBits (ofBytes (reply.take 32)) bitNo 1 1) 128 32 0) (reply.drop 32)

/-- Table 16.8. -/
def clampCode (off wid kind value : Nat) : Nat := off + (wid - 1) * 2 ^ 16 + kind * 2 ^ 24 + value % 2 ^ 32 * 2 ^ 32

/-- The reply to a packet: status, DETAIL, reply parameters, clamps. -/
def State.formReply (s : State) (q : IcralReq) (status detail : Nat) (rp : List Byte) (clamps : List Nat) : List Byte :=
  let cl := clamps.take 255
  sealed (status + q.opcode.toNat * 2 ^ 16 + q.seq.toNat * 2 ^ 32 + rp.length * 2 ^ 64 +
    b2n (q.check && decide (status = stOk)) * 2 ^ 78 + cl.length * 2 ^ 80 + b2n (decide (255 < clamps.length)) * 2 ^ 88 +
    q.tag.toNat * 2 ^ 96 + s.boot.mepoch % 2 ^ 32 * 2 ^ 160 + detail % 2 ^ 16 * 2 ^ 192)
    (rp ++ cl.flatMap (toBytes 8))

/-! ### Delivery (R520, R522, R523, R541) -/

/-- The completion record of a mailbox entry (Table 16.3), its MSI, and HEAD past it (R520). -/
def State.mailboxDone (s : State) (g : Nat) (pos : Count) (msi : Bool) (status : Nat) (dup : Bool) : State :=
  let r := s.ring g
  if !r.en || decide (r.head ≠ pos) then s
  else
    let s := s.cohWriteNat 8 (r.clog + pos.toNat % r.size * 8) (pos.toNat + status * 2 ^ 32 + b2n dup * 2 ^ 48)
    let s := if msi then s.msi r.msia r.msid else s
    s.modRing g (fun r => { r with head := r.head + 1, avail := r.avail.filter (fun a => decide (a.1 ≠ pos + 1)) })

/-- R525: the bytes of a reply that fit a buffer of `n`, TRUNC set when some do not. -/
def fitReply (n : Nat) (reply : List Byte) : List Byte :=
  if reply.length ≤ n then reply
  else sealed (setBits (setBits (ofBytes (reply.take 32)) 79 1 1) 128 32 0) ((reply.drop 32).take (n - 32))

/-- A mailbox reply is written while its ring stands as it did, or while its buffer still lies in the panel's grants
(R541). -/
def State.replyReaches (s : State) (p g : Nat) (a : Accepted) : Bool :=
  (let r := s.ring g; r.en && decide (r.head = a.pos)) || s.inT2 p a.rpy (64 * (a.rblk + 1))

/-- Sends a reply on the path of its packet. -/
def State.deliver (s : State) (a : Accepted) (reply : List Byte) (dup : Bool) : State :=
  match a.q.sess with
  | .mailbox p i =>
    let g := mailboxRing p i
    let s := if s.replyReaches p g a then s.cohWrite a.rpy (fitReply (64 * (a.rblk + 1)) reply) else s
    s.mailboxDone g a.pos a.msi (bits (ofBytes (reply.take 32)) 0 16) dup
  | .i3c => s.modMgmt (fun m => { m with i3cReply := some reply, ibi := m.ibi ++ [0xA1] })
  | .eth ip port => s.modMgmt (fun m => { m with tx := m.tx ++ [(ip, port, reply)] })

/-- A reply that is not cached. -/
def State.replyOnly (s : State) (a : Accepted) (status : Nat) : State :=
  s.deliver a (s.formReply a.q status 0 [] []) false

/-- An accepted packet is answered: its reply is cached under its SEQ (R526, R527) and sent. -/
def State.answer (s : State) (a : Accepted) (status detail : Nat) (rp : List Byte) (clamps : List Nat) : State :=
  let reply := s.formReply a.q status detail rp (if status = stOk then clamps else [])
  let x := s.session a.q.sess
  let s := s.setSession a.q.sess { x with replies := (x.replies ++ [(a.q.seq, reply)]).drop (x.replies.length - 15) }
  let s := s.modMgmt (fun m => { m with accepted := m.accepted.filter (fun b => b.q ≠ a.q) })
  s.deliver a reply false

/-- Packets that waited for something are answered OK with their reply parameters, taken from the state after it. -/
def State.release (s : State) (w : Wait) (rp : State → IcralReq → List Byte) : State :=
  (s.mgmt.accepted.filter (fun a => a.wait = some w)).foldl (fun s a => s.answer a stOk 0 (rp s a.q) a.clamps) s

def State.refuseWait (s : State) (w : Wait) (status detail : Nat) : State :=
  (s.mgmt.accepted.filter (fun a => a.wait = some w)).foldl (fun s a => s.answer a status detail [] []) s

/-! ### The opcodes' acceptance (Table 16.9) -/

inductive OpAuth where
  | m | p | a
deriving DecidableEq, Repr

/-- Opcode, authority, PLEN. -/
def opcodeTable : List (Nat × OpAuth × Nat) :=
  [(0x0001, .a, 0), (0x0002, .m, 8), (0x0003, .p, 0), (0x0004, .m, 0), (0x0005, .m, 8), (0x0006, .m, 8), (0x0007, .m, 0),
   (0x0008, .m, 8), (0x0009, .m, 64), (0x0010, .m, 8), (0x0011, .m, 0), (0x0012, .p, 0), (0x0013, .m, 24),
   (0x0014, .m, 24), (0x0015, .m, 24), (0x0016, .p, 8)] ++
  [(0x0020, .p, 24), (0x0021, .p, 40), (0x0022, .p, 40), (0x0023, .p, 32), (0x0024, .m, 16), (0x0025, .m, 88),
   (0x0030, .p, 128), (0x0031, .p, 8), (0x0040, .m, 16)]

def opAllowed (k : OpAuth) (auth : Auth) (panel : Nat) : Bool :=
  match auth, k with
  | .owner, _ => true
  | .panel _, .a => true
  | .panel q, .p => decide (q.val = panel)
  | .panel _, .m => false

/-! ### Order of packets (R529) -/

/-- An object a packet names: kind, panel, range of numbers. Kinds: 0 a panel, 1 a job slot, 2 a ring, 3 a segment table,
4 a window, 5 an RTID range, 6 a course port, 7 a keep region, 8 a grant, 9 the one panel creation, destruction or reset at
a time (R499), 10 something of the panel. -/
structure Obj where
  kind : Nat
  panel : Option Nat := none
  lo : Nat := 0
  hi : Nat := 0
deriving DecidableEq, Repr

def Obj.meets (a b : Obj) : Bool :=
  (decide (a.kind = b.kind ∧ a.kind ≠ 10 ∧ a.panel = b.panel ∧ a.lo ≤ b.hi ∧ b.lo ≤ a.hi)) ||
  (decide ((a.kind = 0 ∨ b.kind = 0) ∧ a.panel = b.panel ∧ a.panel ≠ none))

def reqObjs (q : IcralReq) : List Obj :=
  let p := some q.panel.val
  let w := q.params
  match q.opcode.toNat with
  | 0x10 | 0x11 | 0x12 => [⟨0, p, 0, 0⟩, ⟨9, none, 0, 0⟩]
  | 0x13 => [⟨8, none, bits w 64 52, bits w 64 52 + bits w 128 52⟩, ⟨10, p, 0, 0⟩]
  | 0x14 => ⟨7, none, bits w 0 5, bits w 0 5⟩ :: (if bits w 5 2 = 2 then [⟨10, some (bits w 7 4), 0, 0⟩] else [])
  | 0x16 => [⟨10, p, 0, 0⟩]
  | 0x20 => [⟨2, none, bits w 0 18, bits w 0 18⟩, ⟨10, p, 0, 0⟩]
  | 0x21 => [⟨3, p, bits w 4 3, bits w 4 3⟩]
  | 0x22 => [⟨4, p, bits w 0 8, bits w 0 8⟩]
  | 0x23 => [⟨5, p, bits w 2 12, bits w 2 12 + bits w 14 8⟩]
  | 0x24 => [⟨6, none, bits w 0 5, bits w 0 5⟩]
  | 0x30 | 0x31 => [⟨1, p, bits w 0 3, bits w 0 3⟩]
  | _ => []

def objsMeet (a b : List Obj) : Bool := a.any (fun x => b.any (fun y => x.meets y))

/-- R515: a panel reset merges into the reset of the same panel in progress. -/
def mergesInto (q e : IcralReq) : Bool :=
  decide (q.opcode.toNat = 0x12 ∧ q.panel = e.panel ∧
    (e.opcode.toNat = 0x12 ∨ e.opcode.toNat = 0x10 ∨ e.opcode.toNat = 0x11))

/-- A packet under panel authority whose panel resets is refused at once, and does not wait (Table 16.9). -/
def State.refusedResetting (s : State) (q : IcralReq) : Bool :=
  match q.auth with
  | .owner => false
  | .panel _ => decide (q.opcode.toNat ≠ 0x0001 ∧ q.opcode.toNat ≠ 0x0003) && decide ((s.panel q.panel).state = 1)

/-- The packet waits for an earlier one on one of its objects. -/
def State.blocked (s : State) (q : IcralReq) (earlier : List Accepted) : Bool :=
  !s.refusedResetting q && earlier.any (fun e => objsMeet (reqObjs q) (reqObjs e.q) && !mergesInto q e.q)

/-- R529: earlier packets have been performed, but for those that wait for a still earlier one. -/
def State.inTurn (s : State) (q : IcralReq) : List Accepted → List Accepted → Bool
  | _, [] => false
  | before, e :: rest =>
    if e.q = q then decide (e.wait = none) && !s.blocked q before
    else if e.wait.isSome || s.blocked e.q before then s.inTurn q (before ++ [e]) rest
    else false

/-- The packet is accepted, not performed yet, and its turn has come. -/
def State.turnOf (s : State) (q : IcralReq) : Bool := s.inTurn q [] s.mgmt.accepted

def State.acceptedOf (s : State) (q : IcralReq) : Accepted := (s.mgmt.accepted.find? (fun a => a.q = q)).getD { q := q }

/-! ### Parameter fields (R531, R532) -/

inductive FieldRule where
  /-- reserved, status or unused: set to 0 and listed -/
  | reserved
  /-- class R: the values it may hold -/
  | reject (ok : Nat → Bool)
  /-- class C: least, greatest, granule; whether 0 stands for a default -/
  | clamp (lo hi gran : Nat) (zero : Bool)
  /-- raised to a derived floor, below a greatest value; 0 as it stands -/
  | floor (lo hi : Nat)

structure Field where
  lo : Nat
  wid : Nat
  rule : FieldRule

/-- The pieces of a reserved run that are listed: one, or cut at the 64-bit boundaries when it is wider than 64. -/
def runPieces (lo wid : Nat) : List (Nat × Nat) :=
  if wid ≤ 64 then [(lo, wid)]
  else (List.range ((lo + wid - 1) / 64 - lo / 64 + 1)).map (fun i =>
    let b := max lo ((lo / 64 + i) * 64)
    (b, min (lo + wid) ((lo / 64 + i + 1) * 64) - b))

/-- One field: the parameters with what stands for it, and its clamp entries; none where it refuses the packet. -/
def Field.judge (f : Field) (w : Nat) : Option (Nat × List Nat) :=
  let v := bits w f.lo f.wid
  let put (kind x : Nat) : Option (Nat × List Nat) := some (setBits w f.lo f.wid x, [clampCode f.lo f.wid kind x])
  match f.rule with
  | .reserved => some (setBits w f.lo f.wid 0, (runPieces f.lo f.wid).filterMap (fun q =>
      if bits w q.1 q.2 = 0 then none else some (clampCode q.1 q.2 0 0)))
  | .reject ok => if ok v then some (w, []) else none
  | .clamp lo hi gran zero =>
    if zero ∧ v = 0 then some (w, [])
    else if v < lo then put 1 lo
    else if hi < v then put 2 hi
    else if v % gran ≠ 0 then put 3 (v - v % gran)
    else some (w, [])
  | .floor lo hi =>
    if v = 0 then some (w, [])
    else if v < lo then put 4 lo
    else if hi < v then put 2 hi
    else some (w, [])

/-- Fields in increasing bit order: the parameters in force and their clamps, or the offset of the first that refuses. -/
def judgeFields : List Field → Nat → Except Nat (Nat × List Nat)
  | [], w => .ok (w, [])
  | f :: fs, w =>
    match f.judge w with
    | none => .error f.lo
    | some (w', c) =>
      match judgeFields fs w' with
      | .ok (w'', cs) => .ok (w'', c ++ cs)
      | .error e => .error e

def anyVal : FieldRule := .reject (fun _ => true)
def atMost (n : Nat) : FieldRule := .reject (fun v => decide (v ≤ n))
def multOf (n : Nat) : FieldRule := .reject (fun v => decide (v % n = 0))

/-! ### Performance (R526 steps 7 to 9) -/

/-- How the performance of a packet ends. -/
inductive Done where
  | refuse (status detail : Nat)
  /-- done at once -/
  | ok (s : State)
  /-- performed, the reply waiting -/
  | wait (s : State) (w : Wait)

/-- Which module states serve an opcode (R578): all of them, Ready and held out of Ready, Ready. -/
inductive Gate where
  | all | up | ready
deriving DecidableEq, Repr

def State.serves (s : State) (g : Gate) : Bool :=
  match g with
  | .all => true
  | .up => !s.boot.recovery && decide (s.boot.mstate ≠ 0)
  | .ready => decide (s.boot.mstate = 1)

def noParams : State → IcralReq → List Byte := fun _ _ => []

/-- What performs an opcode: its fields, the module states it is served in, its performance on the parameters in force, and
its reply parameters. -/
structure OpSpec where
  fields : State → IcralReq → List Field := fun _ _ => []
  gate : Gate := .ready
  /-- an object outside the authority's reach (R504): refused with NO_AUTHORITY -/
  outside : State → IcralReq → Bool := fun _ _ => false
  run : State → IcralReq → Nat → Done
  rp : State → IcralReq → List Byte := noParams

/-- R526 steps 7 to 9: fields, module state, a resetting panel, then the opcode's own checks and effect; CHECK changes
nothing. The row acts on a packet only in its turn. -/
def State.performReq (s : State) (q : IcralReq) (here : Bool) (o : OpSpec) : State :=
  if !here || !s.turnOf q then s
  else
    let a := s.acceptedOf q
    if o.outside s q then (s.outOfReach q.auth 0).answer a stNoAuthority 0 [] []
    else match judgeFields (o.fields s q) q.params with
    | .error off => s.answer a stBadField off [] []
    | .ok (w, cl) =>
      if !s.serves o.gate then s.answer a stModuleState 0 [] []
      else if s.refusedResetting q then s.answer a stPanelState 0 [] []
      else match o.run s q w with
        | .refuse st d => s.answer a st d [] []
        | .ok s' => if q.check then s.answer a stOk 0 (o.rp s q) cl else s'.answer a stOk 0 (o.rp s' q) cl
        | .wait s' wt =>
          if q.check then s.answer a stOk 0 (o.rp s q) cl
          else s'.modMgmt (fun m => { m with accepted := m.accepted.map (fun b =>
            if b.q = q then { b with wait := some wt, clamps := cl } else b) })

/-- A refusal unless the condition holds. -/
def need (ok : Bool) (status detail : Nat) (k : Done) : Done := if ok then k else .refuse status detail

end Sys2Proof.Machine
end

