-- ==== Sys2Proof/Machine/Approx.lean ====
section
/-!
DEFINITION. The approximate functions of Table 2.8 (02 R67, R68): their true values in fixed point with 320 fractional bits,
the bounds on the results, and the result itself: a free value that keeps its bound (log 11), or a special case.
-/
namespace Sys2Proof.Machine

/-! ### Fixed point -/

/-- Fractional bits. -/
def fxP : Nat := 320
def fxOne : Int := 2 ^ fxP
def fxMul (a b : Int) : Int := a * b / fxOne
def fxDiv (a b : Int) : Int := a * fxOne / b

/-- `m * 2 ^ e`, not below the resolution for a finite FP32. -/
def fxOf (neg : Bool) (m : Nat) (e : Int) : Int :=
  let v : Int := if 0 ≤ e + fxP then m * 2 ^ (e + fxP).toNat else m / 2 ^ (-(e + fxP)).toNat
  if neg then -v else v

/-- `n` terms of a series from term number `k`: each term is the one before times `x` times `num k / den k`; its share in the
sum is divided by `w k`. -/
def fxSeries (x : Int) (num den w : Nat → Int) : Nat → Nat → Int → Int → Int
  | 0, _, _, acc => acc
  | n + 1, k, term, acc => fxSeries x num den w n (k + 1) (fxMul term x * num k / den k) (acc + term / w k)

/-- Artanh of `t`, at most 1/3. -/
def fxAtanh (t : Int) : Int := fxSeries (fxMul t t) (fun _ => 1) (fun _ => 1) (fun k => 2 * k + 1) 110 0 t 0

/-- Arctan of 1/n. -/
def fxAtanInv (n : Int) : Int := fxSeries (-(fxOne / (n * n))) (fun _ => 1) (fun _ => 1) (fun k => 2 * k + 1) 150 0 (fxOne / n) 0

def fxLn2 : Int := 2 * fxAtanh (fxOne / 3)
def fxPi : Int := 16 * fxAtanInv 5 - 4 * fxAtanInv 239
def fxSqrt (a : Int) : Int := (isqrt (a.toNat * 2 ^ fxP) : Nat)

/-- e to the power `r`, for `r` of magnitude at most 1. -/
def fxExpSmall (r : Int) : Int := fxSeries r (fun _ => 1) (fun k => k + 1) (fun _ => 1) 100 0 fxOne 0

/-- e to the power `x` as a fixed-point number times a power of two. -/
def fxExp (x : Int) : Int × Int :=
  let n := x / fxLn2
  (fxExpSmall (x - n * fxLn2), n)

def fxShift (v : Int × Int) : Int := if 0 ≤ v.2 then v.1 * 2 ^ v.2.toNat else v.1 / 2 ^ (-v.2).toNat

/-- Natural logarithm of `m * 2 ^ e`. -/
def fxLn (m : Nat) (e : Int) : Int :=
  let n := expOf m e
  let y := fxOf false m (e - n)
  2 * fxAtanh (fxDiv (y - fxOne) (y + fxOne)) + n * fxLn2

/-- Sine of `x`, for `x` of magnitude at most 2; its terms from `term`. -/
def fxSinSmall (x : Int) : Int :=
  fxSeries (-(fxMul x x)) (fun _ => 1) (fun k => (2 * k + 2) * (2 * k + 3)) (fun _ => 1) 60 0 x 0
def fxCosSmall (x : Int) : Int :=
  fxSeries (-(fxMul x x)) (fun _ => 1) (fun k => (2 * k + 1) * (2 * k + 2)) (fun _ => 1) 60 0 fxOne 0

/-- Sine of `x + q` quarter turns. -/
def fxSin (x : Int) (q : Nat) : Int :=
  let h := fxPi / 2
  let k := x / h
  let r := x - k * h
  match (k + q).emod 4 with
  | 0 => fxSinSmall r
  | 1 => fxCosSmall r
  | 2 => -(fxSinSmall r)
  | _ => -(fxCosSmall r)

/-- 1 / (1 + e^-x). -/
def fxSigmoid (x : Int) : Int :=
  if 512 * fxOne < x then fxOne
  else if x < -512 * fxOne then 0
  else
    let t := fxShift (fxExp (-(x.natAbs : Int)))
    if 0 ≤ x then fxDiv fxOne (fxOne + t) else fxDiv t (fxOne + t)

/-- tanh, odd, of `x`. -/
def fxTanh (x : Int) : Int :=
  let a : Int := x.natAbs
  let t := if 256 * fxOne < a then 0 else fxShift (fxExp (-(2 * a)))
  let v := fxDiv (fxOne - t) (fxOne + t)
  if x < 0 then -v else v

def fxErf (x : Int) : Int :=
  if 6 * fxOne < x then fxOne
  else if x < -6 * fxOne then -fxOne
  else fxDiv (2 * fxSeries (-(fxMul x x)) (fun _ => 1) (fun k => k + 1) (fun k => 2 * k + 1) 300 0 x 0) (fxSqrt fxPi)

/-- GELU in its tanh form, which is x / (1 + e^-2u) with u = sqrt(2/π) (x + 0.044715 x³). -/
def fxGelu (x : Int) : Int :=
  let u := fxMul (fxSqrt (fxDiv (2 * fxOne) fxPi)) (x + fxMul (fxMul x x) x * 44715 / 1000000)
  fxMul x (fxSigmoid (2 * u))

def fxVal (v : Int) (e : Int) : Val := .num (decide (v < 0)) v.natAbs (e - fxP)

/-! ### True values and bounds -/

/-- True value of function `fn` (VEW1 code, Table 7.11) at a finite number outside its special cases; beyond 256 in magnitude
exp2 and exp have left FP32's range, and GELU is the operand or zero. -/
def trueVal (fn : Nat) (neg : Bool) (m : Nat) (e : Int) : Val :=
  let x := fxOf neg m e
  let big := decide (256 * fxOne < (x.natAbs : Int))
  match fn with
  | 5 =>
    let e' := e - e % 2
    fxVal (isqrt (2 ^ (3 * fxP) / (m * 2 ^ (e % 2).toNat)) : Nat) (-(fxP / 2 : Nat) - e' / 2)
  | 6 => if big then .num false 1 (if neg then -1000 else 1000) else fxVal (fxExpSmall (fxMul (x % fxOne) fxLn2)) (x / fxOne)
  | 7 =>
    if big then .num false 1 (if neg then -1000 else 1000)
    else
      let r := fxExp x
      fxVal r.1 r.2
  | 8 => fxVal (fxDiv (fxLn m e) fxLn2) 0
  | 9 => fxVal (fxLn m e) 0
  | 10 => fxVal (fxSin x 0) 0
  | 11 => fxVal (fxSin x 1) 0
  | 12 => fxVal (fxTanh x) 0
  | 13 => fxVal (fxSigmoid x) 0
  | 14 => fxVal (fxErf x) 0
  | _ => if big then (if neg then .num true 0 0 else .num false m e) else fxVal (fxGelu x) 0

/-- Max error in units of the last place (Table 2.8). -/
def ulpBound (fn : Nat) : Nat :=
  match fn with | 5 | 6 | 8 => 1 | 14 => 3 | 15 => 4 | _ => 2

/-- Rank of a finite FP32 code among the values in order. -/
def fpRank (c : Nat) : Int := if bit c 31 then -(c % 2 ^ 31 : Nat) else (c % 2 ^ 31 : Nat)

/-- The finite result `c` lies within `2 ^ k` of the value. -/
def nearVal (c : Nat) (v : Val) (k : Int) : Bool := !(Val.num false 1 k).lt ((val32 c).add v.negate).abs

/-- The finite result `c` meets the bound, the exactly rounded true value being `r`. -/
def approxOk (fn : Nat) (x : Val) (t : Val) (r c : Nat) : Bool :=
  (val32 c).isFinite &&
  (if (fn = 10 ∨ fn = 11) ∧ (Val.num false 65536 0).lt x.abs then nearVal c t (-22)
   else decide ((fpRank c - fpRank r).natAbs ≤ ulpBound fn) || (decide (fn = 15) && nearVal c t (-30)))

/-- The exact value of an approximate function is zero at the finite operand `x`: log2 and log at 1, sin, tanh, erf and
GELU at 0. -/
def approxZero (fn : Nat) (x : Val) : Bool :=
  match fn with
  | 8 | 9 => x.eq .one
  | 10 | 12 | 14 | 15 => x.eq .zero
  | _ => false

/-- Table 2.8: special cases exact; overflow by R51; else the free value where it meets the bound of R67, and the exactly
rounded value where it does not, so that every result within the bound is some free value's. A result of zero for a non-zero
exact value sets UF (Table 2.6). -/
def approxFn (fn : Nat) (sat : Bool) (x : Nat) : Nat × NFlags :=
  let free (s : Bool) (m : Nat) (e : Int) : Nat × NFlags :=
    let t := trueVal fn s m e
    let r := rne32 sat t
    if r.2.of then (r.1, { r.2 with nf := false })
    else
      let c := (Config.approx fn (BitVec.ofNat 32 x)).toNat
      let y := if approxOk fn (val32 x) t r.1 c then c else r.1
      (y, { uf := decide (y % 2 ^ 31 = 0) && !approxZero fn (val32 x) })
  let exact (v : Val) : Nat × NFlags := ((rne32 false v).1, { nv := v.isNan && !(val32 x).isNan })
  match val32 x with
  | .nan => (fmtFP32.nanCode, {})
  | .inf s =>
    match fn with
    | 5 => exact (if s then .nan else .zero)
    | 6 | 7 => exact (if s then .zero else .inf false)
    | 8 | 9 => exact (if s then .nan else .inf false)
    | 10 | 11 => exact .nan
    | 12 | 14 => exact (.num s 1 0)
    | 13 => exact (if s then .zero else .one)
    | _ => exact (if s then .num true 0 0 else .inf false)
  | .num s m e =>
    match fn with
    | 5 => if m = 0 then exact (.inf s) else if s then exact .nan else free s m e
    | 8 | 9 => if m = 0 then exact (.inf true) else if s then exact .nan else free s m e
    | _ => free s m e

end Sys2Proof.Machine
end

