-- ==== Sys2Proof/Machine/Vector.lean ====
section
/-!
DEFINITION. The vector unit (02 R64 to R68, 07 R236 to R238, R640, R641, 05 R146, R157, R164, R170): VEW1, VEW2, VFMA, VRED,
VCVT, VZMAP, MOE_COUNT, MOE_SCAN, MOE_SUM. One execution of a row runs its command to the next chunk boundary (R224).
-/
namespace Sys2Proof.Machine

/-! ### Elements of linear operands (R210) -/

/-- Offset of element (r, j) in bits from the operand's base. -/
def linBit (d r j : Nat) : Nat := r * lStride d * 8 + j * fmtWidth (dFmt d)

def State.linCode (s : State) (d base r j : Nat) : Nat :=
  let b := linBit d r j
  bits (s.readNat (ceilDiv (b % 8 + fmtWidth (dFmt d)) 8) (base + b / 8)) (b % 8) (fmtWidth (dFmt d))

/-- Scale-plane offset of element (r, j)'s block. -/
def linScaleOff (d r j : Nat) : Nat :=
  lSpo d * 1024 + (if dLayout d = 1 then r / 32 * lCols d + j else r * (lCols d / 32) + j / 32)

def State.linScale (s : State) (d base r j : Nat) : Nat :=
  if dScale d = 1 then dScl d else if dScale d = 2 then s.readNat 1 (base + linScaleOff d r j) else 127

/-- R64: an element exactly in FP32, with NI, OF and SAT. -/
def State.linElem (s : State) (d base : Nat) (sat : Bool) (r j : Nat) : Nat × NFlags :=
  readElem (fmtOf (dFmt d)) sat (s.linCode d base r j) (if isBlockFmt (dFmt d) then some (s.linScale d base r j) else none)

/-- One row of an operand, its columns `0` to `n − 1`. -/
def State.linRow (s : State) (d base : Nat) (sat : Bool) (r : Nat) : List Nat × NFlags :=
  let es := (List.range (lCols d)).map (fun j => s.linElem d base sat r j)
  (es.map (·.1), gather (es.map (·.2)))

/-- Address of poisoned data in row `r` of an operand or its scales. -/
def State.linPoison (s : State) (d base r : Nat) : Option Nat :=
  let a := base + r * lStride d
  if s.poisoned a (lRowBytes d) then some a
  else if dScale d = 2 then
    let b := base + linScaleOff d r 0
    if s.poisoned b (if dLayout d = 1 then lCols d else lCols d / 32) then some b else none
  else none

/-- Writes code `c` of element (r, j), its neighbours kept. -/
def State.putCode (s : State) (d base r j c : Nat) : State :=
  let b := linBit d r j
  let w := fmtWidth (dFmt d)
  let n := ceilDiv (b % 8 + w) 8
  let old := s.readNat n (base + b / 8)
  s.writeNat n (base + b / 8) (setBits old (b % 8) w c)

/-! ### Output (R54 to R60, R157, R237, R641) -/

/-- An output element: row, column, value. -/
abbrev Cell := Nat × Nat × Val

/-- Codes of one block or of elements on their own. -/
def State.putBlock (s : State) (w : WorkCmd) (base : Nat) (cells : List Cell) : State × NFlags :=
  let d := w.d2
  let (cs, sc, f) := convertBlock (fmtOf (dFmt d)) w.sat w.rctx
    (cells.map (fun c => (c.2.2, w.index (lCols d) c.1 c.2.1)))
  let s := (cells.zip cs).foldl (fun s p => s.putCode d base p.1.1 p.1.2.1 p.2) s
  match cells with
  | [] => (s, f)
  | c :: _ => (s.writeNat 1 (base + linScaleOff d c.1 c.2.1) sc, f)

def State.putElem (s : State) (w : WorkCmd) (base own : Nat) (c : Cell) : State × NFlags :=
  let d := w.d2
  let rnd := w.rctx.at (w.index own c.1 c.2.1)
  let (k, f) := if isBlockFmt (dFmt d) then convertSingle (fmtOf (dFmt d)) w.sat rnd (dScl d) c.2.2
    else (fmtOf (dFmt d)).convert w.sat rnd c.2.2
  (s.putCode d base c.1 c.2.1 k, f)

/-- R157: magnitude order: NaN above infinity above finite. -/
def magAbove (a b : Val) : Bool :=
  match a, b with
  | .nan, .nan => false
  | .nan, _ => true
  | _, .nan => false
  | a, b => b.abs.lt a.abs

/-- R157: the two kept positions of a group of four, in increasing order. -/
def keepTwo (g : List Val) : Nat × Nat :=
  let better (i j : Nat) : Bool := -- position i ranks above position j
    let (a, b) := (g.getD i .zero, g.getD j .zero)
    magAbove a b || (!magAbove b a && decide (i < j))
  let ranks := (List.range 4).filter (fun i => decide (((List.range 4).filter (fun j => decide (j ≠ i) && better j i)).length < 2))
  (ranks.getD 0 0, ranks.getD 1 1)

/-- A 2:4 vector of 64 dense values of row `r`, pair `p` (R157, R237). -/
def State.putSparse (s : State) (w : WorkCmd) (base r p : Nat) (vs : List Val) : State × NFlags :=
  let d := w.d2
  let kept := (List.range 16).flatMap (fun g =>
    let k := keepTwo ((vs.drop (4 * g)).take 4)
    [(g, k.1), (g, k.2)])
  let ix := (List.range 32).foldl (fun a i => a + (kept.getD i (0, 0)).2 * 2 ^ (2 * i)) 0
  let xs := kept.map (fun k => (vs.getD (4 * k.1 + k.2) .zero, w.index (lCols d) r (64 * p + 4 * k.1 + k.2)))
  let (cs, sc, f) := convertBlock (fmtOf (dFmt d)) w.sat w.rctx xs
  let v := vecSize (dFmt d)
  let a := base + r * lStride d + p * (v + 8)
  let s := (s.writeNat v a (packCodes (dFmt d) cs)).writeNat 8 (a + v) ix
  (s.writeNat 1 (base + lSpo d * 1024 + r * (lCols d / 64) + p) sc, f)

/-- Splits a list into pieces of `n`, at most `k` of them. -/
def pieces {α} (n : Nat) : Nat → List α → List (List α)
  | 0, _ => []
  | k + 1, l => if l.isEmpty then [] else l.take n :: pieces n k (l.drop n)

/-- Y takes blocks along columns. -/
def colBlocks (w : WorkCmd) : Bool := decide (dLayout w.d2 = 1 ∧ dScale w.d2 = 2)

/-- Blocks written one after another, gathering flags. -/
def State.putBlocks (s : State) (w : WorkCmd) (base : Nat) (bs : List (List Cell)) : State × NFlags :=
  bs.foldl (fun p b => ((p.1.putBlock w base b).1, p.2.or (p.1.putBlock w base b).2)) (s, {})

/-- Elements written one after another, gathering flags. -/
def State.putElems (s : State) (w : WorkCmd) (base : Nat) (cs : List Cell) : State × NFlags :=
  cs.foldl (fun p c => ((p.1.putElem w base (lCols w.d2) c).1, p.2.or (p.1.putElem w base (lCols w.d2) c).2)) (s, {})

/-- The cells of an output row. -/
def cellsOf (r : Nat × Nat × List Val) : List Cell := (List.range r.2.2.length).map (fun i => (r.1, r.2.1 + i, r.2.2.getD i .zero))

/-- Writes a unit's output rows: `rows` are (row, first column, values), all rows of one length. -/
def State.putRows (s : State) (w : WorkCmd) (base : Nat) (rows : List (Nat × Nat × List Val)) : State × NFlags :=
  let d := w.d2
  if isBlockFmt (dFmt d) ∧ dScale d = 2 then
    if dLayout d = 1 then
      let n := ((rows.headD (0, 0, [])).2.2).length
      s.putBlocks w base ((pieces 32 (rows.length) rows).flatMap (fun grp => (List.range n).map (fun j =>
        grp.map (fun r => (r.1, r.2.1 + j, r.2.2.getD j .zero)))))
    else s.putBlocks w base (rows.flatMap (fun r => pieces 32 (r.2.2.length) (cellsOf r)))
  else s.putElems w base (rows.flatMap cellsOf)

/-! ### Functions (R65 to R68, Table 7.11) -/

def fpOp1 (fn : Nat) (sat : Bool) (x : Nat) : Nat × NFlags :=
  let v := val32 x
  match fn with
  | 0 => (x, {})
  | 1 => ((rne32 false v.negate).1, {})
  | 2 => ((rne32 false v.abs).1, {})
  | 3 => fp32Result sat [v] v.sqrt
  | 4 => fp32Result sat [v] (Val.one.div v)
  | _ => approxFn fn sat x

def fpOp2 (fn : Nat) (sat : Bool) (x z : Nat) : Nat × NFlags :=
  let (a, b) := (val32 x, val32 z)
  let r (v : Val) := fp32Result sat [a, b] v
  match fn with
  | 0 => r (a.add b)
  | 1 => r (a.add b.negate)
  | 2 => r (a.mul b)
  | 3 => r (a.div b)
  | 4 => r (a.min b)
  | 5 => r (a.max b)
  | 6 => ((rne32 false (if a.lt b then .one else .zero)).1, {})
  | _ => ((rne32 false (if a.eq b then .one else .zero)).1, {})

def fpFma (sat : Bool) (x z y : Nat) : Nat × NFlags :=
  fp32Result sat [val32 x, val32 z, val32 y] ((val32 x).fma (val32 z) (val32 y))

/-- Flags of a step whose result is not written by itself (Table 2.6, UF). -/
def NFlags.noUf (f : NFlags) : NFlags := { f with uf := false }

/-- R238: one lane's combination over elements l, l + 64, … -/
def redLane (fn : Nat) (sat : Bool) (xs : List Nat) (l : Nat) : Option (Nat × NFlags) :=
  let mine := (List.range (ceilDiv xs.length 64)).filterMap (fun i => xs[l + 64 * i]?)
  let step (p : Nat × NFlags) (x : Nat) : Nat × NFlags :=
    let (v, f) := match fn with
      | 0 => fpOp2 0 sat p.1 x
      | 1 => fpFma sat x x p.1
      | 2 => fpOp2 5 sat p.1 x
      | _ => fpOp2 4 sat p.1 x
    (v, p.2.or f.noUf)
  if fn < 2 then some (mine.foldl step (0, {}))
  else match mine with
    | [] => none
    | x :: r => some (r.foldl step (x, {}))

/-- R238: the tree over lanes, h = 32 to 1. -/
def redTree (fn : Nat) (sat : Bool) : Nat → List (Option (Nat × NFlags)) → List (Option (Nat × NFlags))
  | 0, ls => ls
  | k + 1, ls =>
    let h := 2 ^ k
    redTree fn sat k ((List.range h).map (fun l =>
      match ls.getD l none, ls.getD (l + h) none with
      | some a, some b =>
        let (v, f) := match fn with | 0 | 1 => fpOp2 0 sat a.1 b.1 | 2 => fpOp2 5 sat a.1 b.1 | _ => fpOp2 4 sat a.1 b.1
        some (v, (a.2.or b.2).or f.noUf)
      | a, _ => a))

def reduceRow (fn : Nat) (sat : Bool) (xs : List Nat) : Nat × NFlags :=
  ((redTree fn sat 6 ((List.range 64).map (redLane fn sat xs))).headD none).getD (0, {})

/-! ### Units (R224, Table 7.12) -/

/-- Source rows of one unit: 64 where 2:4 vectors are written across source rows. -/
def vecGroup (w : WorkCmd) : Nat :=
  if w.op = 0x44 ∧ bit w.opx 0 ∧ bit w.opx 1 then 64
  else if (w.op = 0x44 ∧ (bit w.opx 0 ∨ dLayout w.d2 = 1)) ∨ (w.op = 0x45 ∧ !bit w.opx 0) ∨ colBlocks w then 32
  else 1

def vecUnits (w : WorkCmd) : Nat := ceilDiv (lRows w.d0) (vecGroup w)

/-- Nominal tc of one unit. -/
def vecUnitTime (w : WorkCmd) : Nat :=
  let t := vecRowTime w
  if vecGroup w = 64 then 2 * t
  else if vecGroup w = 32 ∧ w.op ≠ 0x45 ∧ !(w.op = 0x44 ∧ (bit w.opx 0 ∨ dLayout w.d2 = 1)) then 32 * t
  else t

/-- Z's row for row `r` under VEW2's broadcast. -/
def State.zRow (s : State) (w : WorkCmd) (base r : Nat) : List Nat × NFlags :=
  let bc := w.opx / 8 % 4
  let (z, f) := s.linRow w.d1 base w.sat (if bc = 1 ∨ bc = 3 then 0 else r)
  (if bc = 0 ∨ bc = 1 then z else List.replicate (lCols w.d0) (z.headD 0), f)

def opFlags (l : List (Nat × NFlags)) : NFlags := gather (l.map (·.2))

/-- Output values of source row `r` of an element-wise command, a reduction or a conversion. -/
def State.vecRow (s : State) (a : Active) (r : Nat) : List Nat × NFlags :=
  let w := a.c.cmd
  let (x, fx) := s.linRow w.d0 a.c.a.addr w.sat r
  match w.op with
  | 0x40 =>
    let o := x.map (fpOp1 (w.opx % 32) w.sat)
    (o.map (·.1), fx.or (opFlags o))
  | 0x41 =>
    let (z, fz) := s.zRow w a.c.b.addr r
    let o := (x.zip z).map (fun p => fpOp2 (w.opx % 8) w.sat p.1 p.2)
    (o.map (·.1), (fx.or fz).or (opFlags o))
  | 0x42 =>
    let (z, fz) := s.linRow w.d1 a.c.b.addr w.sat r
    let (y, fy) := s.linRow w.d2 a.c.c.addr w.sat r
    let o := (x.zip (z.zip y)).map (fun p => fpFma w.sat p.1 p.2.1 p.2.2)
    (o.map (·.1), ((fx.or fz).or fy).or (opFlags o))
  | 0x43 => let (v, f) := reduceRow (w.opx % 4) w.sat x; ([v], fx.or f)
  | _ => (x, fx)

/-- R640, R141: the map bits of a unit. -/
def State.zmapUnit (s : State) (a : Active) (u : Nat) : State :=
  let w := a.c.cmd
  let cols := lCols w.d0
  let zero (r j : Nat) : Bool := decide ((s.linElem w.d0 a.c.a.addr false r j).1 % 2 ^ 31 = 0)
  let put (s : State) (i : Nat) (v : Bool) : State :=
    let ad := a.c.c.addr + i / 8
    s.writeNat 1 ad (setBits (s.readNat 1 ad) (i % 8) 1 (b2n v))
  let s' := if bit w.opx 0 then put s u ((List.range cols).all (zero u))
    else
      let kb := ceilDiv cols 32
      let rows := (List.range 32).map (fun i => 32 * u + i) |>.filter (fun r => decide (r < lRows w.d0))
      (List.range kb).foldl (fun s b =>
        put s (u * kb + b) (rows.all (fun r => ((List.range 32).filter (fun i => decide (32 * b + i < cols))).all
          (fun i => zero r (32 * b + i))))) s
  if u + 1 < vecUnits w then s'
  else
    let n := zmapBits w
    (List.range (lCols w.d2 * 8 - n)).foldl (fun s i => put s (n + i) false) s'

/-- Performs unit `u`: every read of the unit before its writes. -/
def State.vecUnit (s : State) (a : Active) (u : Nat) : State × NFlags :=
  let w := a.c.cmd
  let g := vecGroup w
  if w.op = 0x45 then (s.zmapUnit a u, {})
  else
    let rs := ((List.range g).map (fun i => g * u + i)).filter (fun r => decide (r < lRows w.d0))
    let os := rs.map (fun r => s.vecRow a r)
    let f := gather (os.map (·.2))
    let vals := os.map (fun o => o.1.map val32)
    let n := (vals.headD []).length
    let tr := decide (w.op = 0x44) && bit w.opx 0
    let rows : List (Nat × Nat × List Val) :=
      if tr then (List.range n).map (fun j => (j, g * u, vals.map (fun v => v.getD j .zero)))
      else (rs.zip vals).map (fun p => (p.1, 0, p.2))
    if w.op = 0x44 ∧ bit w.opx 1 then
      rows.foldl (fun (p : State × NFlags) r =>
        (pieces 64 (r.2.2.length) r.2.2).zipIdx.foldl (fun (p : State × NFlags) v =>
          let (s, g) := p.1.putSparse w a.c.c.addr r.1 (r.2.1 / 64 + v.2) v.1
          (s, p.2.or g)) p) (s, f)
    else
      let (s, g) := s.putRows w a.c.c.addr rows
      (s, f.or g)

/-- Address of poisoned data that a unit reads. -/
def State.unitPoison (s : State) (a : Active) (u : Nat) : Option Nat :=
  let w := a.c.cmd
  let g := vecGroup w
  let rs := ((List.range g).map (fun i => g * u + i)).filter (fun r => decide (r < lRows w.d0))
  let bc := w.opx / 8 % 4
  (rs.filterMap (fun r =>
    (s.linPoison w.d0 a.c.a.addr r).or
      (if w.op = 0x41 then s.linPoison w.d1 a.c.b.addr (if bc = 1 ∨ bc = 3 then 0 else r)
       else if w.op = 0x42 then (s.linPoison w.d1 a.c.b.addr r).or (s.linPoison w.d2 a.c.c.addr r)
       else none))).head?

/-- A vector command reads poisoned data: its job ends with a poison fault. -/
def State.vecFault (s : State) (t : Nat) (a : Active) (ad : Nat) : State :=
  s.faultCmd t 1 a.c { cls := 5, cause := 1, addr := ad, inj := s.poisonInj ad 64 }

/-- Units until the chunk's end (R224) or a halt; `n` bounds them. -/
def vecRun : Nat → Nat → State → State
  | 0, _, s => s
  | n + 1, t, s =>
    if s.halted then s
    else match (s.engine t 1).current with
    | none => s
    | some a =>
      let w := a.c.cmd
      match s.unitPoison a a.prog with
      | some ad => s.vecFault t a ad
      | none =>
        let (s, f) := s.vecUnit a a.prog
        let len := a.chunkLen + vecUnitTime w
        let a := { (a.gather f) with prog := a.prog + 1, chunkLen := len }
        if vecUnits w ≤ a.prog then (s.putActive t 1 a.finish).modEngine t 1 (fun e => e.stop w.slot)
        else if 512 < len + vecUnitTime w then
          (s.putActive t 1 { a with chunkLen := 0 }).modEngine t 1 (fun e => e.stop w.slot)
        else vecRun n t (s.putActive t 1 a)

/-- A vector opcode's row: the running command of that opcode, to its chunk's end. -/
def State.runVec (s : State) (t op : Nat) : State :=
  if s.halted then s
  else match (s.engine t 1).current with
  | some a =>
    if a.c.cmd.op = op then vecRun (vecUnits a.c.cmd) t (s.fireSram t a.c.a.addr (s.tilePanel t |>.map (fun p => (p, a.c.cmd.slot))))
    else s
  | none => s

def execVew1 (t : Tile) (s : State) : Host.Outcome State Fault Refusal := .next (s.runVec t 0x40)
def execVew2 (t : Tile) (s : State) : Host.Outcome State Fault Refusal := .next (s.runVec t 0x41)
def execVfma (t : Tile) (s : State) : Host.Outcome State Fault Refusal := .next (s.runVec t 0x42)
def execVred (t : Tile) (s : State) : Host.Outcome State Fault Refusal := .next (s.runVec t 0x43)
def execVcvt (t : Tile) (s : State) : Host.Outcome State Fault Refusal := .next (s.runVec t 0x44)
def execVzmap (t : Tile) (s : State) : Host.Outcome State Fault Refusal := .next (s.runVec t 0x45)

/-! ### Dispatch stages of the vector unit (R164, R170) -/

/-- Route entry (Table 5.5): valid, expert, weight. -/
def routeOf (e : Nat) : Bool × Nat × Nat := (bit e 15, bits e 0 12, bits e 32 32)

/-- Placement entry (Table 5.6): tile, input offset, output offset, CAP, SPILL. -/
structure Place where
  tile : Nat
  inOff : Nat
  outOff : Nat
  cap : Nat
  spill : Nat
deriving DecidableEq, Repr

def placeOf (e : Nat) : Place := ⟨bits e 0 14, bits e 16 22, bits e 38 22, bits e 64 16, bits e 80 16⟩

/-- Address of poisoned data in a raw operand. -/
def State.rawPoison (s : State) (base n : Nat) : Option Nat := if s.poisoned base n then some base else none

/-- MOE_COUNT: valid entries of the source's route table per expert. -/
def State.moeCount (s : State) (a : Active) : State :=
  let w := a.c.cmd
  let rts := (List.range (w.moeT * w.moeK)).map (fun i => routeOf (s.readNat 8 (a.c.a.addr + 8 * i)))
  (List.range w.moeE).foldl (fun s e =>
    s.writeNat 2 (a.c.c.addr + 2 * e) ((rts.filter (fun r => r.1 && decide (r.2.1 = e))).length)) s

/-- MOE_SCAN: base board and fill board of experts E0 to E0 + ECNT − 1. -/
def State.moeScan (s : State) (a : Active) : State :=
  let w := a.c.cmd
  (List.range w.moeEcnt).foldl (fun s i =>
    let e := w.moeE0 + i
    let cnt (g : Nat) : Nat := s.readNat 2 (a.c.a.addr + 2 * (g * w.moeE + e))
    let counts := (List.range w.moeG).map cnt
    let p := placeOf (s.readNat 16 (a.c.b.addr + 16 * e))
    let s := (List.range w.moeG).foldl (fun s g =>
      s.writeNat 4 (a.c.c.addr + 4 * (g * w.moeE + e)) ((counts.take g).foldl (· + ·) 0)) s
    let total := counts.foldl (· + ·) 0
    let main := min total p.cap
    let spill := if w.moeSpill then min (total - main) p.spill else 0
    s.writeNat 8 (a.c.c.addr + 4 * w.moeG * w.moeE + 8 * e) (total % 2 ^ 32 + main * 2 ^ 32 + spill * 2 ^ 48)) s

/-- One token's combined row (R170). -/
def State.moeSumRow (s : State) (w : WorkCmd) (t : Nat) (a : Active) (tok : Nat) : List Nat × NFlags :=
  let n := lCols w.d2
  let js := (List.range w.moeK).filter (fun j => decide (s.readNat 4 (winAddr t (w.moeRec + 4 * (tok * w.moeK + j))) / 2 ^ 30 < 2))
  let rows := js.map (fun j =>
    let wt := (routeOf (s.readNat 8 (a.c.a.addr + 8 * (tok * w.moeK + j)))).2.2
    (wt, s.linRow w.d1 a.c.b.addr w.sat (tok * w.moeK + j)))
  let wf : NFlags := { ni := rows.any (fun r => !(val32 r.1).isFinite) }
  let outs := (List.range n).map (fun c =>
    rows.foldl (fun (p : Nat × NFlags) r =>
      let (v, f) := fpFma w.sat r.1 (r.2.1.getD c 0) p.1
      (v, p.2.or f.noUf)) (0, {}))
  (outs.map (·.1), (gather (rows.map (·.2.2))).or ((opFlags outs).or wf))

def State.moeSum (s : State) (t : Nat) (a : Active) : State × NFlags :=
  let w := a.c.cmd
  let grp := if colBlocks w then 32 else 1
  (List.range (ceilDiv w.moeT grp)).foldl (fun (p : State × NFlags) g =>
    let toks := ((List.range grp).map (fun i => grp * g + i)).filter (fun k => decide (k < w.moeT))
    let os := toks.map (fun k => p.1.moeSumRow w t a k)
    let (s, f) := p.1.putRows w a.c.c.addr ((toks.zip os).map (fun q => (q.1, 0, q.2.1.map val32)))
    (s, (p.2.or f).or (gather (os.map (·.2))))) (s, {})

/-- Address of poisoned data that a dispatch stage of the vector unit reads. -/
def State.moePoison (s : State) (t : Nat) (a : Active) : Option Nat :=
  let w := a.c.cmd
  let tk := w.moeT * w.moeK
  match w.op with
  | 0x50 => s.rawPoison a.c.a.addr (8 * tk)
  | 0x51 => (s.rawPoison a.c.a.addr (2 * w.moeG * w.moeE)).or
      (s.rawPoison (a.c.b.addr + 16 * w.moeE0) (16 * w.moeEcnt))
  | _ => ((s.rawPoison a.c.a.addr (8 * tk)).or (s.rawPoison (winAddr t w.moeRec) (4 * tk))).or
      (((List.range tk).filterMap (fun r => s.linPoison w.d1 a.c.b.addr r)).head?)

/-- A dispatch stage's row: the running command of that opcode, whole (the spec states no time for its units, log 14). -/
def State.runMoe (s : State) (t op : Nat) : State :=
  if s.halted then s
  else match (s.engine t 1).current with
  | none => s
  | some a =>
    if a.c.cmd.op ≠ op then s
    else
      let s := s.fireSram t a.c.a.addr (s.tilePanel t |>.map (fun p => (p, a.c.cmd.slot)))
      if s.halted then s
      else match s.moePoison t a with
      | some ad => s.vecFault t a ad
      | none =>
        let (s, f) : State × NFlags :=
          if op = 0x50 then (s.moeCount a, {}) else if op = 0x51 then (s.moeScan a, {}) else s.moeSum t a
        (s.putActive t 1 (a.gather f).finish).modEngine t 1 (fun e => e.stop a.c.cmd.slot)

def execMoeCount (t : Tile) (s : State) : Host.Outcome State Fault Refusal := .next (s.runMoe t 0x50)
def execMoeScan (t : Tile) (s : State) : Host.Outcome State Fault Refusal := .next (s.runMoe t 0x51)
def execMoeSum (t : Tile) (s : State) : Host.Outcome State Fault Refusal := .next (s.runMoe t 0x52)

end Sys2Proof.Machine
end

