-- ==== Sys2Proof/Machine/Mover.lean ====
section
/-!
DEFINITION. The mover (03 R79 to R82, R642; 07 R239 to R242; 09 R296 to R306; 11 R375 to R384; 05 R165 to R170; 17 R553 to
R555): MV_COPY, MV_FILL, MV_EXPAND, MOE_DISPATCH, MOE_GATHER, RB_ADD, RB_READ, STAMP, MOVER_TRANSACTION_RESPONSE. A command's
work is planned when its row first runs; work inside the tile's own SRAM is performed at once, the rest as transactions.
-/
namespace Sys2Proof.Machine

def inOwn (t a : Nat) : Bool := decide (winAddr t 0 ≤ a ∧ a < winAddr t 0 + winSize)

/-- How a piece of work reaches outside the tile's SRAM. -/
structure Reach where
  addr : Nat
  len : Nat
  write : Bool := false
  coh : Bool := false
  staged : Bool := false
deriving DecidableEq, Repr

def Active.reach (t : Nat) (a : Active) (w : Work) : Option Reach :=
  let rd (src n : Nat) : Option Reach :=
    if inOwn t src then none
    else some { addr := src, len := n, coh := a.c.a.coh && isCoherent src, staged := decide (a.c.a.tier = 4) }
  let wr (dst n : Nat) : Option Reach :=
    if inOwn t dst then none else some { addr := dst, len := n, write := true, coh := a.c.c.coh && isCoherent dst }
  match w with
  | .copy src dst n => (wr dst n).or (rd src n)
  | .fill dst n _ => wr dst n
  | .put dst bs => wr dst bs.length
  | .piece _ _ src n => rd src n
  | .cacc _ _ n addr => some { addr := addr, len := 6 * n, write := true }
  | .rb _ n addr => some { addr := addr, len := 6 * n }

/-! ### Division into transactions (R79, R642) -/

/-- Lengths of the pieces of `[a, a + len)`: at most `cap` bytes, none across a multiple of `al`. -/
def splitLens (cap al : Nat) : Nat → Nat → Nat → List Nat
  | 0, _, _ => []
  | n + 1, a, len =>
    if len = 0 then []
    else let k := min (min cap (al - a % al)) len; k :: splitLens cap al n (a + k) (len - k)

/-- Offsets and lengths of the pieces. -/
def splitRun (cap al a len : Nat) : List (Nat × Nat) :=
  ((splitLens cap al len a len).foldl (fun (p : Nat × List (Nat × Nat)) k => (p.1 + k, p.2 ++ [(p.1, k)])) (0, [])).2

def WorkCmd.cap (w : WorkCmd) : Nat := 2 ^ (6 + w.chk)

/-- Pieces of a run whose target is `a`: through the host-window cache line by line. -/
def WorkCmd.split (w : WorkCmd) (coh : Bool) (a len : Nat) : List (Nat × Nat) :=
  if coh then splitRun 64 64 a len else splitRun w.cap 4096 a len

/-- Row-major runs that are contiguous on both sides: source and destination offsets from the bases, length. -/
def copyRuns (ca sa cc sc : Nat) : Nat → Nat → Nat → List (Nat × Nat × Nat)
  | 0, _, _ => []
  | n + 1, pos, total =>
    if total ≤ pos then []
    else
      let k := min (min (ca - pos % ca) (cc - pos % cc)) (total - pos)
      (pos / ca * sa + pos % ca, pos / cc * sc + pos % cc, k) :: copyRuns ca sa cc sc n (pos + k) total

/-- MV_COPY (R239). -/
def copyPlan (t : Nat) (a : Active) : List Work :=
  let w := a.c.cmd
  let (x, y) := (w.d0, w.d2)
  let runs := copyRuns (lCols x) (lStride x) (lCols y) (lStride y) (lRows x + lRows y) 0 (rawBytes x)
  runs.flatMap (fun r =>
    let src := a.c.a.addr + r.1
    let dst := a.c.c.addr + r.2.1
    let far := if inOwn t dst then src else dst
    let coh := isCoherent far && (if inOwn t dst then a.c.a.coh else a.c.c.coh)
    (w.split coh far r.2.2).map (fun p => .copy (src + p.1) (dst + p.1) p.2))

/-- MV_FILL (R239): the pattern repeats along the destination's row-major bytes. -/
def fillPlan (a : Active) : List Work :=
  let w := a.c.cmd
  let n := lRowBytes w.d2
  (List.range (lRows w.d2)).flatMap (fun r =>
    let dst := a.c.c.addr + r * lStride w.d2
    (w.split (a.c.c.coh && isCoherent dst) dst n).map (fun p => .fill (dst + p.1) p.2 (r * n + p.1)))

/-- MV_EXPAND (R240): the frames' bytes. -/
def expandPlan (a : Active) : List Work :=
  let w := a.c.cmd
  (List.range (lRows w.d0)).flatMap (fun i =>
    let src := a.c.a.addr + i * lStride w.d0
    (w.split (a.c.a.coh && isCoherent src) src (lCols w.d0)).map (fun p => .piece i p.1 (src + p.1) p.2))

/-- Elements of the transactions of one row of a reduction buffer: whole groups of four, ending before the first group
that would cross a 4 KiB boundary (R642). -/
def bufRow (cap : Nat) : Nat → Nat → Nat → List Nat
  | 0, _, _ => []
  | n + 1, a, left =>
    if left = 0 then []
    else
      let byCap := max 1 (min cap 4096 / 24)
      let byEdge := (4096 - a % 4096) / 24
      let g := if byEdge = 0 then 1 else min byCap byEdge
      let k := min (4 * g) left
      k :: bufRow cap n (a + 6 * k) (left - k)

/-- Rows of RB_ADD or RB_READ: (row, first element in the row, elements, address). -/
def bufPlan (w : WorkCmd) (base rows cols stride : Nat) : List (Nat × Nat × Nat × Nat) :=
  (List.range rows).flatMap (fun r =>
    ((bufRow w.cap cols (base + r * stride) cols).foldl (fun (p : Nat × List (Nat × Nat × Nat × Nat)) k =>
      (p.1 + k, p.2 ++ [(r, p.1, k, base + r * stride + 6 * p.1)])) (0, [])).2)

def addPlan (a : Active) : List Work :=
  let w := a.c.cmd
  (bufPlan w a.c.c.addr (lRows w.d2) (lCols w.d0) (lStride w.d2)).map (fun p => .cacc p.1 p.2.1 p.2.2.1 p.2.2.2)

def readPlan (a : Active) : List Work :=
  let w := a.c.cmd
  let cols := lCols w.d0 / 6
  (bufPlan w a.c.a.addr (lRows w.d0) cols (lStride w.d0)).map (fun p => .rb (p.1 * cols + p.2.1) p.2.2.1 p.2.2.2)

/-! ### Dispatch and gather (R165 to R170, R548) -/

/-- Placement entry of an expert, with the poison of its bytes. -/
def State.place (s : State) (a : Active) (e : Nat) : Place := placeOf (s.peekNat 16 (a.c.b.addr + 16 * e))

/-- R166: cause of the check that a valid route entry's placement fails. -/
def placeFault (q : Panel) (w : WorkCmd) (all : List Place) (e : Nat) (p : Place) : Option Nat :=
  let n := p.cap + p.spill
  let hits (x : Place) : Bool :=
    decide (x.tile = p.tile) &&
      (overlaps (p.inOff - 64) 64 x.inOff ((x.cap + x.spill) * w.moeRI) ||
       overlaps (p.inOff - 64) 64 x.outOff ((x.cap + x.spill) * w.moeRO))
  if w.moeE ≤ e then some 3
  else if !q.holdsTile p.tile || decide (10240 ≤ p.tile) then some 1
  else if sramSize < p.inOff + n * w.moeRI ∨ sramSize < p.outOff + n * w.moeRO then some 2
  else if w.moeFC && (decide (p.inOff < 64) || all.any hits) then some 4
  else none

/-- One assignment's record entry: slot and state. -/
def recordOf (spillMode : Bool) (p : Place) (slot : Nat) : Nat :=
  if slot < p.cap then slot
  else if spillMode && decide (slot < p.cap + p.spill) then slot + 2 ^ 30
  else 2 * 2 ^ 30

/-- Route table of a dispatch command. -/
def State.routes (s : State) (t : Nat) (w : WorkCmd) : List (Bool × Nat × Nat) :=
  (List.range (w.moeT * w.moeK)).map (fun i => routeOf (s.readNat 8 (winAddr t (w.moeRoute + 8 * i))))

/-- The slot of the next assignment to an expert: from the base row in ranked order, or from the fill word. -/
def State.nextSlot (s : State) (t : Nat) (w : WorkCmd) (p : Place) (e : Nat) (given : Table Nat) : Nat × State × Table Nat :=
  if w.moeFC then
    let ad := winAddr p.tile (p.inOff - 64)
    let v := s.readNat 4 ad
    (v, s.writeNat 4 ad (v + 1), given)
  else
    let k := given.get 0 e
    (s.readNat 4 (winAddr t (w.moeBase + 4 * e)) + k, s, given.set 0 e (k + 1))

/-- The slot record of one (token, choice), added to those before it. -/
def State.assignOne (s : State) (t : Nat) (a : Active) (p : List Nat × State × Table Nat) (x : Bool × Nat × Nat) :
    List Nat × State × Table Nat :=
  if !x.1 then (p.1 ++ [3 * 2 ^ 30], p.2)
  else
    let pl := s.place a x.2.1
    let (slot, s', g) := p.2.1.nextSlot t a.c.cmd pl x.2.1 p.2.2
    (p.1 ++ [recordOf a.c.cmd.moeSpill pl slot], s', g)

/-- Records of a dispatch, in (t, j) order, with the state after the fill words' increments. -/
def State.assign (s : State) (t : Nat) (a : Active) (rts : List (Bool × Nat × Nat)) : List Nat × State :=
  let r := rts.foldl (s.assignOne t a) ([], s, [])
  (r.1, r.2.1)

/-- Rows that go to buffers, then the record. -/
def State.dispatchPlan (s : State) (a : Active) (rts : List (Bool × Nat × Nat)) (recs : List Nat) : List Work :=
  let w := a.c.cmd
  let rows := (rts.zip recs).zipIdx.flatMap (fun x =>
    if x.1.2 / 2 ^ 30 < 2 then
      let p := s.place a x.1.1.2.1
      let dst := winAddr p.tile (p.inOff + x.1.2 % 2 ^ 17 * w.moeRI)
      let src := a.c.a.addr + x.2 / w.moeK * w.moeRI
      (splitRun w.cap 4096 dst w.moeRI).map (fun k => Work.copy (src + k.1) (dst + k.1) k.2)
    else [])
  let bytes := recs.flatMap (toBytes 4)
  rows ++ (w.split (a.c.c.coh && isCoherent a.c.c.addr) a.c.c.addr bytes.length).map
    (fun p => .put (a.c.c.addr + p.1) ((bytes.drop p.1).take p.2))

/-- MOE_GATHER: main and spill rows to their staging rows. -/
def State.gatherPlan (s : State) (t : Nat) (a : Active) : List Work :=
  let w := a.c.cmd
  let tk := w.moeT * w.moeK
  (List.range tk).flatMap (fun i =>
    let r := s.peekNat 4 (a.c.a.addr + 4 * i)
    if r / 2 ^ 30 < 2 then
      let e := (routeOf (s.readNat 8 (winAddr t (w.moeRoute + 8 * i)))).2.1
      let p := s.place a e
      let src := winAddr p.tile (p.outOff + r % 2 ^ 17 * w.moeRO)
      let dst := a.c.c.addr + i * w.moeRO
      (splitRun w.cap 4096 src w.moeRO).map (fun k => Work.copy (src + k.1) (dst + k.1) k.2)
    else [])

/-! ### Faults of reads and writes (R76, R282, R639) -/

/-- Agent that answers for an address. -/
def answerer (a : Nat) : Agent :=
  match regionOf a with
  | .window t _ => tileAgent t
  | .hbm q _ => sillAgent (q / 2)
  | .lpddr a => hostAgent (a / 2 ^ 40)
  | _ => .manager

/-- The record of an engine's access that did not end OK. -/
def State.accessEvent (s : State) (t a n : Nat) (r : Resp) : Option Event :=
  match r with
  | .ok => none
  | .poisoned =>
    if !inOwn t a && (match regionOf a with | .window .. => true | _ => false) then
      some { cls := 0x10, cause := 3, addr := a, inj := s.poisonInj a n }
    else some { cls := 5, cause := poisonCause a, addr := a, inj := s.poisonInj a n }
  | r => let (c, k) := errCause a r; some { cls := c, cause := k, addr := a }

/-- An access answered as unmapped is recorded by the agent that answered. -/
def State.noteUnmapped (s : State) (a : Nat) (write : Bool) (r : Resp) : State :=
  if r = .unmapped then s.recordUnmapped (answerer a) a write else s

/-! ### Screed (R296 to R303) -/

/-- Bytes collected of frame `i`, in order. -/
def Active.frameBytes (a : Active) (i : Nat) : List Byte :=
  (a.bytes.filter (fun p => decide (p.1 / 2 ^ 20 = i))).flatMap (fun p => p.2)

/-- Header checks of Table 9.9: cause of the first that fails. -/
def frameFault (d0 d2 : Nat) (brick total : Nat) (bs : List Byte) : Option Nat :=
  let h := ofBytes (bs.take 16)
  let used := bits h 64 16 * 4
  if bits h 0 8 ≠ 1 ∨ bits h 13 3 ≠ 0 ∨ bits h 80 16 ≠ 0 ∨ bits h 16 16 = 0 ∨ used < 20 ∨ lCols d0 < used then some 1
  else if bits h 8 4 ≠ dFmt d2 ∨ bit h 12 ≠ aSparse d2 then some 2
  else if bits h 32 32 ≠ brick ∨ total < brick + bits h 16 16 then some 3
  else none

/-- A record's parts: present vectors, element maps, offsets of scales, index words and values, its size. -/
structure BrickRec where
  kind : Nat
  scm : Bool
  vmap : Nat
  nv : Nat
  emaps : Nat
  scales : Nat
  index : Nat
  values : Nat
  size : Nat
deriving DecidableEq, Repr

def bitCount (n w : Nat) : Nat := (setPositions n w).length

/-- R300: the record at the head of `bs`. -/
def brickRec (fmt : Nat) (sp : Bool) (bs : List Byte) : BrickRec :=
  let h := ofBytes (bs.take 4)
  let kind := h % 4
  let scm := bit h 2
  let vmap := if kind = 1 then 2 ^ 32 - 1 else if kind = 0 then 0 else ofBytes ((bs.drop 4).take 4)
  let nv := bitCount 32 vmap
  let emaps := if kind = 2 ∨ kind = 3 then 8 else 4
  let scales := emaps + (if kind = 3 then 4 * nv else 0)
  let index := scales + (if kind = 0 ∨ !isBlockFmt fmt then 0 else if scm then nv else 1)
  let values := index + (if sp then 8 * nv else 0)
  let stored := if kind = 3 then
      ((List.range nv).map (fun i => bitCount 32 (ofBytes ((bs.drop (emaps + 4 * i)).take 4)))).foldl (· + ·) 0
    else 0
  let n := if kind = 3 then ceilDiv (stored * fmtWidth fmt) 8 else nv * vecSize fmt
  ⟨kind, scm, vmap, nv, emaps, scales, index, values, if kind = 0 then 4 else ceilDiv (values + n) 4 * 4⟩

/-- R303: the record at offset 0 of `bs`, of which `left` bytes are in use, is well formed. -/
def recOk (fmt : Nat) (bs : List Byte) (left : Nat) (r : BrickRec) : Bool :=
  let h := ofBytes (bs.take 4)
  decide (4 ≤ left ∧ bits h 3 13 = 0 ∧ bits h 16 16 = r.size ∧ r.size ≤ left) &&
  !(decide (r.kind ≥ 2 ∧ r.vmap = 0)) && !(r.scm && !isBlockFmt fmt)

/-- Element codes, scale and index word of vector `r` (R301). -/
def brickVec (fmt : Nat) (bs : List Byte) (b : BrickRec) (r : Nat) : Nat × Nat × Nat :=
  let w := fmtWidth fmt
  let i := bitCount r b.vmap
  if !bit b.vmap r then (0, 0x7F, 0x4444444444444444)
  else
    let scale := ofBytes ((bs.drop (b.scales + (if b.scm then i else 0))).take 1)
    let ix := ofBytes ((bs.drop (b.index + 8 * i)).take 8)
    let codesOf : Nat :=
      if b.kind = 3 then
        let em (k : Nat) : Nat := ofBytes ((bs.drop (b.emaps + 4 * k)).take 4)
        let before := ((List.range i).map (fun k => bitCount 32 (em k))).foldl (· + ·) 0
        let vals := ofBytes ((bs.drop b.values).take (b.size - b.values))
        (setPositions 32 (em i)).zipIdx.foldl (fun acc p => acc + bits vals ((before + p.2) * w) w * 2 ^ (p.1 * w)) 0
      else ofBytes ((bs.drop (b.values + i * vecSize fmt)).take (vecSize fmt))
    (codesOf, scale, ix)

/-- Writes brick `n` of a destination. -/
def State.putBrick (s : State) (t : Nat) (a : Active) (n : Nat) (bs : List Byte) (b : BrickRec) : State :=
  let w := a.c.cmd
  let d := w.d2
  let kb := aBlk d
  let v := vecSize (dFmt d)
  let s := if b.kind = 0 && !bit w.opx 0 then s
    else (List.range 32).foldl (fun s r =>
      let (cs, sc, ix) := brickVec (dFmt d) bs b r
      let x := vecOff d (32 * (n / kb) + r) (n % kb)
      let s := s.writeNat v (a.c.c.addr + x) cs
      let s := if aSparse d then s.writeNat 8 (a.c.c.addr + x + v) ix else s
      if dScale d = 2 then s.writeNat 1 (a.c.c.addr + scaleOff d x) sc else s) s
  if bit w.opx 1 then
    let ad := winAddr t (w.opx / 4 * 4096 + n / 8)
    s.writeNat 1 ad (setBits (s.readNat 1 ad) (n % 8) 1 (b2n (decide (b.kind = 0))))
  else s

/-- Records of a frame, from brick `n`, until they end or one is bad: the state, the next brick, whether all were good. -/
def State.putRecords (s : State) (t : Nat) (a : Active) : Nat → Nat → List Byte → State × Nat × Bool
  | 0, n, bs => (s, n, bs.isEmpty)
  | k + 1, n, bs =>
    let d := a.c.cmd.d2
    let r := brickRec (dFmt d) (aSparse d) bs
    if recOk (dFmt d) bs bs.length r then
      (s.putBrick t a n bs r).putRecords t a k (n + 1) (bs.drop r.size)
    else (s, n, false)

def expandTotal (w : WorkCmd) : Nat := aRows w.d2 / 32 * aBlk w.d2

def screedEvent (cause frame brick : Nat) (inj : Bool) : Event :=
  { cls := 9, cause := cause, inj := inj, detail := frame % 2 ^ 32 + brick % 2 ^ 32 * 2 ^ 32 }

/-- DET 0x08 at the check of a frame: the state, and whether the check fails by the injection. -/
def State.fireFrame (s : State) (t : Nat) (job : Option (Nat × Nat)) (frame brick : Nat) : State × Bool :=
  match s.armed 8 t with
  | none => (s, false)
  | some (_, log) =>
    let s := s.disarm 8 t
    if log then (s.emit { (screedEvent 5 frame brick true) with job := job, unit := tileAgent t }, false) else (s, true)

/-- Expands the frame `a.frame`, whose bytes are complete: header, CRC, then records. -/
def State.expandFrame (s : State) (t : Nat) (a : Active) (bs : List Byte) : State × Active × Option Event :=
  let w := a.c.cmd
  match frameFault w.d0 w.d2 a.brick (expandTotal w) bs with
  | some k => (s, a, some (screedEvent k a.frame a.brick false))
  | none =>
    let h := ofBytes (bs.take 16)
    let body := (bs.take (bits h 64 16 * 4)).drop 16
    let (s, inj) := s.fireFrame t (s.jobOf t w.slot) a.frame a.brick
    if inj || decide (crc32c body ≠ bits h 96 32) then (s, a, some (screedEvent 5 a.frame a.brick inj))
    else
      let (s, n, ok) := s.putRecords t a (bits h 16 16) a.brick body
      let a' := { a with frame := a.frame + 1, brick := n, bytes := a.bytes.filter (fun p => decide (p.1 / 2 ^ 20 ≠ a.frame)) }
      if ok then (s, a', none) else (s, a, some (screedEvent 4 a.frame n false))

/-- Frames in order, as long as the next one is complete. -/
def State.expandReady (s : State) (t : Nat) : Nat → Active → State × Active × Option Event
  | 0, a => (s, a, none)
  | k + 1, a =>
    let bs := a.frameBytes a.frame
    if bs.length < lCols a.c.cmd.d0 then (s, a, none)
    else match s.expandFrame t a bs with
      | (s, a, some e) => (s, a, some e)
      | (s, a, none) => s.expandReady t k a

/-! ### One piece of work -/

/-- The pattern's bytes from position `phase` (R239). -/
def patternBytes (d0 phase n : Nat) : List Byte := (List.range n).map (fun i => BitVec.ofNat 8 (d0 / 256 ^ ((phase + i) % 8)))

/-- Reads `[a, a + n)` for a command: own SRAM, another memory, or the host-window cache. -/
def State.moverRead (s : State) (t : Nat) (a : Active) (ad n : Nat) (cached : Bool) : State × Except Event (List Byte) :=
  if cached then
    let x := s.cacheLine (toHolderTile t) (lineOf ad)
    if x.pz then (s, .error { cls := 5, cause := poisonCause ad, addr := ad, inj := s.poisonInj ad n })
    else (s, .ok (x.bytes (ad % 64) n))
  else
    let s := if inOwn t ad then s else s.fireRead ad (s.jobOf t a.c.cmd.slot)
    let r := s.readResp ad n
    match s.accessEvent t ad n r with
    | some e => (s.noteUnmapped ad false r, .error e)
    | none => let (bs, s) := s.cohRead n ad; (s, .ok bs)

def State.moverWrite (s : State) (t : Nat) (ad : Nat) (bs : List Byte) (cached : Bool) : State × Option Event :=
  if cached then (s.modLine (toHolderTile t) (lineOf ad) (fun x => x.put (ad % 64) bs), none)
  else
    let r := s.writeResp ad bs.length
    match s.accessEvent t ad bs.length r with
    | some e => (s.noteUnmapped ad true r, some e)
    | none => (s.cohWrite ad bs, none)

/-- Elements read from a reduction buffer (R380, R383); the entry stands as the first read finds it. -/
def State.moverElems (s : State) (t : Nat) (a : Active) (i0 n ad : Nat) : State × Active × Option Event :=
  let rtid := a.c.cmd.opx
  let p := (s.tilePanel t).getD 0
  let e := (s.panel p).rtab.get 0 rtid
  match rtRefuse e ad n with
  | some c => (s, a, some { cls := 0x0A, cause := c, addr := ad, detail := rtid })
  | none =>
    match s.moverRead t a ad (6 * n) false with
    | (s, .error ev) => (s, a, some ev)
    | (s, .ok bs) =>
      let es := (List.range n).foldl (fun (m : Table Nat) i => m.set 0 (i0 + i) (ofBytes ((bs.drop (6 * i)).take 6))) a.elems
      (s, { a with elems := es, entry := a.entry.or (some e) }, none)

/-- The bytes a piece of work moves: given with the response, or read now. -/
def State.workBytes (s : State) (t : Nat) (a : Active) (given : Option (List Byte)) (ad n : Nat) (cached : Bool) :
    State × Except Event (List Byte) :=
  match given with
  | some bs => (s, .ok bs)
  | none => s.moverRead t a ad n cached

/-- Performs a piece of work; `given` is a staged read's data. -/
def State.doWork (s : State) (t : Nat) (a : Active) (w : Work) (given : Option (List Byte)) (cached : Bool) :
    State × Active × Option Event :=
  let rdCached := fun (ad : Nat) => cached && !inOwn t ad
  match w with
  | .copy src dst n =>
    (match s.workBytes t a given src n (rdCached src) with
     | (s, .error e) => (s, a, some e)
     | (s, .ok bs) => let (s, e) := s.moverWrite t dst bs (rdCached dst); (s, a, e))
  | .fill dst n ph => let (s, e) := s.moverWrite t dst (patternBytes a.c.cmd.d0 ph n) (rdCached dst); (s, a, e)
  | .put dst bs => let (s, e) := s.moverWrite t dst bs (rdCached dst); (s, a, e)
  | .piece i off src n =>
    (match s.workBytes t a given src n (rdCached src) with
     | (s, .error e) => (s, a, some e)
     | (s, .ok bs) =>
       s.expandReady t (lRows a.c.cmd.d0) { a with bytes := a.bytes.set [] (i * 2 ^ 20 + off) bs })
  | .cacc .. => (s, a, none)
  | .rb i0 n ad => s.moverElems t a i0 n ad

/-! ### The end of a command -/

/-- R383: the exact value of an element, or FP32 where it would round above FP32's range. -/
def rbValue (sat : Bool) (e v : Nat) : Val × NFlags :=
  let x := signed 48 v
  let y : Val := .num (decide (x < 0)) x.natAbs (rtX e)
  let (c, f) := rne32 sat y
  if f.of then (val32 c, { of := true, sat := f.sat }) else (y, {})

/-- R384, Table 11.3. -/
def normFragment (rtid e : Nat) (vs : List Nat) : Nat :=
  let n := (vs.map (fun v => (signed 48 v).natAbs ^ 2)).foldl (· + ·) 0
  n % 2 ^ 128 + bits e 96 10 * 2 ^ 128 + b2n (rtOF e) * 2 ^ 144 + b2n (rtNF e) * 2 ^ 145 + b2n (rtMval e) * 2 ^ 146 +
  rtid % 2 ^ 12 * 2 ^ 156 + (vs.length - 1) % 2 ^ 32 * 2 ^ 192 + bits e 136 10 * 2 ^ 224

/-- Rows of a linear operand and its scales, as ranges. -/
def linRanges (d base : Nat) : List (Nat × Nat) :=
  (List.range (lRows d)).map (fun r => (base + r * lStride d, lRowBytes d)) ++
  (if dScale d = 2 then [(base + lSpo d * 1024, if dLayout d = 1 then lRows d / 32 * lCols d else lRows d * (lCols d / 32))] else [])

/-- RB_READ's output: values or a norm fragment. -/
def State.rbFinish (s : State) (t : Nat) (a : Active) : State × Active × Option Event :=
  let w := a.c.cmd
  let n := lRows w.d0 * (lCols w.d0 / 6)
  let e := a.entry.getD 0
  let vs := (List.range n).map (a.elems.get 0)
  if isFragment w then
    let (s, ev) := s.moverWrite t a.c.c.addr (toBytes 32 (normFragment w.opx e vs)) false
    (s, a, ev)
  else
    let rs := linRanges w.d2 a.c.c.addr
    match (rs.filterMap (fun r => s.accessEvent t r.1 r.2 (s.writeResp r.1 r.2))).head? with
    | some ev => (s, a, some ev)
    | none =>
      let s := rs.foldl (fun s r => if isCoherent r.1 then s.takeLines true (linesOf r.1 r.2) else s) s
      let xs := vs.map (rbValue w.sat e)
      let cols := lCols w.d2
      let rows := (List.range (lRows w.d2)).map (fun r => (r, 0, ((xs.drop (r * cols)).take cols).map (·.1)))
      let (s, f) := s.putRows w a.c.c.addr rows
      let s := rs.foldl (fun s r => s.freshGrants (linesOf r.1 r.2)) s
      (s, (a.gather f).gather (gather (xs.map (·.2))), none)

/-- The started command of a slot and position. -/
def Engine.find (e : Engine) (j : Nat) (pos : Count) : Option Active :=
  e.active.find? (fun a => a.c.cmd.slot = j && a.c.pos = pos)

/-- A command whose last request is issued and whose transactions are all answered finishes. -/
def State.finishMove (s : State) (t j : Nat) (pos : Count) : State :=
  match (s.engine t 2).find j pos with
  | none => s
  | some a =>
    if !a.issued || a.done || (s.tile t).txns.any (fun x => x.slot = j && x.pos = pos) then s
    else
      let op := a.c.cmd.op
      let (s, a, e) : State × Active × Option Event :=
        if op = 0x81 ∧ a.brick ≠ expandTotal a.c.cmd then (s, a, some (screedEvent 3 a.frame a.brick false))
        else if op = 0x8D then s.rbFinish t a
        else (s, a, none)
      match e with
      | some ev => s.faultCmd t 2 a.c ev
      | none => s.putActive t 2 { a.finish with bytes := [], elems := [] }

/-! ### Issue (R79, R81, R82, R224) -/

/-- The smallest tag that no transaction of the tile bears. -/
def TileS.freeTag (t : TileS) : Nat :=
  ((List.range 65).find? (fun k => t.txns.all (fun x => decide (x.tag ≠ k)))).getD 0

/-- Values of an RB_ADD packet, its poison, and NI for the non-finite ones (R376). -/
def State.caccPacket (s : State) (t : Nat) (a : Active) (row e0 n ad : Nat) : Except Event (CaccPacket × NFlags) :=
  let w := a.c.cmd
  let src := a.c.a.addr + row * lStride w.d0 + 4 * e0
  if s.poisoned src (4 * n) then .error { cls := 5, cause := 1, addr := src, inj := s.poisonInj src (4 * n) }
  else
    let vs := (List.range n).map (fun i => s.readNat 4 (src + 4 * i))
    .ok (⟨Fin.ofNat 16 ((s.tilePanel t).getD 0), Fin.ofNat 8 w.slot, tileAgent t, false, false, false, false, 0,
          Fin.ofNat 4096 w.opx, ad, vs⟩, { ni := vs.any (fun v => !(val32 v).isFinite) })

/-- A transaction enters the router: a copy out of the tile carries its bytes, RB_ADD its packet. -/
def State.sendTxn (s : State) (t : Nat) (a : Active) (w : Work) (r : Reach) : State × Active × Option Event :=
  let x : Txn := { tag := (s.tile t).freeTag, slot := a.c.cmd.slot, pos := a.c.pos, work := w, staged := r.staged, waiting := r.staged }
  let add (s : State) (x : Txn) : State := s.modTile t (fun y => { y with txns := y.txns ++ [x] })
  match w with
  | .copy src dst n =>
    if inOwn t src then
      (match s.moverRead t a src n false with
       | (s, .error e) => (s, a, some e)
       | (s, .ok bs) => (add s { x with work := .put dst bs }, a, none))
    else (add s x, a, none)
  | .cacc row e0 n ad =>
    (match s.caccPacket t a row e0 n ad with
     | .error e => (s, a, some e)
     | .ok (p, f) => (add { s with caccs := s.caccs ++ [p] } x, a.gather f, none))
  | _ => (add s x, a, none)

def State.stopMover (s : State) (t j : Nat) : State := s.modEngine t 2 (fun e => e.stop j)

/-- Issues the next piece of work, or ends the chunk where it cannot go on. -/
def State.issueWork (s : State) (t : Nat) (a : Active) : State :=
  let j := a.c.cmd.slot
  let after (r : State × Active × Option Event) (rest : List Work) : State :=
    match r with
    | (s, a, some e) => s.faultCmd t 2 a.c e
    | (s, a, none) => s.putActive t 2 { a with plan := some rest, prog := a.prog + 1 }
  match a.plan with
  | none => s
  | some [] => ((s.putActive t 2 { a with issued := true }).stopMover t j).finishMove t j a.c.pos
  | some (w :: rest) =>
    match a.reach t w with
    | none => after (s.doWork t a w none false) rest
    | some r =>
      if r.coh then
        if (s.cacheLine (toHolderTile t) (lineOf r.addr)).serves r.write then after (s.doWork t a w none true) rest
        else (s.missLine t (lineOf r.addr) r.write).stopMover t j
      else if 64 ≤ (s.tile t).txns.length then s.stopMover t j
      else after (s.sendTxn t a w r) rest

def issueRun : Nat → Nat → State → State
  | 0, _, s => s
  | n + 1, t, s =>
    if s.halted then s
    else match (s.engine t 2).current with
    | none => s
    | some a => issueRun n t (s.issueWork t a)

/-! ### Stamps (R553 to R555) -/

/-- The 144 B message of Table 17.4. -/
def stampMessage (ctx input : List Byte) (rv rext nmods rank tiles flags fw : Nat) : List Byte :=
  [0x47, 0x4C, 0x58, 0x53, 0x54, 0x4D, 0x50, 0x31] ++ ctx ++ input ++ toBytes 8 rv ++ toBytes 8 rext ++ toBytes 2 nmods ++
  toBytes 2 rank ++ toBytes 2 tiles ++ toBytes 1 flags ++ toBytes 1 0xB1 ++ toBytes 4 fw ++ toBytes 12 0

/-- The record of Table 17.5. -/
def stampRecord (digest : List Byte) (rv rext modid rank nmod wb : Nat) (plumb fallback : Bool) (slot gen : Nat) (tsync : Bool) (ts : Nat) : Nat :=
  ofBytes digest + rv % 2 ^ 48 * 2 ^ 256 + rext % 2 ^ 48 * 2 ^ 320 + modid % 2 ^ 10 * 2 ^ 384 + rank % 2 ^ 10 * 2 ^ 394 +
  nmod % 2 ^ 10 * 2 ^ 404 + wb % 2 ^ 5 * 2 ^ 414 + b2n plumb * 2 ^ 419 + b2n fallback * 2 ^ 420 + slot % 8 * 2 ^ 421 +
  gen % 256 * 2 ^ 424 + b2n tsync * 2 ^ 432 + ts % 2 ^ 64 * 2 ^ 448

/-- Extent of D1, which STAMP takes in either form (R291): array form where its LAYOUT is of that form is not told by the
descriptor, so the linear form is taken (log 21). -/
def stampExtent (d : Nat) : Nat := lExtent d false

def State.stampOf (s : State) (a : Active) (p : Nat) (ctx input : List Byte) : Nat :=
  let w := a.c.cmd
  let b := s.job p w.slot
  let rext := stampExtent w.d1
  let q := s.panel p
  let digest := sha256 (stampMessage ctx input a.c.b.vaddr rext (b.nmod + 1) b.rank (640 * q.wb)
    (b2n b.plumb + 2 * b2n b.fallback) s.fw)
  stampRecord digest a.c.b.vaddr rext s.modId b.rank b.nmod q.wb b.plumb b.fallback w.slot a.c.gen s.time.lock s.now

/-- STAMP: reads D0 and the context, writes the record. -/
def State.runStamp (s : State) (t : Nat) (a : Active) : State :=
  let w := a.c.cmd
  let p := (s.tilePanel t).getD 0
  let ctxA := (s.job p w.slot).hdrAddr + 64
  match s.moverRead t a ctxA 64 false with
  | (s, .error e) => s.faultCmd t 2 a.c e
  | (s, .ok ctx) =>
    match s.moverRead t a a.c.a.addr 32 false with
    | (s, .error e) => s.faultCmd t 2 a.c e
    | (s, .ok input) =>
      match s.moverWrite t a.c.c.addr (toBytes 64 (s.stampOf a p ctx input)) false with
      | (s, some e) => s.faultCmd t 2 a.c e
      | (s, none) => (s.putActive t 2 a.finish).stopMover t w.slot

/-! ### Rows -/

/-- R166 and the poison of what a dispatch reads before it sends a row. -/
def State.dispatchFault (s : State) (t : Nat) (a : Active) (rts : List (Bool × Nat × Nat)) : Option Event :=
  let w := a.c.cmd
  let tk := w.moeT * w.moeK
  let ro := winAddr t w.moeRoute
  let es := (rts.filter (·.1)).map (·.2.1)
  let q := s.panel ((s.tilePanel t).getD 0)
  let all := (es.filter (fun e => decide (e < w.moeE))).map (s.place a)
  if s.poisoned ro (8 * tk) then some { cls := 5, cause := 1, addr := ro, inj := s.poisonInj ro (8 * tk) }
  else if !w.moeFC && s.poisoned (winAddr t w.moeBase) (4 * w.moeE) then
    some { cls := 5, cause := 1, addr := winAddr t w.moeBase, inj := s.poisonInj (winAddr t w.moeBase) (4 * w.moeE) }
  else match s.accessEvent t a.c.b.addr (16 * w.moeE) (s.readResp a.c.b.addr (16 * w.moeE)) with
    | some e => some e
    | none =>
      (es.filterMap (fun e => (placeFault q w all e (s.place a e)).map (fun k =>
        ({ cls := 8, cause := k, detail := e % 2 ^ 12 } : Event)))).head?

/-- In plumb mode a first-come dispatch waits for its group rank (R548). -/
def State.plumbWaits (s : State) (t : Nat) (w : WorkCmd) : Bool :=
  let b := s.job ((s.tilePanel t).getD 0) w.slot
  b.plumb && w.moeFC && decide (b.fcTurn ≠ w.moeRank)

/-- The turn passes to the next group rank. -/
def State.passTurn (s : State) (t : Nat) (w : WorkCmd) : State :=
  if w.moeFC then s.modJob ((s.tilePanel t).getD 0) w.slot (fun b => { b with fcTurn := (w.moeRank + 1) % w.moeG }) else s

/-- The plan of a command, or its fault before any work. -/
def State.planMove (s : State) (t : Nat) (a : Active) : State × Except Event (List Work) :=
  let w := a.c.cmd
  match w.op with
  | 0x80 => (s, .ok (copyPlan t a))
  | 0x81 => (s, .ok (expandPlan a))
  | 0x82 => (s, .ok (fillPlan a))
  | 0x8C => (s, .ok (addPlan a))
  | 0x8D => (s, .ok (readPlan a))
  | 0x88 =>
    let rts := s.routes t w
    (match s.dispatchFault t a rts with
     | some e => (s, .error e)
     | none =>
       let (recs, s') := s.assign t a rts
       ((s'.passTurn t w), .ok (s.dispatchPlan a rts recs)))
  | _ =>
    let tk := w.moeT * w.moeK
    (match (s.accessEvent t a.c.a.addr (4 * tk) (s.readResp a.c.a.addr (4 * tk))).or
        (s.accessEvent t a.c.b.addr (16 * w.moeE) (s.readResp a.c.b.addr (16 * w.moeE))) with
     | some e => (s, .error e)
     | none => (s, .ok (s.gatherPlan t a)))

/-- A mover opcode's row: the running command of that opcode is planned and issues work until its chunk ends. -/
def State.runMove (s : State) (t op : Nat) : State :=
  if s.halted then s
  else match (s.engine t 2).current with
  | none => s
  | some a =>
    if a.c.cmd.op ≠ op then s
    else if op = 4 then s.runStamp t a
    else if a.plan.isSome then issueRun ((a.plan.getD []).length + 1) t s
    else if op = 0x88 ∧ s.plumbWaits t a.c.cmd then s.stopMover t a.c.cmd.slot
    else
      let s := s.fireSram t a.c.a.addr (s.jobOf t a.c.cmd.slot)
      if s.halted then s
      else match s.planMove t a with
      | (s, .error e) => s.faultCmd t 2 a.c e
      | (s, .ok ws) => issueRun (ws.length + 1) t (s.putActive t 2 { a with plan := some ws })

def execStamp (t : Tile) (s : State) : Host.Outcome State Fault Refusal := .next (s.runMove t 0x04)
def execMvCopy (t : Tile) (s : State) : Host.Outcome State Fault Refusal := .next (s.runMove t 0x80)
def execMvExpand (t : Tile) (s : State) : Host.Outcome State Fault Refusal := .next (s.runMove t 0x81)
def execMvFill (t : Tile) (s : State) : Host.Outcome State Fault Refusal := .next (s.runMove t 0x82)
def execMoeDispatch (t : Tile) (s : State) : Host.Outcome State Fault Refusal := .next (s.runMove t 0x88)
def execMoeGather (t : Tile) (s : State) : Host.Outcome State Fault Refusal := .next (s.runMove t 0x89)
def execRbAdd (t : Tile) (s : State) : Host.Outcome State Fault Refusal := .next (s.runMove t 0x8C)
def execRbRead (t : Tile) (s : State) : Host.Outcome State Fault Refusal := .next (s.runMove t 0x8D)

/-! ### Responses -/

def Work.packetAddr : Work → Option Nat | .cacc _ _ _ a => some a | _ => none

/-- The transaction's packet has not reached its engine. -/
def State.packetOut (s : State) (t : Nat) (x : Txn) : Bool :=
  match x.work.packetAddr with
  | some a => s.caccs.any (fun p => decide (p.src = tileAgent t ∧ p.addr = a ∧ p.slot.val = x.slot))
  | none => false

/-- A response that finds its command gone: a write out of the tile was on its way and is performed, the rest is
discarded (R508, R509). -/
def State.lateResponse (s : State) (t : Nat) (w : Work) : State :=
  match w with
  | .put dst bs => (s.moverWrite t dst bs false).1
  | _ => s

/-- Whether the answer can come yet: staged data served, the packet taken, the line not in a transaction. -/
def State.canAnswer (s : State) (t : Nat) (a : Option Active) (x : Txn) : Bool :=
  !x.waiting && !s.packetOut t x &&
  (match a.bind (fun a => a.reach t x.work) with
   | some r => !isCoherent r.addr || r.staged || (linesOf r.addr r.len).all (fun l => !s.lineBusy l)
   | none => true)

/-- MOVER_TRANSACTION_RESPONSE: frees the tag; an OK answer performs the transaction, another ends the job. -/
def State.txnResponse (s : State) (t tag : Nat) (r : Resp) : State :=
  match (s.tile t).txns.find? (fun x => x.tag = tag) with
  | none => s
  | some x =>
    let a := (s.engine t 2).find x.slot x.pos
    if s.frozen || !s.canAnswer t a x then s
    else
      let s := s.modTile t (fun y => { y with txns := y.txns.filter (fun z => decide (z.tag ≠ tag)) })
      match a with
      | none => if r = .ok then s.lateResponse t x.work else s
      | some a =>
        let far : Reach := (a.reach t x.work).getD { addr := 0, len := 0 }
        let bad := if r ≠ .ok then r else x.bad
        match s.accessEvent t far.addr far.len bad with
        | some e => (s.noteUnmapped far.addr far.write bad).faultCmd t 2 a.c e
        | none =>
          match s.doWork t a x.work (if x.staged then some x.data else none) false with
          | (s, a, some e) => s.faultCmd t 2 a.c e
          | (s, a, none) => (s.putActive t 2 a).finishMove t x.slot x.pos

def execMoverTransactionResponse (t : Tile) (tag : BitVec 8) (r : Resp) (s : State) : Host.Outcome State Fault Refusal :=
  .next (s.txnResponse t tag.toNat r)

end Sys2Proof.Machine
end

