-- ==== Sys2Proof/Machine/Course.lean ====
section
/-!
DEFINITION. Course ports (12, and the vote of 11 R399 to R404): the commands C_NOP to C_ABORT, collectives, frames received and
their application, acknowledgement and retransmission, votes and aborts, link states, Ethernet mode.
-/
namespace Sys2Proof.Machine

/-! ### Reads, writes and completion of units outside the tile plane -/

/-- R600, R601: an access into a tile window waits while the plane is stopped and not thawed. -/
def State.windowStopped (s : State) (a : Nat) : Bool :=
  s.frozen && (match regionOf a with | .window .. => true | _ => false)

/-- The record of a unit's access that did not end OK. A tile's remote agent answers poison with ERR (R75). -/
def State.unitEvent (s : State) (a n : Nat) (r : Resp) : Event :=
  match r, regionOf a with
  | .poisoned, .window .. => { cls := 0x10, cause := 3, addr := a }
  | r, _ => { cls := (errCause a r).1, cause := (errCause a r).2, addr := a, inj := s.poisonInj a n }

/-- A coherent read by a port or engine. -/
def State.unitRead (s : State) (job : Option (Nat × Nat)) (n a : Nat) : State × Except Event (List Byte) :=
  if n = 0 then (s, .ok [])
  else
    let s := s.fireRead a job
    let (bs, s) := s.cohRead n a
    match s.readResp a n with
    | .ok => (s, .ok bs)
    | r => (s.noteUnmapped a false r, .error (s.unitEvent a n r))

/-- A write by a port or engine. A write to the unpopulated part of a tile window is recorded and dropped (R76). -/
def State.unitWrite (s : State) (a : Nat) (bs : List Byte) : State × Option Event :=
  match s.writeResp a bs.length, regionOf a with
  | .ok, _ => (s.cohWrite a bs, none)
  | .unmapped, .window .. => (s.noteUnmapped a true .unmapped, none)
  | r, _ => (s.noteUnmapped a true r, some (s.unitEvent a bs.length r))

/-- A fault of a unit's command: its ring and position, the end of its job. -/
def State.faultUnit (s : State) (g p j : Nat) (pos : Count) (unit : Agent) (e : Event) : State :=
  (s.modRing g (fun r => { r with stopped := true })).faultJob p j { e with unit := unit, ring := g, pos := pos.toNat }

/-- Completion record of a unit's command (Table 7.9a), CHUNKS 0. -/
def State.putRecord (s : State) (g p j : Nat) (pos : Count) (outcome flags : Nat) : State × Option Event :=
  let r := s.ring g
  s.unitWrite (r.clog + pos.toNat % r.size * 8)
    (toBytes 8 (pos.toNat + flags * 2 ^ 32 + outcome * 2 ^ 38 + (s.job p j).gen % 256 * 2 ^ 40))

/-- Completion of a unit's command: record, then remote add, then its trace (R228, R431, R463, R480). -/
def State.unitDone (s : State) (unit : Agent) (q : Option Nat) (g p j : Nat) (pos : Count) (crec sigen : Bool)
    (tile ctr val outcome flags : Nat) : State :=
  let (s, e) := if crec then s.putRecord g p j pos outcome flags else (s, none)
  match e with
  | some e => s.faultUnit g p j pos unit e
  | none =>
    let s := if sigen then s.sendAdd unit p tile j ctr val else s
    s.traceUnit p q { kind := 10, unit := (agentCode unit).2, slot := j, pos := pos.toNat, arg := outcome + flags * 4 }

/-- Trace of a unit's command start (Table 19.5, kind 9). -/
def State.unitStarts (s : State) (unit : Agent) (q : Option Nat) (p j : Nat) (pos : Count) (op : Nat) : State :=
  s.traceUnit p q { kind := 9, unit := (agentCode unit).2, slot := j, pos := pos.toNat, arg := op + (agentCode unit).1 * 2 ^ 8 }

/-- A wait word as the unit reads it: whether it is at least `v`. -/
def State.waitWord (s : State) (p j a v : Nat) : State × Except Event Bool :=
  match s.unitRead (some (p, j)) 8 a with
  | (s, .ok bs) => (s, .ok (decide (v ≤ ofBytes bs)))
  | (s, .error e) => (s, .error e)

/-! ### Recovery holds (R264, R423, R595) -/

def State.linkHold (s : State) : Bool := s.links.any (fun l => l.2.hold)
/-- Holds of sill-ring hops and edge attachments. -/
def State.ringHold (s : State) : Bool := s.links.any (fun l => decide (2560 ≤ l.1) && l.2.hold)
def State.courseHold (s : State) : Bool := s.ports.any (fun n => n.2.hold)

/-! ### Rings and connections -/

def crsRing (n i : Nat) : Nat := 245760 + n * 256 + i
def crsPanel (i : Nat) : Nat := i / 16
def crsSlot (i : Nat) : Nat := i % 16 / 2

def keyPanel (k : Nat) : Nat := k / 32768
def keySlot (k : Nat) : Nat := k / 4096 % 8
def keyRank (k : Nat) : Nat := k / 4 % 1024
def keyCh (k : Nat) : Nat := k % 4

def seqSub (a b : Nat) : Nat := (a + 2 ^ 32 - b % 2 ^ 32) % 2 ^ 32
def seqInc (a : Nat) : Nat := (a + 1) % 2 ^ 32

/-- R419, R422: path `k` of a connection can carry a frame: its local port is up, in Course mode, and it is not skipped. -/
def State.pathUp (s : State) (c : Conn) (k : Nat) : Bool :=
  match c.paths[k]? with
  | some q => decide ((s.port q.1).st = 2) && !(s.port q.1).eth && decide (c.expiries.get 0 k < 2)
  | none => false

/-- The next usable path from `k` on, round-robin. -/
def State.nextPath (s : State) (c : Conn) (k : Nat) : Option Nat :=
  (rotate c.paths.length k).find? (fun i => s.pathUp c i)

/-- R417: payload bytes a frame of the connection may carry: the least MAXPAY of its local ports (log 24). -/
def State.maxPay (s : State) (c : Conn) : Nat := c.paths.foldl (fun m q => min m (s.port q.1).maxpay) 4096

/-- Frames in flight at a port (Table 12.6). -/
def State.inFlight (s : State) (n : Nat) : Nat :=
  (s.conns.map (fun c => (c.2.frames.filter (fun f => !f.accepted && decide ((c.2.paths.getD f.path (0, 0)).1 = n))).length)).sum

/-! ### Sending (R419, R422, R432) -/

/-- The header of a frame of a connection; C_ACC and C_PUT carry the entry's X and status as they stand. -/
def State.frameHdr (s : State) (k : Nat) (c : Conn) (f : SentFrame) : CHdr :=
  let h : CHdr := { type := if f.vote then 3 else 0, dst := c.peerMod, spanel := keyPanel k, dpanel := c.peerPanel, ch := keyCh k,
                    first := f.first, last := f.last, notify := f.notify, fence := f.fence, op := f.op, slot := keySlot k,
                    jtag := c.jtag, seq := f.seq, ackseq := c.a, win := f.win, off := f.off }
  if f.vote || f.op = 0 then h
  else
    let e := (s.panel (keyPanel k)).rtab.get 0 f.rtid
    { h with cof := rtOF e, cnf := rtNF e, cmv := rtMval e, cmaxe := bits e 136 10, cx := bits e 96 10 }

/-- Transmits a frame on its path, its payload read from the source. -/
def State.transmit (s : State) (k : Nat) (f : SentFrame) : State × Option Event :=
  let (s, r) := if f.vote then (s, .ok f.payload) else s.unitRead (some (keyPanel k, keySlot k)) f.len f.src
  match r with
  | .error e => (s, some e)
  | .ok bs =>
    let c := s.conn k
    let q := c.paths.getD f.path (0, 0)
    (s.sendFrame q.1 q.2 (s.frameHdr k c f) bs, none)

/-- How the sending of a frame went. -/
inductive Sent where
  | done
  | wait
  | bad (e : Event)
deriving DecidableEq, Repr

/-- R419: the first transmission of a frame: the next SEQ, the next path, while the window and the port have room. -/
def State.sendNew (s : State) (k : Nat) (f : SentFrame) : State × Sent :=
  let c := s.conn k
  match s.nextPath c c.rr with
  | none => (s, .wait)
  | some i =>
    if !c.live || decide (1024 ≤ seqSub c.seq c.acked) || decide (16384 ≤ s.inFlight (c.paths.getD i (0, 0)).1) then (s, .wait)
    else
      let f := { f with seq := c.seq, path := i }
      let s := s.setConn k { c with seq := seqInc c.seq, rr := (i + 1) % c.paths.length, frames := c.frames ++ [f] }
      match s.transmit k f with
      | (s, none) => (s, .done)
      | (s, some e) => (s, .bad e)

def State.sendList (s : State) : List (Nat × SentFrame) → Nat → State × Nat × Option Event
  | [], n => (s, n, none)
  | f :: r, n =>
    match s.sendNew f.1 f.2 with
    | (s, .done) => s.sendList r (n + 1)
    | (s, .wait) => (s, n, none)
    | (s, .bad e) => (s, n, some e)

/-- A frame sent again, on path `i` (R422). -/
def State.resendFrame (s : State) (k : Nat) (f : SentFrame) (i : Nat) : State :=
  let c := s.conn k
  let f' := { f with path := i, sends := f.sends + 1 }
  let s := s.setConn k { c with frames := c.frames.map (fun g => if g.seq = f.seq then f' else g) }
  let s := s.modPort (c.paths.getD i (0, 0)).1 (fun n => { n with retx := satAdd 0xFFFF n.retx 1 })
  match s.transmit k f' with
  | (s, none) => s
  | (s, some e) =>
    s.faultUnit (crsRing f.cmd.1 f.cmd.2.1) (keyPanel k) (keySlot k) f.cmd.2.2 (portAgent f.cmd.1) e

/-! ### Frames of a command (R417, R433, R436, R438, R440) -/

/-- Pieces of `total` units, `cap` at a time; one empty piece of an empty total. -/
def framePieces (cap total : Nat) : List (Nat × Nat) :=
  (List.range (max 1 (ceilDiv total (max 1 cap)))).map (fun i => (i * cap, min cap (total - i * cap)))

/-- A message of bytes: a write (R417). The frames of every message carry NOTIFY on the last (log 25). -/
def State.writeMsg (s : State) (k win off src bytes : Nat) (cmd : Nat × Nat × Count) : List (Nat × SentFrame) :=
  let ps := framePieces (s.maxPay (s.conn k)) bytes
  ps.zipIdx.map (fun x =>
    let last := decide (x.2 + 1 = ps.length)
    (k, { op := 0, first := decide (x.2 = 0), last := last, notify := last, win := win, off := off + x.1.1,
          src := src + x.1.1, len := x.1.2, cmd := cmd }))

/-- A message of reduction elements `e0` to `e0 + n - 1`: an accumulate or a put (R417). -/
def State.elemMsg (s : State) (k win rtid op e0 n : Nat) (cmd : Nat × Nat × Count) : List (Nat × SentFrame) :=
  let e := (s.panel (keyPanel k)).rtab.get 0 rtid
  let ps := framePieces (s.maxPay (s.conn k) / 24 * 4) n
  ps.zipIdx.map (fun x =>
    let last := decide (x.2 + 1 = ps.length)
    (k, { op := op, first := decide (x.2 = 0), last := last, notify := last, win := win, off := 6 * (e0 + x.1.1),
          src := rtBase e + 6 * (e0 + x.1.1), len := 6 * x.1.2, rtid := rtid, cmd := cmd }))

/-- R433. -/
def shardSize (n ranks : Nat) : Nat := 32 * ceilDiv n (32 * ranks)

/-- First element and count of shard `i`; an empty shard starts at its own place. -/
def shard (n ranks i : Nat) : Nat × Nat :=
  let z := shardSize n ranks
  (i * z, min ((i + 1) * z) n - i * z)

/-- Frames the command sends in its present phase, in order. -/
def State.cmdFrames (s : State) (n p j : Nat) (x : CourseCmd) : List (Nat × SentFrame) :=
  let b := s.job p j
  let w := x.w
  let cmd := (n, x.ring, x.pos)
  let key (r : Nat) : Nat := connKey p j r (ccCh w)
  let others := (List.range (b.nmod + 1)).filter (fun r => decide (r ≠ b.rank))
  let peers := (List.range b.nmod).map (fun k => (b.rank + k + 1) % (b.nmod + 1))
  let elems := rtCount ((s.panel p).rtab.get 0 (ccRtid w))
  match ccOp w with
  | 0x01 => s.writeMsg (key (ccPeer w)) (ccWin w) (ccRoff w) (ccSrc w) (ccBytes w) cmd
  | 0x02 => s.elemMsg (key (ccPeer w)) (ccWin w) (ccRtid w) 1 (ccFirstel w) (ccBytes w) cmd
  | 0x03 => s.elemMsg (key (ccPeer w)) (ccWin w) (ccRtid w) 2 (ccFirstel w) (ccBytes w) cmd
  | 0x08 => others.flatMap (fun r => s.writeMsg (key r) (ccWin w) (ccRoff w) (ccSrc w) (ccBytes w) cmd)
  | 0x20 =>
    let step := b.voteStep
    let bs := s.peek 64 (b.vtab + 128 * b.rank + 64 * (step % 2))
    others.map (fun r => (connKey p j r 0, { vote := true, first := true, last := true, len := 64, payload := bs, cmd := cmd }))
  | op =>
    if !ccCollective op then []
    else if x.phase = 0 then
      peers.flatMap (fun r => let h := shard elems (b.nmod + 1) r
        s.elemMsg (key r) (ccWin w) (ccRtid w) 1 h.1 h.2 cmd)
    else if x.phase = 2 then
      let h := shard elems (b.nmod + 1) b.rank
      peers.flatMap (fun r => s.elemMsg (key r) (ccWin w) (ccRtid w) 2 h.1 h.2 cmd)
    else []

def State.modCmd (s : State) (n i : Nat) (pos : Count) (f : CourseCmd → CourseCmd) : State :=
  s.modPort n (fun x => { x with cmds := x.cmds.map (fun c => if c.ring = i ∧ c.pos = pos then f c else c) })

/-- The command after it has sent `k` of its phase's frames, `all` in number. -/
def CourseCmd.advance (x : CourseCmd) (k all : Nat) : CourseCmd :=
  if k < all then { x with prog := k }
  else if !ccCollective (ccOp x.w) then { x with prog := k, sent := true }
  else if x.phase = 0 then { x with prog := 0, phase := 1, sent := decide (ccOp x.w = 0x11) }
  else { x with prog := 0, phase := 3, sent := true }

/-- A started command sends what the windows and ports let it. -/
def State.courseSend (s : State) (n i : Nat) (x : CourseCmd) : State :=
  let p := crsPanel i
  let j := crsSlot i
  let fs := s.cmdFrames n p j x
  let (s, k, e) := s.sendList (fs.drop x.prog) x.prog
  match e with
  | some e => s.faultUnit (crsRing n i) p j x.pos (portAgent n) e
  | none => s.modCmd n i x.pos (fun y => y.advance k fs.length)

/-! ### The vote (R399 to R404, R440) -/

def State.putOutcome (s : State) (p j step outcome peer : Nat) : State :=
  let b := s.job p j
  (s.cohWriteNat 16 b.outr (step % 2 ^ 64 + outcome * 2 ^ 64 + peer % 1024 * 2 ^ 80)).msi b.msia b.msid

/-- R402, R403, R404, R441: the module writes ABORT, tells the job's other modules unless one of them told it, and ends the
job. -/
def State.voteAbort (s : State) (p j step outcome peer : Nat) : State :=
  let b := s.job p j
  if b.jstate ≠ 1 then s
  else
    let s := s.putOutcome p j step outcome peer
    let s := if b.faulted then s else
      (s.modJob p j (fun b => { b with faulted := true })).emit
        { cls := 0x0F, cause := outcome, jend := true, job := some (p, j), unit := .manager, detail := step % 2 ^ 64 }
    let s := if outcome = 4 then s else s.sendAbort p j step outcome peer
    s.endJob p j (if outcome = 4 then 3 else 2)

/-- The vote record a rank's slot of the table holds for a STEP (R439). -/
def State.voteRec (s : State) (p j r step : Nat) : Nat := s.peekNat 64 ((s.job p j).vtab + 128 * r + 64 * (step % 2))

def State.commit (s : State) (p j step : Nat) : State :=
  let b := s.job p j
  let w := s.peekNat 8 (b.hdrAddr + 8)
  let s := s.cohWriteNat 8 (b.hdrAddr + 8) (setBits w 0 2 1)
  (s.putOutcome p j step 1 0).modJob p j (fun b => { b with vote := some (step, true), vtimer := false })

/-- R400, R402, R404: decides the module's own READY when the READYs it holds allow it. -/
def State.voteCheck (s : State) (p j : Nat) : State :=
  let b := s.job p j
  match b.vote with
  | some (step, false) =>
    if b.jstate ≠ 1 then s
    else
      let ranks := List.range (b.nmod + 1)
      let own := s.voteRec p j b.rank step % 2 ^ 416
      (match ranks.find? (fun r => b.ready.contains (r, step) && decide (s.voteRec p j r step % 2 ^ 416 ≠ own)) with
       | some r => s.voteAbort p j step 3 r
       | none =>
         if !ranks.all (fun r => b.ready.contains (r, step)) then s
         else if b.maxskip ≤ bits own 80 16 then s.voteAbort p j step 5 b.rank
         else s.commit p j step)
  | _ => s

/-- A READY is held: the record in the rank's slot, and that it is held. -/
def State.holdReady (s : State) (p j r : Nat) (bs : List Byte) : State :=
  let step := ofBytes (bs.take 8)
  let s := s.cohWrite ((s.job p j).vtab + 128 * r + 64 * (step % 2)) (bs.take 64)
  s.modJob p j (fun b => { b with ready := b.ready.filter (fun x => !(x.1 = r && x.2 % 2 = step % 2)) ++ [(r, step)] })

/-- R399, R440: C_VOTE's submission of the record at SRC. -/
def State.submitVote (s : State) (n i : Nat) (x : CourseCmd) : State :=
  let p := crsPanel i
  let j := crsSlot i
  match s.unitRead (some (p, j)) 64 (ccSrc x.w) with
  | (s, .error e) => s.faultUnit (crsRing n i) p j x.pos (portAgent n) e
  | (s, .ok bs) =>
    let b := s.job p j
    let step := ofBytes (bs.take 8)
    if b.voted.contains step || decide (bits (s.peekNat 8 (b.hdrAddr + 8)) 0 2 = 1) then
      s.faultUnit (crsRing n i) p j x.pos (portAgent n) { cls := 0x0F, cause := 8, detail := step }
    else
      let s := s.holdReady p j b.rank bs
      let s := s.modJob p j (fun b => { b with vote := some (step, false), vtimer := true, voted := step :: b.voted })
      s.voteCheck p j

/-! ### Starting a command (R430, R431, R510, Table 12.6) -/

/-- The head command of a ring, when the ring may start it but for its wait. -/
def State.courseHead (s : State) (n i : Nat) : Option Nat :=
  let g := crsRing n i
  let r := s.ring g
  let mine := (s.port n).cmds.filter (fun c => c.ring = i)
  let colls := (s.port n).cmds.filter (fun c => ccCollective (ccOp c.w))
  match r.fetched with
  | [] => none
  | w :: _ =>
    if s.ringLive g && !(s.port n).eth && !(s.panel (crsPanel i)).susp.getLsbD (crsSlot i) && mine.all (fun c => c.sent) &&
       (!ccFence w || mine.isEmpty) && decide (mine.length < 64) &&
       (!ccCollective (ccOp w) || decide (colls.length < 16)) then some w else none

/-- The command starts: HEAD passes its entry; C_ABORT acts at once, C_VOTE submits its record. -/
def State.courseBegin (s : State) (n i w : Nat) : State :=
  let g := crsRing n i
  let p := crsPanel i
  let j := crsSlot i
  let pos := (s.ring g).head
  let s := (s.modRing g (fun r => r.pass 1)).unitStarts (portAgent n) (some n) p j pos (ccOp w)
  if ccOp w = 0x21 then s.voteAbort p j (s.job p j).voteStep 6 (s.job p j).rank
  else
    let x : CourseCmd := { ring := i, pos := pos, w := w, sent := decide (ccOp w = 0) }
    let s := s.modPort n (fun y => { y with cmds := y.cmds ++ [x] })
    if ccOp w = 0x20 then s.submitVote n i x else s

/-- R431: the head command starts when its wait is met. -/
def State.courseStart (s : State) (n i w : Nat) : State :=
  let p := crsPanel i
  let j := crsSlot i
  if ccWaddr w = 0 then s.courseBegin n i w
  else match s.waitWord p j (ccWaddr w) (ccWval w) with
    | (s, .ok true) => s.courseBegin n i w
    | (s, .ok false) => s
    | (s, .error e) => s.faultUnit (crsRing n i) p j (s.ring (crsRing n i)).head (portAgent n) e

/-- The command of ring `i` that has started and not sent its last frame. -/
def State.courseActive (s : State) (n i : Nat) : Option CourseCmd :=
  (s.port n).cmds.find? (fun c => decide (c.ring = i) && !c.sent && decide (c.phase = 0 ∨ c.phase = 2))

/-- A course opcode's row: its command of the ring starts, when it is at the head and may, and sends. -/
def State.courseRow (s : State) (n i op : Nat) : State :=
  match s.courseActive n i with
  | some x => if ccOp x.w = op then s.courseSend n i x else s
  | none =>
    match s.courseHead n i with
    | some w =>
      if ccOp w = op then
        let s := s.courseStart n i w
        match s.courseActive n i with
        | some x => if ccOp x.w = op then s.courseSend n i x else s
        | none => s
      else s
    | none => s

def execCNop (n : Port) (i : Fin 256) (s : State) : Host.Outcome State Fault Refusal := .next (s.courseRow n i 0x00)
def execCWrite (n : Port) (i : Fin 256) (s : State) : Host.Outcome State Fault Refusal := .next (s.courseRow n i 0x01)
def execCAcc (n : Port) (i : Fin 256) (s : State) : Host.Outcome State Fault Refusal := .next (s.courseRow n i 0x02)
def execCPut (n : Port) (i : Fin 256) (s : State) : Host.Outcome State Fault Refusal := .next (s.courseRow n i 0x03)
def execCBcast (n : Port) (i : Fin 256) (s : State) : Host.Outcome State Fault Refusal := .next (s.courseRow n i 0x08)
def execCAllreduce (n : Port) (i : Fin 256) (s : State) : Host.Outcome State Fault Refusal := .next (s.courseRow n i 0x10)
def execCRscatter (n : Port) (i : Fin 256) (s : State) : Host.Outcome State Fault Refusal := .next (s.courseRow n i 0x11)
def execCVote (n : Port) (i : Fin 256) (s : State) : Host.Outcome State Fault Refusal := .next (s.courseRow n i 0x20)
def execCAbort (n : Port) (i : Fin 256) (s : State) : Host.Outcome State Fault Refusal := .next (s.courseRow n i 0x21)

/-! ### Collectives and completion (R431, R436 to R438) -/

def wnAddr (e : Nat) : Nat := bits e 160 52

/-- COLLECTIVE_PHASE_ADVANCE: the arrival counter of the command's own window has reached TACC or TPUT, compared over 32
bits. -/
def State.phaseAdvance (s : State) (n i : Nat) : State :=
  match (s.port n).cmds.find? (fun c => decide (c.ring = i) && decide (c.phase = 1 ∨ c.phase = 3)) with
  | none => s
  | some x =>
    let p := crsPanel i
    let j := crsSlot i
    let na := wnAddr ((s.panel p).wins.get 0 (ccWin x.w))
    let target := if x.phase = 1 then ccTacc x.w else ccTput x.w
    if na = 0 then s
    else match s.unitRead (some (p, j)) 8 (na + (if x.phase = 1 then 8 else 16)) with
      | (s, .error e) => s.faultUnit (crsRing n i) p j x.pos (portAgent n) e
      | (s, .ok bs) =>
        if seqSub (ofBytes bs % 2 ^ 32) target < 2 ^ 31 then
          s.modCmd n i x.pos (fun y => { y with phase := if y.phase = 1 ∧ ccOp y.w = 0x10 then 2 else 4 })
        else s

def execCollectivePhaseAdvance (n : Port) (i : Fin 256) (s : State) : Host.Outcome State Fault Refusal :=
  .next (s.phaseAdvance n i)

/-- Every frame the command sent has been applied. -/
def State.framesGone (s : State) (n p j : Nat) (x : CourseCmd) : Bool :=
  (s.jobConns p j).all (fun k => k.2.frames.all (fun f => decide (f.cmd ≠ (n, x.ring, x.pos))))

/-- COURSE_COMMAND_COMPLETE: the oldest command of the ring, when it is done. -/
def State.courseComplete (s : State) (n i : Nat) : State :=
  let p := crsPanel i
  let j := crsSlot i
  match (s.port n).cmds.find? (fun c => c.ring = i) with
  | none => s
  | some x =>
    if x.sent && (!ccCollective (ccOp x.w) || decide (x.phase = 4)) && s.framesGone n p j x then
      let s := s.modPort n (fun y => { y with cmds := y.cmds.erase x })
      s.unitDone (portAgent n) (some n) (crsRing n i) p j x.pos (ccRec x.w) (ccSigen x.w) (ccSigtile x.w) (ccSigctr x.w)
        (ccSigval x.w) 0 0
    else s

def execCourseCommandComplete (n : Port) (i : Fin 256) (s : State) : Host.Outcome State Fault Refusal :=
  .next (s.courseComplete n i)

/-! ### Received frames (R416, R418, R420, R421, R425) -/

def fhType (h : Nat) : Nat := bits h 4 4
def fhSrc (h : Nat) : Nat := bits h 8 10
def fhSpanel (h : Nat) : Nat := bits h 28 4
def fhDpanel (h : Nat) : Nat := bits h 32 4
def fhCh (h : Nat) : Nat := bits h 36 2
def fhLast (h : Nat) : Bool := bit h 39
def fhNotify (h : Nat) : Bool := bit h 40
def fhFence (h : Nat) : Bool := bit h 41
def fhOp (h : Nat) : Nat := bits h 42 2
def fhSlot (h : Nat) : Nat := bits h 44 3
def fhJtag (h : Nat) : Nat := bits h 48 16
def fhSeq (h : Nat) : Nat := bits h 64 32
def fhAckseq (h : Nat) : Nat := bits h 96 32
def fhWin (h : Nat) : Nat := bits h 128 8
def fhOff (h : Nat) : Nat := bits h 136 44
def fhLen (h : Nat) : Nat := bits h 180 13

/-- R416: the frame is intact and for this module. A reserved TYPE, or OP of a DATA frame, counts as a reserved field. -/
def State.frameIntact (s : State) (n : Nat) (f : CourseFrame) : Bool :=
  let h := f.hdr
  f.fcsOk && decide (f.etype.toNat = (s.port n).etype) && decide (bits h 0 4 = 1) &&
  decide (fhType h ≤ 4 ∧ bits h 47 1 = 0 ∧ bits h 216 8 = 0 ∧ bits h 289 63 = 0) && !(fhType h = 0 && fhOp h = 3) &&
  s.midset && decide (bits h 18 10 = s.modId) && decide (fhLen h = f.payload.length) &&
  decide (bits h 352 32 = crc32c (toBytes 48 (h % 2 ^ 352) ++ f.payload))

def State.badFrame (s : State) (n : Nat) : State := s.modPort n (fun x => { x with badf := satAdd 0xFFFF x.badf 1 })

/-- DET 0x07: the next ARG frames fail their check; in LOG mode they are only recorded. -/
def State.fireCourse (s : State) (n : Nat) : State × Bool :=
  match s.armed 7 n with
  | none => (s, false)
  | some (arg, log) =>
    let s := if arg ≤ 1 then s.disarm 7 n else { s with inj := s.inj.set none (injKey 7 n) (some (arg - 1, log)) }
    (s.emit { cls := 0x20, cause := 18, inj := true, unit := portAgent n, detail := 7 + n * 2 ^ 32 }, !log)

/-- R418: the connection of a frame. -/
def State.connOf (s : State) (h : Nat) : Option Nat :=
  (s.conns.find? (fun k => decide (keyPanel k.1 = fhDpanel h) && k.2.live && decide (k.2.peerMod = fhSrc h) &&
    decide (k.2.peerPanel = fhSpanel h) && decide (k.2.peerSlot = fhSlot h) && decide (keyCh k.1 = fhCh h))).map (·.1)

/-- A frame at a Course-mode port that is up: discarded and counted, or received on its connection. -/
def State.receive (s : State) (n : Nat) (f : CourseFrame) : State × Option Nat :=
  let (s, bad) := s.fireCourse n
  if bad || !s.frameIntact n f then (s.badFrame n, none)
  else
    let s := s.modPort n (fun x => { x with rxf := satAdd 0xFFFFFFFF x.rxf 1 })
    match s.connOf f.hdr with
    | none => (s.badFrame n, none)
    | some k => (s, some k)

/-- The port takes Course frames: Course mode, link up. -/
def State.portOpen (s : State) (n : Nat) : Bool := decide ((s.port n).st = 2) && !(s.port n).eth

/-- R419: ACKSEQ of a frame received on the reverse connection: every lower SEQ has been applied. -/
def Conn.acknowledge (c : Conn) (ack : Nat) : Conn :=
  if seqSub ack c.acked ≤ seqSub c.seq c.acked then
    { c with acked := ack, frames := c.frames.filter (fun f => decide (seqSub f.seq ack < 2 ^ 31)) }
  else c

/-- Sends ACK (1) or NACK (2) with P, A and the bitmap, on the path of port `n` or the first whose port is up. -/
def State.sendAck (s : State) (k n type : Nat) : State :=
  let c := s.conn k
  match (c.paths.find? (fun q => decide (q.1 = n ∧ (s.port q.1).st = 2))).or
        (c.paths.find? (fun q => decide ((s.port q.1).st = 2))) with
  | none => s
  | some q =>
    let h : CHdr := { type := type, dst := c.peerMod, spanel := keyPanel k, dpanel := c.peerPanel, ch := keyCh k, slot := keySlot k,
                      jtag := c.jtag, seq := c.p, ackseq := c.a }
    let s := s.sendFrame q.1 q.2 h (toBytes 128 c.bitmap)
    if type = 1 then s.modConn k (fun c => { c with ackP := c.p, ackA := c.a, ackSoon := false })
    else s.modConn k (fun c => { c with nackAt := some s.now })

/-- R421: 16 frames since the last ACK. -/
def State.ackIfDue (s : State) (k n : Nat) : State :=
  let c := s.conn k
  if c.live && decide (16 ≤ seqSub c.p c.ackP ∨ 16 ≤ seqSub c.a c.ackA) then s.sendAck k n 1 else s

/-- P past the set bits. -/
def advanceP : Nat → Nat → Nat → Nat × Nat
  | 0, p, b => (p, b)
  | n + 1, p, b => if bit b 0 then advanceP n (seqInc p) (b / 2) else (p, b)

/-- Payload bytes held in a port's receive buffer (Table 12.6). -/
def State.rxHeld (s : State) (n : Nat) : Nat :=
  (s.conns.map (fun c => (c.2.rx.map (fun r => match r.2 with
    | some f => if f.port = n ∧ !f.applied then f.payload.length else 0
    | none => 0)).sum)).sum

/-- Sequence number `q` lies before P, or its bitmap bit is set. -/
def Conn.duplicate (c : Conn) (q : Nat) : Bool :=
  let d := seqSub q c.p
  decide (2 ^ 31 ≤ d) || (decide (d < 1024) && bit c.bitmap d)

/-- Sequence number `q` lies outside the bitmap. -/
def Conn.beyond (c : Conn) (q : Nat) : Bool := decide (1024 ≤ seqSub q c.p)

/-- The port's 4 MiB of receive buffer has no room for `n` more bytes. -/
def State.rxFull (s : State) (n len : Nat) : Bool := decide (4194304 < s.rxHeld n + len)

/-- A frame of sequence number `q` is held, and P and the bitmap advance (R421). -/
def Conn.holdFrame (c : Conn) (q n : Nat) (f : CourseFrame) : Conn :=
  let r := advanceP 1025 c.p (c.bitmap + 2 ^ seqSub q c.p)
  { c with p := r.1, bitmap := r.2, rx := c.rx.set none q (some ⟨f.hdr, f.payload, n, false⟩) }

/-- At least 5 µs have passed since the connection's last NACK. -/
def Conn.nackDue (c : Conn) (now : Nat) : Bool := match c.nackAt with | some t => decide (t + 5000 ≤ now) | none => true

/-- A frame of sequence number `q` leaves a gap, and a NACK is due. -/
def Conn.nackNow (c : Conn) (q now : Nat) : Bool := decide (0 < seqSub q c.p) && c.nackDue now

/-- R420: classifies a DATA or VOTE frame; true when it was accepted. -/
def State.classify (s : State) (n k : Nat) (f : CourseFrame) : State × Bool :=
  if (s.conn k).duplicate (fhSeq f.hdr) then
    ((s.modPort n (fun x => { x with dup := satAdd 0xFFFF x.dup 1 })).modConn k (fun c => { c with ackSoon := true }), false)
  else if (s.conn k).beyond (fhSeq f.hdr) then (s.modPort n (fun x => { x with dup := satAdd 0xFFFF x.dup 1 }), false)
  else if s.rxFull n f.payload.length then
    (s.modPort n (fun x => { x with rxdrop := satAdd 0xFFFF x.rxdrop 1 }), false)
  else
    (if (s.conn k).nackNow (fhSeq f.hdr) s.now then (s.modConn k (fun c => c.holdFrame (fhSeq f.hdr) n f)).sendAck k n 2
     else s.modConn k (fun c => c.holdFrame (fhSeq f.hdr) n f), true)

/-! ### Windows (R426, R427) -/

def wnBase (e : Nat) : Nat := bits e 0 52
def wnLen (e : Nat) : Nat := bits e 64 44 + 1
def wnTier (e : Nat) : Nat := bits e 112 3
def wnPW (e : Nat) : Bool := bit e 115
def wnPA (e : Nat) : Bool := bit e 116
def wnCoh (e : Nat) : Bool := bit e 117
def wnValid (e : Nat) : Bool := bit e 118
def wnJtag (e : Nat) : Nat := bits e 128 16
def wnRtid (e : Nat) : Nat := bits e 144 12
def wnSigtile (e : Nat) : Nat := bits e 224 14
def wnSigslot (e : Nat) : Nat := bits e 238 3
def wnSigctr (e : Nat) : Nat := bits e 241 6
def wnSigen (e : Nat) : Bool := bit e 247

/-- The first check of R427 that a DATA frame fails. -/
def State.windowFault (s : State) (p h : Nat) : Option Nat :=
  let e := (s.panel p).wins.get 0 (fhWin h)
  let op := fhOp h
  let x := (s.panel p).rtab.get 0 (wnRtid e)
  if !wnValid e || decide (wnJtag e ≠ fhJtag h) then some 1
  else if wnLen e < fhOff h + fhLen h then some 2
  else if (op = 0 && !wnPW e) || (op = 1 && !wnPA e) || (op = 2 && !(wnPA e && wnPW e)) then some 3
  else if op ≠ 0 && decide (fhOff h % 6 ≠ 0 ∨ fhLen h % 6 ≠ 0 ∨ bits h 206 10 ≠ bits x 96 10) then some 4
  else none

/-- A held data frame: a window that does not admit it ends the job (R427). -/
def State.dataHeld (s : State) (n k : Nat) (f : CourseFrame) : State :=
  match s.windowFault (keyPanel k) f.hdr with
  | some c =>
    s.faultJob (keyPanel k) (keySlot k)
      { cls := 0x0D, cause := c, unit := portAgent n, detail := fhWin f.hdr + fhSrc f.hdr * 2 ^ 8 }
  | none => s.ackIfDue k n

/-- An intact data frame of a connection: dropped, or held. -/
def State.dataSorted (s : State) (n k : Nat) (f : CourseFrame) : State :=
  if (s.classify n k f).2 then (s.classify n k f).1.dataHeld n k f else (s.classify n k f).1

/-- COURSE_DATA_RECEIVE: a DATA frame is checked, classified and, when accepted, checked against its window. -/
def State.dataReceive (s : State) (n : Nat) (f : CourseFrame) : State :=
  if !s.portOpen n || (s.frameIntact n f && decide (fhType f.hdr ≠ 0)) then s
  else match s.receive n f with
    | (s, none) => s
    | (s, some k) => (s.modConn k (fun c => c.acknowledge (fhAckseq f.hdr))).dataSorted n k f

def execCourseDataReceive (n : Port) (f : CourseFrame) (s : State) : Host.Outcome State Fault Refusal :=
  .next (s.dataReceive n f)

/-! ### Application (R420, R424, R427, R428, R440) -/

/-- The 48-bit elements of a payload. -/
def payloadElems (bs : List Byte) : List Nat := (List.range (bs.length / 6)).map (fun i => ofBytes ((bs.drop (6 * i)).take 6))

/-- The writes of an accepted DATA frame. -/
def State.applyData (s : State) (k : Nat) (f : RxFrame) : State × Option Event :=
  let p := keyPanel k
  let h := f.hdr
  let e := (s.panel p).wins.get 0 (fhWin h)
  let a := wnBase e + fhOff h
  if fhOp h = 0 then s.unitWrite a f.payload
  else
    let x := (s.panel p).rtab.get 0 (wnRtid e)
    let vals := payloadElems f.payload
    let pk : CaccPacket := ⟨Fin.ofNat 16 p, Fin.ofNat 8 (keySlot k), portAgent f.port, true, bit h 193, bit h 194, bit h 195,
      signed 10 (bits h 196 10), Fin.ofNat 4096 (wnRtid e), a, vals⟩
    match rtRefuse x a vals.length with
    | some c => (s, some { cls := 0x0A, cause := c, addr := a, detail := wnRtid e })
    | none =>
      if s.writeResp a (6 * vals.length) ≠ .ok then (s, some (s.unitEvent a (6 * vals.length) (s.writeResp a (6 * vals.length))))
      else if fhOp h = 1 then (s.caccApply pk, none)
      else ((s.writeBytes a f.payload).caccApply { pk with vals := [] }, none)

/-- R428: the notification of a message whose last frame A passes. -/
def State.notifyMsg (s : State) (p n h : Nat) : State :=
  let e := (s.panel p).wins.get 0 (fhWin h)
  let na := wnAddr e + 8 * fhOp h
  let s := if wnAddr e = 0 then s else s.cohWriteNat 8 na ((s.peekNat 8 na + 1) % 2 ^ 64)
  if wnSigen e then s.sendAdd (portAgent n) p (wnSigtile e) (wnSigslot e) (wnSigctr e) 1 else s

/-- A past the applied frames, with their notifications. -/
def State.advanceA (k : Nat) : Nat → State → State
  | 0, s => s
  | m + 1, s =>
    let c := s.conn k
    match c.rx.get none c.a with
    | some f =>
      if !f.applied then s
      else
        let s := s.setConn k { c with a := seqInc c.a, rx := c.rx.set none c.a none }
        let s := if fhType f.hdr = 0 && fhLast f.hdr && fhNotify f.hdr then s.notifyMsg (keyPanel k) f.port f.hdr else s
        State.advanceA k m s
    | none => s

/-- A VOTE frame applied: the sender's slot, the READY held, the decision. -/
def State.applyVote (s : State) (k : Nat) (f : RxFrame) : State :=
  (s.holdReady (keyPanel k) (keySlot k) (keyRank k) f.payload).voteCheck (keyPanel k) (keySlot k)

/-- COURSE_FRAME_APPLIED: an accepted frame is applied, A advances, notifications follow. -/
def State.frameApplied (s : State) (k q : Nat) : State :=
  let c := s.conn k
  match c.rx.get none q with
  | none => s
  | some f =>
    let vote := decide (fhType f.hdr = 3)
    let e := (s.panel (keyPanel k)).wins.get 0 (fhWin f.hdr)
    if f.applied || ((vote || fhFence f.hdr) && decide (c.a ≠ q)) || (!vote && s.windowStopped (wnBase e + fhOff f.hdr)) then s
    else
      let (s, ev) := if vote then (s, none) else s.applyData k f
      match ev with
      | some ev => s.faultJob (keyPanel k) (keySlot k) { ev with unit := portAgent f.port }
      | none =>
        let s := s.modConn k (fun c => { c with rx := c.rx.set none q (some { f with applied := true }) })
        let s := (State.advanceA k 1025 s).ackIfDue k f.port
        if vote then s.applyVote k f else s

def execCourseFrameApplied (k : ConnKey) (seq : Count) (s : State) : Host.Outcome State Fault Refusal :=
  .next (s.frameApplied (connKey k.panel k.slot k.rank k.ch) seq.toNat)

/-- An intact vote frame of a connection: dropped, or taken at once. -/
def State.voteSorted (s : State) (n k : Nat) (f : CourseFrame) : State :=
  if (s.classify n k f).2 then ((s.classify n k f).1.ackIfDue k n).frameApplied k (fhSeq f.hdr) else (s.classify n k f).1

/-- VOTE_FRAME_RECEIVE: a VOTE frame is received and classified, and applied when it is next in its connection. -/
def State.voteReceive (s : State) (n : Nat) (f : CourseFrame) : State :=
  if !s.portOpen n || (s.frameIntact n f && decide (fhType f.hdr ≠ 3)) then s
  else match s.receive n f with
    | (s, none) => s
    | (s, some k) => (s.modConn k (fun c => c.acknowledge (fhAckseq f.hdr))).voteSorted n k f

def execVoteFrameReceive (n : Port) (f : CourseFrame) (s : State) : Host.Outcome State Fault Refusal :=
  .next (s.voteReceive n f)

/-! ### ACK, NACK and timers (R421 to R423) -/

/-- Frames that an ACK or NACK marks accepted; a path that delivered one has no expiry in a row. -/
def Conn.mark (c : Conn) (p bm : Nat) : Conn :=
  let got (f : SentFrame) : Bool := decide (2 ^ 31 ≤ seqSub f.seq p) || (decide (seqSub f.seq p < 1024) && bit bm (seqSub f.seq p))
  let paths := (c.frames.filter (fun f => got f && !f.accepted)).map (fun f => f.path)
  { c with frames := c.frames.map (fun f => if got f then { f with accepted := true } else f)
           expiries := paths.foldl (fun e i => if e.get 0 i < 2 then e.set 0 i 0 else e) c.expiries }

/-- COURSE_ACK_RECEIVE. A NACK retransmits once each frame below the highest set bit that is not marked. -/
def State.ackReceive (s : State) (n : Nat) (f : CourseFrame) : State :=
  if !s.portOpen n || (s.frameIntact n f && decide (fhType f.hdr ≠ 1 ∧ fhType f.hdr ≠ 2)) then s
  else match s.receive n f with
    | (s, none) => s
    | (s, some k) =>
      let bm := ofBytes f.payload % 2 ^ 1024
      let p := fhSeq f.hdr
      let s := s.modConn k (fun c => (c.mark p bm).acknowledge (fhAckseq f.hdr))
      if fhType f.hdr = 1 || bm = 0 then s
      else ((s.conn k).frames.filter (fun g => !g.accepted && decide (seqSub g.seq p < log2 bm))).foldl (fun s g =>
        let c := s.conn k
        match (if s.pathUp c g.path then some g.path else s.nextPath c (g.path + 1)) with
        | some i => s.resendFrame k g i
        | none => s) s

def execCourseAckReceive (n : Port) (f : CourseFrame) (s : State) : Host.Outcome State Fault Refusal :=
  .next (s.ackReceive n f)

/-- COURSE_ACK_TIMER: an ACK that P, A or a duplicate owes. -/
def State.ackTimer (s : State) (k : Nat) : State :=
  let c := s.conn k
  if c.live && (c.ackSoon || decide (c.p ≠ c.ackP ∨ c.a ≠ c.ackA)) then s.sendAck k 32 1 else s

def execCourseAckTimer (k : ConnKey) (s : State) : Host.Outcome State Fault Refusal :=
  .next (s.ackTimer (connKey k.panel k.slot k.rank k.ch))

/-- COURSE_RETX_TIMER: the frame goes again on the next path of the list; its path's expiries in a row count up. -/
def State.retxTimer (s : State) (k q : Nat) : State :=
  let c := s.conn k
  match c.frames.find? (fun f => decide (f.seq = q) && !f.accepted) with
  | none => s
  | some f =>
    let s := s.setConn k { c with expiries := c.expiries.modify 0 f.path (fun e => min 2 (e + 1)) }
    match s.nextPath (s.conn k) (f.path + 1) with
    | some i => s.resendFrame k f i
    | none => s

def execCourseRetxTimer (k : ConnKey) (seq : Count) (s : State) : Host.Outcome State Fault Refusal :=
  .next (s.retxTimer (connKey k.panel k.slot k.rank k.ch) seq.toNat)

/-- COURSE_PATH_SKIP_EXPIRY: a skipped path is used again. -/
def execCoursePathSkipExpiry (k : ConnKey) (path : Fin 8) (s : State) : Host.Outcome State Fault Refusal :=
  .next (if 2 ≤ (s.conn (connKey k.panel k.slot k.rank k.ch)).expiries.get 0 path.val then
      s.modConn (connKey k.panel k.slot k.rank k.ch) (fun c => { c with expiries := c.expiries.set 0 path.val 0 })
    else s)

/-- R423: the connection's failure timer is stopped. -/
def State.failStopped (s : State) (c : Conn) : Bool :=
  s.ringHold || s.halted || c.paths.all (fun q => (s.port q.1).hold)

def State.connFails (s : State) (k : Nat) (f : SentFrame) : State :=
  s.faultJob (keyPanel k) (keySlot k)
    { cls := 0x0E, cause := 1, unit := portAgent f.cmd.1, ring := crsRing f.cmd.1 f.cmd.2.1, pos := f.cmd.2.2.toNat,
      detail := keyRank k + keyCh k * 2 ^ 10 }

/-- COURSE_CONN_FAIL_TIMER: a frame unaccepted for 2.5 ms outside holds fails its connection. -/
def State.connTimer (s : State) (k q : Nat) : State :=
  let c := s.conn k
  match c.frames.find? (fun f => decide (f.seq = q) && !f.accepted) with
  | some f => if s.failStopped c then s else s.connFails k f
  | none => s

def execCourseConnFailTimer (k : ConnKey) (seq : Count) (s : State) : Host.Outcome State Fault Refusal :=
  .next (s.connTimer (connKey k.panel k.slot k.rank k.ch) seq.toNat)

/-! ### Vote timer and ABORT (R402, R403, R441) -/

/-- VOTE_TIMEOUT: the lowest rank whose READY is missing is named. The timer stands under any hold or halt (Table 19.3). -/
def State.voteTimeout (s : State) (p j : Nat) : State :=
  let b := s.job p j
  match b.vote with
  | some (step, false) =>
    if !b.vtimer || s.courseHold || s.linkHold || s.halted then s
    else
      let missing := (List.range (b.nmod + 1)).find? (fun r => !b.ready.contains (r, step))
      s.voteAbort p j step 2 (missing.getD 0)
  | _ => s

def execVoteTimeout (p : PanelId) (j : Slot) (s : State) : Host.Outcome State Fault Refusal := .next (s.voteTimeout p j)

/-- Whether the module has committed the STEP an ABORT names. -/
def Job.committed (b : Job) (step : Nat) : Bool := match b.vote with | some (t, true) => decide (step ≤ t) | _ => false

/-- COURSE_ABORT_RECEIVE: the first copy whose JTAG matches a live connection acts. -/
def State.abortReceive (s : State) (n : Nat) (f : CourseFrame) : State :=
  if !s.portOpen n || (s.frameIntact n f && decide (fhType f.hdr ≠ 4)) then s
  else match s.receive n f with
    | (s, none) => s
    | (s, some k) =>
      let p := keyPanel k
      let j := keySlot k
      let step := ofBytes (f.payload.take 8)
      if (s.conn k).jtag ≠ fhJtag f.hdr then s
      else if (s.job p j).committed step then s.endJob p j 3
      else s.voteAbort p j step 4 (keyRank k)

def execCourseAbortReceive (n : Port) (f : CourseFrame) (s : State) : Host.Outcome State Fault Refusal :=
  .next (s.abortReceive n f)

/-- A frame sent again with its time of transmission (Table 12.2 TS, TSYNC, CRC). -/
def State.stampFrame (s : State) (f : TxFrame) : TxFrame :=
  let w := f.hdr % 2 ^ 224 + s.now % 2 ^ 64 * 2 ^ 224 + b2n s.time.lock * 2 ^ 288
  { f with hdr := w + crc32c (toBytes 48 w ++ f.payload) * 2 ^ 352 }

/-- ABORT_RESEND: one further copy on every path whose port is up. -/
def State.abortResend (s : State) (p j : Nat) : State :=
  match s.aborts.find? (fun a => decide (a.panel = p ∧ a.slot = j)) with
  | none => s
  | some a =>
    let rest := s.aborts.erase a
    let s := { s with aborts := if 1 < a.left then { a with left := a.left - 1 } :: rest else rest }
    (a.frames.filter (fun f => decide ((s.port f.port).st = 2))).foldl (fun s f =>
      { s with courseTx := s.courseTx ++ [s.stampFrame f] }.modPort f.port
        (fun x => { x with txf := satAdd 0xFFFFFFFF x.txf 1 })) s

def execAbortResend (p : PanelId) (j : Slot) (s : State) : Host.Outcome State Fault Refusal := .next (s.abortResend p j)

/-! ### Link states (R414, R423, R446, R448) -/

def State.portEvent (s : State) (n cause : Nat) : State :=
  s.emit { cls := 0x17, cause := cause, unit := portAgent n, detail := n }

/-- COURSE_LINK_DOWN: an up link goes down and retrains under hold. -/
def execCourseLinkDown (n : Port) (s : State) : Host.Outcome State Fault Refusal :=
  .next (if (s.port n).st = 2 then (s.modPort n (fun x => { x with st := 3, hold := true })).portEvent n 1 else s)

/-- Jobs with a connection all of whose local ports are failed (R446). -/
def State.strandedJobs (s : State) : List (Nat × Nat) :=
  ((s.conns.filter (fun k => k.2.live && k.2.paths.all (fun q => decide ((s.port q.1).st = 4)))).map
    (fun k => (keyPanel k.1, keySlot k.1))).eraseDups

/-- The settings a COURSE_PORT block carries (Table 16.20). -/
def CPort.configure (x : CPort) (w : Nat) : CPort :=
  { x with
    eth := bit w 5
    maxpay := 1024 * 2 ^ bits w 6 2
    vlanen := bit w 8
    pcp := if bit w 8 then bits w 9 3 else 0
    vid := bits w 32 12
    etype := if bits w 16 16 = 0 then 0x88B5 else bits w 16 16
    nrxq := bits w 48 7 + 1
    mac := if bit w 12 then (if bits w 64 48 = 0 then none else some (bits w 64 48)) else x.mac }

/-- R542: a change of MODE takes effect in one step when the link has been retrained and the reply is formed. -/
def State.portModeDone (s : State) (n : Nat) : State :=
  match s.mgmt.accepted.find? (fun a => a.wait = some (.port n)) with
  | some a => (s.modPort n (fun x => x.configure a.q.params)).release (.port n) noParams
  | none => s

/-- COURSE_LINK_HOLD_EXPIRY: a port not back after 200 ms is failed; jobs whose connections have no path left end. -/
def State.portFails (s : State) (n : Nat) : State :=
  if (s.port n).st = 3 ∧ (s.port n).hold then
    let s := (s.modPort n (fun x => { x with st := 4, hold := false })).portModeDone n
    s.faultJobs s.strandedJobs { cls := 0x17, cause := 8, unit := portAgent n, detail := n }
  else s

def execCourseLinkHoldExpiry (n : Port) (s : State) : Host.Outcome State Fault Refusal := .next (s.portFails n)

/-- COURSE_PORT_RETRAIN: CRS_CTL.RETRAIN, of the module owner. -/
def State.retrainPort (s : State) (n v : Nat) (auth : Auth) : State :=
  if !reaches auth none then s.outOfReach auth (mmioBase + 0x46000000 + n * 0x10000 + 8)
  else if !bit v 0 then s
  else if (s.port n).st ≤ 1 then s.modPort n (fun x => { x with st := 1 })
  else (s.modPort n (fun x => { x with st := 3, hold := true })).portEvent n 1

def execCoursePortRetrain (n : Port) (v : BitVec 32) (auth : Auth) (s : State) : Host.Outcome State Fault Refusal :=
  .next (s.retrainPort n v.toNat auth)

/-- COURSE_LINK_UP: training ends at 800 Gb/s or at half rate, and the hold ends. -/
def State.portUp (s : State) (n : Nat) (half : Bool) : State :=
  let x := s.port n
  if x.st = 1 ∨ x.st = 3 then
    let s := (s.modPort n (fun x => { x with st := 2, hold := false, half := half })).portModeDone n
    if half then s.portEvent n 7 else s
  else s

def execCourseLinkUp (n : Port) (half : Bool) (s : State) : Host.Outcome State Fault Refusal := .next (s.portUp n half)

/-! ### Ethernet mode (R443, R444) -/

def beNat (bs : List Byte) : Nat := ofBytes bs.reverse

/-- Offset of the EtherType and the EtherType, past one VLAN tag. -/
def ethType (bs : List Byte) : Nat × Nat :=
  let t := beNat ((bs.drop 12).take 2)
  if t = 0x8100 then (16, beNat ((bs.drop 16).take 2)) else (12, t)

/-- R443: the flow hash: addresses, protocol and ports of a TCP or UDP frame over IPv4 or IPv6, as they stand on the wire
(log 27), else 0. -/
def flowHash (bs : List Byte) : Nat :=
  let (o, t) := ethType bs
  let ip := bs.drop (o + 2)
  let b (i : Nat) : Nat := (ip.getD i 0).toNat
  if t = 0x0800 ∧ (b 9 = 6 ∨ b 9 = 17) ∧ (b 6 % 32 * 256 + b 7) = 0 then
    crc32c ((ip.drop 12).take 8 ++ [ip.getD 9 0] ++ (ip.drop (b 0 % 16 * 4)).take 4)
  else if t = 0x86DD ∧ (b 6 = 6 ∨ b 6 = 17) then
    crc32c ((ip.drop 8).take 32 ++ [ip.getD 6 0] ++ (ip.drop 40).take 4)
  else 0

/-- Table 12.1, R542: a frame of another VLAN than the configured one is not taken; PAUSE and PFC frames are discarded. -/
def CPort.ethAccepts (n : CPort) (bs : List Byte) : Bool :=
  let t := beNat ((bs.drop 12).take 2)
  decide (t ≠ 0x8808) && (!n.vlanen || (decide (t = 0x8100) && decide (beNat ((bs.drop 14).take 2) % 4096 = n.vid)))

/-- The head entry of an Ethernet-mode ring, read where it lies. -/
def State.ethEntry (s : State) (g : Nat) : State × Option Nat :=
  let r := s.ring g
  if !r.en || r.stopped || decide (r.count = 0) then (s, none)
  else match s.unitRead none 64 (r.entryAddr r.head) with
    | (s, .ok bs) => (s, some (ofBytes bs))
    | (s, .error e) =>
      ((s.modRing g (fun r => { r with stopped := true })).emit { e with unit := (s.ringOwner g).unit, ring := g, pos := r.head.toNat }, none)

/-- Entry bytes 32 to 63 written back, then HEAD. -/
def State.ethWriteBack (s : State) (g len code : Nat) (stamp : Bool) : State :=
  let r := s.ring g
  let w := len + code * 2 ^ 14 + (if stamp then b2n s.time.lock * 2 ^ 16 + s.now % 2 ^ 64 * 2 ^ 64 else 0)
  (s.unitWrite (r.entryAddr r.head + 32) (toBytes 32 w)).1.modRing g (fun r => r.pass 1)

/-- `n` bytes the spec does not give (log 2). -/
def State.drawBytes (s : State) : Nat → State × List Byte
  | 0 => (s, [])
  | n + 1 => let (v, s) := s.draw; let (s, bs) := s.drawBytes n; (s, BitVec.ofNat 8 v :: bs)

/-- ETH_FRAME_RECEIVE: a frame enters queue 128 + (h mod NRXQ), or is discarded when the queue is empty. The bytes of a buffer
too small for its frame are not given (log 2). -/
def State.ethReceive (s : State) (n : Nat) (f : EthFrame) : State :=
  let x := s.port n
  if !x.eth || decide (x.st ≠ 2) || !x.ethAccepts f.bytes then s
  else
    let g := crsRing n (128 + flowHash f.bytes % x.nrxq)
    match s.ethEntry g with
    | (s, none) => s.modPort n (fun x => { x with rxdrop := satAdd 0xFFFF x.rxdrop 1 })
    | (s, some e) =>
      let s := s.modPort n (fun x => { x with rxf := satAdd 0xFFFFFFFF x.rxf 1 })
      let small := decide (bits e 64 14 < f.bytes.length)
      let (s, bs) := if small then s.drawBytes (bits e 64 14) else (s, f.bytes)
      (s.unitWrite (bits e 0 52) bs).1.ethWriteBack g f.bytes.length (if !f.fcsOk then 1 else if small then 2 else 0) true

def execEthFrameReceive (n : Port) (f : EthFrame) (s : State) : Host.Outcome State Fault Refusal := .next (s.ethReceive n f)

/-- The tag of R542 after the addresses. -/
def CPort.addTag (n : CPort) (bs : List Byte) : List Byte :=
  if n.vlanen then
    let tci := n.pcp * 2 ^ 13 + n.vid
    bs.take 12 ++ [0x81, 0x00, BitVec.ofNat 8 (tci / 256), BitVec.ofNat 8 tci] ++ bs.drop 12
  else bs

/-- ETH_FRAME_TRANSMIT: the head entry of transmit queue `q`. -/
def State.ethTransmit (s : State) (n q : Nat) : State :=
  let x := s.port n
  let g := crsRing n q
  if !x.eth || decide (x.st ≠ 2) then s
  else match s.ethEntry g with
    | (s, none) => s
    | (s, some e) =>
      match s.unitRead none (bits e 64 14) (bits e 0 52) with
      | (s, .error ev) =>
        (s.modRing g (fun r => { r with stopped := true })).emit { ev with unit := portAgent n, ring := g, pos := (s.ring g).head.toNat }
      | (s, .ok bs) =>
        let s := { s with ethTx := s.ethTx ++ [(n, x.addTag bs)] }.modPort n (fun x => { x with txf := satAdd 0xFFFFFFFF x.txf 1 })
        s.ethWriteBack g (bits e 64 14) 0 (bit e 78)

def execEthFrameTransmit (n : Port) (q : Fin 128) (s : State) : Host.Outcome State Fault Refusal := .next (s.ethTransmit n q)

end Sys2Proof.Machine
end

