-- ==== Sys2Proof/Machine/Hod.lean ====
section
/-!
DEFINITION. Hod engines (13): start and checks (R454, R458, R461 to R463), H_NOP, H_GATHER (R465), H_MERGE (R466, R467), H_UPDATE
(R468, R469), the accesses outstanding (R459), completion. A command's row starts it; once its reads are in, the row makes its
writes.
-/
namespace Sys2Proof.Machine

/-! ### Segmented addresses (R450, R454, R477) -/

/-- Physical address of `n` bytes at a segmented address, when the segment allows the access; nothing is looked up for no
bytes. -/
def State.segAddr (s : State) (p j a n : Nat) (rd wr : Bool) (tiers : List Nat) : Option Nat :=
  let e := (s.panel p).segs.get 0 (j * 16 + a % 16)
  if n = 0 then some 0
  else if sgValid e && tiers.contains (sgTier e) && !sgComp e && (!rd || sgPR e) && (!wr || sgPW e) &&
    decide (bits a 4 44 + n ≤ sgLen e) then some (sgPbase e + bits a 4 44)
  else none

def hodTiers : List Nat := [1, 2, 3, 5]

/-! ### Fields (Tables 13.1, 13.2) -/

def hcOp (w : Nat) : Nat := bits w 0 8
def hcSlot (w : Nat) : Nat := bits w 8 3
def hcRec (w : Nat) : Bool := bit w 11
def hcFence (w : Nat) : Bool := bit w 12
def hcCond (w : Nat) : Bool := bit w 13
def hcWen (w : Nat) : Bool := bit w 14
def hcClip (w : Nat) : Bool := bit w 15
def hcOfmt (w : Nat) : Nat := bits w 16 4
def hcRnd (w : Nat) : Bool := bit w 20
def hcOvf (w : Nat) : Bool := bit w 21
def hcPool (w : Nat) : Nat := bits w 22 2
def hcNidx (w : Nat) : Nat := bits w 32 32
def hcNbag (w : Nat) : Nat := bits w 64 32
def hcTable (w : Nat) : Nat := bits w 96 48
def hcIdx (w : Nat) : Nat := bits w 144 48
def hcWgt (w : Nat) : Nat := bits w 192 48
def hcBag (w : Nat) : Nat := bits w 240 48
def hcData (w : Nat) : Nat := bits w 288 48
def hcDstride (w : Nat) : Nat := bits w 336 20 * 8
def hcWaddr (w : Nat) : Nat := bits w 384 48
def hcWaiten (w : Nat) : Bool := bit w 432
def hcWval (w : Nat) : Nat := bits w 448 64
def hcCaddr (w : Nat) : Nat := bits w 512 48
def hcStep (w : Nat) : Nat := bits w 576 32
def hcTensor (w : Nat) : Nat := bits w 608 32
def hcSigtile (w : Nat) : Nat := bits w 640 14
def hcSigctr (w : Nat) : Nat := bits w 654 6
def hcSigen (w : Nat) : Bool := bit w 660
def hcSigval (w : Nat) : Nat := bits w 672 16
def hcUout (w : Nat) : Nat := bits w 704 48
def hcMout (w : Nat) : Nat := bits w 752 48
def hcMstride (w : Nat) : Nat := bits w 800 20 * 8
def hcScr (w : Nat) : Nat := bits w 832 48

def tdRows (d : Nat) : Nat := bits d 0 32 + 1
def tdD (d : Nat) : Nat := (bits d 32 7 + 1) * 32
def tdWfmt (d : Nat) : Nat := bits d 40 4
def tdCfmt (d : Nat) : Nat := bits d 44 4
def tdMap (d : Nat) : Nat := bits d 48 48
def tdRegion (d w : Nat) : Nat := bits d (96 + 48 * w) 48
def tdRule (d : Nat) : Nat := bits d 240 4
def tdSrnd (d : Nat) : Bool := bit d 244
def tdLr (d : Nat) : Nat := bits d 256 32
def tdEps (d : Nat) : Nat := bits d 288 32
def tdTid (d : Nat) : Nat := bits d 320 32
def tdAcc (d : Nat) : Nat := bits d 352 48
def tdCnt (d w : Nat) : Nat := bits d (400 + 32 * w) 30

/-- R452: slot size of a width. -/
def slotSize (d w : Nat) : Nat :=
  let n := tdD d
  match w with
  | 0 => 2 * n
  | 1 => ceilDiv (n + n / 32) 8 * 8
  | _ => ceilDiv (n / 2 + n / 32) 8 * 8

def fmtBytes (f : Nat) : Nat := fmtWidth f / 8

/-- Rows of gradients or outputs at DATA. -/
def hcRows (w : Nat) : Nat := if hcPool w = 0 then hcNidx w + 1 else hcNbag w + 1

/-- Bytes of `n` rows of `len` bytes at a stride. -/
def rowsExtent (n stride len : Nat) : Nat := if n = 0 then 0 else (n - 1) * stride + len

/-! ### Start checks (Table 13.3) -/

/-- Fields the opcode does not use, and reserved fields, as (bit, width). -/
def hodUnused (op : Nat) : List (Nat × Nat) :=
  let common := [(24, 8), (356, 28), (433, 15), (560, 16), (661, 11), (688, 16), (820, 12), (880, 144)]
  common ++ (match op with
    | 1 => [(15, 1), (704, 48), (752, 48), (800, 20), (832, 48)]
    | 2 => [(15, 1), (20, 1), (576, 32), (608, 32)]
    | 3 => [(14, 1), (16, 4), (20, 1), (22, 2), (64, 32), (192, 48), (240, 48), (608, 32), (704, 48), (752, 48), (800, 20), (832, 48)]
    | _ => [(14, 1), (15, 1), (16, 4), (20, 1), (21, 1), (22, 2), (32, 32), (64, 32), (96, 48), (144, 48), (192, 48), (240, 48),
            (288, 48), (336, 20), (576, 32), (608, 32), (704, 48), (752, 48), (800, 20), (832, 48)])

/-- Causes found in the command alone. -/
def State.hodCauses (s : State) (p j w : Nat) : List Nat :=
  let op := hcOp w
  causes [
    (1, (hodUnused op).any (fun f => decide (bits w f.1 f.2 ≠ 0))),
    (2, decide (3 < op) || decide (hcSlot w ≠ j)),
    (3, (hcWaiten w && (s.segAddr p j (hcWaddr w) 8 true false hodTiers).isNone) ||
        (hcCond w && (s.segAddr p j (hcCaddr w) (if hcClip w then 28 else 4) true false hodTiers).isNone)),
    (4, decide (1 ≤ op ∧ 1048575 < hcNidx w) || decide (1048575 < hcNbag w) || decide (2 ≤ hcPool w) ||
        decide (hcPool w = 0 ∧ hcNbag w ≠ 0) ||
        (decide (op = 1) && !decide (8 ≤ hcOfmt w ∧ hcOfmt w ≤ 10)) ||
        (decide (op = 2) && !decide (hcOfmt w = 8 ∨ hcOfmt w = 10)) ||
        (hcWaiten w && decide (hcWaddr w / 16 % 8 ≠ 0)) || (hcCond w && decide (hcCaddr w / 16 % 4 ≠ 0)) ||
        (hcSigen w && !((s.panel p).holdsTile (hcSigtile w) && decide (hcSigtile w < 10240))))]

/-- Row bytes at DATA. -/
def hodRowBytes (w d : Nat) : Nat := tdD d * (if hcOp w = 3 then 4 else fmtBytes (hcOfmt w))

/-- Every segmented address a command uses: address, bytes, read, written, tiers. In order: IDX, WGT, BAG, DATA, UOUT, MOUT,
SCR, map, hot, warm, cold, ACC, CADDR. -/
def hodUses (w d : Nat) : List (Nat × Nat × Bool × Bool × List Nat) :=
  let op := hcOp w
  let n := hcNidx w + 1
  let tab := decide (op = 1 ∨ op = 3)
  let up := decide (op = 3)
  let on (c : Bool) (v : Nat) : Nat := if c then v else 0
  let reg (k : Nat) : Nat × Nat × Bool × Bool × List Nat :=
    (tdRegion d k, on tab (tdCnt d k * slotSize d k), true, up, hodTiers)
  [(hcIdx w, if up then 4 * (n + 1) else 4 * n, true, false, hodTiers),
   (hcWgt w, on (hcWen w && decide (op ≤ 2)) (4 * n), true, false, hodTiers),
   (hcBag w, on (decide (op ≤ 2 ∧ hcPool w = 1)) (4 * (hcNbag w + 2)), true, false, hodTiers),
   (hcData w, rowsExtent (if up then n else hcRows w) (hcDstride w) (hodRowBytes w d), decide (2 ≤ op), decide (op = 1), hodTiers),
   (hcUout w, on (decide (op = 2)) (4 * (n + 1)), false, true, hodTiers),
   (hcMout w, on (decide (op = 2)) (rowsExtent n (hcMstride w) (4 * tdD d)), false, true, hodTiers),
   (hcScr w, on (decide (op = 2)) (8 * n), true, true, [2, 3]),
   (tdMap d, on tab (4 * tdRows d), true, false, hodTiers),
   reg 0, reg 1, reg 2,
   (tdAcc d, on (up && decide (tdRule d = 1)) (4 * tdRows d), true, true, hodTiers),
   (hcCaddr w, on (hcCond w) (if hcClip w then 28 else 4), true, false, hodTiers)]

/-- Causes found with the descriptor. -/
def State.hodDescCauses (s : State) (p j w d : Nat) : List Nat :=
  causes [
    (1, decide (bits d 39 1 ≠ 0 ∨ bits d 245 11 ≠ 0 ∨ bits d 430 2 ≠ 0 ∨ bits d 462 2 ≠ 0 ∨ bits d 494 18 ≠ 0)),
    (3, (hodUses w d).any (fun u => (s.segAddr p j u.1 u.2.1 u.2.2.1 u.2.2.2.1 u.2.2.2.2).isNone)),
    (4, !decide (tdWfmt d = 1 ∨ tdWfmt d = 2) || !decide (tdCfmt d = 5 ∨ tdCfmt d = 7) || decide (2 ≤ tdRule d) ||
        decide (tdRegion d 0 / 16 % 64 ≠ 0 ∨ tdRegion d 1 / 16 % 64 ≠ 0 ∨ tdRegion d 2 / 16 % 64 ≠ 0) ||
        decide (hcDstride w < hodRowBytes w d) || (decide (hcOp w = 2) && decide (hcMstride w < 4 * tdD d)))]

/-- Translated addresses of a command, in the order of `hodUses`. -/
def State.hodTranslate (s : State) (p j w d : Nat) : List Nat :=
  (hodUses w d).map (fun u => (s.segAddr p j u.1 u.2.1 u.2.2.1 u.2.2.2.1 u.2.2.2.2).getD 0)

def HodCmd.addr (x : HodCmd) (i : Nat) : Nat := x.tr.getD i 0
def HodCmd.idxA (x : HodCmd) (p : Nat) : Nat := x.addr 0 + 4 * p
def HodCmd.dataA (x : HodCmd) (r : Nat) : Nat := x.addr 3 + r * hcDstride x.w
def HodCmd.slotA (x : HodCmd) (w n : Nat) : Nat := x.addr (8 + w) + n * slotSize x.desc w

/-! ### Reads (R75, R311, R462 cause 9) -/

/-- A run of an engine's command: the state it leaves, and its result or the cause of its fault. -/
abbrev HodM (α : Type) := State → State × Except Nat α

def hodPure {α} (x : α) : HodM α := fun s => (s, .ok x)
def hodFail {α} (c : Nat) : HodM α := fun s => (s, .error c)
def hodState {α} (f : State → α) : HodM α := fun s => (s, .ok (f s))
def hodDo (f : State → State) : HodM Unit := fun s => (f s, .ok ())

def hodBind {α β} (m : HodM α) (f : α → HodM β) : HodM β := fun s =>
  match (m s).2 with | .error c => ((m s).1, .error c) | .ok x => f x (m s).1

/-- A read of the engine; one that does not end OK is cause 9. -/
def hodRead (p j n a : Nat) : HodM (List Byte) := fun s =>
  ((s.unitRead (some (p, j)) n a).1, match (s.unitRead (some (p, j)) n a).2 with | .ok bs => .ok bs | .error _ => .error 9)

def hodNat (p j n a : Nat) : HodM Nat := hodBind (hodRead p j n a) (fun bs => hodPure (ofBytes bs))

def hodEach {α β} (f : α → HodM β) : List α → HodM (List β)
  | [] => hodPure []
  | x :: xs => hodBind (f x) (fun y => hodBind (hodEach f xs) (fun ys => hodPure (y :: ys)))

/-- `n` free bytes. -/
def hodDraw (n : Nat) : HodM (List Byte) := fun s => ((s.drawBytes n).1, .ok (s.drawBytes n).2)

/-! ### Rows (R451 to R453, R464) -/

/-- Element `i` of a slot's bytes as an FP32 code, with its flags (R452, R64). -/
def rowElem (d w : Nat) (sat : Bool) (bs : List Byte) (i : Nat) : Nat × NFlags :=
  let n := tdD d
  match w with
  | 0 => readElem fmtBF16 sat (ofBytes ((bs.drop (2 * i)).take 2)) none
  | 1 => readElem (fmtOf (tdWfmt d)) sat ((bs.getD i 0).toNat) (some (bs.getD (n + i / 32) 0).toNat)
  | _ => readElem (fmtOf (tdCfmt d)) sat (bits (bs.getD (i / 2) 0).toNat (4 * (i % 2)) 4) (some (bs.getD (n / 2 + i / 32) 0).toNat)

/-- A row's width code and slot (R451). -/
def hodMapEntry (p j : Nat) (x : HodCmd) (u : Nat) : HodM (Nat × Nat) :=
  if tdRows x.desc ≤ u then hodFail 6
  else hodBind (hodNat p j 4 (x.addr 7 + 4 * u)) (fun e =>
    if e % 4 < 3 ∧ tdCnt x.desc (e % 4) ≤ e / 4 then hodFail 7 else hodPure (e % 4, e / 4))

/-- The elements of row `u` as FP32 codes; an absent row reads as +0.0 (R453). -/
def hodRow (h p j : Nat) (x : HodCmd) (u : Nat) : HodM (List (Nat × NFlags)) :=
  hodBind (hodMapEntry p j x u) (fun e =>
    if e.1 = 3 then hodPure (List.replicate (tdD x.desc) (0, {}))
    else hodBind (hodRead p j (slotSize x.desc e.1) (x.slotA e.1 e.2)) (fun bs =>
      hodBind (hodDo (fun s => s.modHod h (fun y => { y with rows := satAdd 0xFFFFFFFF y.rows 1 }))) (fun _ =>
        hodPure ((List.range (tdD x.desc)).map (rowElem x.desc e.1 (hcOvf x.w) bs)))))

def fp32One : Nat := 0x3F800000

def hodWeights (p j : Nat) (x : HodCmd) : HodM (List Nat) :=
  if hcWen x.w then hodEach (fun i => hodNat p j 4 (x.addr 1 + 4 * i)) (List.range (hcNidx x.w + 1))
  else hodPure (List.replicate (hcNidx x.w + 1) fp32One)

def hodIndices (p j : Nat) (x : HodCmd) : HodM (List Nat) :=
  hodBind (hodEach (fun i => hodNat p j 4 (x.idxA i)) (List.range (hcNidx x.w + 1))) (fun ix =>
    if ix.any (fun u => decide (tdRows x.desc ≤ u)) then hodFail 6 else hodPure ix)

def nondecreasing : List Nat → Bool
  | a :: b :: r => decide (a ≤ b) && nondecreasing (b :: r)
  | _ => true

def rising : List Nat → Bool
  | a :: b :: r => decide (a < b) && rising (b :: r)
  | _ => true

/-- Bag offsets (cause 5); under POOL 0 every occurrence is its own bag. -/
def hodBags (p j : Nat) (x : HodCmd) : HodM (List Nat) :=
  let n := hcNidx x.w + 1
  if hcPool x.w = 0 then hodPure (List.range (n + 1))
  else hodBind (hodEach (fun i => hodNat p j 4 (x.addr 2 + 4 * i)) (List.range (hcNbag x.w + 2))) (fun bs =>
    if bs.headD 1 ≠ 0 ∨ bs.getLastD 0 ≠ n ∨ !nondecreasing bs then hodFail 5 else hodPure bs)

/-- One fused step of an accumulation, with the flags it adds. -/
def fmaStep (sat : Bool) (a : Nat × NFlags) (x z : Nat) : Nat × NFlags :=
  let (v, f) := fpFma sat x z a.1
  (v, a.2.or f.noUf)

/-- Writes a run makes, with the flags gathered. -/
structure HodOut where
  writes : List (Nat × List Byte) := []
  flags : NFlags := {}
  /-- absent rows met by H_UPDATE -/
  absent : Nat := 0
deriving DecidableEq, Repr

/-! ### H_GATHER (R465) -/

/-- An output row in OFMT. -/
def gatherRow (x : HodCmd) (r : Nat) (es : List (Nat × NFlags)) : HodOut :=
  let f := fmtOf (hcOfmt x.w)
  let ctx : RndCtx := ⟨hcRnd x.w, hcStep x.w, hcTensor x.w⟩
  let cs := es.zipIdx.map (fun e =>
    let (c, g) := f.convert (hcOvf x.w) (ctx.at (r * tdD x.desc + e.2)) (val32 e.1.1)
    (c, e.1.2.or g))
  { writes := [(x.dataA r, cs.flatMap (fun c => toBytes (fmtBytes (hcOfmt x.w)) c.1))], flags := gather (cs.map (·.2)) }

def HodOut.join (l : List HodOut) : HodOut :=
  { writes := l.flatMap (·.writes), flags := gather (l.map (·.flags)), absent := (l.map (·.absent)).sum }

def runGather (h p j : Nat) (x : HodCmd) : HodM HodOut :=
  hodBind (hodBags p j x) (fun bags =>
  hodBind (hodIndices p j x) (fun ix =>
  hodBind (hodWeights p j x) (fun ws =>
  hodBind (hodEach (hodRow h p j x) ix) (fun rows =>
    let sat := hcOvf x.w
    let row (i : Nat) : List (Nat × NFlags) := rows.getD i []
    let outs :=
      if hcPool x.w = 0 then
        (List.range ix.length).map (fun i => gatherRow x i ((row i).map (fun e =>
          let (v, f) := fpOp2 2 sat (ws.getD i fp32One) e.1
          (v, e.2.or f.noUf))))
      else
        (List.range (hcNbag x.w + 1)).map (fun b =>
          let occ := (List.range (bags.getD (b + 1) 0 - bags.getD b 0)).map (fun i => bags.getD b 0 + i)
          gatherRow x b ((List.range (tdD x.desc)).map (fun e =>
            occ.foldl (fun a i =>
              let y := (row i).getD e (0, {})
              fmaStep sat (a.1, a.2.or y.2) (ws.getD i fp32One) y.1) (0, {}))))
    hodPure (HodOut.join outs)))))

/-! ### H_MERGE (R466, R467) -/

/-- Insertion of an index into a rising list without repeats. -/
def insertRising (u : Nat) : List Nat → List Nat
  | [] => [u]
  | v :: r => if u < v then u :: v :: r else if u = v then v :: r else v :: insertRising u r

/-- The bag an occurrence belongs to. -/
def bagOf (bags : List Nat) (i : Nat) : Nat := (bags.filter (fun b => decide (b ≤ i))).length - 1

def runMerge (p j : Nat) (x : HodCmd) : HodM HodOut :=
  let d := tdD x.desc
  let eb := fmtBytes (hcOfmt x.w)
  hodBind (hodBags p j x) (fun bags =>
  hodBind (hodIndices p j x) (fun ix =>
  hodBind (hodWeights p j x) (fun ws =>
  hodBind (hodEach (fun r => hodRead p j (d * eb) (x.dataA r)) (List.range (hcRows x.w))) (fun grads =>
    let sat := hcOvf x.w
    let uniq := ix.foldl (fun l u => insertRising u l) []
    let gbag (i : Nat) : List Byte := grads.getD (if hcPool x.w = 0 then i else bagOf (bags.take (hcNbag x.w + 1)) i) []
    let elem (i e : Nat) : Nat × NFlags := readElem (fmtOf (hcOfmt x.w)) sat (ofBytes (((gbag i).drop (e * eb)).take eb)) none
    let rows := uniq.zipIdx.map (fun u =>
      let occ := (List.range ix.length).filter (fun i => decide (ix.getD i 0 = u.1))
      let es := (List.range d).map (fun e => occ.foldl (fun a i =>
        let y := elem i e
        fmaStep sat (a.1, a.2.or y.2) (ws.getD i fp32One) y.1) ((0, {}) : Nat × NFlags))
      ({ writes := [(x.addr 5 + u.2 * hcMstride x.w, es.flatMap (fun c => toBytes 4 c.1))], flags := gather (es.map (·.2)) } : HodOut))
    let list : HodOut := { writes := [(x.addr 4, toBytes 4 uniq.length ++ uniq.flatMap (fun u => toBytes 4 u))] }
    hodBind (hodDraw (8 * ix.length)) (fun scr => hodPure (HodOut.join (list :: rows ++ [{ writes := [(x.addr 6, scr)] }])))))))

/-! ### H_UPDATE (R468, R469, Table 13.4) -/

/-- An FP32 operation of R65 inside the rule, flags joined. -/
def ruleOp (sat : Bool) (fn : Nat) (a b : Nat × NFlags) : Nat × NFlags :=
  let (v, f) := fpOp2 fn sat a.1 b.1
  (v, (a.2.or b.2).or f.noUf)

def negCode (x : Nat × NFlags) : Nat × NFlags := ((fpOp1 1 false x.1).1, x.2)

/-- The new elements of a row, and the new accumulator under RULE 1. -/
def ruleRow (d : Nat) (sat : Bool) (ws gs : List (Nat × NFlags)) (acc : Nat) : List (Nat × NFlags) × Option (Nat × NFlags) :=
  let step (r w g : Nat × NFlags) : Nat × NFlags :=
    let (v, f) := fpFma sat r.1 g.1 w.1
    (v, ((r.2.or w.2).or g.2).or f.noUf)
  if tdRule d = 0 then ((ws.zip gs).map (fun p => step (negCode (tdLr d, {})) p.1 p.2), none)
  else
    let q := reduceRow 1 sat (gs.map (·.1))
    let n : Nat × NFlags := ((rne32 false (.num false (tdD d) 0)).1, {})
    let a := ruleOp sat 0 (acc, {}) (ruleOp sat 3 q n)
    let rt : Nat × NFlags := let (v, f) := fpOp1 3 sat a.1; (v, a.2.or f.noUf)
    let dn := ruleOp sat 0 rt (tdEps d, {})
    let r := ruleOp sat 3 (tdLr d, {}) dn
    ((ws.zip gs).map (fun p => step (negCode r) p.1 p.2), some a)

/-- R469: the slot's bytes at its width. -/
def slotBytes (x : HodCmd) (w u : Nat) (es : List Nat) : List Byte × NFlags :=
  let d := x.desc
  let sat := hcOvf x.w
  let ctx : RndCtx := ⟨tdSrnd d, hcStep x.w, tdTid d⟩
  let ix (i : Nat) : Nat := u * tdD d + i
  if w = 0 then
    let cs := es.zipIdx.map (fun e => fmtBF16.convert sat (ctx.at (ix e.2)) (val32 e.1))
    (cs.flatMap (fun c => toBytes 2 c.1), gather (cs.map (·.2)))
  else
    let f := if w = 1 then tdWfmt d else tdCfmt d
    let bs := (List.range (tdD d / 32)).map (fun v =>
      convertBlock (fmtOf f) sat ctx ((List.range 32).map (fun i => (val32 (es.getD (32 * v + i) 0), ix (32 * v + i)))))
    let data := bs.flatMap (fun b => toBytes (vecSize f) (packCodes f b.1)) ++ bs.flatMap (fun b => toBytes 1 b.2.1)
    (data ++ List.replicate (slotSize d w - data.length) 0, gather (bs.map (·.2.2)))

/-- One row of the list. -/
def updateRow (h p j : Nat) (x : HodCmd) (c32 : Option Nat) (k u : Nat) : HodM HodOut :=
  let d := x.desc
  let sat := hcOvf x.w
  hodBind (hodMapEntry p j x u) (fun e =>
    if e.1 = 3 then hodPure { absent := 1 }
    else
      hodBind (hodRead p j (slotSize d e.1) (x.slotA e.1 e.2)) (fun bs =>
      hodBind (hodRead p j (4 * tdD d) (x.dataA k)) (fun gb =>
      hodBind (if tdRule d = 1 then hodNat p j 4 (x.addr 11 + 4 * u) else hodPure 0) (fun acc =>
      hodBind (hodDo (fun s => s.modHod h (fun y => { y with rows := satAdd 0xFFFFFFFF y.rows 1 }))) (fun _ =>
        let ws := (List.range (tdD d)).map (rowElem d e.1 sat bs)
        let gs := (List.range (tdD d)).map (fun i =>
          let g := ofBytes ((gb.drop (4 * i)).take 4)
          match c32 with
          | some c => ruleOp sat 2 (c, {}) (g, {})
          | none => (g, {}))
        let (new, a) := ruleRow d sat ws gs acc
        let (out, f) := slotBytes x e.1 u (new.map (·.1))
        hodPure { writes := (x.slotA e.1 e.2, out) :: (match a with | some a => [(x.addr 11 + 4 * u, toBytes 4 a.1)] | none => [])
                  flags := (gather (new.map (·.2))).or f })))))

def runUpdate (h p j : Nat) (x : HodCmd) : HodM HodOut :=
  hodBind (hodNat p j 4 (x.idxA 0)) (fun u =>
    if hcNidx x.w + 1 < u then hodFail 8
    else hodBind (hodEach (fun i => hodNat p j 4 (x.idxA (i + 1))) (List.range u)) (fun ix =>
      if !rising ix then hodFail 8
      else hodBind (if hcCond x.w && hcClip x.w then hodBind (hodNat p j 4 (x.addr 12 + 24)) (fun c => hodPure (some c)) else hodPure none)
        (fun c32 => hodBind (hodEach (fun q => updateRow h p j x c32 q.2 q.1) ix.zipIdx) (fun outs => hodPure (HodOut.join outs)))))

/-! ### Accesses outstanding (R459) -/

/-- Pieces of 64 B to 4 KiB that `[a, a + n)` takes, none across a 4 KiB boundary. -/
def accessPieces (a n : Nat) : Nat := if n = 0 then 0 else (a + n - 1) / 4096 + 1 - a / 4096

/-- Reads a command makes, counted before it runs: the pieces of its lists, one per map entry and accumulator, the pieces of its
slots and gradient rows. -/
def State.hodReads (s : State) (x : HodCmd) : Nat :=
  let w := x.w
  let d := x.desc
  let us := hodUses w d
  let pieces (i : Nat) : Nat := accessPieces (x.addr i) (us.getD i (0, 0, false, false, [])).2.1
  let entry (u : Nat) : Nat :=
    if tdRows d ≤ u then 0
    else
      let e := s.peekNat 4 (x.addr 7 + 4 * u)
      1 + (if e % 4 < 3 ∧ e / 4 < tdCnt d (e % 4) then accessPieces (x.slotA (e % 4) (e / 4)) (slotSize d (e % 4)) else 0)
  let n := if hcOp w = 3 then min (s.peekNat 4 (x.idxA 0)) (hcNidx w + 1) else hcNidx w + 1
  let ix := (List.range n).map (fun i => s.peekNat 4 (x.idxA (if hcOp w = 3 then i + 1 else i)))
  let rowsOf (m : Nat) : Nat := ((List.range m).map (fun r => accessPieces (x.dataA r) (hodRowBytes w d))).sum
  match hcOp w with
  | 1 => pieces 0 + pieces 1 + pieces 2 + (ix.map entry).sum
  | 2 => pieces 0 + pieces 1 + pieces 2 + rowsOf (hcRows w)
  | 3 => pieces 0 + (ix.map entry).sum + rowsOf n + (if tdRule d = 1 then n else 0)
  | _ => 0

/-- Slots with an access of the kind still to issue, the pointer's first, and the one that gets the free entry. -/
def HodS.issueOne (x : HodS) (write : Bool) : Option HodS :=
  let left (c : HodCmd) : Nat := if write then c.wLeft else c.rLeft
  match (rotate 8 x.slotPtr).find? (fun j => x.cmds.any (fun c => decide (c.ring / 16 = j) && decide (0 < left c))) with
  | none => none
  | some j =>
    match x.cmds.find? (fun c => decide (c.ring / 16 = j) && decide (0 < left c)) with
    | none => none
    | some c =>
      let c' := if write then { c with wLeft := c.wLeft - 1, wOut := c.wOut + 1 } else { c with rLeft := c.rLeft - 1, rOut := c.rOut + 1 }
      some { x with slotPtr := (j + 1) % 8, cmds := x.cmds.map (fun y => if y.ring = c.ring ∧ y.pos = c.pos then c' else y) }

def HodS.rOut (x : HodS) : Nat := (x.cmds.map (·.rOut)).sum
def HodS.wOut (x : HodS) : Nat := (x.cmds.map (·.wOut)).sum

/-- Accesses issue while their bound allows. -/
def HodS.issue (write : Bool) : Nat → HodS → HodS
  | 0, x => x
  | k + 1, x =>
    if (if write then 1024 else 4096) ≤ (if write then x.wOut else x.rOut) then x
    else match x.issueOne write with
      | some y => HodS.issue write k y
      | none => x

def HodS.issueAll (x : HodS) : HodS := HodS.issue true 1024 (HodS.issue false 4096 x)

/-! ### Faults, start and run -/

def hodRing (h i : Nat) : Nat := 253952 + h * 128 + i

/-- R462: every ring of the slot on the engine stops, and the job ends. -/
def State.hodFault (s : State) (h p j i : Nat) (pos : Count) (cause : Nat) : State :=
  let s := (List.range 16).foldl (fun s k => s.modRing (hodRing h (16 * j + k)) (fun r => { r with stopped := true })) s
  let s := s.modHod h (fun x => { x with
    slotFault := x.slotFault ||| 2 ^ j
    cmds := x.cmds.filter (fun c => !(c.ring = i && c.pos = pos)) })
  s.faultJob p j { cls := 0x0B, cause := cause, unit := hodAgent h, ring := hodRing h i, pos := pos.toNat }

def State.modHodCmd (s : State) (h i : Nat) (pos : Count) (f : HodCmd → HodCmd) : State :=
  s.modHod h (fun x => { x with cmds := x.cmds.map (fun c => if c.ring = i ∧ c.pos = pos then f c else c) })

/-- The command at the head of a ring, both its entries fetched (R457). -/
def Ring.headPair (r : Ring) : Option Nat :=
  match r.fetched with | a :: b :: _ => some (a + b * 2 ^ 512) | _ => none

/-- The wait of a head command is satisfied, or its wait word cannot be read, which the start then faults (R458). -/
def State.segWaitMet (s : State) (p j : Nat) (en : Bool) (addr v : Nat) : Bool :=
  if !en then true
  else match s.segAddr p j addr 8 true false hodTiers with
    | none => true
    | some a => if s.windowStopped a then false else if s.readResp a 8 = .ok then decide (v ≤ s.peekNat 8 a) else true

/-- R458: ring `i` has a head command that is ready. -/
def State.hodReady (s : State) (h p i : Nat) : Option Nat :=
  let j := i / 16
  let x := s.hod h
  match (s.ring (hodRing h i)).headPair with
  | none => none
  | some w =>
    let mine := x.cmds.filter (fun c => c.ring / 16 = j)
    if s.ringLive (hodRing h i) && !(s.panel p).susp.getLsbD j && decide (mine.length < 2) && mine.all (fun c => decide (c.rLeft = 0)) &&
       (!hcFence w || x.cmds.all (fun c => decide (c.ring ≠ i))) && s.segWaitMet p j (hcWaiten w) (hcWaddr w) (hcWval w)
    then some w else none

/-- The ring of slot `j` whose command starts next. -/
def State.hodPick (s : State) (h p j : Nat) : Option (Nat × Nat) :=
  ((rotate 16 ((s.hod h).ringPtr.get 0 j)).filterMap (fun k => (s.hodReady h p (16 * j + k)).map (fun w => (16 * j + k, w)))).head?

/-- The start of a command (R462): its checks, its wait and its condition, then its table descriptor, translated; the
command as the engine holds it, or the cause of the fault. -/
def hodPrepare (p j : Nat) (b : HodCmd) : HodM HodCmd :=
  let w := b.w
  hodBind (hodState (fun s => lowest (s.hodCauses p j w))) (fun c => match c with
  | some c => hodFail c
  | none =>
    hodBind (hodState (fun s => (s.segAddr p j (hcWaddr w) 8 true false hodTiers).getD 0)) (fun wa =>
    hodBind (if hcWaiten w then hodNat p j 8 wa else hodPure 0) (fun _ =>
    hodBind (hodState (fun s => (s.segAddr p j (hcCaddr w) 4 true false hodTiers).getD 0)) (fun ca =>
    hodBind (if hcCond w then hodNat p j 4 ca else hodPure 1) (fun v =>
      if v = 0 then hodPure { b with ran := true, outcome := 1 }
      else if hcOp w = 0 then hodPure { b with ran := true }
      else hodBind (hodState (fun s => s.segAddr p j (hcTable w) 64 true false hodTiers)) (fun ta => match ta with
        | none => hodFail 3
        | some ta =>
          hodBind (hodNat p j 64 ta) (fun d =>
          hodBind (hodState (fun s => lowest (s.hodDescCauses p j w d))) (fun c => match c with
          | some c => hodFail c
          | none => hodState (fun s =>
              let x : HodCmd := { b with desc := d, tr := s.hodTranslate p j w d }
              { x with rLeft := s.hodReads x })))))))))

/-- R462, R463: the start of a command: its own checks, the condition, the descriptor and its checks. -/
def State.hodBegin (s : State) (h p i w : Nat) : State :=
  let j := i / 16
  let pos := (s.ring (hodRing h i)).head
  let s := (s.modRing (hodRing h i) (fun r => r.pass 2)).unitStarts (hodAgent h) (some h) p j pos (hcOp w)
  let s := s.modHod h (fun x => { x with ringPtr := x.ringPtr.set 0 j ((i + 1) % 16) })
  match hodPrepare p j { ring := i, pos := pos, w := w } s with
  | (s, .error c) => s.hodFault h p j i pos c
  | (s, .ok x) => s.modHod h (fun y => { y with cmds := y.cmds ++ [x] }.issueAll)

def hodRun (h p j : Nat) (x : HodCmd) : HodM HodOut :=
  match hcOp x.w with
  | 1 => runGather h p j x
  | 2 => runMerge p j x
  | _ => runUpdate h p j x

/-- The addresses a command touches outside the tile plane's windows, or a running plane. -/
def State.hodStopped (s : State) (x : HodCmd) : Bool := x.tr.any (fun a => s.windowStopped a)

def State.hodWrites (s : State) : List (Nat × List Byte) → State × Bool
  | [] => (s, true)
  | (a, bs) :: r =>
    match s.unitWrite a bs with
    | (s, none) => s.hodWrites r
    | (s, some _) => (s, false)

/-- The command runs once its reads are in: its values and its writes. A fault of the run comes before its first write. -/
def State.hodFinish (s : State) (h p : Nat) (x : HodCmd) : State :=
  let j := x.ring / 16
  if x.ran || decide (x.rLeft ≠ 0 ∨ x.rOut ≠ 0) || s.hodStopped x then s
  else match hodRun h p j x s with
    | (s, .error c) => s.hodFault h p j x.ring x.pos c
    | (s, .ok out) =>
      match s.hodWrites out.writes with
      | (s, false) => s.hodFault h p j x.ring x.pos 9
      | (s, true) =>
        let n := (out.writes.map (fun w => accessPieces w.1 w.2.length)).sum
        let s := s.modHodCmd h x.ring x.pos (fun c => { c with ran := true, wLeft := n, flags := out.flags.toNat })
        s.modHod h (fun y => { y with absent := satAdd 0xFFFF y.absent out.absent }.issueAll)

/-- A hod opcode's row: its command of the ring runs, or starts when it is the slot's next. An undefined opcode starts with
H_NOP's row, to its fault. -/
def State.hodRow (s : State) (h i : Nat) (mine : Nat → Bool) : State :=
  match s.spanPanel h with
  | none => s
  | some p =>
    match (s.hod h).cmds.find? (fun c => decide (c.ring = i) && !c.ran && mine (hcOp c.w)) with
    | some x => s.hodFinish h p x
    | none =>
      match s.hodPick h p (i / 16) with
      | some (k, w) => if k = i && mine (hcOp w) then s.hodBegin h p i w else s
      | none => s

def execHNop (h : HodId) (i : Fin 128) (s : State) : Host.Outcome State Fault Refusal :=
  .next (s.hodRow h i (fun op => decide (op = 0 ∨ 3 < op)))
def execHGather (h : HodId) (i : Fin 128) (s : State) : Host.Outcome State Fault Refusal := .next (s.hodRow h i (fun op => decide (op = 1)))
def execHMerge (h : HodId) (i : Fin 128) (s : State) : Host.Outcome State Fault Refusal := .next (s.hodRow h i (fun op => decide (op = 2)))
def execHUpdate (h : HodId) (i : Fin 128) (s : State) : Host.Outcome State Fault Refusal := .next (s.hodRow h i (fun op => decide (op = 3)))

/-- HOD_ACCESS_RESPONSE: the oldest command's access returns; one that does not end OK is cause 9 (R462). -/
def State.hodResponse (s : State) (h : Nat) (write : Bool) (r : Resp) : State :=
  match s.spanPanel h, (s.hod h).cmds.find? (fun c => decide (0 < (if write then c.wOut else c.rOut))) with
  | some p, some x =>
    if r = .ok then
      (s.modHodCmd h x.ring x.pos (fun c => if write then { c with wOut := c.wOut - 1 } else { c with rOut := c.rOut - 1 })).modHod h
        HodS.issueAll
    else s.hodFault h p (x.ring / 16) x.ring x.pos 9
  | _, _ => s

def execHodAccessResponse (h : HodId) (write : Bool) (r : Resp) (s : State) : Host.Outcome State Fault Refusal :=
  .next (s.hodResponse h write r)

/-- HOD_COMMAND_COMPLETE: the oldest command of the ring, once every access has been answered. -/
def State.hodComplete (s : State) (h i : Nat) : State :=
  match s.spanPanel h, (s.hod h).cmds.find? (fun c => c.ring = i) with
  | some p, some x =>
    if x.ran && decide (x.rOut = 0 ∧ x.wLeft = 0 ∧ x.wOut = 0) then
      let s := s.modHod h (fun y => { y with cmds := y.cmds.filter (fun c => !(c.ring = i && c.pos = x.pos)) })
      s.unitDone (hodAgent h) (some h) (hodRing h i) p (i / 16) x.pos (hcRec x.w) (hcSigen x.w) (hcSigtile x.w) (hcSigctr x.w)
        (hcSigval x.w) x.outcome x.flags
    else s
  | _, _ => s

def execHodCommandComplete (h : HodId) (i : Fin 128) (s : State) : Host.Outcome State Fault Refusal := .next (s.hodComplete h i)

end Sys2Proof.Machine
end

