-- ==== Sys2Proof/Machine/Regs.lean ====
section
/-!
DEFINITION. The registers as a read returns them (Tables 3.4 to 3.12, 8.6 to 8.9, 9.13 to 9.19, 10.9 to 10.12, 12.8 to 12.11,
13.5 to 13.7, 14.6 to 14.8, 15.10 to 15.14, 16.17 to 16.19, 18.8 to 18.11, 19.7 to 19.9, 20.7): each aligned 8 B of a block, who
reaches it (Table 15.3), and what a read clears (RC fields, R11).
-/
namespace Sys2Proof.Machine

/-! ### Blocks (Table 9.4) -/

inductive Block where
  | tile (t : Nat) | grtDie (d : Nat) | grtSill (s : Nat) | grtHost (h : Nat) | seg (p : Nat) | pnl (p : Nat)
  | hod (h : Nat) | crs (n : Nat) | icr (p : Nat) | int (n : Nat) | hst (h : Nat) | mod
deriving DecidableEq, Repr

/-- Block and offset of an address of the management MMIO region. -/
def blockOf (a : Nat) : Option (Block × Nat) :=
  if a < mmioBase then none
  else
    let o := a - mmioBase
    let k := o % 2 ^ 24 / 2 ^ 16
    let off := o % 2 ^ 16
    if o < 10240 * 2 ^ 16 then some (.tile (o / 2 ^ 16), off)
    else match o / 2 ^ 24 with
      | 0x40 => if k < 40 then some (.grtDie k, off) else none
      | 0x41 => if k < 16 then some (.grtSill k, off) else none
      | 0x42 => if k < 2 then some (.grtHost k, off) else none
      | 0x43 => if k < 16 then some (.seg k, off) else none
      | 0x44 => if k < 16 then some (.pnl k, off) else none
      | 0x45 => if k < 32 then some (.hod k, off) else none
      | 0x46 => if k < 32 then some (.crs k, off) else none
      | 0x47 => if k < 16 then some (.icr k, off) else none
      | 0x48 => if k < 4 then some (.int k, off) else none
      | 0x49 => if k < 2 then some (.hst k, off) else none
      | 0x4A => if k < 1 then some (.mod, off) else none
      | _ => none

/-- Table 15.3. -/
def State.blockReach (s : State) (auth : Auth) (b : Block) (off : Nat) (write : Bool) : Bool :=
  match auth with
  | .owner => true
  | .panel p =>
    let ring (base stride : Nat) := off ≥ base && (off - base) / 0x20 / stride == p.val
    match b with
    | .tile t => decide (s.tilePanel t = some p.val)
    | .seg q | .pnl q | .icr q => decide (q = p.val)
    | .hod h => decide (s.spanPanel h = some p.val)
    | .crs n => !(s.port n).eth && ring 0x1000 16
    | .int _ => ring 0x1000 32
    | .hst _ => !write
    | _ => false

/-! ### Rings -/

/-- The two 8 B of a ring's CFG, HEAD and TAIL registers; its DB reads 0. -/
def Ring.dword (r : Ring) (modr : Bool) (i : Nat) : Nat :=
  match i with
  | 0 => r.log2 + b2n r.en * 2 ^ 5 + b2n (modr && r.modr) * 2 ^ 6 + r.base / 4096 % 2 ^ 40 * 2 ^ 12
  | 1 => r.head.toNat + r.tail.toNat * 2 ^ 32
  | _ => 0

/-- Registers of rings from offset `base`, stride 0x20, `n` of them, the first with ring ID `g`. -/
def State.ringDword (s : State) (g base n off : Nat) : Nat :=
  let i := (off - base) / 0x20
  if base ≤ off ∧ i < n then (s.ring (g + i)).dword false ((off - base) % 0x20 / 8) else 0

/-! ### Tiles -/

/-- Repair field of a physical column (R574). -/
def State.repairField (s : State) (d c : Nat) : Nat := (s.boot.repair.get 0 (16 * d + c)) ^^^ 0x1F

/-- Physical row that backs a logical row (R574). -/
def physRow (field row : Nat) : Nat := if field = 0x1F ∨ row < field then row else row + 1

def State.tileId (s : State) (t : Nat) : Nat :=
  let p := s.tilePanel t
  t + tileDie t * 2 ^ 16 + tileX t % 16 * 2 ^ 22 + tileY t % 16 * 2 ^ 26 +
    physRow (s.repairField (tileDie t) (tileX t % 16)) (tileY t % 16) * 2 ^ 30 + p.getD 0 * 2 ^ 35 + b2n p.isSome * 2 ^ 39

def bitSum (n : Nat) (f : Nat → Bool) : Nat := (List.range n).foldl (fun a i => a + b2n (f i) * 2 ^ i) 0

/-- Slot has a pending, queued or executing command (Table 3.6). -/
def State.slotActive (s : State) (t j : Nat) : Bool :=
  (List.range 3).any (fun c =>
    let r := s.ring (tileRing t j c)
    let e := s.engine t c
    (r.en && decide (r.head ≠ r.tail)) || (e.urgent ++ e.normal).any (fun x => decide (bits x.cmd.hdr 9 3 = j)) ||
    e.active.any (fun a => decide (bits a.c.cmd.hdr 9 3 = j)))

def State.tileStatus (s : State) (t : Nat) : Nat :=
  let x := s.tile t
  let busy (c : Nat) := !(s.engine t c).active.isEmpty
  b2n (busy 0) + b2n (busy 1) * 2 + b2n (busy 2 || !x.txns.isEmpty) * 4 + bitSum 8 (s.slotActive t) * 2 ^ 8 +
    x.slotFault.toNat * 2 ^ 16 + b2n s.dbg.halt * 2 ^ 24 + b2n x.thermal * 2 ^ 25 + x.txns.length * 2 ^ 32 +
    (x.hwc.filter (fun l => l.2.req.isSome || l.2.wb)).length * 2 ^ 40

def State.ceiling (s : State) (d : Nat) : Nat := 400 + s.ceils.get 0 d

/-- Island frequency: 400 MHz under the thermal hold, below its ceiling after a droop, else at it (R95, R96). -/
def State.tileFreq (s : State) (t : Nat) : Nat :=
  let c := s.ceiling (tileDie t)
  if (s.tile t).thermal then 400 else match (s.tile t).droop with | some f => min f c | none => c

def State.tileDword (s : State) (t off : Nat) : Nat :=
  let x := s.tile t
  if off = 0x0 then s.tileId t
  else if off = 0x8 then s.tileStatus t
  else if off = 0x10 then x.pause.toNat
  else if off = 0x40 then x.temp.toNat + x.vmin.toNat * 2 ^ 16 + x.droopEvt * 2 ^ 32
  else if off = 0x48 then s.tileFreq t + s.ceiling (tileDie t) * 2 ^ 16
  else if 0x100 ≤ off ∧ off < 0x120 then
    let j := (off - 0x100) / 4
    x.nflag.get 0 j + x.nflag.get 0 (j + 1) * 2 ^ 32
  else if 0x400 ≤ off ∧ off < 0x700 then s.ringDword (24 * t) 0x400 24 off
  else if 0x1000 ≤ off ∧ off < 0x1800 then
    let k := (off - 0x1000) / 4
    (x.sync.get {} k).val.toNat + (x.sync.get {} (k + 1)).val.toNat * 2 ^ 32
  else 0

/-! ### Links -/

def mortarKey (d e i : Nat) : Nat := 64 * d + 16 * e + i
/-- Ring position of a sill or host die as INJECT numbers UCIe links. -/
def ucieKey (pos k : Nat) : Nat := 2560 + 3 * pos + k

def State.link (s : State) (k : Nat) : Link := s.links.get {} k
def State.modLink (s : State) (k : Nat) (f : Link → Link) : State := { s with links := s.links.modify {} k f }

/-- The edge of a compute die faces another (R21; edges 0 north, 1 east, 2 south, 3 west). -/
def edgeFaces (d e : Nat) : Option Nat :=
  match e with
  | 0 => if 8 ≤ d then some (d - 8) else none
  | 1 => if d % 8 ≠ 7 then some (d + 1) else none
  | 2 => if d < 32 then some (d + 8) else none
  | _ => if d % 8 ≠ 0 then some (d - 1) else none

/-- Number of modules of a UCIe link (R266). -/
def ucieMods (k : Nat) : Nat := if k = 0 then 8 else 2

/-- STATE of a link: its own where it has one, else down before training and up after it. -/
def State.linkState (s : State) (k : Nat) : Nat := (s.link k).st.getD (if s.boot.trained then 3 else 1)

def State.mlinkDword (s : State) (d e i : Nat) : Nat :=
  if (edgeFaces d e).isNone then 0
  else
    let k := mortarKey d e i
    let l := s.link k
    s.linkState k + l.rate * 2 ^ 4 + b2n l.half * 2 ^ 6 + b2n l.hold * 2 ^ 7 + l.spares * 2 ^ 8 + l.replays * 2 ^ 16 +
      l.crcerr * 2 ^ 32 + l.retrains * 2 ^ 48

def State.ulinkDword (s : State) (pos k : Nat) : Nat :=
  let key := ucieKey pos k
  let l := s.link key
  s.linkState key + l.rate * 2 ^ 4 + b2n (s.strict && decide (k ≠ 0)) * 2 ^ 6 + b2n l.hold * 2 ^ 7 +
    (l.mods.getD (if s.boot.trained then ucieMods k else 0)) * 2 ^ 8 + l.replays * 2 ^ 16 + l.crcerr * 2 ^ 32 +
    l.retrains * 2 ^ 48

/-! ### Panels -/

def State.pnlStat (s : State) (p : Nat) : Nat :=
  let x := s.panel p
  x.state + x.b0 * 2 ^ 8 + x.wb * 2 ^ 16 + x.resets * 2 ^ 24 + x.oosc * 2 ^ 32

def State.pnlJob (s : State) (p j : Nat) : Nat :=
  let b := s.job p j
  b.jstate + b.gen % 256 * 2 ^ 8 + b.ecause * 2 ^ 16 + b.jobLo * 2 ^ 32

def State.pnlDword (s : State) (p off : Nat) : Nat :=
  let x := s.panel p
  if off = 0 then s.pnlStat p
  else if off = 0x8 then x.susp.toNat
  else if off = 0x10 then x.iso + x.jend * 2 ^ 16
  else if 0x100 ≤ off ∧ off < 0x140 then s.pnlJob p ((off - 0x100) / 8)
  else if off = 0x2000 then x.trcCtl
  else if off = 0x2010 then x.stale + x.gendis * 2 ^ 16 + x.tdrop * 2 ^ 32 + x.edrop * 2 ^ 48
  else if 0x3000 ≤ off then s.ringDword (panelLog p) 0x3000 64 off
  else 0

/-- Fills in progress of the panel's busiest window (Table 9.15). -/
def Panel.busiestFills (x : Panel) : Nat := x.stage.foldl (fun m w => max m w.2.fills.length) 0

def State.segDword (s : State) (p off : Nat) : Nat :=
  let x := s.panel p
  if off < 0x1000 then x.segs.get 0 (off / 0x20) / 2 ^ (off % 0x20 * 8) % 2 ^ 64
  else if off = 0x1008 then b2n x.invBusy + x.pf * 2 + x.wl * 2 ^ 8 + x.busiestFills * 2 ^ 32
  else 0

/-! ### Units -/

def State.hodDword (s : State) (h off : Nat) : Nat :=
  let x := s.hod h
  let p := s.spanPanel h
  if off = 0 then
    bitSum 8 (fun j => x.cmds.any (fun c => decide (c.ring / 16 = j))) + x.slotFault * 2 ^ 8 +
      (x.cmds.foldl (fun a c => a + c.rOut) 0) * 2 ^ 16 + (x.cmds.foldl (fun a c => a + c.wOut) 0) * 2 ^ 32 +
      p.getD 0 * 2 ^ 48 + b2n p.isSome * 2 ^ 52
  else if off = 8 then x.rows + x.absent * 2 ^ 32 + x.stall * 2 ^ 48
  else s.ringDword (253952 + 128 * h) 0x1000 128 off

def State.crsDword (s : State) (n off : Nat) : Nat :=
  let x := s.port n
  if off = 0 then x.st + b2n x.eth * 2 ^ 3 + b2n x.half * 2 ^ 4 + b2n x.hold * 2 ^ 5 +
    (s.conns.filter (fun c => c.2.paths.any (fun q => decide (q.1 = n)))).length * 2 ^ 16
  else if off = 0x10 then x.txf + x.rxf * 2 ^ 32
  else if off = 0x18 then x.retx + x.dup * 2 ^ 16 + x.rxdrop * 2 ^ 32 + x.badf * 2 ^ 48
  else if off = 0x20 then x.feccor + x.fecunc * 2 ^ 32
  else s.ringDword (245760 + 256 * n) 0x1000 256 off

/-- Host die of an intake engine. -/
def intakeHost (n : Nat) : Nat := n / 2

def State.intDword (s : State) (n off : Nat) : Nat :=
  let x := s.intake n
  if off = 0 then x.cmds.length + x.pfault * 2 ^ 8 + (x.cmds.foldl (fun a c => a + c.rOut) 0) * 2 ^ 24 +
    (x.cmds.foldl (fun a c => a + c.wOut) 0) * 2 ^ 40 +
    b2n (decide ((s.host (intakeHost n)).cstate = 2) || (s.host (intakeHost n)).domReset) * 2 ^ 63
  else if off = 8 then x.pics + x.rej * 2 ^ 32 + x.drop * 2 ^ 48
  else s.ringDword (258048 + 512 * n) 0x1000 512 off

/-- Mailbox rings of block `p` with a packet being performed (Table 16.19 INPROG). -/
def State.inProgress (s : State) (p : Nat) : Nat :=
  (s.mgmt.accepted.filter (fun a => match a.q.sess with | .mailbox q _ => decide (q.val = p) | _ => false)).length

def State.icrDword (s : State) (p off : Nat) : Nat :=
  if off = 0 then s.inProgress p + (s.panel p).cfgerr * 2 ^ 8
  else if 0x1000 ≤ off ∧ off < 0x2000 then
    let r := s.ring (mailboxRing p ((off - 0x1000) / 0x40))
    match (off - 0x1000) % 0x40 / 8 with
    | 3 => r.clog
    | 4 => r.msia
    | 5 => r.msid
    | k => r.dword true k
  else 0

def State.hstDword (s : State) (h off : Nat) : Nat :=
  let x := s.host h
  if off = 0 then x.cstate + x.wrcnt * 2 ^ 8 + x.lost * 2 ^ 16
  else if off = 0x10 then
    x.nacks + x.holds * 2 ^ 16 + x.devict * 2 ^ 32 +
      (List.range 8).foldl (fun m i => max m (s.home (8 * h + i)).txns.length) 0 * 2 ^ 48
  else if 0x100 ≤ off ∧ off < 0x180 then
    let k := x.pkgs.get {} ((off - 0x100) / 8)
    k.cecnt + k.uecnt * 2 ^ 16 + b2n k.sref * 2 ^ 24 + k.scrub * 2 ^ 32
  else 0

/-! ### MOD_ -/

/-- Number of set bits below `n`. -/
def popCount (n w : Nat) : Nat := (setPositions n w).length

/-- Spans, T2 and T0 that a wipe covers (Table 9.19). -/
def State.wipeStat (s : State) : Nat :=
  let covers (p : Nat → Bool) := s.wipes.any (fun w => w.ranges.any (fun r => p r.1))
  bitSum 32 (fun q => covers (fun a => match regionOf a with | .hbm k _ => decide (k = q) | _ => false)) +
    b2n (covers (fun a => match regionOf a with | .lpddr _ => true | _ => false)) * 2 ^ 32 +
    b2n (covers (fun a => match regionOf a with | .window .. => true | _ => false)) * 2 ^ 33

def State.bootStat (s : State) : Nat :=
  let b := s.boot
  b.mstate + b.lcs * 2 ^ 3 + b.phase * 2 ^ 6 + b.holdc * 2 ^ 10 + b.active * 2 ^ 16 + b2n b.stby * 2 ^ 17 + b.slot * 2 ^ 18 +
    b.fwst * 2 ^ 19 + b.rcause * 2 ^ 21 + b.mepoch % 2 ^ 32 * 2 ^ 32

/-- Tile spares in use and tiles pending (Table 18.10), and the failed packages. -/
def State.spareStat (s : State) : Nat :=
  s.boot.repair.length + s.boot.pend.length * 2 ^ 16 +
    bitSum 32 (fun i => ((s.host (i / 16)).pkgs.get {} (i % 16)).failed) * 2 ^ 32

def State.trep (s : State) (d lo n : Nat) : Nat :=
  (List.range n).foldl (fun a i => a + s.repairField d (lo + i) * 2 ^ (5 * i)) 0

def State.hwdogWord (s : State) (h : Nat) : Nat :=
  let w := s.dbg.hwdog.get (0, false, 0) h
  w.1 + b2n w.2.1 * 2 ^ 21

/-- An edge arrived within the last 2 s (Table 20.7 PRES). -/
def State.ppsPresent (s : State) : Bool :=
  match s.time.lastEdge with | some e => decide (s.now ≤ e + 2000000000) | none => false

def State.modDword (s : State) (off : Nat) : Nat :=
  let d := s.dbg
  if 0x1000 ≤ off ∧ off < 0x1100 then
    let k := s.stack ((off - 0x1000) / 0x10)
    if off % 0x10 = 0 then k.temp + k.step * 2 ^ 8 + b2n k.stop * 2 ^ 10 + popCount 32 k.outmap * 2 ^ 16 + k.cecnt * 2 ^ 32
    else k.outmap + k.failmap * 2 ^ 32
  else if off = 0x1100 then s.wipeStat
  else if off = 0x2000 then s.bootStat
  else if off = 0x2008 then s.spareStat
  else if off = 0x2010 then s.boot.minsvn + s.boot.svn * 2 ^ 16 + s.boot.krev * 2 ^ 32
  else if 0x2100 ≤ off ∧ off < 0x2100 + 40 * 0x10 then
    let k := (off - 0x2100) / 0x10
    if off % 0x10 = 0 then s.trep k 0 12
    else s.trep k 12 4 + bitSum 16 (fun c => (s.boot.pend.get none (16 * k + c)).isSome) * 2 ^ 20 + b2n (bit s.boot.dfail k) * 2 ^ 36
  else if off = 0x3000 then b2n d.halt + b2n d.thawed * 2 + b2n d.skmode * 8 + d.skbands * 2 ^ 4
  else if off = 0x3008 then
    b2n d.halt + b2n d.thawed * 2 + b2n d.skbusy * 4 + b2n d.skerr * 8 + b2n (s.links.any (fun l => l.2.hold)) * 16 +
      b2n d.dumpok * 32 + d.edrop * 2 ^ 16 + d.fatals * 2 ^ 32 + d.cfgerr * 2 ^ 40
  else if off = 0x3010 then d.halton
  else if off = 0x3018 then d.skimAddr
  else if off = 0x3020 then d.dumpAddr
  else if off = 0x3030 then s.hwdogWord 0
  else if off = 0x3038 then s.hwdogWord 1
  else if off = 0x3100 then s.evt.dword true 0
  else if off = 0x3108 then s.evt.dword false 1
  else if off = 0x4000 then b2n s.time.lock + b2n s.ppsPresent * 2 + s.time.miss * 2 ^ 16
  else 0

/-! ### A read -/

/-- The aligned 8 B at an offset of a block; offsets no table lists read 0 (R14). -/
def State.blockDword (s : State) (b : Block) (off : Nat) : Nat :=
  match b with
  | .tile t => s.tileDword t off
  | .grtDie d =>
    let i := off / 0x40
    if off % 0x40 = 0 ∧ i < 64 then s.mlinkDword d (i / 16) (i % 16) else 0
  | .grtSill k => if off % 0x40 = 0 ∧ off < 0xC0 then s.ulinkDword k (off / 0x40) else 0
  | .grtHost h => if off = 0x40 ∨ off = 0x80 then s.ulinkDword (16 + h) (off / 0x40) else 0
  | .seg p => s.segDword p off
  | .pnl p => s.pnlDword p off
  | .hod h => s.hodDword h off
  | .crs n => s.crsDword n off
  | .icr p => s.icrDword p off
  | .int n => s.intDword n off
  | .hst h => s.hstDword h off
  | .mod => s.modDword off

/-- A read of 4 B or 8 B. -/
def State.regValue (s : State) (b : Block) (off : Nat) (wide : Bool) : Nat :=
  let v := s.blockDword b (off / 8 * 8)
  if wide then v else bits v (off % 8 * 8) 32

/-! ### What a read clears -/

def clr (lo hi : Bool) (inLow : Bool) (v : Nat) : Nat := if (if inLow then lo else hi) then 0 else v

def Link.clear (lo hi : Bool) (l : Link) : Link :=
  { l with replays := clr lo hi true l.replays, crcerr := clr lo hi false l.crcerr, retrains := clr lo hi false l.retrains }

/-- The RC fields of the words read (low, high) of the aligned 8 B are cleared (R11). -/
def State.clearRead (s : State) (b : Block) (off : Nat) (lo hi : Bool) : State :=
  match b with
  | .tile t =>
    if off = 0x40 then s.modTile t (fun x => { x with
      vmin := if lo then 0xFFF else x.vmin
      droopEvt := clr lo hi false x.droopEvt })
    else s
  | .grtDie d => if off % 0x40 = 0 ∧ off / 0x40 < 64 then s.modLink (64 * d + off / 0x40) (Link.clear lo hi) else s
  | .grtSill k => if off % 0x40 = 0 ∧ off < 0xC0 then s.modLink (ucieKey k (off / 0x40)) (Link.clear lo hi) else s
  | .grtHost h => if off = 0x40 ∨ off = 0x80 then s.modLink (ucieKey (16 + h) (off / 0x40)) (Link.clear lo hi) else s
  | .pnl p =>
    if off = 0x10 then s.modPanel p (fun x => { x with iso := clr lo hi true x.iso, jend := clr lo hi true x.jend })
    else if off = 0x2010 then s.modPanel p (fun x => { x with
      stale := clr lo hi true x.stale, gendis := clr lo hi true x.gendis
      tdrop := clr lo hi false x.tdrop, edrop := clr lo hi false x.edrop })
    else s
  | .hod h =>
    if off = 8 then s.modHod h (fun x => { x with
      rows := clr lo hi true x.rows, absent := clr lo hi false x.absent, stall := clr lo hi false x.stall })
    else s
  | .crs n =>
    if off = 0x10 then s.modPort n (fun x => { x with txf := clr lo hi true x.txf, rxf := clr lo hi false x.rxf })
    else if off = 0x18 then s.modPort n (fun x => { x with
      retx := clr lo hi true x.retx, dup := clr lo hi true x.dup
      rxdrop := clr lo hi false x.rxdrop, badf := clr lo hi false x.badf })
    else if off = 0x20 then s.modPort n (fun x => { x with feccor := clr lo hi true x.feccor, fecunc := clr lo hi false x.fecunc })
    else s
  | .icr p => if off = 0 then s.modPanel p (fun x => { x with cfgerr := clr lo hi true x.cfgerr }) else s
  | .int n =>
    if off = 8 then s.modIntake n (fun x => { x with
      pics := clr lo hi true x.pics, rej := clr lo hi false x.rej, drop := clr lo hi false x.drop })
    else s
  | .hst h =>
    if off = 0x10 then s.modHost h (fun x => { x with
      nacks := clr lo hi true x.nacks, holds := clr lo hi true x.holds, devict := clr lo hi false x.devict })
    else if 0x100 ≤ off ∧ off < 0x180 then s.modHost h (fun x => { x with
      pkgs := x.pkgs.modify {} ((off - 0x100) / 8) (fun k => { k with
        cecnt := clr lo hi true k.cecnt, uecnt := clr lo hi true k.uecnt }) })
    else s
  | .mod =>
    if 0x1000 ≤ off ∧ off < 0x1100 ∧ off % 0x10 = 0 then
      s.modStack ((off - 0x1000) / 0x10) (fun k => { k with cecnt := clr lo hi false k.cecnt })
    else if off = 0x3008 then
      { s with dbg := { s.dbg with edrop := clr lo hi true s.dbg.edrop, cfgerr := clr lo hi false s.dbg.cfgerr } }
    else if off = 0x4000 then { s with time := { s.time with miss := clr lo hi true s.time.miss } }
    else s
  | _ => s

end Sys2Proof.Machine
end

