-- ==== Sys2Proof/Machine/Icral.lean ====
section
/-!
DEFINITION. The Icral paths (16 R520 to R528): MAILBOX_ENTRY_FETCH, MGMT_DATAGRAM_RECEIVE, I3C_PRIVATE_WRITE,
I3C_PRIVATE_READ, SESSION_IDLE_EXPIRY, REASSEMBLY_EXPIRY, I3C_DYNAMIC_ADDRESS_ASSIGN, DHCP_LEASE_TIMER; and the queries and
module settings: ID_QUERY, SET_MODULE_ID, STATUS_QUERY, TELEMETRY, SET_POWER_LIMIT, SET_FABRIC, MGMT_NET.
-/
namespace Sys2Proof.Machine

/-! ### Judgement, steps 1 to 6 of R526 -/

/-- The packet as its header spells it. -/
def readPacket (k : SessKey) (auth : Auth) (bytes : List Byte) : IcralReq :=
  let h := ofBytes (bytes.take 32)
  let n := bits h 64 13
  { sess := k, auth := auth, opcode := BitVec.ofNat 16 (bits h 0 16), panel := Fin.ofNat 16 (bits h 16 4),
    check := bit h 24, seq := BitVec.ofNat 32 (bits h 32 32), tag := BitVec.ofNat 32 (bits h 96 32), plen := n,
    params := ofBytes ((bytes.drop 32).take n) }

/-- Step 1: VER, reserved header fields, PLEN. -/
def headerOk (bytes : List Byte) : Bool :=
  let h := ofBytes (bytes.take 32)
  decide (32 ≤ bytes.length ∧ bits h 20 4 = 1 ∧ bits h 25 7 = 0 ∧ bits h 77 19 = 0 ∧ bits h 160 96 = 0 ∧
    bits h 64 13 ≤ 4096 ∧ bytes.length = 32 + bits h 64 13)

/-- Step 2. -/
def packetCrcOk (bytes : List Byte) : Bool :=
  let h := ofBytes (bytes.take 32)
  decide (crc32c (toBytes 32 (setBits h 128 32 0) ++ bytes.drop 32) = bits h 128 32)

/-- R527: SEQ lies ahead of HIGH. -/
def seqAhead (high : Option Count) (q : Count) : Bool :=
  match high with
  | none => true
  | some h => decide (1 ≤ (q - h).toNat ∧ (q - h).toNat < 2 ^ 31)

def isEth : SessKey → Bool | .eth .. => true | _ => false

/-- R522, R527, R528: a new SEQ finds no room. -/
def State.noRoom (s : State) (k : SessKey) : Bool :=
  decide (256 ≤ s.mgmt.accepted.length) || (s.performing k).isSome ||
  (isEth k && (assoc s.mgmt.sessions k).isNone && decide (16 ≤ (s.mgmt.sessions.filter (fun x => isEth x.1)).length))

/-- Steps 4 to 6 of an accepted packet. -/
def State.judgeOpcode (s : State) (a : Accepted) : State :=
  match opcodeTable.find? (fun o => o.1 = a.q.opcode.toNat) with
  | none => s.answer a stBadOpcode 0 [] []
  | some (_, k, n) =>
    if !opAllowed k a.q.auth a.q.panel then (s.outOfReach a.q.auth 0).answer a stNoAuthority 0 [] []
    else if a.q.plen ≠ n then s.answer a stBadLength n [] []
    else s

/-- R526 steps 1 to 6, R527: a packet of session `k`, whose reply goes where `mk` says. -/
def State.judgePacket (s : State) (k : SessKey) (auth : Auth) (bytes : List Byte) (mk : IcralReq → Accepted) : State :=
  let q := readPacket k auth bytes
  let a := mk q
  if !headerOk bytes then s.replyOnly a stBadHeader
  else if !packetCrcOk bytes then s.replyOnly a stBadCrc
  else
    let x := s.session k
    match s.performing k, assoc x.replies q.seq with
    | some b, cached =>
      if b.q.seq = q.seq then s.replyOnly a stInProgress
      else (match cached with
        | some r => s.deliver a (reseal r 77) true
        | none => s.replyOnly a (if seqAhead x.high q.seq then stBusy else stStale))
    | none, some r => s.deliver a (reseal r 77) true
    | none, none =>
      if !seqAhead x.high q.seq then s.replyOnly a stStale
      else if s.noRoom k then
        (if isEth k && (assoc s.mgmt.sessions k).isNone then s.modMgmt (fun m => { m with want := true }) else s).replyOnly a stBusy
      else
        let s := s.setSession k { x with high := some q.seq }
        let s := s.modMgmt (fun m => { m with accepted := m.accepted ++ [a] })
        s.judgeOpcode a

/-- A session's time of last use (R522). -/
def State.touchSession (s : State) (k : SessKey) : State :=
  s.modMgmt (fun m => { m with sessions := m.sessions.map (fun x => if x.1 = k then (k, { x.2 with last := s.now }) else x) })

/-- The firmware serves the management paths: from S2 (Table 18.3), while a manager lives (R581). -/
def State.managed (s : State) : Bool := s.boot.p12 && !s.boot.dead && decide (2 ≤ s.boot.phase ∨ s.boot.recovery)

/-! ### Mailbox rings (R520, R521) -/

def t2Range (a n : Nat) : Bool := decide (a + n ≤ tib2)

/-- R521: memory a packet's authority may name. -/
def State.t2Reach (s : State) (auth : Auth) (a n : Nat) : Bool :=
  t2Range a n && (match auth with | .owner => true | .panel p => s.inT2 p a n)

/-- Authority of the doorbell that made position `pos` available (R501). -/
def Ring.authAt (r : Ring) (pos : Count) : Auth :=
  match r.avail.find? (fun x => decide (1 ≤ (x.1 - pos).toNat ∧ (x.1 - pos).toNat < 2 ^ 31)) with
  | some x => x.2
  | none => .owner

/-- Table 16.2 and R521, but for the packet's length. -/
def State.entryOk (s : State) (auth : Auth) (e : Nat) : Bool :=
  decide (bits e 52 12 = 0 ∧ bits e 116 12 = 0 ∧ bits e 136 376 = 0 ∧ bits e 0 52 % 64 = 0 ∧ bits e 64 52 % 64 = 0) &&
  s.t2Reach auth (bits e 0 52) 32 && s.t2Reach auth (bits e 64 52) (64 * (bits e 128 7 + 1))

/-- MAILBOX_ENTRY_FETCH. -/
def State.mailboxFetch (s : State) (p : PanelId) (i : Fin 64) : State :=
  let g := mailboxRing p i
  let r := s.ring g
  let k : SessKey := .mailbox p i
  if !s.managed || !r.en || decide (r.count = 0) || (s.performing k).isSome || decide (256 ≤ s.mgmt.accepted.length) then s
  else
    let pos := r.head
    let a := r.entryAddr pos
    match s.readResp a 64 with
    | .ok =>
      let (bs, s) := s.cohRead 64 a
      let e := ofBytes bs
      let msi := bit e 135
      let auth := r.authAt pos
      let pkt := bits e 0 52
      let bad := fun (s : State) => s.mailboxDone g pos msi stEntryBad false
      if !s.entryOk auth e then bad s
      else if s.readResp pkt 32 ≠ .ok then bad s
      else
        let (hd, s) := s.cohRead 32 pkt
        let n := 32 + bits (ofBytes hd) 64 13
        if !s.t2Reach auth pkt n then bad s
        else if s.readResp pkt n ≠ .ok then bad s
        else
          let (bs, s) := s.cohRead n pkt
          (s.judgePacket k auth bs (fun q => { q := q, pos := pos, rpy := bits e 64 52, rblk := bits e 128 7, msi := msi })).touchSession k
    | x =>
      let (c, k) := errCause a x
      (s.emit { cls := c, cause := k, unit := .manager, ring := g, pos := pos.toNat, addr := a }).mailboxDone g pos false stEntryBad false

def execMailboxEntryFetch (p : PanelId) (i : Fin 64) (s : State) : Host.Outcome State Fault Refusal := .next (s.mailboxFetch p i)

/-! ### Management Ethernet (R522) -/

/-- The source lies within the allow-list. -/
def State.allowed (s : State) (ip : BitVec 32) : Bool :=
  s.mgmt.allow.any (fun a => decide (ip.toNat / 2 ^ (32 - a.2) = a.1 / 2 ^ (32 - a.2)))

/-- The byte at an offset, a later fragment's first. -/
def Reasm.byteAt (r : Reasm) (i : Nat) : Option Byte :=
  (r.parts.find? (fun x => decide (x.1 ≤ i ∧ i < x.1 + x.2.length))).bind (fun x => x.2[i - x.1]?)

/-- The whole datagram, once every byte is in. -/
def Reasm.whole (r : Reasm) : Option (List Byte) :=
  match r.total with
  | none => none
  | some n => if n ≤ 8224 then (List.range n).mapM r.byteAt else none

def Reasm.add (r : Reasm) (d : Datagram) : Reasm :=
  { r with parts := (d.offset, d.bytes) :: r.parts, total := if d.more then r.total else some (d.offset + d.bytes.length) }

/-- A fragment joins its datagram: what is held afterwards, and the source port and bytes of a datagram completed. -/
def reassemble (l : List Reasm) (d : Datagram) : List Reasm × Option (BitVec 16 × List Byte) :=
  let same := fun (r : Reasm) => decide (r.ip = d.srcIp ∧ r.ident = d.ident)
  let old := l.find? same
  let r := (old.getD { ip := d.srcIp, port := d.srcPort, ident := d.ident }).add d
  let rest := l.filter (fun x => !same x)
  if 8224 < d.offset + d.bytes.length then (rest, none)
  else match r.whole with
    | some bs => (rest, some (r.port, bs))
    | none => if old.isNone ∧ 16 ≤ l.length then (l, none) else (rest ++ [r], none)

/-- MGMT_DATAGRAM_RECEIVE. In recovery and in Decommissioned this path does not answer (R569, R584). -/
def State.datagram (s : State) (d : Datagram) : State :=
  if !s.managed || s.boot.recovery || decide (s.boot.lcs = 4) || !s.allowed d.srcIp then s
  else
    let (fr, done) := reassemble s.mgmt.frags d
    let s := s.modMgmt (fun m => { m with frags := fr })
    match done with
    | none => s
    | some (port, bs) =>
      let k : SessKey := .eth d.srcIp port
      (s.judgePacket k .owner bs (fun q => { q := q })).touchSession k

def execMgmtDatagramReceive (d : Datagram) (s : State) : Host.Outcome State Fault Refusal := .next (s.datagram d)

/-- SESSION_IDLE_EXPIRY: the session makes room for the source that needs one. -/
def State.sessionIdle (s : State) (ip : BitVec 32) (port : BitVec 16) : State :=
  let k : SessKey := .eth ip port
  if (assoc s.mgmt.sessions k).isNone || !s.mgmt.want || (s.performing k).isSome then s
  else (s.dropSession k).modMgmt (fun m => { m with want := false })

def execSessionIdleExpiry (ip : BitVec 32) (port : BitVec 16) (s : State) : Host.Outcome State Fault Refusal :=
  .next (s.sessionIdle ip port)

def execReassemblyExpiry (ip : BitVec 32) (ident : BitVec 16) (s : State) : Host.Outcome State Fault Refusal :=
  .next (s.modMgmt (fun m => { m with frags := m.frags.filter (fun r => !decide (r.ip = ip ∧ r.ident = ident)) }))

/-- DHCP_LEASE_TIMER: the lease is renewed or rebound, to the address the server gives, or ends. -/
def execDhcpLeaseTimer (ans : Option (BitVec 32)) (s : State) : Host.Outcome State Fault Refusal :=
  .next (if s.managed && !s.mgmt.static then s.modMgmt (fun m => { m with lease := ans.map (·.toNat) }) else s)

/-! ### I3C (R523) -/

/-- I3C_PRIVATE_WRITE: an unread reply is discarded. In Decommissioned the ROM answers only ID_QUERY (R584). -/
def State.i3cWrite (s : State) (bytes : List Byte) : State :=
  if !s.managed then s
  else
    let s := s.modMgmt (fun m => { m with i3cReply := none })
    if s.boot.lcs = 4 ∧ bits (ofBytes (bytes.take 32)) 0 16 ≠ 1 then s
    else (s.judgePacket .i3c .owner bytes (fun q => { q := q })).touchSession .i3c

def execI3cPrivateWrite (bytes : List Byte) (s : State) : Host.Outcome State Fault Refusal := .next (s.i3cWrite bytes)

def execI3cPrivateRead (s : State) : Host.Outcome State Fault Refusal :=
  .next (match s.mgmt.i3cReply with
    | some r => s.modMgmt (fun m => { m with i3cReply := none, i3cOut := m.i3cOut ++ [r] })
    | none => s)

def execI3cDynamicAddressAssign (addr : BitVec 7) (s : State) : Host.Outcome State Fault Refusal :=
  .next (if s.managed then s.modMgmt (fun m => { m with i3cAddr := some addr }) else s)

/-! ### Queries and module settings -/

/-- ASCII "TVO-GX10240-A", zero-filled. -/
def partNumber : Nat := ofBytes [0x54, 0x56, 0x4F, 0x2D, 0x47, 0x58, 0x31, 0x30, 0x32, 0x34, 0x30, 0x2D, 0x41]

/-- Channels of the module in service. -/
def State.channelsIn (s : State) : Nat := (List.range 16).foldl (fun n k => n + (32 - popCount 32 (s.stack k).outmap)) 0

/-- ID_QUERY reply (Table 16.11). -/
def State.idReply (s : State) : List Byte :=
  toBytes 112 (partNumber + 0xB1 * 2 ^ 128 + s.fw % 2 ^ 24 * 2 ^ 136 + s.modId % 1024 * 2 ^ 160 + b2n s.midset * 2 ^ 170 +
    s.boot.mstate * 2 ^ 171 + s.boot.lcs * 2 ^ 174 + s.boot.holdc * 2 ^ 177 + s.channelsIn * channelSize * 2 ^ 256 +
    s.boot.mepoch % 2 ^ 32 * 2 ^ 320 + (List.range 16).foldl (fun a k => a + (s.stack k).outmap % 2 ^ 32 * 2 ^ (384 + 32 * k)) 0)

def specIdQuery : OpSpec := { gate := .all, run := fun s _ _ => .ok s, rp := fun s _ => s.idReply }

def execIdQuery (q : IcralReq) (s : State) : Host.Outcome State Fault Refusal :=
  .next (s.performReq q (decide (q.opcode.toNat = 0x01)) specIdQuery)

/-- Some job of the module runs. -/
def State.anyJob (s : State) : Bool := s.panels.any (fun p => p.2.jobs.any (fun j => decide (j.2.jstate ≠ 0)))

def specSetModuleId : OpSpec :=
  { fields := fun _ _ => [⟨0, 10, anyVal⟩, ⟨10, 54, .reserved⟩]
    run := fun s _ w => need (!s.anyJob) stConflict 0 (.ok { s with modId := bits w 0 10, midset := true }) }

def execSetModuleId (q : IcralReq) (s : State) : Host.Outcome State Fault Refusal :=
  .next (s.performReq q (decide (q.opcode.toNat = 0x02)) specSetModuleId)

/-- STATUS_QUERY reply: PNL_STAT and PNL_JOB[0] to [7]. -/
def State.statusReply (s : State) (p : Nat) : List Byte :=
  toBytes 8 (s.pnlStat p) ++ (List.range 8).flatMap (fun j => toBytes 8 (s.pnlJob p j))

def specStatusQuery : OpSpec :=
  { run := fun s q _ => need (decide ((s.panel q.panel).state ≠ 0)) stPanelState 0 (.ok s)
    rp := fun s q => s.statusReply q.panel }

def execStatusQuery (q : IcralReq) (s : State) : Host.Outcome State Fault Refusal :=
  .next (s.performReq q (decide (q.opcode.toNat = 0x03)) specStatusQuery)

/-- Hottest tile of a die, in 0.25 °C. -/
def State.hottest (s : State) (d : Nat) : Nat :=
  let ts := (s.tiles.filter (fun x => decide (tileDie x.1 = d))).map (fun x => signed 12 x.2.temp.toNat)
  unsigned 16 (ts.foldl max (ts.headD 0))

/-- Core clock of a host die, MHz. -/
def State.hostClock (s : State) (h : Nat) : Nat := 3000 - s.power.hostMHz.get 0 h

/-- TELEMETRY reply (Table 16.12). The powers of sills and host dies are read from sensors the commands do not carry: they
are free values, the draws with the numbers from `n` on (log 2). -/
def State.telemetryReply (s : State) : List Byte :=
  let p := s.power
  let n := s.free
  toBytes 480 (p.pin % 2 ^ 32 + p.limitNow * 2 ^ 32 + p.pmax % 2 ^ 32 * 2 ^ 64 +
    (List.range 40).foldl (fun a d => a + (s.ceiling d + p.rails.get 0 d % 2 ^ 16 * 2 ^ 16 + s.hottest d * 2 ^ 32) * 2 ^ (128 + 64 * d)) 0 +
    (List.range 16).foldl (fun a k => a + ((s.stack k).temp % 256 + (s.stack k).step * 2 ^ 8 +
      Config.freeWord (n + k) % 2 ^ 16 * 2 ^ 16) * 2 ^ (2688 + 64 * k)) 0 +
    (List.range 2).foldl (fun a h => a + (s.hostClock h + Config.freeWord (n + 16 + h) % 2 ^ 16 * 2 ^ 16 +
      unsigned 16 (p.hostTemp.get 0 h) * 2 ^ 32) * 2 ^ (3712 + 64 * h)) 0)

/-- TELEMETRY starts a new span of PMAX; the free values it shows are drawn by the reply itself. -/
def State.telemetryTaken (s : State) : State := { s with power := { s.power with pmax := 0 } }

def specTelemetry : OpSpec := { gate := .up, run := fun s _ _ => .ok s, rp := fun s _ => s.telemetryReply }

/-- TELEMETRY: the reply shows the state before it. -/
def State.telemetry (s : State) (q : IcralReq) : State :=
  let mine := decide (q.opcode.toNat = 0x04) && s.turnOf q && s.serves .up
  let t := s.performReq q (decide (q.opcode.toNat = 0x04)) specTelemetry
  if mine then (if q.check then { t with free := t.free + 18 } else { t.telemetryTaken with free := t.free + 18 }) else t

def execTelemetry (q : IcralReq) (s : State) : Host.Outcome State Fault Refusal := .next (s.telemetry q)

def specSetPowerLimit : OpSpec :=
  { fields := fun _ _ => [⟨0, 32, .clamp 7000 16000 10 false⟩, ⟨32, 32, .reserved⟩]
    run := fun s _ w => .ok { s with power := { s.power with limit := bits w 0 32 } } }

def execSetPowerLimit (q : IcralReq) (s : State) : Host.Outcome State Fault Refusal :=
  .next (s.performReq q (decide (q.opcode.toNat = 0x05)) specSetPowerLimit)

def specSetFabric : OpSpec :=
  { fields := fun _ _ => [⟨0, 1, anyVal⟩, ⟨1, 2, atMost 2⟩, ⟨3, 61, .reserved⟩]
    run := fun s _ w => .ok { s with strict := bit w 0, boot := { s.boot with ufloor := bits w 1 2 } } }

def execSetFabric (q : IcralReq) (s : State) : Host.Outcome State Fault Refusal :=
  .next (s.performReq q (decide (q.opcode.toNat = 0x06)) specSetFabric)

/-- MGMT_NET fields (Table 16.16). -/
def mgmtNetFields : List Field :=
  [⟨0, 1, anyVal⟩, ⟨1, 31, .reserved⟩, ⟨32, 32, anyVal⟩, ⟨64, 6, .clamp 8 30 1 false⟩, ⟨70, 26, .reserved⟩, ⟨96, 32, anyVal⟩,
   ⟨128, 4, .clamp 0 8 1 false⟩, ⟨132, 60, .reserved⟩] ++
  (List.range 8).flatMap (fun k => [⟨192 + 64 * k, 32, anyVal⟩, ⟨224 + 64 * k, 6, .clamp 0 32 1 false⟩, ⟨230 + 64 * k, 26, .reserved⟩])

def specMgmtNet : OpSpec :=
  { fields := fun _ _ => mgmtNetFields
    run := fun s _ w => .ok (s.modMgmt (fun m => { m with
      static := bit w 0, addr := bits w 32 32, masklen := bits w 64 6, gw := bits w 96 32
      allow := (List.range (bits w 128 4)).map (fun k => (bits w (192 + 64 * k) 32, bits w (224 + 64 * k) 6)) })) }

def execMgmtNet (q : IcralReq) (s : State) : Host.Outcome State Fault Refusal :=
  .next (s.performReq q (decide (q.opcode.toNat = 0x25)) specMgmtNet)

end Sys2Proof.Machine
end

