-- ==== Sys2Proof/Machine/Intake.lean ====
section
/-!
DEFINITION. Intake engines (14): start and checks (R475 to R479), I_NOP, I_IMAGE and I_VIDEO (R482 to R492), I_ALIGN (R493),
I_SHUFFLE (R494), accesses outstanding (R476), completion (R480). Decoded samples are free values (log 28).
-/
namespace Sys2Proof.Machine

/-! ### Fields (Table 14.2) -/

def icOp (w : Nat) : Nat := bits w 0 8
def icSlot (w : Nat) : Nat := bits w 8 3
def icRec (w : Nat) : Bool := bit w 11
def icFence (w : Nat) : Bool := bit w 12
def icWaiten (w : Nat) : Bool := bit w 13
def icNen (w : Nat) : Bool := bit w 14
def icOvf (w : Nat) : Bool := bit w 15
def icCodec (w : Nat) : Nat := bits w 16 2
def icFilter (w : Nat) : Nat := bits w 18 2
def icLevels (w : Nat) : Nat := bits w 20 3 + 1
def icCspace (w : Nat) : Nat := bits w 23 3
def icCout (w : Nat) : Nat := bits w 26 2
def icOfmt (w : Nat) : Nat := bits w 28 4
def icNchw (w : Nat) : Bool := bit w 32
def icIn (w : Nat) : Nat := bits w 64 48
def icInlen (w : Nat) : Nat := bits w 112 32
def icOut (w : Nat) : Nat := bits w 144 48
def icOstride (w : Nat) : Nat := bits w 192 32 * 64
def icPos (w : Nat) : Nat := bits w 224 40
def icX0 (w : Nat) : Nat := bits w 272 14
def icY0 (w : Nat) : Nat := bits w 288 14
def icCw (w : Nat) : Nat := bits w 304 14
def icCh (w : Nat) : Nat := bits w 320 14
def icOw (w : Nat) : Nat := bits w 336 14
def icOh (w : Nat) : Nat := bits w 352 14
def icFrames (w : Nat) : Nat := bits w 368 16
def icNorm (w : Nat) : Nat := bits w 384 48
def icWork (w : Nat) : Nat := bits w 432 48
def icWorklen (w : Nat) : Nat := bits w 480 32 * 4096
def icStat (w : Nat) : Nat := bits w 512 48
def icWaddr (w : Nat) : Nat := bits w 560 48
def icWval (w : Nat) : Nat := bits w 640 64
def icSigtile (w : Nat) : Nat := bits w 704 14
def icSigctr (w : Nat) : Nat := bits w 718 6
def icSigen (w : Nat) : Bool := bit w 724
def icSigval (w : Nat) : Nat := bits w 736 16
def icSeed (w : Nat) : Nat := bits w 768 64
def icEpoch (w : Nat) : Nat := bits w 832 32
def icN (w : Nat) : Nat := bits w 864 40 + 1
def icCnt (w : Nat) : Nat := bits w 912 32 + 1

/-- Pictures a command outputs at most. -/
def icPics (w : Nat) : Nat := if icOp w = 2 then icFrames w + 1 else 1

/-! ### Output layout (R490, R492) -/

def icChannels (w : Nat) : Nat := if icCout w = 2 then 1 else 3
def icElem (w : Nat) : Nat := match icOfmt w with | 0 => 1 | 10 => 4 | _ => 2

/-- Width and height of the levels. -/
def levelSizes : Nat → Nat → Nat → List (Nat × Nat)
  | 0, _, _ => []
  | n + 1, w, h => (w, h) :: levelSizes n (ceilDiv w 2) (ceilDiv h 2)

def icSizes (w : Nat) : List (Nat × Nat) := levelSizes (icLevels w) (icOw w + 1) (icOh w + 1)

def levelBytes (w : Nat) (z : Nat × Nat) : Nat := z.1 * z.2 * icChannels w * icElem w

/-- Offset of each level in its position, and the bytes of a position. -/
def levelOffs (w : Nat) : List (Nat × Nat) → Nat → List Nat × Nat
  | [], o => ([], o)
  | [z], o => ([o], o + levelBytes w z)
  | z :: r, o =>
    let (os, e) := levelOffs w r (ceilDiv (o + levelBytes w z) 64 * 64)
    (o :: os, e)

def icPosBytes (w : Nat) : Nat := (levelOffs w (icSizes w) 0).2

/-! ### Start checks (R477, R479) -/

def intakeReserved : List (Nat × Nat) :=
  [(33, 31), (264, 8), (286, 2), (302, 2), (318, 2), (334, 2), (350, 2), (366, 2), (608, 32), (725, 11), (752, 16), (904, 8), (944, 80)]

/-- Fields an opcode does not use (R478). -/
def intakeUnused (op : Nat) : List (Nat × Nat) :=
  let shuffle := [(768, 64), (832, 32), (864, 40), (912, 32)]
  let picture := [(14, 1), (15, 1), (16, 2), (18, 2), (20, 3), (23, 3), (26, 2), (28, 4), (32, 1), (112, 32), (192, 32), (272, 14),
    (288, 14), (304, 14), (320, 14), (336, 14), (352, 14), (368, 16), (384, 48), (432, 48), (480, 32)]
  match op with
  | 1 => shuffle ++ [(16, 2), (368, 16)]
  | 2 => shuffle
  | 3 => shuffle ++ picture ++ [(224, 40)]
  | 4 => picture ++ [(64, 48)]
  | _ => shuffle ++ picture ++ [(64, 48), (144, 48), (224, 40), (512, 48)]

/-- Every segmented address with its extent: IN, OUT, STAT, WORK, NORM. -/
def intakeUses (w : Nat) : List (Nat × Nat × Bool × Bool) :=
  let op := icOp w
  let pic := decide (op = 1 ∨ op = 2)
  let on (c : Bool) (v : Nat) : Nat := if c then v else 0
  [(icIn w, if pic then icInlen w else on (decide (op = 3)) 16, true, false),
   (icOut w, if pic then (icPos w + icPics w - 1) * icOstride w + icPosBytes w else on (decide (op = 4)) (8 * icCnt w), false, true),
   (icStat w, on (decide (op ≠ 0)) 32, false, true),
   (icWork w, on pic (icWorklen w), true, true),
   (icNorm w, on (pic && icNen w) 24, true, false)]

/-- The command alone is malformed. -/
def State.intakeMalformed (s : State) (p j w : Nat) : Bool :=
  let op := icOp w
  let pic := decide (op = 1 ∨ op = 2)
  (intakeReserved ++ intakeUnused op).any (fun f => decide (bits w f.1 f.2 ≠ 0)) ||
  decide (4 < op) || decide (icSlot w ≠ j) ||
  (icSigen w && !((s.panel p).holdsTile (icSigtile w) && decide (icSigtile w < 10240))) ||
  (icWaiten w && (decide (icWaddr w / 16 % 8 ≠ 0) || (s.segAddr p j (icWaddr w) 8 true false [2, 3]).isNone)) ||
  (pic && (decide (2 ≤ icCodec w) || decide (icFilter w = 3) || decide (icCspace w = 7) || decide (icCout w = 3) ||
    !decide (icOfmt w = 0 ∨ (8 ≤ icOfmt w ∧ icOfmt w ≤ 10)) || decide (icInlen w = 0) ||
    decide (16 * icCw w < icOw w ∨ 16 * icCh w < icOh w ∨ 16 * icOw w < icCw w ∨ 16 * icOh w < icCh w) ||
    decide (icOstride w < icPosBytes w))) ||
  (decide (op = 4) && decide (icN w ≤ icPos w + icCnt w - 1)) ||
  (intakeUses w).any (fun u => (s.segAddr p j u.1 u.2.1 u.2.2.1 u.2.2.2 [3]).isNone)

/-! ### The alignment block -/

def alStreams (h : Nat) : Nat := bits h 0 4 + 1
def alMode1 (h : Nat) : Bool := bit h 4
def alTol (h : Nat) : Nat := bits h 32 32
def alArray (e : Nat) : Nat := bits e 0 48
def alCount (e : Nat) : Nat := bits e 48 32 + 1

/-! ### Resampling (R486, R487) -/

/-- Nearest integer, ties to even. -/
def nearest (q : Rat) : Int :=
  let f := q.floor
  let d := q - f
  if d < 1 / 2 then f else if 1 / 2 < d then f + 1 else if f % 2 = 0 then f else f + 1

def ratAbs (q : Rat) : Rat := if q < 0 then -q else q

/-- Kernel of a FILTER code. -/
def kernel (filter : Nat) (d : Rat) : Rat :=
  let x := ratAbs d
  if filter = 1 then 1 - x
  else if x < 1 then 3 / 2 * x * x * x - 5 / 2 * x * x + 1
  else -1 / 2 * x * x * x + 5 / 2 * x * x - 4 * x + 2

/-- Taps and integer coefficients at source position `s` with scale `a`. -/
def coeffs (filter : Nat) (s a : Rat) : List (Int × Int) :=
  if filter = 0 then [((s + 1 / 2).floor, 2 ^ 14)]
  else
    let rho : Rat := filter
    let lo := (s - rho * a).floor
    let hi := (s + rho * a).floor + 1
    let ks : List Int := ((List.range (hi - lo + 1).toNat).map (fun (i : Nat) => lo + (i : Int))).filter (fun (k : Int) => decide (ratAbs ((k : Rat) - s) < rho * a))
    let ws := ks.map (fun (k : Int) => (k, kernel filter (((k : Rat) - s) / a)))
    let total := (ws.map (·.2)).foldl (· + ·) 0
    let cs := ws.map (fun w => (w.1, w.2, nearest (16384 * w.2 / total)))
    let rest := 16384 - (cs.map (fun c => c.2.2)).foldl (· + ·) 0
    let top := (ws.map (·.2)).foldl (fun m v => if m < v then v else m) ((ws.map (·.2)).headD 0)
    let at' := ((ws.find? (fun w => decide (w.2 = top))).map (·.1)).getD 0
    cs.map (fun c => (c.1, if c.1 = at' then c.2.2 + rest else c.2.2))

def clampIx (k : Int) (n : Nat) : Nat := min k.toNat (n - 1)

/-- A decoded plane: size, relative scale along x and y, whether subsampled, depth, samples by row and column. -/
structure Plane where
  w : Nat
  h : Nat
  subX : Bool
  subY : Bool
  get : Nat → Nat → Nat

/-- Source position in a plane (R485's geometry): subsampled and centred, subsampled and left, or luma. -/
def srcPos (sub centred : Bool) (u : Rat) : Rat := if !sub then u else if centred then (u - 1 / 2) / 2 else u / 2

/-- An exact rational in 0 to 1 as an FP32 code. -/
def unit32 (n d : Int) : Nat :=
  if n ≤ 0 then 0
  else if d ≤ n then fp32One
  else (rne32 false ((Val.num false n.toNat 0).div (.num false d.toNat 0))).1

/-- R487: the plane value at an output position, from its taps along x and y. -/
def planeValue (p : Plane) (depth : Nat) (cx cy : List (Int × Int)) : Nat :=
  let h (y : Nat) : Int := (cx.map (fun c => c.2 * ((p.get y (clampIx c.1 p.w) % 2 ^ depth : Nat) : Int))).foldl (· + ·) 0
  let v := (cy.map (fun c => c.2 * h (clampIx c.1 p.h))).foldl (· + ·) 0
  unit32 v (2 ^ 28 * ((2 : Int) ^ depth - 1))

/-! ### Colour (R488, R489) -/

/-- Exact rational as the nearest binary32. -/
def rat32 (q : Rat) : Nat :=
  (rne32 false ((Val.num (decide (q < 0)) q.num.natAbs 0).div (.num false q.den 0))).1

/-- Kr, Kb and limited range of a CSPACE code. -/
def cspaceK (c : Nat) : Rat × Rat × Bool :=
  match c with
  | 1 => (299 / 1000, 114 / 1000, false)
  | 2 => (299 / 1000, 114 / 1000, true)
  | 3 => (2126 / 10000, 722 / 10000, true)
  | 4 => (2126 / 10000, 722 / 10000, false)
  | 5 => (2627 / 10000, 593 / 10000, true)
  | _ => (2627 / 10000, 593 / 10000, false)

/-- The three rows of the affine map, as FP32 codes. -/
def colourRows (c depth : Nat) : List (List Nat) :=
  let (kr, kb, lim) := cspaceK c
  let kg := 1 - kr - kb
  let top : Rat := 2 ^ depth - 1
  let u : Rat := 2 ^ depth / 256
  let half : Rat := 2 ^ depth / 2
  let (ay, by', ac, bc) : Rat × Rat × Rat × Rat :=
    if lim then (top / (219 * u), -16 * u / (219 * u), top / (224 * u), -half / (224 * u)) else (1, 0, 1, -half / top)
  let row (pb pr : Rat) : List Nat := [rat32 ay, rat32 (pb * ac), rat32 (pr * ac), rat32 (by' + (pb + pr) * bc)]
  [row 0 (2 * (1 - kr)), row (-(2 * kb * (1 - kb) / kg)) (-(2 * kr * (1 - kr) / kg)), row (2 * (1 - kb)) 0]

def fma32 (x z y : Nat) : Nat := (fpFma false x z y).1

/-- R488: one channel from the plane values. -/
def colourOf (m : List Nat) (y cb cr : Nat) : Nat :=
  let v := fma32 (m.getD 0 0) y (fma32 (m.getD 1 0) cb (fma32 (m.getD 2 0) cr (m.getD 3 0)))
  (fpOp2 4 false (fpOp2 5 false v 0).1 fp32One).1

/-! ### Pyramid (R490) -/

/-- One level: width, height, FP32 codes by channel, row, column. -/
structure Level where
  w : Nat
  h : Nat
  get : Nat → Nat → Nat → Nat

def pyrWeight (a : Int) : Nat := match a.natAbs with | 0 => 6 | 1 => 4 | _ => 1

def Level.down (l : Level) : Level :=
  { w := ceilDiv l.w 2, h := ceilDiv l.h 2
    get := fun ch y x =>
      let taps : List Int := [-2, -1, 0, 1, 2]
      let vs := taps.flatMap (fun a => taps.map (fun b =>
        (Val.num false (pyrWeight a * pyrWeight b) 0).mul (val32 (l.get ch (clampIx (2 * y + a) l.h) (clampIx (2 * x + b) l.w)))))
      (rne32 false ((sumVals vs).scale (-8))).1 }

def levels : Nat → Level → List Level
  | 0, _ => []
  | n + 1, l => l :: levels n l.down

/-! ### Elements (R491) -/

/-- Scale and bias of the three channels; 1.0 and 0.0 without NORM. -/
def putChannel (w : Nat) (norm : List (Nat × Nat)) (ch x : Nat) : Nat × NFlags :=
  if icOfmt w = 0 then
    match val32 x with
    | .num s m e => (if s then 0 else min 255 (roundTo .rne (m * 255) e 0), {})
    | _ => (0, {})
  else
    let k := norm.getD ch (fp32One, 0)
    let (v, f) := fpFma (icOvf w) x k.1 k.2
    let (c, g) := (fmtOf (icOfmt w)).convert (icOvf w) .rne (val32 v)
    (c, f.noUf.or g)

/-- The bytes of one level and the flags gathered. -/
def levelOut (w : Nat) (norm : List (Nat × Nat)) (l : Level) : List Byte × NFlags :=
  let c := icChannels w
  let order : List (Nat × Nat × Nat) :=
    if icNchw w then (List.range c).flatMap (fun ch => (List.range l.h).flatMap (fun y => (List.range l.w).map (fun x => (ch, y, x))))
    else (List.range l.h).flatMap (fun y => (List.range l.w).flatMap (fun x => (List.range c).map (fun ch => (ch, y, x))))
  let es := order.map (fun i => putChannel w norm i.1 (l.get i.1 i.2.1 i.2.2))
  (es.flatMap (fun e => toBytes (icElem w) e.1), gather (es.map (·.2)))

/-! ### Pictures -/

/-- Coding of a command's input: 0 JPEG, 1 H.264, 2 H.265. -/
def icCoding (w : Nat) : Nat := if icOp w = 1 then 0 else icCodec w + 1

/-- R489: the colour space used. -/
def csUsed (w : Nat) (h : Config.PicHead) : Nat :=
  if icCspace w ≠ 0 then icCspace w else if icOp w = 1 then 1 else h.cspace

/-- Plane `c` of picture `n` of the input. -/
def planeOf (w : Nat) (bs : List Byte) (h : Config.PicHead) (n c : Nat) : Plane :=
  let hm := (h.comps.map (·.1)).foldl max 1
  let vm := (h.comps.map (·.2)).foldl max 1
  let f := h.comps.getD c (hm, vm)
  let none' := decide (h.comps.length ≤ c)
  { w := ceilDiv (h.w * f.1) hm, h := ceilDiv (h.h * f.2) vm, subX := decide (f.1 < hm), subY := decide (f.2 < vm)
    get := fun y x => if none' then 2 ^ (h.depth - 1) else Config.sample (icCoding w) bs n c y x }

/-- Level 0 of a picture: R486 to R488. -/
def level0 (w : Nat) (bs : List Byte) (h : Config.PicHead) (n : Nat) : Level :=
  let ow := icOw w + 1
  let oh := icOh w + 1
  let xr : Rat := (icCw w + 1 : Nat) / (ow : Nat)
  let yr : Rat := (icCh w + 1 : Nat) / (oh : Nat)
  let centred := decide (icOp w = 1) || (decide (icCodec w = 1) && h.centred)
  let plane (c : Nat) : Nat → Nat → Nat := fun y x =>
    let p := planeOf w bs h n c
    let u : Rat := (icX0 w : Nat) + ((x : Nat) + 1 / 2) * xr - 1 / 2
    let v : Rat := (icY0 w : Nat) + ((y : Nat) + 1 / 2) * yr - 1 / 2
    let ax : Rat := max 1 ((p.w : Nat) / (h.w : Nat) * xr)
    let ay : Rat := max 1 ((p.h : Nat) / (h.h : Nat) * yr)
    planeValue p h.depth (coeffs (icFilter w) (srcPos p.subX centred u) ax) (coeffs (icFilter w) (srcPos p.subY true v) ay)
  { w := ow, h := oh
    get := fun ch y x =>
      if icCout w = 0 then colourOf ((colourRows (csUsed w h) h.depth).getD ch []) (plane 0 y x) (plane 1 y x) (plane 2 y x)
      else plane ch y x }

/-- Writes of picture `n` of the input at output position `q`, with their flags. -/
def pictureOut (w out : Nat) (bs : List Byte) (h : Config.PicHead) (norm : List (Nat × Nat)) (n q : Nat) : HodOut :=
  let base := out + q * icOstride w
  let ls := levels (icLevels w) (level0 w bs h n)
  let os := (levelOffs w (icSizes w) 0).1
  HodOut.join (ls.zipIdx.map (fun l => let (b, f) := levelOut w norm l.1
    ({ writes := [(base + os.getD l.2 0, b)], flags := f } : HodOut)))

/-- Decoded bytes (Rejection before allocation). -/
def decodedBytes (h : Config.PicHead) : Nat :=
  let hm := (h.comps.map (·.1)).foldl max 1
  let vm := (h.comps.map (·.2)).foldl max 1
  (h.comps.map (fun f => ceilDiv (h.w * f.1) hm * ceilDiv (h.h * f.2) vm * ceilDiv h.depth 8)).sum

/-- R483, Table 14.4: the first cause to reject the input, in the order of its codes. -/
def rejectCause (w : Nat) (h : Config.PicHead) (late : Bool) : Option Nat :=
  let video := decide (icOp w = 2)
  let db := decodedBytes h
  if !h.supported then some 1
  else if h.bad then some 8
  else if h.w = 0 ∨ h.h = 0 ∨ 16384 < h.w ∨ 16384 < h.h ∨ (video ∧ (8192 < h.w ∨ 4320 < h.h)) then some 2
  else if 256000000 < h.w * h.h then some 3
  else if 2048 * icInlen w < db * icPics w then some 4
  else if icWorklen w < (if video then (h.dpb + 1) * db else db) then some 5
  else if h.w < icX0 w + icCw w + 1 ∨ h.h < icY0 w + icCh w + 1 then some 6
  else if video && decide (icCspace w = 0 ∧ h.cspace = 0) then some 7
  else if late then some 8
  else none

/-! ### Status (Table 14.5) -/

structure IcStat where
  status : Nat := 0
  cause : Nat := 0
  cs : Nat := 0
  w : Nat := 0
  h : Nat := 0
  outN : Nat := 0
  dropN : Nat := 0
  first : Nat := 0
deriving DecidableEq, Repr

def IcStat.code (r : IcStat) : Nat :=
  r.status % 16 + r.cause % 256 * 2 ^ 4 + r.cs % 8 * 2 ^ 12 + r.w % 2 ^ 14 * 2 ^ 32 + r.h % 2 ^ 14 * 2 ^ 48 +
  r.outN % 2 ^ 32 * 2 ^ 64 + r.dropN % 2 ^ 32 * 2 ^ 96 + r.first % 2 ^ 32 * 2 ^ 128

/-! ### Runs -/

/-- A read of an intake command: cause 2 for poisoned data, 3 for an ERR response (Table 19.2). -/
def intRead (p j n a : Nat) : HodM (List Byte) := fun s =>
  ((s.unitRead (some (p, j)) n a).1, match (s.unitRead (some (p, j)) n a).2 with
    | .ok bs => .ok bs
    | .error e => .error (if e.cls = 5 then 2 else 3))

def intNat (p j n a : Nat) : HodM Nat := hodBind (intRead p j n a) (fun bs => hodPure (ofBytes bs))

def IntCmd.addr (x : IntCmd) (i : Nat) : Nat := x.tr.getD i 0

def runNorm (p j : Nat) (x : IntCmd) : HodM (List (Nat × Nat)) :=
  if icNen x.w then hodBind (intRead p j 24 (x.addr 4)) (fun bs =>
    hodPure ((List.range 3).map (fun i => (ofBytes ((bs.drop (8 * i)).take 4), ofBytes ((bs.drop (8 * i + 4)).take 4)))))
  else hodPure []

/-- A run's writes, flags and status. -/
abbrev IntOut := HodOut × IcStat

/-- The work region holds values the spec does not give (R484, log 2). -/
def workOut (x : IntCmd) (n : Nat) : HodM HodOut :=
  hodBind (hodDraw (min n (icWorklen x.w))) (fun bs => hodPure { writes := [(x.addr 3, bs)] })

def headStat (w : Nat) (h : Config.PicHead) : IcStat :=
  if h.supported && !h.bad then { cs := csUsed w h, w := h.w - 1, h := h.h - 1 } else {}

def runImage (p j : Nat) (x : IntCmd) : HodM IntOut :=
  hodBind (intRead p j (icInlen x.w) (x.addr 0)) (fun bs =>
  hodBind (runNorm p j x) (fun norm =>
    let h := Config.picHead 0 bs
    let late := Config.jpegError bs
    match rejectCause x.w h late with
    | some c =>
      let st : IcStat := { headStat x.w h with status := 1, cause := c, cs := 0 }
      if c = 8 ∧ !h.bad then hodBind (workOut x (decodedBytes h)) (fun o => hodPure (o, st)) else hodPure ({}, st)
    | none => hodBind (workOut x (decodedBytes h)) (fun o =>
        hodPure (HodOut.join [o, pictureOut x.w (x.addr 1) bs h norm 0 (icPos x.w)], { headStat x.w h with outN := 1 }))))

def runVideo (p j : Nat) (x : IntCmd) : HodM IntOut :=
  hodBind (intRead p j (icInlen x.w) (x.addr 0)) (fun bs =>
  hodBind (runNorm p j x) (fun norm =>
    let h := Config.picHead (icCoding x.w) bs
    let v := Config.videoRun (icCoding x.w) bs (icPics x.w)
    let n := min v.pics (icPics x.w)
    match rejectCause x.w h v.early with
    | some c => hodPure ({}, { headStat x.w h with status := 1, cause := c, cs := 0 })
    | none => hodBind (workOut x ((h.dpb + 1) * decodedBytes h)) (fun o =>
        let st : IcStat := if v.dropped = 0 then { headStat x.w h with outN := n }
          else { headStat x.w h with status := 2, cause := if v.cause10 then 10 else 9, outN := n, dropN := v.dropped, first := v.first }
        hodPure (HodOut.join (o :: (List.range n).map (fun k => pictureOut x.w (x.addr 1) bs h norm k (icPos x.w + k))), st))))

/-- Times of a stream with the marks of out-of-order samples (R493). -/
def markOrder : Option Nat → List Nat → List (Nat × Bool × Bool)
  | _, [] => []
  | m, t :: r =>
    let v := bits t 0 63
    let late := match m with | some x => decide (v < x) | none => false
    (v, bit t 63, late) :: markOrder (some (max v (m.getD 0))) r

def natDist (a b : Nat) : Nat := if a ≤ b then b - a else a - b

/-- The member of stream `ss` for a reference sample. -/
def pickMember (tol : Nat) (r : Nat × Bool × Bool) (ss : List (Nat × Bool × Bool)) : Option Nat :=
  let cand := ss.zipIdx.filter (fun c => !c.1.2.2 && decide (c.1.2.1 = r.2.1))
  match cand with
  | [] => none
  | c :: cs =>
    let best := cs.foldl (fun b d => if natDist d.1.1 r.1 < natDist b.1.1 r.1 then d else b) c
    if natDist best.1.1 r.1 ≤ tol then some best.2 else none

def runAlign (p j : Nat) (x : IntCmd) : HodM IntOut :=
  hodBind (intNat p j 16 (x.addr 0)) (fun h =>
  hodBind (hodEach (fun i => intNat p j 16 (x.addr 0 + 16 + 16 * i)) (List.range (alStreams h))) (fun es =>
  hodBind (hodEach (fun e => hodEach (fun k => intNat p j 8 (x.addr (5 + e.2) + 8 * k)) (List.range (alCount e.1))) es.zipIdx) (fun arrs =>
    let marked := arrs.map (markOrder none)
    let others := marked.drop 1
    let refs := (marked.headD []).zipIdx.filter (fun r => !r.1.2.2)
    let groups := refs.map (fun r => (r.2, others.map (pickMember (alTol h) r.1)))
    let full (g : Nat × List (Option Nat)) : Bool := g.2.all (·.isSome)
    let out := if alMode1 h then groups else groups.filter full
    let rec' (g : Nat × List (Option Nat)) : List Byte := toBytes 4 g.1 ++ g.2.flatMap (fun m => toBytes 4 (m.getD 0xFFFFFFFF))
    let lacking := (groups.filter (fun g => !full g)).length
    let late := (marked.map (fun a => (a.filter (·.2.2)).length)).sum
    hodPure ({ writes := [(x.addr 1, out.flatMap rec')] },
      { status := if lacking = 0 ∧ late = 0 then 0 else 2, outN := out.length, dropN := lacking, first := late }))))

/-- Width of the permutation's halves (R494). -/
def permBits : Nat → Nat → Nat → Nat
  | 0, _, b => b
  | k + 1, n, b => if 2 ^ b < n then permBits k n (b + 2) else b

/-- Eight Feistel rounds. -/
def feistel (h : Nat) (k : BitVec 64) (x : Nat) : Nat :=
  let r := (List.range 8).foldl (fun (p : Nat × Nat) i =>
    (p.2, p.1 ^^^ (dsrMix (k + 0x9E3779B97F4A7C15#64 * BitVec.ofNat 64 (i + 1) + BitVec.ofNat 64 p.2)).toNat % 2 ^ h))
    (x / 2 ^ h, x % 2 ^ h)
  r.1 * 2 ^ h + r.2

/-- Cycle walking: the first value below `n` on the orbit; the walk ends within 2^b rounds, since the round is a bijection. -/
def cycleWalk (h n : Nat) (k : BitVec 64) : Nat → Nat → Nat
  | 0, x => x
  | f + 1, x => let y := feistel h k x; if y < n then y else cycleWalk h n k f y

def perm (i n seed epoch : Nat) : Nat :=
  let b := permBits 20 n 2
  let k := dsrMix (BitVec.ofNat 64 seed ^^^ dsrMix (BitVec.ofNat 64 (epoch * 2 ^ 32 + 0x5348)))
  cycleWalk (b / 2) n k (2 ^ b) i

def runShuffle (x : IntCmd) : HodM IntOut :=
  hodPure ({ writes := [(x.addr 1, (List.range (icCnt x.w)).flatMap (fun q => toBytes 8 (perm (icPos x.w + q) (icN x.w) (icSeed x.w) (icEpoch x.w))))] },
    { outN := icCnt x.w })

def intRun (p j : Nat) (x : IntCmd) : HodM IntOut :=
  match icOp x.w with
  | 1 => runImage p j x
  | 2 => runVideo p j x
  | 3 => runAlign p j x
  | _ => runShuffle x

/-! ### Accesses outstanding (R476) -/

def IntS.rOut (x : IntS) : Nat := (x.cmds.map (·.rOut)).sum
def IntS.wOut (x : IntS) : Nat := (x.cmds.map (·.wOut)).sum

/-- One kind of access issues, commands in order, while fewer than 256 are outstanding. -/
def IntS.issueOne (x : IntS) (write : Bool) : Option IntS :=
  match x.cmds.find? (fun c => decide (0 < (if write then c.wLeft else c.rLeft))) with
  | none => none
  | some c =>
    let c' := if write then { c with wLeft := c.wLeft - 1, wOut := c.wOut + 1 } else { c with rLeft := c.rLeft - 1, rOut := c.rOut + 1 }
    some { x with cmds := x.cmds.map (fun y => if y.ring = c.ring ∧ y.pos = c.pos then c' else y) }

def IntS.issue (write : Bool) : Nat → IntS → IntS
  | 0, x => x
  | k + 1, x =>
    if 256 ≤ (if write then x.wOut else x.rOut) then x
    else match x.issueOne write with
      | some y => IntS.issue write k y
      | none => x

def IntS.issueAll (x : IntS) : IntS := IntS.issue true 256 (IntS.issue false 256 x)

/-! ### Faults, start, rows -/

def intRing (n i : Nat) : Nat := 258048 + n * 512 + i
def intPanel (i : Nat) : Nat := i / 32
def intSlot (i : Nat) : Nat := i % 32 / 4

/-- R479: the slot's rings on the engine stop, and the job ends. -/
def State.intFault (s : State) (n i : Nat) (pos : Count) (cause : Nat) : State :=
  let p := intPanel i
  let j := intSlot i
  let s := (List.range 4).foldl (fun s k => s.modRing (intRing n (32 * p + 4 * j + k)) (fun r => { r with stopped := true })) s
  let s := s.modIntake n (fun x => { x with
    pfault := x.pfault ||| 2 ^ p
    cmds := x.cmds.filter (fun c => !(c.ring = i && c.pos = pos)) })
  s.faultJob p j { cls := 0x0C, cause := cause, unit := intakeAgent n, ring := intRing n i, pos := pos.toNat }

def State.modIntCmd (s : State) (n i : Nat) (pos : Count) (f : IntCmd → IntCmd) : State :=
  s.modIntake n (fun x => { x with cmds := x.cmds.map (fun c => if c.ring = i ∧ c.pos = pos then f c else c) })

/-- R495, Table 14.7 HRST: the engine lies in the core domain of its host die. -/
def State.intakeHeld (s : State) (n : Nat) : Bool := decide ((s.host (n / 2)).cstate ≠ 0)

/-- R475: ring `i` has a head command that is ready. -/
def State.intReady (s : State) (n i : Nat) : Option Nat :=
  let p := intPanel i
  let j := intSlot i
  match (s.ring (intRing n i)).headPair with
  | none => none
  | some w =>
    if s.ringLive (intRing n i) && !(s.panel p).susp.getLsbD j &&
       (!icFence w || (s.intake n).cmds.all (fun c => decide (c.ring ≠ i))) && s.segWaitMet p j (icWaiten w) (icWaddr w) (icWval w)
    then some w else none

/-- The ring whose command starts next: a panel by its pointer, then its ring by that panel's pointer. -/
def State.intPick (s : State) (n : Nat) : Option (Nat × Nat) :=
  let x := s.intake n
  if 4 ≤ x.cmds.length || s.intakeHeld n then none
  else
    let free := (rotate 16 x.panelPtr).filter (fun p => x.cmds.all (fun c => decide (intPanel c.ring ≠ p)))
    (free.filterMap (fun p =>
      ((rotate 32 (x.ringPtr.get 0 p)).filterMap (fun k => (s.intReady n (32 * p + k)).map (fun w => (32 * p + k, w)))).head?)).head?

/-- Addresses of the timestamp arrays of an alignment block, and the checks on it at start: none when it is malformed, or the
cause of a failed read. -/
def alignArrays (p j : Nat) (x : IntCmd) : HodM (Option (List Nat × Nat)) :=
  hodBind (intNat p j 16 (x.addr 0)) (fun h =>
    let n := alStreams h
    hodBind (hodState (fun s => s.segAddr p j (icIn x.w) (16 + 16 * n) true false [3])) (fun a => match a with
    | none => hodPure none
    | some a =>
      hodBind (hodEach (fun i => intNat p j 16 (a + 16 + 16 * i)) (List.range n)) (fun es => hodState (fun s =>
        let as := es.map (fun e => s.segAddr p j (alArray e) (8 * alCount e) true false [3])
        let pieces := (es.map (fun e => ceilDiv (8 * alCount e) 4096)).sum + 1
        match s.segAddr p j (icOut x.w) (4 * n * alCount (es.headD 0)) false true [3] with
        | some o =>
          if decide (n < 2) || as.any (·.isNone) then none
          else some ([a, o, x.addr 2, 0, 0] ++ as.map (·.getD 0), pieces)
        | none => none))))

/-- R479: the checks at a command's start, its wait, and its reads; the command as the engine holds it, or the cause. -/
def intPrepare (p j : Nat) (b : IntCmd) : HodM IntCmd :=
  let w := b.w
  hodBind (hodState (fun s => s.intakeMalformed p j w)) (fun bad =>
    if bad then hodFail 1
    else hodBind (hodState (fun s => (s.segAddr p j (icWaddr w) 8 true false [2, 3]).getD 0)) (fun wa =>
      hodBind (if icWaiten w then intNat p j 8 wa else hodPure 0) (fun _ =>
      hodBind (hodState (fun s => (intakeUses w).map (fun u => (s.segAddr p j u.1 u.2.1 u.2.2.1 u.2.2.2 [3]).getD 0))) (fun tr =>
        let x := { b with tr := tr }
        match icOp w with
        | 0 => hodPure { x with ran := true }
        | 3 => hodBind (alignArrays p j x) (fun r => match r with
          | none => hodFail 1
          | some (t, k) => hodPure { x with tr := t, rLeft := k })
        | 4 => hodPure x
        | _ => hodPure { x with
            rLeft := accessPieces (x.addr 0) (icInlen w) + (if icNen w then accessPieces (x.addr 4) 24 else 0) }))))

/-- R479: the start of a command. -/
def State.intBegin (s : State) (n i w : Nat) : State :=
  let p := intPanel i
  let j := intSlot i
  let pos := (s.ring (intRing n i)).head
  let s := (s.modRing (intRing n i) (fun r => r.pass 2)).unitStarts (intakeAgent n) none p j pos (icOp w)
  let s := s.modIntake n (fun x => { x with panelPtr := (p + 1) % 16, ringPtr := x.ringPtr.set 0 p ((i % 32 + 1) % 32) })
  match intPrepare p j { ring := i, pos := pos, w := w } s with
  | (s, .error c) => s.intFault n i pos c
  | (s, .ok x) => s.modIntake n (fun y => { y with cmds := y.cmds ++ [x] }.issueAll)

def State.intWrites (s : State) : List (Nat × List Byte) → State × Option Nat
  | [] => (s, none)
  | (a, bs) :: r =>
    match s.unitWrite a bs with
    | (s, none) => s.intWrites r
    | (s, some _) => (s, some 3)

/-- The command runs once its reads are in. -/
def State.intFinish (s : State) (n : Nat) (x : IntCmd) : State :=
  if x.ran || decide (x.rLeft ≠ 0 ∨ x.rOut ≠ 0) || s.intakeHeld n then s
  else match intRun (intPanel x.ring) (intSlot x.ring) x s with
    | (s, .error c) => s.intFault n x.ring x.pos c
    | (s, .ok (out, st)) =>
      match s.intWrites out.writes with
      | (s, some c) => s.intFault n x.ring x.pos c
      | (s, none) =>
        let pic := decide (icOp x.w = 1 ∨ icOp x.w = 2)
        let k := (out.writes.map (fun w => accessPieces w.1 w.2.length)).sum
        let s := s.modIntCmd n x.ring x.pos (fun c => { c with ran := true, wLeft := k, flags := out.flags.toNat, status := st.code })
        s.modIntake n (fun y => { y with
          pics := if pic then satAdd 0xFFFFFFFF y.pics st.outN else y.pics
          rej := if st.status = 1 then satAdd 0xFFFF y.rej 1 else y.rej
          drop := if pic then satAdd 0xFFFF y.drop st.dropN else y.drop }.issueAll)

/-- An intake opcode's row: its command of the ring runs, or starts when it is the engine's next. An undefined opcode starts
with I_NOP's row, to its fault. -/
def State.intRow (s : State) (n i : Nat) (mine : Nat → Bool) : State :=
  match (s.intake n).cmds.find? (fun c => decide (c.ring = i) && !c.ran && mine (icOp c.w)) with
  | some x => s.intFinish n x
  | none =>
    match s.intPick n with
    | some (k, w) => if k = i && mine (icOp w) then s.intBegin n i w else s
    | none => s

def execINop (n : IntakeId) (i : Fin 512) (s : State) : Host.Outcome State Fault Refusal :=
  .next (s.intRow n i (fun op => decide (op = 0 ∨ 4 < op)))
def execIImage (n : IntakeId) (i : Fin 512) (s : State) : Host.Outcome State Fault Refusal := .next (s.intRow n i (fun op => decide (op = 1)))
def execIVideo (n : IntakeId) (i : Fin 512) (s : State) : Host.Outcome State Fault Refusal := .next (s.intRow n i (fun op => decide (op = 2)))
def execIAlign (n : IntakeId) (i : Fin 512) (s : State) : Host.Outcome State Fault Refusal := .next (s.intRow n i (fun op => decide (op = 3)))
def execIShuffle (n : IntakeId) (i : Fin 512) (s : State) : Host.Outcome State Fault Refusal := .next (s.intRow n i (fun op => decide (op = 4)))

/-- INTAKE_ACCESS_RESPONSE. -/
def State.intResponse (s : State) (n : Nat) (write : Bool) (r : Resp) : State :=
  match (s.intake n).cmds.find? (fun c => decide (0 < (if write then c.wOut else c.rOut))) with
  | some x =>
    if r = .ok then
      (s.modIntCmd n x.ring x.pos (fun c => if write then { c with wOut := c.wOut - 1 } else { c with rOut := c.rOut - 1 })).modIntake n
        IntS.issueAll
    else s.intFault n x.ring x.pos (if r = .poisoned then 2 else 3)
  | none => s

def execIntakeAccessResponse (n : IntakeId) (write : Bool) (r : Resp) (s : State) : Host.Outcome State Fault Refusal :=
  .next (s.intResponse n write r)

/-- INTAKE_COMMAND_COMPLETE: status record, completion record, remote add (R480). -/
def State.intComplete (s : State) (n i : Nat) : State :=
  match (s.intake n).cmds.find? (fun c => c.ring = i) with
  | some x =>
    if x.ran && decide (x.rOut = 0 ∧ x.wLeft = 0 ∧ x.wOut = 0) && !s.intakeHeld n then
      let p := intPanel i
      let j := intSlot i
      let (s, e) := if icOp x.w = 0 then (s, none)
        else s.unitWrite (x.addr 2) (toBytes 32 (x.status + b2n s.time.lock * 2 ^ 16 + s.now % 2 ^ 64 * 2 ^ 192))
      match e with
      | some _ => s.intFault n i x.pos 3
      | none =>
        let s := s.modIntake n (fun y => { y with cmds := y.cmds.filter (fun c => !(c.ring = i && c.pos = x.pos)) })
        s.unitDone (intakeAgent n) none (intRing n i) p j x.pos (icRec x.w) (icSigen x.w) (icSigtile x.w) (icSigctr x.w)
          (icSigval x.w) 0 x.flags
    else s
  | none => s

def execIntakeCommandComplete (n : IntakeId) (i : Fin 512) (s : State) : Host.Outcome State Fault Refusal := .next (s.intComplete n i)

/-! ### WAIT_WORD_POLL (R431, R458, R475) -/

/-- A unit reads the wait word of a ring's head command, and starts the command when the word has reached WVAL and the unit
may start it. -/
def State.waitPoll (s : State) (g : Nat) : State :=
  if g < 245760 then s
  else if g < 253952 then
    let n := (g - 245760) / 256
    let i := (g - 245760) % 256
    match s.courseActive n i, s.courseHead n i with
    | none, some w => if ccWaddr w = 0 then s else s.courseStart n i w
    | _, _ => s
  else if g < 258048 then
    let h := (g - 253952) / 128
    let i := (g - 253952) % 128
    match s.spanPanel h with
    | some p => (match s.hodPick h p (i / 16) with | some (k, w) => if k = i && hcWaiten w then s.hodBegin h p i w else s | none => s)
    | none => s
  else if g < 260096 then
    let n := (g - 258048) / 512
    let i := (g - 258048) % 512
    match s.intPick n with | some (k, w) => if k = i && icWaiten w then s.intBegin n i w else s | none => s
  else s

def execWaitWordPoll (g : RingId) (s : State) : Host.Outcome State Fault Refusal := .next (s.waitPoll g)

end Sys2Proof.Machine
end

