-- ==== Sys2Proof/Machine/Panels.lean ====
section
/-!
DEFINITION. Panels (15 R498, R499, R515 to R517): creation, destruction, reset, its completion; wipes (09 R322 to R324);
grants, keep regions, pool placements, staging settings (09 R286, R289, R305, R318 to R321; 16 R534, R543); SEG_STAGE_CTL.INV.
-/
namespace Sys2Proof.Machine

/-! ### The sill ring (R266 to R268): positions, routes, failed hops -/

/-- Unit at a ring position, numbered as INJECT numbers UCIe positions: sills 0 to 15, host dies 16 and 17. -/
def ringUnit (r : Nat) : Nat := if r < 8 then r else if r = 8 then 17 else if r < 17 then r - 1 else 16

def sillPos (k : Nat) : Nat := if k < 8 then k else k + 1
def hostPos (h : Nat) : Nat := if h = 0 then 17 else 8

/-- A link that carries nothing: failed (R265) or held below the floor (R266). -/
def State.linkFailed (s : State) (k : Nat) : Bool := decide (s.linkState k = 5 ∨ s.linkState k = 6)

/-- The hop from position `r` to the next carries nothing: the link of either end. -/
def State.hopFailed (s : State) (r : Nat) : Bool :=
  s.linkFailed (ucieKey (ringUnit r) 2) || s.linkFailed (ucieKey (ringUnit ((r + 1) % 18)) 1)

/-- Hops of the route between two positions (R267). -/
def ringRoute (a b : Nat) : List Nat :=
  let d := (b + 18 - a) % 18
  if d ≤ 9 then (List.range d).map (fun i => (a + i) % 18)
  else (List.range (18 - d)).map (fun i => (a + 17 - i) % 18)

/-- A route of the ring crosses a failed hop (R367). -/
def State.ringCut (s : State) (a b : Nat) : Bool := (ringRoute a b).any s.hopFailed

/-- Ring position through which a tile leaves the plane (R249). -/
def tilePos (t : Nat) : Nat := sillPos (sillOf (tileX t) (leavesNorth t))

/-- A tile reaches a host die, and the host die the tile. -/
def State.tileCut (s : State) (t h : Nat) : Bool :=
  s.linkFailed (ucieKey (sillOf (tileX t) (leavesNorth t)) 0) || s.ringCut (tilePos t) (hostPos h) ||
  s.ringCut (hostPos h) (tilePos t)

/-! ### Wipes (R322 to R324) -/

/-- Ranges less the bytes of one range. -/
def cutRange (c : Nat × Nat) (rs : List (Nat × Nat)) : List (Nat × Nat) :=
  rs.flatMap (fun r =>
    if overlaps r.1 r.2 c.1 c.2 then
      (if r.1 < c.1 then [(r.1, c.1 - r.1)] else []) ++
      (if c.1 + c.2 < r.1 + r.2 then [(c.1 + c.2, r.1 + r.2 - (c.1 + c.2))] else [])
    else [r])

/-- Defined keep regions. -/
def State.keepRanges (s : State) : List (Nat × Nat) :=
  (s.keeps.filter (fun k => k.2.defined)).map (fun k => (k.2.base, k.2.len))

/-- Ranges less the bytes of defined keep regions (Table 9.12). -/
def State.lessKeeps (s : State) (rs : List (Nat × Nat)) : List (Nat × Nat) := s.keepRanges.foldl (fun rs k => cutRange k rs) rs

/-- A wipe begins; its number. -/
def State.beginWipe (s : State) (tier : Nat) (ranges : List (Nat × Nat)) (panel keep : Option Nat) : State × Nat :=
  ({ s with wipes := s.wipes ++ [{ id := s.wipeNext, tier := tier, ranges := ranges, panel := panel, keep := keep }]
            wipeNext := s.wipeNext + 1 }, s.wipeNext)

/-- T0 of a panel's tiles, by rows of consecutive windows, and the mapped parts of its spans. -/
def State.panelRanges (s : State) (p : Nat) : List (Nat × Nat) :=
  let x := s.panel p
  (List.range 80).map (fun y => (winAddr (128 * y + 8 * x.b0) 0, 8 * x.wb * winSize)) ++ s.t1Ranges p

/-- KEEP reply (Table 16.21). -/
def State.keepReply (s : State) (k : Nat) : List Byte :=
  let x := s.keep k
  if !x.defined then toBytes 8 (b2n x.wiping * 2 ^ 7)
  else toBytes 8 (1 + b2n x.panel.isSome * 2 + x.panel.getD 0 * 2 ^ 2 + b2n x.lost * 2 ^ 6 + b2n x.wiping * 2 ^ 7 +
    x.len / 2 ^ 30 * 2 ^ 16 + x.base / 2 ^ 30 * 2 ^ 32)

def keepRp : State → IcralReq → List Byte := fun s q => if q.opcode.toNat = 0x14 then s.keepReply (bits q.params 0 5) else []

/-- WIPE_COMPLETE: zeros stand everywhere the wipe covered; a released keep region is gone; packets that waited are
answered. -/
def State.wipeDone (s : State) (id : Nat) : State :=
  match s.wipes.find? (fun w => decide (w.id = id)) with
  | none => s
  | some w =>
    let s := w.ranges.foldl (fun s r => s.wipeRange r.1 r.2) { s with wipes := s.wipes.filter (fun x => decide (x.id ≠ id)) }
    let s := match w.keep with | some k => { s with keeps := s.keeps.set {} k {} } | none => s
    s.release (.wipe id) keepRp

def execWipeComplete (id : Nat) (s : State) : Host.Outcome State Fault Refusal := .next (s.wipeDone id)

/-! ### Panel reset (R515, R516, Table 15.9) -/

/-- R369: dirty lines of a tile's host-window cache go home, every line leaves. A line whose home the tile cannot reach is
poisoned there. -/
def State.flushTile (s : State) (t : Nat) : State :=
  let s := (s.tile t).hwc.foldl (fun s l =>
    let h := s.homeOf (64 * l.1)
    let mine := decide (((s.home h).dir.get {} l.1).owner = some (toHolderTile t))
    if l.2.st = .M ∨ l.2.wb then
      let s := if s.tileCut t (h / 8) then (if mine then { s with linePoison := s.linePoison.set false (64 * l.1) true } else s)
        else s.writeLine l.1 l.2.data l.2.pz
      if mine then s.modHome h (fun x => { x with dir := x.dir.modify {} l.1 (fun d => { d with owner := none }) }) else s
    else s) s
  s.modTile t (fun x => { x with hwc := [] })

/-- R276: packets of the panel on their way are discarded, and the buffers of its links cleared. -/
def State.clearNetwork (s : State) (p : Nat) : State :=
  let x := s.panel p
  let col (d i e : Nat) := d % 8 * 16 + (if e % 2 = 0 then i else if e = 1 then 15 else 0)
  let reset := fun (l : Link) => { l with
    credDue := [0, 0, 0, 0]
    buffered := [0, 0, 0, 0]
    dropping := [false, false, false, false]
    used := [0, 0, 0, 0]
    waitq := []
    owner := [none, none, none, none]
    classPtr := 0
    inPtr := [0, 0, 0, 0]
    exit := [none, none, none, none] }
  { s with
    adds := s.adds.filter (fun a => decide (a.panel ≠ p))
    addAcks := s.addAcks.update 0 (fun t v => if x.holdsTile t then 0 else v)
    caccs := s.caccs.filter (fun c => decide (c.panel.val ≠ p))
    grants := s.grants.filter (fun g => match g.1 with | .tile t => !x.holdsTile t | _ => true)
    links := s.links.update {} (fun k l =>
      if k < 2560 ∧ x.holdsCol (col (k / 64) (k % 16) (k / 16 % 4)) then reset l else l) }

/-- A half's failing channels are mapped out (R313). -/
def State.mapOut (s : State) (q : Nat) : State :=
  let k := q / 2
  let cs := (List.range 16).filter (fun i => bit (s.stack k).failmap (16 * (q % 2) + i))
  cs.foldl (fun s i =>
    let c := 16 * (q % 2) + i
    (s.modStack k (fun x => { x with outmap := setBits x.outmap c 1 1, failmap := setBits x.failmap c 1 0 })).emit
      { cls := 0x18, cause := 2, unit := sillAgent k, detail := 32 * k + c }) s

/-- All job slots of the panel are idle and no mover of it holds a transaction. -/
def State.panelQuiet (s : State) (p : Nat) : Bool :=
  (s.panel p).jobs.all (fun j => decide (j.2.jstate = 0)) && (List.range 8).all (s.slotQuiet p)

/-- Steps 2 to 5 of Table 15.9, up to the beginning of the wipe, once the panel's jobs have ended. -/
def State.panelAdvance (s : State) (p : Nat) : State :=
  let x := s.panel p
  if x.state ≠ 1 ∨ x.wiped ∨ !s.panelQuiet p then s
  else
    let s := s.clearNetwork p
    let s := (s.tiles.filter (fun t => x.holdsTile t.1)).foldl (fun s t => s.flushTile t.1) s
    let s := { s with tiles := s.tiles.update {} (fun t y =>
      if x.holdsTile t && y.suspect.isSome && !y.retire then { y with patternDue := true } else y) }
    let s := x.spans.foldl (fun s q => s.mapOut q) s
    let s := s.modPanel p (fun y => { y with wiped := true, stage := [] })
    (s.beginWipe 8 (s.panelRanges p) (some p) none).1

/-- A panel reset begins (R515, step 1): every job ends with ECAUSE 5. -/
def State.panelResetBegin (s : State) (p after : Nat) : State :=
  let s := (List.range 8).foldl (fun s j => s.endJob p j 5) s
  let s := s.modPanel p (fun x => { x with state := 1, wiped := false, after := after, resets := satAdd 0xFF x.resets 1 })
  s.panelAdvance p

/-- Tiles marked for retirement are repointed, or recorded pending (R193, R576). -/
def State.retireTile (s : State) (t : Nat) : State :=
  let k := 16 * tileDie t + tileX t % 16
  let row := tileY t % 16
  if s.repairField (tileDie t) (tileX t % 16) = 0x1F then
    { s with boot := { s.boot with repair := s.boot.repair.set 0 k (row ^^^ 0x1F) } }.modTile t
      (fun x => { x with retire := false, suspect := none, patternDue := false })
  else
    { s with boot := { s.boot with pend := s.boot.pend.set none k (some (physRow (s.repairField (tileDie t) (tileX t % 16)) row)) } }

/-- A failed mortar link both of whose ends lie in the panel's columns (R265, Table 18.5). -/
def State.bandLinkFailed (s : State) (x : Panel) : Bool :=
  s.links.any (fun l =>
    let d := l.1 / 64
    let e := l.1 / 16 % 4
    let i := l.1 % 16
    let c := d % 8 * 16
    decide (l.1 < 2560) && s.linkFailed l.1 &&
      (if e % 2 = 0 then x.holdsCol (c + i)
       else if e = 1 then x.holdsCol (c + 15) && x.holdsCol (c + 16)
       else x.holdsCol c && x.holdsCol (c - 1)))

/-- OOSC after a reset (Table 15.13); of several causes the lowest code. -/
def State.outOfService (s : State) (p : Nat) : Nat :=
  let x := s.panel p
  if s.bandLinkFailed x then 1
  else if x.spans.any (fun q => (s.halfChannels q).isEmpty) then 2
  else if s.tiles.any (fun t => x.holdsTile t.1 && t.2.retire) then 3
  else if x.spans.any (fun q => s.linkFailed (ucieKey (q / 2) 0)) then 4
  else 0

/-- A tile's registers in the panel's domain take their reset values (R101, step 6). -/
def TileS.panelReset (x : TileS) : TileS :=
  { ({} : TileS) with
    thermal := x.thermal, temp := x.temp, vmin := x.vmin, droopEvt := x.droopEvt, droop := x.droop,
    suspect := x.suspect, patternDue := x.patternDue, retire := x.retire, hwc := x.hwc, unmade := x.unmade }

/-- The armed injection's target lies in the panel (R537). -/
def State.injIn (s : State) (p key : Nat) : Bool :=
  let x := s.panel p
  let det := key / 2 ^ 32
  let tgt := key % 2 ^ 32
  match det with
  | 0x01 | 0x02 | 0x08 | 0x09 | 0x0A | 0x0B => x.holdsTile tgt
  | 0x03 => x.spans.contains (tgt / 16)
  | 0x0E => decide (tgt / 4096 = p)
  | 0x0F => decide (tgt / 8 = p)
  | 0x11 => x.holdsCol tgt
  | _ => false

/-- A ring of the panel's reset domain (step 6, R448, R541). -/
def State.ringInPanel (s : State) (p g : Nat) : Bool :=
  let o := s.ringOwner g
  if isMailbox g then decide (o.panel = some p) && !(s.ring g).modr else decide (o.panel = some p)

/-- Registers, tables and pointers of the panel's domain take their reset values (step 6, R516, R518). -/
def State.panelRegs (s : State) (p : Nat) : State :=
  let x := s.panel p
  { s with
    tiles := s.tiles.update {} (fun t y => if x.holdsTile t then y.panelReset else y)
    rings := s.rings.update {} (fun g r => if s.ringInPanel p g then {} else r)
    hods := s.hods.update {} (fun h y => if s.spanPanel h = some p then { y with rows := 0, absent := 0, stall := 0, slotFault := 0 } else y)
    intakes := s.intakes.update {} (fun _ y => { y with pfault := setBits y.pfault p 1 0 })
    inj := s.inj.keep (fun k _ => !s.injIn p k)
    mgmt := { s.mgmt with sessions := s.mgmt.sessions.filter (fun k => match k.1 with
      | .mailbox q i => !(decide (q.val = p) && !(s.ring (mailboxRing p i)).modr)
      | _ => true) } }.modPanel p (fun y => { y with
    susp := 0, iso := 0, jend := 0, segs := [], wins := [], rtab := [], stage := [], trcCtl := 0, stale := 0, gendis := 0
    tdrop := 0, edrop := 0, jobs := y.jobs.update {} (fun _ b => { ({} : Job) with gen := b.gen }) })

/-- A panel leaves the plane (R499): its keep regions unassigned, its grants revoked and wiped. -/
def State.panelGone (s : State) (p : Nat) : State :=
  let x := s.panel p
  let s := { s with keeps := s.keeps.update {} (fun _ k => if k.panel = some p then { k with panel := none } else k) }
  let s := s.modPanel p (fun y => { y with state := 0, b0 := 0, wb := 0, after := 0, wiped := false, grants := [], wl := 0, pf := 0, oosc := 0 })
  if x.grants.isEmpty then s.release (.panel p) noParams
  else
    let (s, id) := s.beginWipe 2 (s.lessKeeps x.grants) none none
    s.modMgmt (fun m => { m with accepted := m.accepted.map (fun a =>
      if a.wait = some (.panel p) then { a with wait := some (.wipe id) } else a) })

/-- PANEL_RESET_COMPLETE: steps 4 (the rest), 6 and 7. A panel being destroyed stops after its wipe. -/
def State.panelResetDone (s : State) (p : Nat) : State :=
  let x := s.panel p
  if x.state ≠ 1 || !x.wiped || s.wipes.any (fun w => decide (w.panel = some p)) ||
      s.tiles.any (fun t => x.holdsTile t.1 && t.2.patternDue && !t.2.retire) then s
  else
    let s := (s.tiles.filter (fun t => x.holdsTile t.1 && t.2.retire)).foldl (fun s t => s.retireTile t.1) s
    if x.after = 2 then s.panelGone p
    else
      let s := s.panelRegs p
      let c := s.outOfService p
      let s := s.modPanel p (fun y => { y with state := if c = 0 then 2 else 3, oosc := c, wiped := false, after := 0 })
      (s.emit { cls := 0x20, cause := 10, unit := .manager, detail := p }).release (.panel p) noParams

def execPanelResetComplete (p : PanelId) (s : State) : Host.Outcome State Fault Refusal := .next (s.panelResetDone p)

/-! ### PANEL_CREATE, PANEL_DESTROY, PANEL_RESET -/

def specPanelCreate : OpSpec :=
  { fields := fun _ q => [⟨0, 4, anyVal⟩, ⟨4, 5, .reject (fun v => decide (1 ≤ v ∧ bits q.params 0 4 + v ≤ 16))⟩, ⟨9, 55, .reserved⟩]
    run := fun s q w =>
      let b0 := bits w 0 4
      let wb := bits w 4 5
      let p := q.panel.val
      need (decide ((s.panel p).state = 0) && (List.range wb).all (fun i => (s.colPanel (8 * (b0 + i))).isNone)) stConflict 0
        (.wait ((s.modPanel p (fun x => { x with state := 1, b0 := b0, wb := wb })).panelResetBegin p 1) (.panel p)) }

def execPanelCreate (q : IcralReq) (s : State) : Host.Outcome State Fault Refusal :=
  .next (s.performReq q (decide (q.opcode.toNat = 0x10)) specPanelCreate)

def specPanelDestroy : OpSpec :=
  { run := fun s q _ =>
      let p := q.panel.val
      need (decide ((s.panel p).state ≠ 0)) stPanelState 0 (.wait (s.panelResetBegin p 2) (.panel p)) }

def execPanelDestroy (q : IcralReq) (s : State) : Host.Outcome State Fault Refusal :=
  .next (s.performReq q (decide (q.opcode.toNat = 0x11)) specPanelDestroy)

/-- PANEL_RESET: begins, or merges into the reset in progress. -/
def specPanelReset : OpSpec :=
  { run := fun s q _ =>
      let p := q.panel.val
      need (decide ((s.panel p).state ≠ 0)) stPanelState 0
        (.wait (if (s.panel p).state = 1 then s else s.panelResetBegin p 0) (.panel p)) }

def execPanelReset (q : IcralReq) (s : State) : Host.Outcome State Fault Refusal :=
  .next (s.performReq q (decide (q.opcode.toNat = 0x12)) specPanelReset)

/-! ### Grants (R289, R534) -/

def gib : Nat := 2 ^ 30
def mib2 : Nat := 2 ^ 21

/-- The region a grant lies in: T2, or the CXL pool. -/
def grantBase (t3 : Bool) : Nat := if t3 then poolBase else 0
def grantEnd (t3 : Bool) : Nat := if t3 then poolBase + 2 ^ 51 else tib2

def grantFields (q : IcralReq) : List Field :=
  let t3 := bit q.params 1
  let base := bits q.params 64 52
  [⟨0, 1, anyVal⟩, ⟨1, 1, anyVal⟩, ⟨2, 62, .reserved⟩,
   ⟨64, 52, .reject (fun v => decide (v % mib2 = 0 ∧ grantBase t3 ≤ v ∧ v < grantEnd t3))⟩, ⟨116, 12, .reserved⟩,
   ⟨128, 52, .reject (fun v => decide ((v + 1) % mib2 = 0 ∧ base + v < grantEnd t3))⟩, ⟨180, 12, .reserved⟩]

/-- T2 of a host die with a failed package is out of use (R577). -/
def State.t2Dead (s : State) (a n : Nat) : Bool :=
  (List.range 2).any (fun h => (s.host h).t2Off && overlaps a n (h * 2 ^ 40) (2 ^ 40))

/-- R534: the range meets a grant, a keep region of another panel, or unmapped T2. -/
def State.grantConflict (s : State) (p a n : Nat) : Bool :=
  s.panels.any (fun x => x.2.grants.any (fun g => overlaps g.1 g.2 a n)) ||
  s.keeps.any (fun k => k.2.defined && decide (k.2.panel ≠ none ∧ k.2.panel ≠ some p) && overlaps k.2.base k.2.len a n) ||
  s.t2Dead a n

def specGrant : OpSpec :=
  { fields := fun _ q => grantFields q
    run := fun s q w =>
      let p := q.panel.val
      let a := bits w 64 52
      let n := bits w 128 52 + 1
      need (decide ((s.panel p).state ≠ 0)) stPanelState 0
        (need (!s.grantConflict p a n) stConflict 64
          (.ok (s.modPanel p (fun x => { x with grants := x.grants ++ [(a, n)] })))) }

def execGrant (q : IcralReq) (s : State) : Host.Outcome State Fault Refusal :=
  .next (s.performReq q (decide (q.opcode.toNat = 0x13) && !bit q.params 0) specGrant)

/-! Segment and window entries (Tables 9.5 and 12.3), for the memory they cover. -/

/-- A valid segment or window of the panel uses T2 or pool bytes of the range. -/
def State.rangeUsed (s : State) (p a n : Nat) : Bool :=
  (s.panel p).segs.any (fun e => sgValid e.2 && decide (3 ≤ sgTier e.2) && overlaps (sgPbase e.2) (sgLen e.2) a n) ||
  (s.panel p).wins.any (fun e => wnValid e.2 && overlaps (wnBase e.2) (wnLen e.2) a n)

def specGrantRevoke : OpSpec :=
  { fields := fun _ q => grantFields q
    run := fun s q w =>
      let p := q.panel.val
      let a := bits w 64 52
      let n := bits w 128 52 + 1
      need (decide ((s.panel p).state ≠ 0)) stPanelState 0
        (need ((s.panel p).grants.contains (a, n) && !s.rangeUsed p a n) stConflict 64
          (let s := s.modPanel p (fun x => { x with grants := x.grants.erase (a, n) })
           let (s, id) := s.beginWipe 2 (s.lessKeeps [(a, n)]) none none
           .wait s (.wipe id))) }

def execGrantRevoke (q : IcralReq) (s : State) : Host.Outcome State Fault Refusal :=
  .next (s.performReq q (decide (q.opcode.toNat = 0x13) && bit q.params 0) specGrantRevoke)

/-! ### Keep regions (R318 to R321, R543) -/

/-- Table 16.10; fields the ACTION does not use are reserved. -/
def keepFields (q : IcralReq) : List Field :=
  let act := bits q.params 5 2
  let base := bits q.params 64 52
  [⟨0, 5, anyVal⟩, ⟨5, 2, anyVal⟩, ⟨7, 4, if act = 2 then anyVal else .reserved⟩, ⟨11, 53, .reserved⟩,
   ⟨64, 52, if act = 0 then .reject (fun v => decide (v % gib = 0 ∧ v < tib2)) else .reserved⟩, ⟨116, 12, .reserved⟩,
   ⟨128, 52, if act = 0 then .reject (fun v => decide ((v + 1) % gib = 0 ∧ base + v < tib2)) else .reserved⟩, ⟨180, 12, .reserved⟩]

def State.keepTotal (s : State) : Nat := s.keeps.foldl (fun n k => n + (if k.2.defined then k.2.len else 0)) 0

def specKeepDefine : OpSpec :=
  { fields := fun _ q => keepFields q
    run := fun s _ w =>
      let r := bits w 0 5
      let a := bits w 64 52
      let n := bits w 128 52 + 1
      need (!(s.keep r).defined) stConflict 0
        (need (!(s.keepRanges.any (fun k => overlaps k.1 k.2 a n)) && !s.t2Dead a n) stConflict 64
          (need (decide (s.keepTotal + n ≤ 1792 * gib)) stNoResource 0
            (.ok { s with keeps := s.keeps.set {} r { defined := true, base := a, len := n } })))
    rp := keepRp }

def execKeepDefine (q : IcralReq) (s : State) : Host.Outcome State Fault Refusal :=
  .next (s.performReq q (decide (q.opcode.toNat = 0x14 ∧ bits q.params 5 2 = 0)) specKeepDefine)

def specKeepRelease : OpSpec :=
  { fields := fun _ q => keepFields q
    run := fun s _ w =>
      let r := bits w 0 5
      let k := s.keep r
      if !k.defined then .ok s
      else need k.panel.isNone stConflict 0
        (let (s, id) := (s.modKeep r (fun k => { k with wiping := true })).beginWipe 2 [(k.base, k.len)] none (some r)
         .wait s (.wipe id))
    rp := keepRp }

def execKeepRelease (q : IcralReq) (s : State) : Host.Outcome State Fault Refusal :=
  .next (s.performReq q (decide (q.opcode.toNat = 0x14 ∧ bits q.params 5 2 = 1)) specKeepRelease)

def specKeepAssign : OpSpec :=
  { fields := fun _ q => keepFields q
    run := fun s _ w =>
      let r := bits w 0 5
      let t := bits w 7 4
      let k := s.keep r
      need (decide ((s.panel t).state ≠ 0)) stPanelState 0
        (need (k.defined && decide (k.panel = none ∨ k.panel = some t)) stConflict 0
          (.ok (s.modKeep r (fun k => { k with panel := some t }))))
    rp := keepRp }

def execKeepAssign (q : IcralReq) (s : State) : Host.Outcome State Fault Refusal :=
  .next (s.performReq q (decide (q.opcode.toNat = 0x14 ∧ bits q.params 5 2 = 2)) specKeepAssign)

def specKeepUnassign : OpSpec :=
  { fields := fun _ q => keepFields q
    run := fun s _ w =>
      let r := bits w 0 5
      let k := s.keep r
      need (match k.panel with | some p => !s.rangeUsed p k.base k.len | none => true) stConflict 0
        (.ok (if k.defined then s.modKeep r (fun k => { k with panel := none }) else s))
    rp := keepRp }

def execKeepUnassign (q : IcralReq) (s : State) : Host.Outcome State Fault Refusal :=
  .next (s.performReq q (decide (q.opcode.toNat = 0x14 ∧ bits q.params 5 2 = 3)) specKeepUnassign)

/-! ### The CXL pool (R286) -/

/-- CXL-capable PCIe ports of the interleave mask (R616). -/
def poolPorts (m : Nat) : Nat :=
  b2n (bit m 0) + b2n (bit m 1) * 2 + b2n (bit m 2) * 2 ^ 4 + b2n (bit m 3) * 2 ^ 5

def poolFields (q : IcralReq) : List Field :=
  let un := bit q.params 10
  let base := bits q.params 64 52
  [⟨0, 4, if un then .reserved else .reject (fun v => decide (popCount 4 v = 1 ∨ popCount 4 v = 2 ∨ popCount 4 v = 4))⟩,
   ⟨4, 2, if un then .reserved else atMost 2⟩, ⟨6, 4, if un then .reserved else anyVal⟩, ⟨10, 1, anyVal⟩, ⟨11, 53, .reserved⟩,
   ⟨64, 52, .reject (fun v => decide (v % gib = 0 ∧ v < 2 ^ 51))⟩, ⟨116, 12, .reserved⟩,
   ⟨128, 52, if un then .reserved else .reject (fun v => decide ((v + 1) % gib = 0 ∧ base + v < 2 ^ 51))⟩, ⟨180, 12, .reserved⟩]

def specPoolMap : OpSpec :=
  { fields := fun _ q => poolFields q
    run := fun s _ w =>
      let a := bits w 64 52
      let n := bits w 128 52 + 1
      let ports := poolPorts (bits w 0 4)
      need ((setPositions 8 ports).all (bit s.cxl)) stConflict 0
        (need (!(s.pool.any (fun e => overlaps e.1 e.2.1 a n))) stConflict 64
          (.ok { s with pool := s.pool ++ [(a, n, ports, bits w 4 2, bits w 6 4)] })) }

def execPoolMap (q : IcralReq) (s : State) : Host.Outcome State Fault Refusal :=
  .next (s.performReq q (decide (q.opcode.toNat = 0x15) && !bit q.params 10) specPoolMap)

def specPoolUnmap : OpSpec :=
  { fields := fun _ q => poolFields q
    run := fun s _ w =>
      let a := bits w 64 52
      need (s.pool.any (fun e => decide (e.1 = a))) stConflict 64
        (.ok { s with pool := s.pool.filter (fun e => decide (e.1 ≠ a)) }) }

def execPoolUnmap (q : IcralReq) (s : State) : Host.Outcome State Fault Refusal :=
  .next (s.performReq q (decide (q.opcode.toNat = 0x15) && bit q.params 10) specPoolUnmap)

/-! ### Staging windows (R305, R309) -/

/-- Smallest mapped line count among the panel's halves. -/
def State.stageLimit (s : State) (p : Nat) : Nat :=
  (s.panel p).spans.foldl (fun m q => min m (s.spanMapped q / 65536)) (2 ^ 19 - 1)

def specStaging : OpSpec :=
  { fields := fun s q => [⟨0, 19, .clamp 0 (s.stageLimit q.panel) 1 false⟩, ⟨19, 3, anyVal⟩, ⟨22, 42, .reserved⟩]
    run := fun s q w =>
      let p := q.panel.val
      let x := s.panel p
      let wl := bits w 0 19
      let pf := bits w 19 3
      need (decide (x.state = 2)) stPanelState 0
        (need (decide (wl = x.wl ∧ pf = x.pf) || !(x.segs.any (fun e => sgValid e.2 && decide (sgTier e.2 = 4)))) stConflict 0
          (.ok (s.modPanel p (fun y => { y with wl := wl, pf := pf, stage := if wl = y.wl then y.stage else [] })))) }

def execStaging (q : IcralReq) (s : State) : Host.Outcome State Fault Refusal :=
  .next (s.performReq q (decide (q.opcode.toNat = 0x16)) specStaging)

/-- SEG_STAGE_CTL (R309). -/
def State.stageInvalidate (s : State) (p v : Nat) (auth : Auth) : State :=
  if !reaches auth (some p) then s.outOfReach auth (mmioBase + 0x43000000 + p * 0x10000 + 0x1000)
  else if bit v 0 then s.modPanel p Panel.invalidateStaging else s

def execStagingInvalidate (p : PanelId) (v : BitVec 32) (auth : Auth) (s : State) : Host.Outcome State Fault Refusal :=
  .next (s.stageInvalidate p v.toNat auth)

end Sys2Proof.Machine
end

