-- ==== Sys2Proof/Machine/Tables.lean ====
section
/-!
DEFINITION. The tables of a panel and the settings of ports (16 Tables 16.10 and 16.20): RING_CONFIG (R100, R200), SEGMENT
and its completion (R86, R288 to R290, R295), WINDOW (R426), RTABLE (R373, R374, R382), COURSE_PORT (R542).
-/
namespace Sys2Proof.Machine

/-- The panel of the header is in service; else PANEL_STATE. -/
def State.inService (s : State) (p : Nat) (k : Done) : Done := need (decide ((s.panel p).state = 2)) stPanelState 0 k

/-! ### RING_CONFIG -/

def isCourseRing (g : Nat) : Bool := decide (245760 ≤ g ∧ g < 253952)
/-- Ring of a port in Ethernet mode: no panel's. -/
def State.isEthRing (s : State) (g : Nat) : Bool := isCourseRing g && (s.port ((g - 245760) / 256)).eth

/-- `[a, a + n)` lies in the LPDDR or in the HBM region. -/
def inHostOrHbm (a n : Nat) : Bool :=
  decide (a + n ≤ tib2) || decide (hbmBase ≤ a ∧ a + n ≤ hbmBase + 32 * spanSize)

def ringFields (s : State) (q : IcralReq) : List Field :=
  let w := q.params
  let g := bits w 0 18
  let en := bit w 69
  let l := bits w 64 5
  [⟨0, 18, .reject (fun g => !isMailbox g && (s.isEthRing g || decide ((s.ringOwner g).panel = some q.panel.val)))⟩,
   ⟨18, 46, .reserved⟩, ⟨64, 5, .reject (fun v => !en || decide (6 ≤ v ∧ v ≤ 16))⟩, ⟨69, 1, anyVal⟩, ⟨70, 6, .reserved⟩,
   ⟨76, 40, .reject (fun v => !en || (decide (v * 4096 % (2 ^ l * 64) = 0) && inHostOrHbm (v * 4096) (2 ^ l * 64)))⟩,
   ⟨116, 12, .reserved⟩,
   ⟨128, 52, .reject (fun v => !en || isTraceRing g || (decide (v % (2 ^ l * 8) = 0) && inHostOrHbm v (2 ^ l * 8)))⟩,
   ⟨180, 12, .reserved⟩]

/-- The ring with its CFG and CLOG; HEAD and TAIL stand (R200). A log newly enabled counts its records from 0. -/
def Ring.configure (r : Ring) (l : Nat) (en : Bool) (base clog : Nat) : Ring :=
  { r with log2 := l, en := en, base := base, clog := clog, fetched := [], lseq := if en && !r.en then 0 else r.lseq }

/-- RING_CONFIG. Under panel authority a ring of another panel or of an Ethernet-mode port is out of reach. -/
def specRingConfig : OpSpec :=
  { fields := ringFields
    outside := fun s q =>
      let g := bits q.params 0 18
      !isMailbox g && (match q.auth with
        | .owner => false
        | .panel _ => s.isEthRing g || decide ((s.ringOwner g).panel ≠ some q.panel.val))
    run := fun s q w =>
      let g := bits w 0 18
      let r := s.ring g
      let go : Done := need (!r.en || decide (r.head = r.tail)) stConflict 0
        (.ok (s.setRing g (r.configure (bits w 64 5) (bit w 69) (bits w 76 40 * 4096) (bits w 128 52))))
      if s.isEthRing g then go else s.inService q.panel go }

def execRingConfig (q : IcralReq) (s : State) : Host.Outcome State Fault Refusal :=
  .next (s.performReq q (decide (q.opcode.toNat = 0x20)) specRingConfig)

/-! ### Tiers (Table 9.6) -/

/-- Mapped T1 of the panel outside its staging windows. -/
def State.inT1Free (s : State) (p a n : Nat) : Bool := let r := s.t1Free p; covered r (r.length + 1) a n

/-- R318: every keep region that the range meets is assigned to the panel. -/
def State.keepsMine (s : State) (p a n : Nat) : Bool :=
  s.keeps.all (fun k => !k.2.defined || !overlaps k.2.base k.2.len a n || decide (k.2.panel = some p))

/-- Granted pool bytes. -/
def State.inPool (s : State) (p a n : Nat) : Bool :=
  s.granted p a n && (match regionOf a, regionOf (a + n - 1) with | .pool _, .pool _ => true | _, _ => false)

/-- The range is one the TIER code permits, and crosses no region boundary. -/
def State.tierHolds (s : State) (p tier a n : Nat) : Bool :=
  match tier with
  | 0 => decide (a + n ≤ sramSize)
  | 1 => s.inWindows p a n
  | 2 => s.inT1Free p a n
  | 3 => s.inT2 p a n && s.keepsMine p a n
  | 4 => s.inT2 p a n && s.keepsMine p a n && decide ((s.panel p).wl ≠ 0)
  | 5 => s.inPool p a n
  | _ => false

/-- What PBASE and LEN + 1 are multiples of. -/
def tierUnit (tier : Nat) : Nat := if tier ≤ 1 then 64 else if tier = 4 then 65536 else 4096

/-- Permissions and attributes of a TIER code. -/
def tierAllows (tier : Nat) (pw pa comp coh : Bool) : Bool :=
  (!pw || decide (tier ≠ 4)) && (!pa || decide (tier = 2)) && (!comp || decide (2 ≤ tier)) &&
  (!coh || decide (tier = 3 ∨ tier = 5))

/-! ### Segments -/

def segFields (q : IcralReq) : List Field :=
  [⟨0, 4, anyVal⟩, ⟨4, 3, anyVal⟩, ⟨7, 1, .reserved⟩, ⟨8, 1, anyVal⟩, ⟨9, 55, .reserved⟩] ++
  (if bit q.params 8 then [⟨64, 256, .reserved⟩]
   else [⟨64, 48, anyVal⟩, ⟨112, 16, .reserved⟩, ⟨128, 52, anyVal⟩, ⟨180, 12, .reserved⟩, ⟨192, 44, anyVal⟩, ⟨236, 4, .reserved⟩,
     ⟨240, 3, anyVal⟩, ⟨243, 1, .reserved⟩, ⟨244, 5, anyVal⟩, ⟨249, 6, .reserved⟩, ⟨255, 1, anyVal⟩, ⟨256, 64, .reserved⟩])

/-- R290: the virtual range meets that of another valid entry of the slot, TIER 0 entries apart. -/
def State.segMeets (s : State) (p j e v : Nat) : Bool :=
  sgTier v ≠ 0 && (s.panel p).segs.any (fun x =>
    decide (x.1 / 16 = j ∧ x.1 % 16 ≠ e) && sgValid x.2 && decide (sgTier x.2 ≠ 0) &&
    overlaps (sgVbase x.2) (sgLen x.2) (sgVbase v) (sgLen v))

/-- R289, R290: the entry may be written. -/
def State.segOk (s : State) (p j e v : Nat) : Bool :=
  let t := sgTier v
  !sgValid v ||
    (decide (sgVbase v % 4096 = 0 ∧ (t = 0 → sgVbase v = 0) ∧ sgPbase v % tierUnit t = 0 ∧ sgLen v % tierUnit t = 0) &&
     tierAllows t (sgPW v) (sgPA v) (sgComp v) (sgCoh v) && s.tierHolds p t (sgPbase v) (sgLen v) && !s.segMeets p j e v)

/-- Commands translated under a segment of a slot and not completed, on the panel's tiles: ring and position (R86). -/
def State.segUsers (s : State) (p j e : Nat) : List (Nat × Count) :=
  let names (c : Cmd) : Bool := decide (c.cmd.slot = j) && (uses c.cmd).any (fun u => decide (dSeg (c.cmd.desc u.i) = e))
  (s.tiles.filter (fun t => (s.panel p).holdsTile t.1)).flatMap (fun t =>
    (List.range 3).flatMap (fun c =>
      let x := t.2.eng.get {} c
      ((x.urgent ++ x.normal ++ x.active.map (·.c)).filter names).map (fun k => (tileRing t.1 j c, k.pos))))

/-- A command, by ring and position, is still in its engine. -/
def State.inEngine (s : State) (x : Nat × Count) : Bool :=
  let e := s.engine (x.1 / 24) (x.1 % 3)
  let mine (c : Cmd) : Bool := decide (c.cmd.slot = x.1 % 24 / 3 ∧ c.pos = x.2)
  (e.urgent ++ e.normal ++ e.active.map (·.c)).any mine

/-- The segment entry in force (reply of SEGMENT). -/
def segRp : State → IcralReq → List Byte := fun s q =>
  toBytes 32 ((s.panel q.panel).segs.get 0 (bits q.params 4 3 * 16 + bits q.params 0 4))

/-- SEGMENT with READ 0. -/
def specSegment : OpSpec :=
  { fields := fun _ q => segFields q
    run := fun s q w =>
      let p := q.panel.val
      let e := bits w 0 4
      let j := bits w 4 3
      let v := bits w 64 256
      s.inService p (need (s.segOk p j e v) stConflict 64
        (let users := s.segUsers p j e
         let s := s.modPanel p (fun x => { x with segs := x.segs.set 0 (j * 16 + e) v })
         if users.isEmpty then .ok s else .wait s (.seg p j e users)))
    rp := segRp }

def execSegment (q : IcralReq) (s : State) : Host.Outcome State Fault Refusal :=
  .next (s.performReq q (decide (q.opcode.toNat = 0x21) && !bit q.params 8) specSegment)

def specSegmentRead : OpSpec :=
  { fields := fun _ q => segFields q, run := fun s q _ => s.inService q.panel (.ok s), rp := segRp }

def execSegmentRead (q : IcralReq) (s : State) : Host.Outcome State Fault Refusal :=
  .next (s.performReq q (decide (q.opcode.toNat = 0x21) && bit q.params 8) specSegmentRead)

/-- A packet that waits for the users of a replaced entry, all of them gone. -/
def State.segDone (s : State) (p j e : Nat) : Option Wait :=
  (s.mgmt.accepted.find? (fun a => match a.wait with
    | some (.seg p' j' e' cmds) => decide (p' = p ∧ j' = j ∧ e' = e) && !cmds.any s.inEngine
    | _ => false)).bind (·.wait)

/-- SEGMENT_UPDATE_COMPLETE. -/
def execSegmentUpdateComplete (p : PanelId) (j : Slot) (e : Fin 16) (s : State) : Host.Outcome State Fault Refusal :=
  .next (match s.segDone p j e with | some w => s.release w segRp | none => s)

/-! ### Windows -/

def winFields (q : IcralReq) : List Field :=
  [⟨0, 8, anyVal⟩, ⟨8, 1, anyVal⟩, ⟨9, 55, .reserved⟩] ++
  (if bit q.params 8 then [⟨64, 256, .reserved⟩]
   else [⟨64, 52, anyVal⟩, ⟨116, 12, .reserved⟩, ⟨128, 44, anyVal⟩, ⟨172, 4, .reserved⟩, ⟨176, 7, anyVal⟩, ⟨183, 9, .reserved⟩,
     ⟨192, 28, anyVal⟩, ⟨220, 4, .reserved⟩, ⟨224, 52, anyVal⟩, ⟨276, 12, .reserved⟩, ⟨288, 24, anyVal⟩, ⟨312, 8, .reserved⟩])

/-- R426: the entry may be written. -/
def State.winOk (s : State) (p v : Nat) : Bool :=
  let t := wnTier v
  let rt := (s.panel p).rtab.get 0 (wnRtid v)
  !wnValid v ||
    (decide (t = 1 ∨ t = 2 ∨ t = 3 ∨ t = 5) && decide (wnBase v % tierUnit t = 0 ∧ wnLen v % tierUnit t = 0) &&
     tierAllows t (wnPW v) (wnPA v) false (wnCoh v) && s.tierHolds p t (wnBase v) (wnLen v) &&
     (!wnPA v || decide (wnBase v = rtBase rt ∧ wnLen v ≤ 6 * rtCount rt)) &&
     (decide (wnAddr v = 0) || (decide (wnAddr v % 8 = 0) && (s.inT1 p (wnAddr v) 24 || s.inT2 p (wnAddr v) 24))) &&
     (!wnSigen v || (decide (wnSigtile v < 10240) && (s.panel p).holdsTile (wnSigtile v))))

def winRp : State → IcralReq → List Byte := fun s q => toBytes 32 ((s.panel q.panel).wins.get 0 (bits q.params 0 8))

def specWindow : OpSpec :=
  { fields := fun _ q => winFields q
    run := fun s q w =>
      let p := q.panel.val
      let v := bits w 64 256
      s.inService p (need (s.winOk p v) stConflict 64
        (.ok (s.modPanel p (fun x => { x with wins := x.wins.set 0 (bits w 0 8) v }))))
    rp := winRp }

def execWindow (q : IcralReq) (s : State) : Host.Outcome State Fault Refusal :=
  .next (s.performReq q (decide (q.opcode.toNat = 0x22) && !bit q.params 8) specWindow)

def specWindowRead : OpSpec :=
  { fields := fun _ q => winFields q, run := fun s q _ => s.inService q.panel (.ok s), rp := winRp }

def execWindowRead (q : IcralReq) (s : State) : Host.Outcome State Fault Refusal :=
  .next (s.performReq q (decide (q.opcode.toNat = 0x22) && bit q.params 8) specWindowRead)

/-! ### Reduction tensors -/

/-- Entries − 1 of the range. -/
def rtMost (act rtid : Nat) : Nat := min (if act = 1 then 169 else 255) (4095 - rtid)

def rtFields (q : IcralReq) : List Field :=
  let act := bits q.params 0 2
  let rtid := bits q.params 2 12
  [⟨0, 2, atMost 2⟩, ⟨2, 12, anyVal⟩, ⟨14, 8, if act = 0 then .reserved else .clamp 0 (rtMost act rtid) 1 false⟩, ⟨22, 42, .reserved⟩] ++
  (if act ≠ 0 then [⟨64, 192, .reserved⟩]
   else [⟨64, 52, anyVal⟩, ⟨116, 11, .reserved⟩, ⟨127, 1, anyVal⟩, ⟨128, 32, anyVal⟩, ⟨160, 10, anyVal⟩, ⟨170, 6, .reserved⟩,
     ⟨176, 9, anyVal⟩, ⟨185, 7, .reserved⟩, ⟨192, 1, .reserved⟩, ⟨193, 1, .reserved⟩, ⟨194, 1, .reserved⟩, ⟨195, 5, .reserved⟩,
     ⟨200, 10, .reserved⟩, ⟨210, 46, .reserved⟩])

/-- R374. -/
def State.rtOk (s : State) (p v : Nat) : Bool :=
  !rtValid v ||
    (decide (rtBase v % 64 = 0) && (s.t1Ranges p).any (fun r => within (rtBase v) (6 * rtCount v) r.1 r.2) &&
     decide (-256 ≤ rtX v ∧ rtX v ≤ 127 ∧ rtG v ≤ 24))

def specRtableWrite : OpSpec :=
  { fields := fun _ q => rtFields q
    run := fun s q w =>
      let p := q.panel.val
      let v := bits w 64 192
      s.inService p (need (s.rtOk p v) stConflict 64
        (.ok (s.modPanel p (fun x => { x with rtab := x.rtab.set 0 (bits w 2 12) v })))) }

/-- RTABLE_WRITE; ACTION 3 is refused here. -/
def execRtableWrite (q : IcralReq) (s : State) : Host.Outcome State Fault Refusal :=
  .next (s.performReq q (decide (q.opcode.toNat = 0x23 ∧ (bits q.params 0 2 = 0 ∨ bits q.params 0 2 = 3))) specRtableWrite)

/-- RTIDs of the packet's range. -/
def rtRange (act w : Nat) : List Nat :=
  (List.range (min (bits w 14 8) (rtMost act (bits w 2 12)) + 1)).map (fun i => bits w 2 12 + i)

def specRtableRead : OpSpec :=
  { fields := fun _ q => rtFields q
    run := fun s q _ => s.inService q.panel (.ok s)
    rp := fun s q => (rtRange 1 q.params).flatMap (fun i => toBytes 24 ((s.panel q.panel).rtab.get 0 i)) }

def execRtableRead (q : IcralReq) (s : State) : Host.Outcome State Fault Refusal :=
  .next (s.performReq q (decide (q.opcode.toNat = 0x23 ∧ bits q.params 0 2 = 1)) specRtableRead)

/-- R382: each valid entry of the range is armed. -/
def Panel.arm (x : Panel) (l : List Nat) : Panel :=
  { x with rtab := x.rtab.update 0 (fun k e => if l.contains k && rtValid e then rtArm e else e) }

def specRtableArm : OpSpec :=
  { fields := fun _ q => rtFields q
    run := fun s q w => s.inService q.panel (.ok (s.modPanel q.panel (fun x => x.arm (rtRange 2 w)))) }

def execRtableArm (q : IcralReq) (s : State) : Host.Outcome State Fault Refusal :=
  .next (s.performReq q (decide (q.opcode.toNat = 0x23 ∧ bits q.params 0 2 = 2)) specRtableArm)

/-! ### COURSE_PORT -/

def etypeOk (v : Nat) : Bool :=
  decide (v = 0) || (decide (0x0600 ≤ v) && !([0x0800, 0x0806, 0x86DD, 0x8100, 0x88A8] : List Nat).contains v)

def portFields (q : IcralReq) : List Field :=
  let vlan := bit q.params 8
  let macset := bit q.params 12
  [⟨0, 5, anyVal⟩, ⟨5, 1, anyVal⟩, ⟨6, 2, atMost 2⟩, ⟨8, 1, anyVal⟩, ⟨9, 3, if vlan then anyVal else .reserved⟩, ⟨12, 1, anyVal⟩,
   ⟨13, 3, .reserved⟩, ⟨16, 16, .reject etypeOk⟩,
   ⟨32, 12, .reject (fun v => if vlan then decide (1 ≤ v ∧ v ≤ 4094) else decide (v = 0))⟩, ⟨44, 4, .reserved⟩,
   ⟨48, 7, .clamp 0 127 1 false⟩, ⟨55, 9, .reserved⟩, ⟨64, 48, .reject (fun v => decide (v % 2 = 0) && (macset || decide (v ≠ 0)))⟩,
   ⟨112, 16, .reserved⟩]

/-- A path of some connection names the port. -/
def State.portNamed (s : State) (n : Nat) : Bool := s.conns.any (fun c => c.2.live && c.2.paths.any (fun q => decide (q.1 = n)))

/-- A receive ring of the Ethernet-mode port is enabled. -/
def State.rxRingOn (s : State) (n : Nat) : Bool := (s.port n).eth && (List.range 128).any (fun i => (s.ring (crsRing n (128 + i))).en)

/-- Settings that the connections of a port hold fixed. -/
def CPort.sameFixed (x y : CPort) : Bool :=
  decide (x.eth = y.eth ∧ x.maxpay = y.maxpay ∧ x.etype = y.etype ∧ x.vlanen = y.vlanen ∧ x.pcp = y.pcp ∧ x.vid = y.vid ∧ x.mac = y.mac)

/-- A change of MODE retrains the link; what was up goes down under hold. -/
def CPort.retrain (x : CPort) : CPort := if x.st ≤ 1 then { x with st := 1 } else { x with st := 3, hold := true }

def specCoursePort : OpSpec :=
  { fields := fun _ q => portFields q
    run := fun s _ w =>
      let n := bits w 0 5
      let x := s.port n
      let y := x.configure w
      need ((x.sameFixed y || !s.portNamed n) && (decide (x.nrxq = y.nrxq) || !s.rxRingOn n)) stConflict 0
        (if x.eth = y.eth then .ok (s.modPort n (fun _ => y))
         else .wait ((s.modPort n CPort.retrain).portEvent n 1) (.port n)) }

def execCoursePort (q : IcralReq) (s : State) : Host.Outcome State Fault Refusal :=
  .next (s.performReq q (decide (q.opcode.toNat = 0x24)) specCoursePort)

end Sys2Proof.Machine
end

