-- ==== Sys2Proof/Machine/Jobs.lean ====
section
/-!
DEFINITION. Jobs (15 R506 to R509; 16 R536): JOB_START with its resume checks, JOB_END, JOB_SLOT_IDLE, JOB_WATCHDOG_EXPIRY,
RESUME_CHECK_TIMEOUT; timers of requests (19 R597, 15 R509): TRANSACTION_TIMEOUT, T3_ACCESS_TIMEOUT.
-/
namespace Sys2Proof.Machine

/-! ### JOB_START -/

/-- `[v, v + n)` lies in T2 and `v` is a multiple of `m`. -/
def t2At (m n : Nat) : FieldRule := .reject (fun v => decide (v % m = 0 ∧ v + n ≤ tib2))

/-- Vote timeout in force, ms (Table 16.13, R536): four times the Course recovery bound of 2.5 ms is the floor. -/
def vtmsOf (v : Nat) : Nat := if v = 0 then 2000 else min 60000 (max 10 v)

/-- The address lies in a keep region assigned to the panel. -/
def State.inKeepOf (s : State) (p a n : Nat) : Bool :=
  s.keeps.any (fun k => k.2.defined && decide (k.2.panel = some p) && within a n k.2.base k.2.len)

def jobFields (s : State) (q : IcralReq) : List Field :=
  let w := q.params
  let nmod := bits w 16 10
  [⟨0, 3, anyVal⟩, ⟨3, 3, anyVal⟩, ⟨6, 10, atMost nmod⟩, ⟨16, 10, anyVal⟩, ⟨26, 6, .reserved⟩, ⟨32, 32, anyVal⟩, ⟨64, 64, anyVal⟩,
   ⟨128, 64, if bit w 5 then anyVal else .reserved⟩,
   ⟨192, 52, .reject (fun v => decide (v % 64 = 0) && s.inKeepOf q.panel v 64)⟩, ⟨244, 12, .reserved⟩, ⟨256, 52, t2At 16 16⟩,
   ⟨308, 12, .reserved⟩, ⟨320, 52, t2At 64 (128 * (nmod + 1))⟩, ⟨372, 12, .reserved⟩, ⟨384, 52, t2At 8 (72 * (nmod + 1))⟩,
   ⟨436, 12, .reserved⟩] ++
  [⟨448, 64, anyVal⟩, ⟨512, 32, anyVal⟩, ⟨544, 32, .floor 10 60000⟩, ⟨576, 16, anyVal⟩, ⟨592, 16, .reserved⟩,
   ⟨608, 32, .floor (ceilDiv (4 * vtmsOf (bits w 544 32)) 1000) 86400⟩, ⟨640, 384, .reserved⟩]

/-- Paths of a channel of a peer entry (Table 16.14): local and remote port. -/
def peerPaths (e c : Nat) : List (Nat × Nat) :=
  let w := bits e (64 + 128 * c) 128
  (List.range (bits w 0 3 + 1)).map (fun k => (bits w (8 + 10 * k) 5, bits w (13 + 10 * k) 5))

/-- The connections a peer table gives a job slot, one for each rank and channel. -/
def peerConns (p j nmod : Nat) (tab : List Nat) : List (Nat × Conn) :=
  (List.range (nmod + 1)).flatMap (fun r =>
    let e := tab.getD r 0
    (List.range 4).map (fun c => (connKey p j r c,
      { live := true, peerMod := bits e 0 10, peerPanel := bits e 10 4, peerSlot := bits e 14 3, jtag := bits e 32 16,
        paths := peerPaths e c })))

/-- The peer table as T2 holds it. -/
def peerTable (nmod : Nat) (bs : List Byte) : List Nat := (List.range (nmod + 1)).map (fun r => ofBytes ((bs.drop (72 * r)).take 72))

/-- R406 of this module's own header and keep regions. -/
def resumeOk (hdr epoch jobId : Nat) (lost : Bool) : Bool :=
  decide (bits hdr 64 2 = 0 ∧ bits hdr 0 64 = epoch ∧ bits hdr 128 64 = jobId) && !lost

/-- The job record that a start sets (R506, Table 16.13). -/
def Job.begin (b : Job) (w : Nat) : Job :=
  { ({} : Job) with
    jstate := 1, gen := (b.gen + 1) % 256, ecause := b.ecause, jobLo := bits w 64 32, tag := bits w 32 32, jobId := bits w 64 64
    rank := bits w 6 10, nmod := bits w 16 10, fallback := bit w 3, plumb := bit w 4, hdrAddr := bits w 192 52
    outr := bits w 256 52, vtab := bits w 320 52, ptab := bits w 384 52, msia := bits w 448 64, msid := bits w 512 32
    vtms := if bits w 544 32 = 0 then 2000 else bits w 544 32, maxskip := if bits w 576 16 = 0 then 16 else bits w 576 16
    wdog := bits w 608 32 }

/-- The stops that a fault of the slot's last job left on its tiles, rings and engines end (R84). -/
def State.unstopSlot (s : State) (p j : Nat) : State :=
  let x := s.panel p
  let s := { s with
    tiles := s.tiles.update {} (fun t y =>
      if x.holdsTile t then { y with slotFault := y.slotFault &&& ~~~(BitVec.ofNat 8 (2 ^ j)) } else y)
    rings := s.rings.update {} (fun g r => if (s.ringOwner g).job = some (p, j) then { r with stopped := false } else r) }
  { s with
    hods := s.hods.update {} (fun h y => if s.spanPanel h = some p then { y with slotFault := setBits y.slotFault j 1 0 } else y)
    intakes := s.intakes.update {} (fun n y =>
      if (List.range 32).any (fun i => (s.ring (intRing n (32 * p + i))).stopped) then y
      else { y with pfault := setBits y.pfault p 1 0 }) }

/-- The start takes effect: the slot's stops end, the job's record and its connections are made. -/
def State.jobBegins (s : State) (p j w : Nat) (cs : List (Nat × Conn)) : State :=
  cs.foldl (fun s c => s.setConn c.1 c.2) ((s.unstopSlot p j).modJob p j (fun b => b.begin w))

/-- The resume exchange (R406, R536): this module's own check, and the answers of the other ranks, which no command carries:
the draws with numbers `n` and `n + 1` say whether all agree, some rank fails, or some rank is silent, and which rank. -/
inductive Resume where
  | agree | fails (rank : Nat) | silent
deriving DecidableEq, Repr

def resumeAnswer (n nmod own : Nat) (ok : Bool) : Resume :=
  let a := Config.freeWord n % 3
  let r := Config.freeWord (n + 1) % (nmod + 1)
  if nmod = 0 then (if ok then .agree else .fails own)
  else if a = 1 then .fails (if ok then r else min r own)
  else if a = 2 then .silent
  else if ok then .agree else .fails own

def specJobStart : OpSpec :=
  { fields := jobFields
    run := fun s q w =>
      let p := q.panel.val
      let j := bits w 0 3
      let nmod := bits w 16 10
      let rank := bits w 6 10
      let ptab := bits w 384 52
      let (bs, t) := s.cohRead (72 * (nmod + 1)) ptab
      let tab := peerTable nmod bs
      let own := tab.getD rank 0
      let cs := peerConns p j nmod tab
      need s.midset stModuleState 0 (s.inService p
        (need (decide (s.readResp ptab (72 * (nmod + 1)) = .ok ∧ bits own 0 10 = s.modId ∧ bits own 10 4 = p ∧ bits own 14 3 = j))
            stBadField 384
          (need (decide ((s.job p j).jstate = 0)) stConflict 0
            (need ((s.panel p).jobs.all (fun x => decide (x.2.jstate = 0 ∨ x.2.tag = bits w 32 32))) stConflict 32
              (need (cs.all (fun c => c.2.paths.all (fun x => !(s.port x.1).eth))) stConflict 384
                (need (decide (2 * s.conns.length + 2 * cs.length ≤ 8192)) stNoResource 0
                  (if !bit w 5 then .ok (t.jobBegins p j w cs)
                   else
                     let (hb, t) := t.cohRead 64 (bits w 192 52)
                     let lost := s.keeps.any (fun k => decide (k.2.panel = some p) && k.2.lost)
                     let ok := decide (s.readResp (bits w 192 52) 64 = .ok) &&
                       resumeOk (ofBytes hb) (bits w 128 64) (bits w 64 64) lost
                     match resumeAnswer s.free nmod rank ok with
                     | .agree => .ok (t.jobBegins p j w cs)
                     | .fails r => .refuse stRefusedResume r
                     | .silent => .wait s (.resume p j)))))))) }

/-- A tile of the panel still owes a pattern test (R191), which comes before the next job start. -/
def State.patternOwed (s : State) (p : Nat) : Bool := s.tiles.any (fun t => (s.panel p).holdsTile t.1 && t.2.patternDue)

/-- JOB_START; a resume consumes the two free values of its exchange. -/
def State.jobStart (s : State) (q : IcralReq) : State :=
  let here := decide (q.opcode.toNat = 0x30) && !s.patternOwed q.panel
  let t := s.performReq q here specJobStart
  if here && s.turnOf q && bit q.params 5 then { t with free := t.free + 2 } else t

def execJobStart (q : IcralReq) (s : State) : Host.Outcome State Fault Refusal := .next (s.jobStart q)

/-- RESUME_CHECK_TIMEOUT: the lowest failing or silent rank is named; it is a free value (log 2). -/
def State.resumeTimeout (s : State) (p j : Nat) : State :=
  match s.mgmt.accepted.find? (fun a => a.wait = some (.resume p j)) with
  | some a =>
    let (v, s) := s.draw
    s.refuseWait (.resume p j) stRefusedResume (v % (bits a.q.params 16 10 + 1))
  | none => s

def execResumeCheckTimeout (p : PanelId) (j : Slot) (s : State) : Host.Outcome State Fault Refusal := .next (s.resumeTimeout p j)

/-! ### The end of a job -/

def specJobEnd : OpSpec :=
  { fields := fun _ _ => [⟨0, 3, anyVal⟩, ⟨3, 61, .reserved⟩]
    run := fun s q w =>
      let p := q.panel.val
      let j := bits w 0 3
      need (decide ((s.panel p).state ≠ 0)) stPanelState 0
        (if (s.job p j).jstate = 0 then .ok s else .wait (s.endJob p j 1) (.slot p j)) }

def execJobEnd (q : IcralReq) (s : State) : Host.Outcome State Fault Refusal :=
  .next (s.performReq q (decide (q.opcode.toNat = 0x31)) specJobEnd)

/-- A tile sets the 64 counters of a slot to 0 at the end of its job (R93). -/
def TileS.idleSlot (x : TileS) (j : Nat) : TileS := { x with sync := x.sync.keep (fun k _ => decide (k / 64 ≠ j)) }

def Ring.idle (r : Ring) : Ring := { r with fetched := [], cskip := 0 }

/-- Step 4 of R508: the slot's counters, and what was fetched of its rings. -/
def State.clearSlot (s : State) (p j : Nat) : State :=
  let x := s.panel p
  { s with
    tiles := s.tiles.update {} (fun t y => if x.holdsTile t then y.idleSlot j else y)
    rings := s.rings.update {} (fun g r => if (s.ringOwner g).job = some (p, j) then r.idle else r) }
/-- JOB_SLOT_IDLE: step 4 of R508, with its event record and count. It waits while the plane is halted (R600). -/
def State.slotIdle (s : State) (p j : Nat) : State :=
  let b := s.job p j
  if b.jstate ≠ 2 || !s.slotQuiet p j || s.halted then s
  else
    let s := (s.clearSlot p j).setJob p j { b with jstate := 0, faulted := false, vote := none, voted := [], ready := [] }
    let s := s.modPanel p (fun x => { x with jend := satAdd 0xFFFF x.jend 1 })
    let s := s.emit { cls := 0x20, cause := 9, job := some (p, j), unit := .manager, detail := b.ecause + b.gen % 256 * 2 ^ 8 }
    (s.release (.slot p j) noParams).panelAdvance p

def execJobSlotIdle (p : PanelId) (j : Slot) (s : State) : Host.Outcome State Fault Refusal := .next (s.slotIdle p j)

/-- The watchdog of a running job ends it with ECAUSE 4 (R598). -/
def State.watchdogEnds (s : State) (p j : Nat) (inj : Bool) : State :=
  let b := s.job p j
  if b.jstate ≠ 1 then s
  else
    let s := if b.faulted then s else
      (s.setJob p j { b with faulted := true }).emit
        { cls := 0x12, inj := inj, jend := true, job := some (p, j), unit := .manager }
    (s.sendAbort p j b.voteStep 6 b.rank).endJob p j 4

/-- JOB_WATCHDOG_EXPIRY; the timer stands under a module hold and under the halt, and WDOG 0 turns it off. -/
def execJobWatchdogExpiry (p : PanelId) (j : Slot) (s : State) : Host.Outcome State Fault Refusal :=
  .next (if (s.job p j).wdog = 0 || s.linkHold || s.halted then s else s.watchdogEnds p j false)

/-! ### Timers of requests -/

def isPool (a : Nat) : Bool := match regionOf a with | .pool _ => true | _ => false

/-- Cause of CLASS 0x11 for a target address. -/
def timeoutCause (a : Nat) : Nat := if isPool a then 2 else 1

/-- Far address of a mover transaction. -/
def State.txnAddr (s : State) (t : Nat) (x : Txn) : Nat :=
  match ((s.engine t 2).find x.slot x.pos).bind (fun a => a.reach t x.work) with | some r => r.addr | none => 0

/-- A staged read of a tile leaves its window. -/
def State.dropStaged (s : State) (t tag : Nat) : State :=
  match s.tilePanel t with
  | some p => s.modStage p (tileSpan t) (fun w => { w with
      waits := w.waits.filter (fun x => !decide (x.tile = t ∧ x.tag = tag))
      class_ := w.class_.filter (fun x => !decide (x.tile = t ∧ x.tag = tag)) })
  | none => s

/-- A mover transaction counts as answered ERR. -/
def State.txnTimeout (s : State) (t : Nat) (x : Txn) (ev : Event) : State :=
  let s := (s.dropStaged t x.tag).modTile t (fun y => { y with txns := y.txns.filter (fun z => decide (z.tag ≠ x.tag)) })
  match (s.engine t 2).find x.slot x.pos with
  | some a => s.faultCmd t 2 a.c ev
  | none => s

/-- Lines that a tile's cache has requested and not received. -/
def TileS.misses (x : TileS) : List Nat := (x.hwc.filter (fun l => l.2.req.isSome)).map (·.1)

/-- The mover command that waits for a line of its cache. -/
def State.lineWaiter (s : State) (t l : Nat) : Option Active :=
  (s.engine t 2).active.find? (fun a => match a.plan with
    | some (w :: _) => (match a.reach t w with | some r => r.coh && decide (lineOf r.addr = l) | none => false)
    | _ => false)

/-- A cache request of a tile counts as answered ERR. -/
def State.lineTimeout (s : State) (t l : Nat) : State :=
  let a := s.lineWaiter t l
  let s := s.setCacheLine (toHolderTile t) l { s.cacheLine (toHolderTile t) l with req := none, nacked := false }
  match a with
  | some a => s.faultCmd t 2 a.c { cls := 0x11, cause := timeoutCause (64 * l), addr := 64 * l }
  | none => s

/-- The oldest remote add of a tile that no acknowledgement has answered. -/
def State.addTimeout (s : State) (t : Nat) : State :=
  match s.adds.find? (fun a => decide (a.src = tileAgent t)) with
  | some a =>
    (s.modTile t (fun x => { x with unacked := x.unacked - 1 })).faultJob a.panel a.slot
      { cls := 0x11, cause := 1, unit := tileAgent t }
  | none => s

/-- The oldest command of a hod engine with an access outstanding. -/
def State.hodTimeout (s : State) (h : Nat) : State :=
  match s.spanPanel h, (s.hod h).cmds.find? (fun c => decide (0 < c.rOut + c.wOut)) with
  | some p, some x =>
    (s.modHod h (fun y => { y with cmds := y.cmds.filter (fun c => !(c.ring = x.ring && c.pos = x.pos)) })).faultUnit
      (hodRing h x.ring) p (x.ring / 16) x.pos (hodAgent h) { cls := 0x11, cause := if x.tr.any isPool then 2 else 1 }
  | _, _ => s

def State.intTimeout (s : State) (n : Nat) : State :=
  match (s.intake n).cmds.find? (fun c => decide (0 < c.rOut + c.wOut)) with
  | some x =>
    (s.modIntake n (fun y => { y with cmds := y.cmds.filter (fun c => !(c.ring = x.ring && c.pos = x.pos)) })).faultUnit
      (intRing n x.ring) (intPanel x.ring) (intSlot x.ring) x.pos (intakeAgent n) { cls := 0x11, cause := if x.tr.any isPool then 2 else 1 }
  | none => s

/-- A port whose command still reads its source. -/
def State.portTimeout (s : State) (n : Nat) : State :=
  match (s.port n).cmds.find? (fun c => !c.sent && decide (ccOp c.w ≠ 0)) with
  | some x => s.faultUnit (crsRing n x.ring) (crsPanel x.ring) (crsSlot x.ring) x.pos (portAgent n)
      { cls := 0x11, cause := timeoutCause (ccSrc x.w) }
  | none => s

/-- A fill of a staging window, by half of the sill: the jobs whose reads wait on it end. -/
def State.fillTimeout (s : State) (q : Nat) : State :=
  match s.spanPanel q with
  | none => s
  | some p =>
    match ((s.panel p).stage.get {} q).fills.head? with
    | none => s
    | some f =>
      let w := (s.panel p).stage.get {} q
      let js := ((w.waits.filter (fun x => decide (x.addr / lineSize = f.line))).map (fun x => (p, x.slot))).eraseDups
      let s := s.modStage p q (fun w => { w with
        fills := w.fills.erase f, waits := w.waits.filter (fun x => decide (x.addr / lineSize ≠ f.line)) }.startFills 16)
      js.foldl (fun s j => s.faultJob j.1 j.2
        { cls := 0x11, cause := 1, unit := sillAgent (q / 2), addr := f.line * lineSize }) s

/-- TRANSACTION_TIMEOUT: no timer runs out under a module hold or the halt. Tags 0 to 63 of a tile are its mover's, 64 to 127
its cache's misses in line order, higher ones its remote adds'; a sill's tag selects the half. -/
def State.transactionTimeout (s : State) (a : Agent) (tag : Nat) : State :=
  if s.linkHold || s.halted then s
  else match a with
  | .tile t =>
    if tag < 64 then
      (match (s.tile t).txns.find? (fun x => decide (x.tag = tag)) with
       | some x => s.txnTimeout t x { cls := 0x11, cause := timeoutCause (s.txnAddr t x), addr := s.txnAddr t x }
       | none => s)
    else if tag < 128 then (match (s.tile t).misses[tag - 64]? with | some l => s.lineTimeout t l | none => s)
    else s.addTimeout t
  | .hod h => s.hodTimeout h
  | .intake n => s.intTimeout n
  | .port n => s.portTimeout n
  | .sill k => s.fillTimeout (2 * k.val + tag % 2)
  | _ => s

def execTransactionTimeout (a : Agent) (tag : BitVec 8) (s : State) : Host.Outcome State Fault Refusal :=
  .next (s.transactionTimeout a tag.toNat)

/-- T3_ACCESS_TIMEOUT: the host die answers an access to the pool with ERR (R509). -/
def State.t3Timeout (s : State) (a : Agent) (tag : Nat) : State :=
  if s.linkHold || s.halted then s
  else match a with
  | .tile t =>
    (match (s.tile t).txns.find? (fun x => decide (x.tag = tag)) with
     | some x => if isPool (s.txnAddr t x) then s.txnResponse t tag .errOther else s
     | none => s)
  | .hod h =>
    (match (s.hod h).cmds.find? (fun c => decide (0 < c.rOut + c.wOut)) with
     | some x => if x.tr.any isPool then s.hodResponse h (decide (x.rOut = 0)) .errOther else s
     | none => s)
  | .intake n =>
    (match (s.intake n).cmds.find? (fun c => decide (0 < c.rOut + c.wOut)) with
     | some x => if x.tr.any isPool then s.intResponse n (decide (x.rOut = 0)) .errOther else s
     | none => s)
  | _ => s

def execT3AccessTimeout (a : Agent) (tag : BitVec 8) (s : State) : Host.Outcome State Fault Refusal :=
  .next (s.t3Timeout a tag.toNat)

end Sys2Proof.Machine
end

