-- ==== Sys2Proof/Machine/Skim.lean ====
section
/-!
DEFINITION. The skim record (19 R603, Table 19.4), the dump region (R594), fatal errors (R592, R593).
-/
namespace Sys2Proof.Machine

/-! ### The skim record of a tile -/

/-- One FIFO entry as a skim shows it. -/
def skimEntry (c : Cmd) (ready started : Bool) : Nat :=
  let w := c.cmd
  c.pos.toNat + w.waitVal % 2 ^ 16 * 2 ^ 32 + w.waitCtr % 64 * 2 ^ 48 + w.slot % 8 * 2 ^ 54 + b2n w.urg * 2 ^ 57 +
    b2n w.waitEn * 2 ^ 58 + b2n ready * 2 ^ 59 + b2n started * 2 ^ 60 + 2 ^ 61

/-- The 16 entries of an engine FIFO: commands that have started, then the urgent lane, then the normal lane. -/
def State.skimFifo (s : State) (t c : Nat) : List Nat :=
  let x := s.tile t
  let e := s.engine t c
  let ready (y : Cmd) : Bool := (e.started y.cmd.slot).isNone && decide ((e.oldest y.cmd.slot).map (·.2) = some y) && x.waitMet y.cmd
  let es := (e.active.filter (fun a => !a.issued)).map (fun a => skimEntry a.c true true) ++
    (e.urgent ++ e.normal).map (fun y => skimEntry y (ready y) false)
  (es ++ List.replicate 16 0).take 16

/-- Key of the mortar link at a side of a tile (ports 1 to 4: north, east, south, west), when the side lies on a die edge. -/
def sideLink (t port : Nat) : Option Nat :=
  let d := tileDie t
  let x := tileX t % 16
  let y := tileY t % 16
  match port with
  | 1 => if y = 0 ∧ (edgeFaces d 0).isSome then some (mortarKey d 0 x) else none
  | 2 => if x = 15 ∧ (edgeFaces d 1).isSome then some (mortarKey d 1 y) else none
  | 3 => if y = 15 ∧ (edgeFaces d 2).isSome then some (mortarKey d 2 x) else none
  | 4 => if x = 0 ∧ (edgeFaces d 3).isSome then some (mortarKey d 3 y) else none
  | _ => none

/-- Flits buffered at a router input and credits held toward that neighbour; hops inside a die are not held in State and
stand empty. -/
def State.skimPort (s : State) (t port cls : Nat) : Nat :=
  match sideLink t port with
  | some k => (s.link k).buffered.getD cls 0 % 16 + (8 - (s.link k).used.getD cls 0) % 16 * 16
  | none => 0x80

/-- Table 19.4, 2 KiB. -/
def State.skimBytes (s : State) (t : Nat) : List Byte :=
  let x := s.tile t
  let p := s.tilePanel t
  let job (j : Nat) : Job := match p with | some p => s.job p j | none => {}
  toBytes 8 s.now ++ toBytes 8 (s.tileStatus t) ++ toBytes 4 x.pause.toNat ++
  toBytes 4 (s.tileFreq t + s.ceiling (tileDie t) * 2 ^ 16) ++
  (List.range 8).flatMap (fun j => toBytes 1 (job j).gen) ++
  toBytes 1 (match p with | some p => (s.panel p).susp.toNat | none => 0) ++ toBytes 31 0 ++
  (List.range 24).flatMap (fun r => toBytes 4 (s.ring (24 * t + r)).head.toNat ++ toBytes 4 (s.ring (24 * t + r)).tail.toNat) ++
  (List.range 3).flatMap (fun c => (s.skimFifo t c).flatMap (toBytes 8)) ++
  (List.range 5).flatMap (fun q => (List.range 4).flatMap (fun k => toBytes 2 (s.skimPort t q k))) ++
  toBytes 8 (x.unacked % 16 +
    b2n ((List.range 3).any (fun c => decide (((s.engine t c).xlat.map (·.2)) = some true))) * 16 +
    b2n ((List.range 3).any (fun c => decide (((s.engine t c).xlat.map (·.2)) = some false))) * 32) ++
  toBytes 16 0 ++
  (List.range 512).flatMap (fun k => toBytes 2 (x.sync.get {} k).val.toNat) ++ toBytes 320 0

/-- Writes the records of the tiles of the selected bands. -/
def State.skimTo (s : State) (base bands : Nat) : State :=
  (List.range 10240).foldl (fun s t =>
    if bit bands (tileX t / 8) then s.cohWrite (base + 2048 * t) (s.skimBytes t) else s) s

/-- The buffer of the selected tiles lies in T2 and is aligned. -/
def skimFits (base bands : Nat) : Bool :=
  decide (base % 2048 = 0) && (List.range 10240).all (fun t => !bit bands (tileX t / 8) || t2Range (base + 2048 * t) 2048)

/-! ### The dump region (R594) -/

def dumpSize : Nat := 64 * 2 ^ 20

/-- Lies wholly within a keep region. -/
def State.dumpOk (s : State) : Bool :=
  let a := s.dbg.dumpAddr
  decide (a ≠ 0 ∧ a % 65536 = 0) && s.keepRanges.any (fun k => within a dumpSize k.1 k.2)

/-- ASCII "GLXDUMP1". -/
def dumpMagic : List Byte := [0x47, 0x4C, 0x58, 0x44, 0x55, 0x4D, 0x50, 0x31]

/-- Length of the section of the die at chain position `i`: the draw with number `n + i` (log 2). -/
def scanLen (n i : Nat) : Nat := Config.freeWord (n + i) % 2 ^ 19

/-- Scan images of all dies in chain order, from offset 32 MiB, each a number, a length and bytes of the stepping's own
layout: free values. -/
def State.scanOut (s : State) (a : Nat) : State × Nat :=
  let n := s.free
  let (t, off) := (List.range 58).foldl (fun (r : State × Nat) i =>
    let l := scanLen n i
    let bs := (List.range l).map (fun b => BitVec.ofNat 8 (Config.freeWord (n + 58 + i * 2 ^ 19 + b)))
    (r.1.cohWrite (a + r.2) (toBytes 4 i ++ toBytes 4 l ++ bs), r.2 + 8 + l)) (s, 32 * 2 ^ 20)
  ({ t with free := n + 58 + 58 * 2 ^ 19 }, off)

/-- A halted skim, the scan images and the header, or DUMPOK 0. -/
def State.dump (s : State) (cause ts : Nat) : State :=
  if s.dumpOk then
    let a := s.dbg.dumpAddr
    let (t, used) := (s.skimTo (a + 65536) 0xFFFF).scanOut a
    let t := t.cohWrite a (dumpMagic ++ toBytes 4 s.boot.mepoch ++ toBytes 4 (cause % 256) ++ toBytes 8 used ++
      toBytes 8 ts ++ toBytes 32 0)
    { t with dbg := { t.dbg with dumpok := true } }
  else { s with dbg := { s.dbg with dumpok := false } }

/-! ### Fatal errors -/

/-- Jobs of the module that run. -/
def State.runningJobs (s : State) : List (Nat × Nat) := (List.range 16).flatMap (fun p => s.liveJobs p)

/-- Jobs end; their other modules get ABORT with reason local fault (R38). -/
def State.endJobs (s : State) (js : List (Nat × Nat)) (ecause : Nat) : State :=
  js.foldl (fun s j =>
    let b := s.job j.1 j.2
    (((s.setJob j.1 j.2 { b with faulted := true }).sendAbort j.1 j.2 b.voteStep 6 b.rank).endJob j.1 j.2 ecause)) s

def State.endAllJobs (s : State) (ecause : Nat) : State := s.endJobs s.runningJobs ecause

/-- The fatal record and its copy in both flashes, which hold the four latest (R593). -/
def State.recordFatal (s : State) (e : Event) : State :=
  let s := s.emit e
  { s with
    boot := { s.boot with
      fatalRecs := (s.boot.fatalRecs ++ [e.code 0 s.now s.time.lock]).drop (s.boot.fatalRecs.length - 3)
      fault := true }
    dbg := { s.dbg with fatals := satAdd 0xFF s.dbg.fatals 1 } }

def State.fatalEvent (s : State) (cause : Nat) (unit : Agent) : Event :=
  { cls := 0x19, cause := cause, fatal := true, jend := !s.runningJobs.isEmpty, unit := unit }

/-- A fatal error of CAUSE 1 to 4 (R593): jobs end, halt, dump, record, and a module reset with RCAUSE 5 due. -/
def State.fatalError (s : State) (cause : Nat) (unit : Agent) : State :=
  let s := (s.recordFatal (s.fatalEvent cause unit)).endAllJobs 2
  let s := s.assertHalt.dump cause s.now
  { s with boot := { s.boot with rst := some 5 } }

end Sys2Proof.Machine
end

