-- ==== Sys2Proof/Machine/Reset.lean ====
section
/-!
DEFINITION. Secure boot (18 R565 to R567), the module reset (R559, R560, R577, R584; 09 R319, R320, R322), the loss of the main
rails (18 R561; 20 R619, R620) and the thermal trip (20 R624).
-/
namespace Sys2Proof.Machine

def State.modBoot (s : State) (f : Boot → Boot) : State := { s with boot := f s.boot }

/-! ### Images (R565 to R567) -/

/-- The bytes of image slot `slot` of flash `f`; what a flash held when it was delivered is free (log 43). -/
def Boot.image (b : Boot) (f slot : Nat) : List Byte :=
  match b.flash.get none (2 * f + slot) with | some bs => bs | none => Config.flashImage (2 * f + slot)

def Boot.preferred (b : Boot) (f : Nat) : Nat :=
  (match b.pref.get none f with | some v => v | none => Config.flashPref f) % 2

/-- Field of an image header, `n` bytes at an offset. -/
def imgField (bs : List Byte) (off n : Nat) : Nat := ofBytes ((bs.drop off).take n)

/-- ASCII "GLXMASON". -/
def imgMagic : Nat := ofBytes [0x47, 0x4C, 0x58, 0x4D, 0x41, 0x53, 0x4F, 0x4E]

def imgLen (bs : List Byte) : Nat := imgField bs 16 4
def imgSvn (bs : List Byte) : Nat := imgField bs 12 2
def imgFw (bs : List Byte) : Nat := imgField bs 8 3
def imgBody (bs : List Byte) : List Byte := (bs.drop 288).take (imgLen bs)

/-- MAGIC, the zero fields, LEN (Table 18.4), and the body whole. -/
def imgShape (bs : List Byte) : Bool :=
  decide (imgField bs 0 8 = imgMagic ∧ imgField bs 11 1 = 0 ∧ imgField bs 14 2 = 0 ∧ imgField bs 20 12 = 0 ∧
    imgField bs 177 15 = 0 ∧ imgLen bs ≤ 64 * 2 ^ 20 ∧ 288 + imgLen bs ≤ bs.length)

/-- The SHA-384 of PUBKEY equals a fused hash that is not revoked. -/
def Boot.keyOk (b : Boot) (bs : List Byte) : Bool :=
  let h := ofBytes (sha384 ((bs.drop 80).take 97))
  (List.range 4).any (fun k => decide (Config.keyHash k = h) && !bit b.krev k)

/-- SIG_R and SIG_S over header bytes 0 to 191 with the uncompressed point PUBKEY. -/
def imgSigned (bs : List Byte) : Bool :=
  decide (imgField bs 80 1 = 4) &&
  ecdsaVerify (ofBytesBE ((bs.drop 81).take 48)) (ofBytesBE ((bs.drop 129).take 48))
    (ofBytesBE ((bs.drop 192).take 48)) (ofBytesBE ((bs.drop 240).take 48)) (bs.take 192)

/-- R566. -/
def Boot.accepts (b : Boot) (bs : List Byte) : Bool :=
  imgShape bs && b.keyOk bs && imgSigned bs && decide ((bs.drop 32).take 48 = sha384 (imgBody bs)) &&
  decide (b.minsvn ≤ imgSvn bs)

/-- Flash and slot of the image a manager's ROM runs (R567). -/
def Boot.choose (b : Boot) (m : Nat) : Option (Nat × Nat) :=
  [(m, b.preferred m), (m, 1 - b.preferred m), (1 - m, b.preferred (1 - m)), (1 - m, 1 - b.preferred (1 - m))].find?
    (fun k => b.accepts (b.image k.1 k.2))

/-- Image selection by both managers: the active one, the standby when it runs the same FW, or recovery. -/
def State.selectImage (s : State) (sill0Ok : Bool) : State :=
  let b := s.boot
  let run (m : Nat) (k : Nat × Nat) (other : Option (Nat × Nat)) : State :=
    let bs := b.image k.1 k.2
    let stby := match other with | some o => decide (imgFw (b.image o.1 o.2) = imgFw bs) | none => false
    { s with fw := imgFw bs }.modBoot (fun x => { x with active := m, stby := stby, slot := k.2, svn := imgSvn bs, recovery := false })
  match (if sill0Ok then b.choose 0 else none), b.choose 1 with
  | some k, o => run 0 k o
  | none, some k => run 1 k none
  | none, none => { s with fw := 0 }.modBoot (fun x => { x with
      active := 0, stby := false, recovery := true, mstate := 2, holdc := if x.lcs = 4 then 8 else 10 })

/-! ### The module domain -/

/-- Keep regions after a module reset: unassigned; one whose release had begun is gone. -/
def State.keepsAfter (s : State) : Table Keep :=
  s.keeps.filterMap (fun k => if k.2.defined && !k.2.wiping then some (k.1, { k.2 with panel := none }) else none)

/-- Host dies after a module reset: held in reset; failed packages recorded, and their dies' T2 unmapped (R577). -/
def State.hostsAfter (s : State) : Table HostS :=
  s.hosts.update {} (fun _ x =>
    let ps := x.pkgs.update {} (fun _ k => { ({} : Pkg) with failed := k.failed, sref := k.sref })
    { ({} : HostS) with pkgs := ps, t2Off := ps.any (fun k => k.2.failed) })

/-- Everything the module domain holds takes its reset value. What stays: memory, the standby domain, the flashes and
fuses, the keep regions, the timescale, the levels of inputs, and what the module has sent (Table 18.1, R12). -/
def State.domainReset (s : State) : State :=
  { ({} : State) with
    pending := s.pending
    free := s.free
    now := s.now
    mem := s.mem
    poison := s.poison
    linePoison := s.linePoison
    injPoison := s.injPoison
    tiles := s.tiles.update {} (fun _ x => { ({} : TileS) with retire := x.retire })
    hbmStks := s.hbmStks.update {} (fun _ k => { ({} : Stack) with outmap := k.outmap })
    keeps := s.keepsAfter
    hosts := s.hostsAfter
    rsps := s.rsps
    dbg := { ({} : Dbg) with fatals := s.dbg.fatals, dumpok := s.dbg.dumpok }
    msis := s.msis
    present := s.present
    courseTx := s.courseTx
    ethTx := s.ethTx
    modId := s.modId
    midset := s.midset
    fw := s.fw
    mgmt := { s.mgmt with sessions := [], accepted := [], frags := [], want := false, i3cReply := none }
    boot := { s.boot with
      mstate := if s.boot.recovery then s.boot.mstate else 0
      phase := min s.boot.phase 2
      holdc := if s.boot.recovery then s.boot.holdc else 0
      fwst := 0, staged := [], started := false, causes := 0, trained := false, rails := false, dfail := 0 }
    regRsp := s.regRsp
    wipeNext := s.wipeNext }

/-! ### The module reset -/

/-- The supplies, the reference and RST_N allow main start (R563, R622, R624). -/
def Boot.mayStart (b : Boot) : Bool :=
  b.p12 && b.p54 && b.charged && b.rstN && !b.tripped && decide (b.ref = 1) && !b.recovery && !b.dead

/-- Event records of the jobs that a reset ends (R590). -/
def State.jobEnds (s : State) : State :=
  s.panels.foldl (fun s p => p.2.jobs.foldl (fun s j =>
    if j.2.jstate = 0 then s
    else s.emit { cls := 0x20, cause := 9, job := some (p.1, j.1), detail := 5 + j.2.gen % 256 * 2 ^ 8 }) s) s

/-- Ranges that the wipes of M6 cover beside T0 and T1: T2 less the keep regions, and every T3 range being wiped or, at a
life-cycle change, granted (Table 9.12, R584). -/
def State.dueRanges (s : State) (life : Bool) : List (Nat × Nat) :=
  let pools := s.wipes.flatMap (fun w => w.ranges.filter (fun r => decide (poolBase ≤ r.1)))
  let grants := s.panels.flatMap (fun p => p.2.grants.filter (fun r => decide (poolBase ≤ r.1)))
  let kept := s.keepsAfter.map (fun k => (k.2.base, k.2.len))
  (if life then [(0, tib2)] else kept.foldl (fun rs k => cutRange k rs) [(0, tib2)]) ++ pools ++ (if life then grants else [])

/-- R584, in addition to R560. -/
def State.lifeChange (s : State) (lcs : Nat) : State :=
  { s with
    keeps := []
    modId := 0
    midset := false
    mgmt := { s.mgmt with allow := [], static := false, addr := 0, masklen := 0, gw := 0 }
    boot := { s.boot with lcs := lcs, target := none } }

/-- R568: a start-up of an activated image begins; after three that did not reach Ready the previous preferences return. -/
def State.countAttempt (s : State) (cause : Nat) : State :=
  match s.boot.attempts with
  | some n =>
    if cause = 7 then s
    else if n < 3 then s.modBoot (fun b => { b with attempts := some (n + 1) })
    else
      let s := s.modBoot (fun b => { b with
        attempts := none
        pref := match b.prevPref with | some v => (b.pref.set none 0 (some v.1)).set none 1 (some v.2) | none => b.pref
        prevPref := none })
      (s.emit { cls := 0x20, cause := 16 }).selectImage true
  | none => s

/-- R560: the module reset with its RCAUSE. The firmware is verified again after cause 7. -/
def State.moduleReset (s : State) (cause : Nat) : State :=
  let life := decide (cause = 6)
  let s := (s.endAllJobs 5).jobEnds
  let s := (List.range 32).foldl (fun s q => s.mapOut q) s
  let due := s.dueRanges life
  let s := s.domainReset
  let s := s.modBoot (fun b => { b with mepoch := b.mepoch + 1, rcause := cause, wipeDue := due, rst := none })
  let s := if life then s.lifeChange (s.boot.target.getD s.boot.lcs) else s
  let s := if cause = 7 then s.selectImage true else s
  let s := s.countAttempt cause
  s.modBoot (fun b => { b with started := b.mayStart })

/-- A cold start (RCAUSE 0): the ROMs select images again. -/
def State.coldStart (s : State) (sill0Ok : Bool) : State :=
  let s := s.modBoot (fun b => { b with recovery := false, dead := false, mstate := 0, holdc := 0, phase := 0, lost54 := false })
  (s.moduleReset 0).selectImage sill0Ok

/-- MODULE_RESET_BEGIN: a reset that is due begins. -/
def execModuleResetBegin (s : State) : Host.Outcome State Fault Refusal :=
  .next (match s.boot.rst with
    | some c => if !s.boot.p12 then s else if c = 0 then s.coldStart true else s.moduleReset c
    | none => s)

/-! ### Loss of the main rails -/

/-- Every LPDDR5X package in self-refresh, or out of it. -/
def State.selfRefresh (s : State) (on : Bool) : State :=
  (List.range 2).foldl (fun s h => (List.range 16).foldl (fun s k =>
    s.modHost h (fun x => { x with pkgs := x.pkgs.modify {} k (fun y => { y with sref := on }) })) s) s

/-- R561, R620: self-refresh, then every die outside the standby domain stops and its rails fall. -/
def State.railsDown (s : State) : State := if s.boot.rails then (s.selfRefresh true).domainReset else s.domainReset

/-- THERMAL_TRIP: the fatal record, the end of every job, FAULT, and the main rails off until RST_N or 12 V brings them
back. -/
def State.thermalTrip (s : State) (unit : Agent) : State :=
  if s.boot.tripped then s
  else
    let s := (s.recordFatal (s.fatalEvent 5 unit)).endAllJobs 2
    s.railsDown.modBoot (fun b => { b with tripped := true })

end Sys2Proof.Machine
end

