-- ==== Sys2Proof/Machine/Links.lean ====
section
/-!
DEFINITION. Links of the grout network (08 R245 to R258, R263 to R268; 10 R366 to R368; 18 R572): LINK_FLIT_RECEIVE,
LINK_REPLAY_TIMEOUT, LINK_RETRAIN_REQUEST, LINK_RETRAIN, LINK_RETRAIN_COMPLETE, SPARE_LANE_TEST, FAILED_LINK_LANE_TEST.
-/
namespace Sys2Proof.Machine

/-! ### Links by key -/

/-- The link exists: mortar edges that face a die; host dies have no edge attachment. -/
def linkExists (k : Nat) : Bool :=
  if k < 2560 then (edgeFaces (k / 64) (k / 16 % 4)).isSome
  else decide ((k - 2560) / 3 < 16 ∨ ((k - 2560) / 3 < 18 ∧ (k - 2560) % 3 ≠ 0))

def linkKey : LinkId → Nat
  | .mortar d e i => mortarKey d e i
  | .ucie pos k => ucieKey pos k

/-- Ring position of a unit. -/
def unitPos (u : Nat) : Nat := if u < 16 then sillPos u else hostPos (u - 16)

/-- The other end's record of the same link; an edge attachment has one record, at the sill. -/
def linkPeer (k : Nat) : Nat :=
  if k < 2560 then
    match edgeFaces (k / 64) (k / 16 % 4) with
    | some d => mortarKey d ((k / 16 % 4 + 2) % 4) (k % 16)
    | none => k
  else
    let u := (k - 2560) / 3
    match (k - 2560) % 3 with
    | 1 => ucieKey (ringUnit ((unitPos u + 17) % 18)) 2
    | 2 => ucieKey (ringUnit ((unitPos u + 1) % 18)) 1
    | _ => k

/-- The die that holds a link's record. -/
def linkAgent (k : Nat) : Agent :=
  if k < 2560 then dieAgent (k / 64)
  else if (k - 2560) / 3 < 16 then sillAgent ((k - 2560) / 3) else hostAgent ((k - 2560) / 3 - 16)

/-- Coordinates as INJECT names them (DET 0x05 and 0x06). -/
def linkCoord (k : Nat) : Nat := if k < 2560 then k else k - 2560
def linkDet (k : Nat) : Nat := if k < 2560 then 5 else 6

def State.linkEvent (s : State) (k cause : Nat) : State :=
  s.emit { cls := 0x17, cause := cause, unit := linkAgent k, detail := linkCoord k }

def State.modBoth (s : State) (k : Nat) (f : Link → Link) : State :=
  if linkPeer k = k then s.modLink k f else (s.modLink k f).modLink (linkPeer k) f

def modAt (l : List Nat) (i : Nat) (f : Nat → Nat) : List Nat := l.set i (f (l.getD i 0))

/-! ### Flits (Table 8.1): link field in bits [63:0], content above -/

def flitCrc (w : Nat) : Nat := crc32c (toBytes 120 (w / 2 ^ 64) ++ toBytes 4 w)
def flitClass (w : Nat) : Nat := bits w 0 2
def flitHead (w : Nat) : Bool := bit w 2
def flitTail (w : Nat) : Bool := bit w 3
def flitSeq (w : Nat) : Nat := bits w 4 8

/-- A flit as the link sends it: its own SEQ, and ACKSEQ, NAK and the credits due of the other direction. -/
def Link.frame (l : Link) (w : Nat) (valid : Bool) : Nat :=
  let cred := (List.range 4).foldl (fun a c => a + min 3 (l.credDue.getD c 0) * 2 ^ (22 + 2 * c)) 0
  let low := bits w 0 4 + (if valid then l.txSeq * 2 ^ 4 else 0) + l.rxSeq * 2 ^ 12 + b2n l.waitReplay * 2 ^ 20 +
    b2n valid * 2 ^ 21 + cred
  let v := low + w / 2 ^ 64 * 2 ^ 64
  v + flitCrc v * 2 ^ 32

def Link.creditsSent (l : Link) : Link := { l with credDue := l.credDue.map (fun n => n - min 3 n) }

/-- Sends a content flit, held for replay until ACKSEQ covers it (R263). -/
def Link.transmit (l : Link) (w : Nat) : Link :=
  let f := l.frame w true
  { l with
    txSeq := (l.txSeq + 1) % 256
    held := l.held ++ [f]
    sent := l.sent ++ [f]
    used := modAt l.used (flitClass w) (· + 1) }.creditsSent

/-- Sends an idle flit. -/
def Link.idle (l : Link) : Link := { l with sent := l.sent ++ [l.frame 0 false] }.creditsSent

/-! ### Arbitration (R253, R254, R258) -/

/-- Router port of an input: 0 local, 1 to 4 the sides of a die; at a sill or host die the link's number. -/
def inputPort (k : Nat) : Nat := if k < 2560 then k / 16 % 4 + 1 else (k - 2560) % 3

/-- The flit that goes next in a class: of the packet that holds the output, else a head by the rotating pointer. -/
def Link.candidate (l : Link) (c : Nat) : Option (Nat × Nat) :=
  if 8 ≤ l.used.getD c 0 then none
  else match l.owner.getD c none with
    | some i => l.waitq.find? (fun x => decide (x.1 = i ∧ flitClass x.2 = c))
    | none =>
      ((rotate 5 (l.inPtr.getD c 0)).filterMap (fun p =>
        l.waitq.find? (fun x => decide (inputPort x.1 = p ∧ flitClass x.2 = c) && flitHead x.2))).head?

/-- Management first, else the rotating pointer over the other classes. -/
def Link.nextFlit (l : Link) : Option (Nat × Nat) :=
  (l.candidate 3).or (((rotate 3 l.classPtr).filterMap l.candidate).head?)

def Link.took (l : Link) (x : Nat × Nat) : Link :=
  let c := flitClass x.2
  let l := { l with waitq := l.waitq.erase x }
  let l := if flitHead x.2 then { l with inPtr := l.inPtr.set c ((inputPort x.1 + 1) % 5) } else l
  { l with
    owner := l.owner.set c (if flitTail x.2 then none else some x.1)
    classPtr := if c < 3 then (c + 1) % 3 else l.classPtr }

/-- A flit leaves an input buffer: its credit is due. -/
def State.freeInput (s : State) (k c : Nat) : State :=
  s.modLink k (fun l => { l with buffered := modAt l.buffered c (· - 1), credDue := modAt l.credDue c (· + 1) })

/-- Sends what waits for a link while it is up, its replay buffer has room, and the class has credits. -/
def State.pump (s : State) (k : Nat) : Nat → State
  | 0 => s
  | n + 1 =>
    let l := s.link k
    if s.linkState k ≠ 3 ∨ 64 ≤ l.held.length then s
    else match l.nextFlit with
      | some x => ((s.modLink k (fun l => (l.took x).transmit x.2)).freeInput x.1 (flitClass x.2)).pump k n
      | none => s

/-! ### Routes (R248 to R250, R267) -/

def hdrDst (w : Nat) : Nat := bits w 64 14
def hdrDkind (w : Nat) : Nat := bits w 78 2
def hdrSrc (w : Nat) : Nat := bits w 80 14
def hdrSkind (w : Nat) : Nat := bits w 94 2
def hdrPanel (w : Nat) : Nat := bits w 96 4
def hdrModt (w : Nat) : Bool := bit w 100
def hdrOp (w : Nat) : Nat := bits w 104 6
def hdrTag (w : Nat) : Nat := bits w 116 8
def hdrAddr (w : Nat) : Nat := bits w 128 52

/-- Class of an OP (Table 8.3). -/
def opClass (op : Nat) : Option Nat :=
  if 1 ≤ op ∧ op ≤ 6 then some 0
  else if 0x10 ≤ op ∧ op ≤ 0x16 then some 1
  else if 0x20 ≤ op ∧ op ≤ 0x22 then some 2
  else if 0x30 ≤ op ∧ op ≤ 0x32 then some 3
  else none

/-- The link by which a packet leaves a compute die along column `x` toward die row `row` (−1 and 5 lie outside). -/
def columnExit (d x : Nat) (row : Int) : Option Nat :=
  if row < (d / 8 : Nat) then (if 8 ≤ d then some (mortarKey d 0 x) else none)
  else if row > (d / 8 : Nat) then (if d < 32 then some (mortarKey d 2 x) else none)
  else none

/-- Row first, then column, between tiles; the column alone for edge traffic. -/
def dieExit (k w : Nat) : Option Nat :=
  let d := k / 64
  let e := k / 16 % 4
  let dst := hdrDst w
  if hdrDkind w = 0 ∧ hdrSkind w = 0 then
    let col := tileX dst / 16
    if e % 2 = 1 ∧ col ≠ d % 8 then some (mortarKey d (if d % 8 < col then 1 else 3) (k % 16))
    else columnExit d (tileX dst % 16) (tileY dst / 16 : Nat)
  else columnExit d (k % 16) (if hdrDkind w = 0 then (tileY dst / 16 : Nat) else if hdrDkind w = 1 then -1 else 5)

/-- Ring position of the unit an address belongs to. -/
def State.addrPos (s : State) (a : Nat) : Option Nat :=
  match regionOf a with
  | .hbm q _ => some (sillPos (q / 2))
  | .lpddr x => some (hostPos (x / 2 ^ 40))
  | .pool _ => some (hostPos (s.homeOf a / 8))
  | .window t _ => some (tilePos t)
  | .mmio _ =>
    (match blockOf a with
     | some (.tile t, _) => some (tilePos t)
     | some (.grtSill k, _) => some (sillPos k)
     | some (.hod h, _) => some (sillPos (h / 2))
     | some (.crs n, _) => some (sillPos (n / 2))
     | some (.grtHost h, _) | some (.hst h, _) => some (hostPos h)
     | some (.int n, _) => some (hostPos (n / 2))
     | some (.grtDie d, _) => some (tilePos (d / 8 * 2048 + d % 8 * 16))
     | some _ => some (sillPos (8 * s.boot.active))
     | none => none)
  | _ => none

/-- Ring position a packet at a sill or host die goes to: the column of a tile, the column of an edge endpoint for a
response, else the unit of its address. -/
def State.targetPos (s : State) (w : Nat) : Option Nat :=
  if hdrDkind w = 0 then some (tilePos (hdrDst w))
  else if flitClass w = 1 then some (sillPos (sillOf (tileX (hdrDst w)) (decide (hdrDkind w = 1))))
  else s.addrPos (hdrAddr w)

/-- The link by which a packet leaves a ring stop: onward in its direction, down to its column, or none where it ends. -/
def State.ringExit (s : State) (k w : Nat) : Option Nat :=
  let u := (k - 2560) / 3
  let r := unitPos u
  match s.targetPos w with
  | none => none
  | some g =>
    if g = r then (if hdrDkind w = 0 ∧ u < 16 then some (ucieKey u 0) else none)
    else match (k - 2560) % 3 with
      | 1 => some (ucieKey u 2)
      | 2 => some (ucieKey u 1)
      | _ => some (ucieKey u (if (g + 18 - r) % 18 ≤ 9 then 2 else 1))

def State.exitOf (s : State) (k w : Nat) : Option Nat := if k < 2560 then dieExit k w else s.ringExit k w

/-! ### Packets (R247, R252, R367) -/

/-- An ERR response to the source of a request. -/
def State.errTo (s : State) (w : Nat) (r : Resp) : State :=
  let src := if hdrSkind w = 0 then tileAgent (hdrSrc w) else sillAgent (sillOf (tileX (hdrSrc w)) (decide (hdrSkind w = 1)))
  { s with rsps := s.rsps ++ [⟨src, hdrTag w, r, []⟩] }

/-- R252 for a packet from a column link. -/
def State.sillPasses (s : State) (w : Nat) : Bool :=
  let x := tileX (hdrSrc w)
  if hdrModt w then
    let op := hdrOp w
    (decide (op = 0x14 ∨ op = 0x32) ||
      (decide (op = 5 ∨ op = 6) && (match regionOf (hdrAddr w) with | .lpddr _ => true | .pool o => s.poolBacked o | _ => false)))
  else (s.panel (hdrPanel w)).holdsCol x

/-- R252, R504: a packet that fails the sill's check: counted, recorded, answered when it is a request. -/
def State.isolate (s : State) (k w : Nat) (inj : Bool) : State :=
  let x := tileX (hdrSrc w)
  let s := match s.colPanel x with
    | some p => s.modPanel p (fun q => { q with iso := satAdd 0xFFFF q.iso 1 })
    | none => s
  let s := s.emit { cls := 0x13, cause := 1, inj := inj, unit := linkAgent k, detail := x }
  if flitClass w = 0 then s.errTo w .errOther else s

/-- An armed isolation injection (DET 0x11) is spent; in LOG mode it is recorded. -/
def State.firedIsolation (s : State) (k x : Nat) (hit : Option (Nat × Bool)) : State :=
  match hit with
  | none => s
  | some (_, false) => s.disarm 0x11 x
  | some (_, true) => (s.disarm 0x11 x).emit { cls := 0x13, cause := 1, inj := true, unit := linkAgent k, detail := x }

/-- A head flit: the state after its checks, and whether the packet goes on, with its exit. -/
def State.judgeHead (s : State) (k w : Nat) : State × Option (Option Nat) :=
  if opClass (hdrOp w) ≠ some (flitClass w) then
    let s := s.emit { cls := 0x15, cause := 1, unit := linkAgent k, detail := hdrOp w + flitClass w * 2 ^ 6 }
    (if hdrModt w then s.fatalError 4 (linkAgent k) else s, none)
  else
    let x := tileX (hdrSrc w)
    let edge := decide (2560 ≤ k ∧ (k - 2560) % 3 = 0)
    let hit := if edge then s.armed 0x11 x else none
    let s := s.firedIsolation k x hit
    let made := match hit with | some (_, log) => !log | none => false
    if edge && (made || !s.sillPasses w) then (s.isolate k w made, none)
    else
      let ex := s.exitOf k w
      match ex with
      | some o =>
        if 2560 ≤ o ∧ (o - 2560) % 3 ≠ 0 ∧ (s.linkFailed o || s.linkFailed (linkPeer o)) then
          (if flitClass w = 0 then s.errTo w .hostPathDown else s, none)
        else (s, some ex)
      | none => (s, some none)

/-- A content flit enters its input buffer and is discarded, sunk here, or queued for its exit. -/
def State.flitEnter (s : State) (k w : Nat) : State :=
  let c := flitClass w
  let s := s.modLink k (fun l => { l with buffered := modAt l.buffered c (· + 1) })
  let (s, go) := if flitHead w then s.judgeHead k w
    else (s, if (s.link k).dropping.getD c false then none else some ((s.link k).exit.getD c none))
  let s := s.modLink k (fun l => { l with
    dropping := l.dropping.set c (!flitTail w && go.isNone)
    exit := l.exit.set c (if flitTail w then none else go.getD none) })
  match go with
  | some (some o) => (s.modLink o (fun l => { l with waitq := l.waitq ++ [(k, w)] })).pump o 64
  | _ => s.freeInput k c

/-! ### Retraining (R264, R265) -/

/-- A retrain begins: both ends assert the hold; replay buffer and sequence state stay. -/
def State.retrain (s : State) (k : Nat) : State :=
  (s.modBoth k (fun l => { l with
    st := some 4, hold := true, trial := 0, retrains := satAdd 0xFF l.retrains 1, failedReplays := 0, replayTimes := [] })).linkEvent k 1

/-- R264: eight replays failed in a row, or more than 16 within 1 s. -/
def State.checkReplays (s : State) (k : Nat) : State :=
  let l := s.link k
  if 8 ≤ l.failedReplays ∨ 16 < l.replayTimes.length then s.retrain k else s

/-- A replay begins. An injected one counts toward no threshold (R538). -/
def State.replay (s : State) (k : Nat) (count : Bool) : State :=
  s.modLink k (fun l => { l with
    hold := true
    replays := satAdd 0xFFFF l.replays 1
    replayTimes := if count then l.replayTimes.filter (fun t => decide (s.now < t + 1000000000)) ++ [s.now] else l.replayTimes })

/-! ### LINK_FLIT_RECEIVE (R263) -/

/-- An armed DET 0x05 or 0x06 corrupts the flit (END), or records it only (LOG). -/
def State.linkInj (s : State) (k : Nat) : State × Bool :=
  let d := linkDet k
  let t := linkCoord k
  match s.armed d t with
  | none => (s, false)
  | some (n, log) =>
    let s := { s with inj := s.inj.set none (injKey d t) (if n ≤ 1 then none else some (n - 1, log)) }
    (s.emit { cls := 0x20, cause := 18, inj := true, unit := linkAgent k, detail := d + t * 2 ^ 32 }, !log)

/-- A flit with a CRC error, or out of sequence: it and every later one is discarded until the replay reaches it. -/
def State.flitBad (s : State) (k w : Nat) (crc hit : Bool) : State :=
  let l := s.link k
  let s := if crc then s.modLink k (fun l => { l with crcerr := satAdd 0xFFFF l.crcerr 1 }) else s
  let s :=
    if !l.waitReplay then (s.replay k !hit).modLink k (fun l => { l with waitReplay := true })
    else if crc && !hit && decide (flitSeq w = (l.rxSeq + 1) % 256) then
      s.modLink k (fun l => { l with failedReplays := l.failedReplays + 1 })
    else s
  (s.checkReplays k).modLink k Link.idle

/-- ACKSEQ, NAK and CRED of an intact flit. -/
def Link.acks (l : Link) (w : Nat) : Link :=
  let a := bits w 12 8
  let held := match l.held.findIdx? (fun f => decide (flitSeq f = a)) with | some i => l.held.drop (i + 1) | none => l.held
  let moved := decide (held.length < l.held.length)
  let nak := bit w 20
  { l with
    held := held
    used := (List.range 4).map (fun c => l.used.getD c 0 - bits w (22 + 2 * c) 2)
    failedReplays := if moved then 0 else l.failedReplays
    hold := l.waitReplay || (nak && !held.isEmpty) || (l.hold && !moved)
    sent := if nak then l.sent ++ held else l.sent }

def State.flitReceive (s : State) (k w : Nat) : State :=
  if !linkExists k || decide (s.linkState k ≠ 3) then s
  else
    let (s, hit) := s.linkInj k
    let l := s.link k
    let bad := hit || decide (flitCrc w ≠ bits w 32 32)
    let valid := bit w 21
    if bad then s.flitBad k w true hit
    else if valid ∧ flitSeq w ≠ (l.rxSeq + 1) % 256 then s.flitBad k w false false
    else
      let s := s.modLink k (fun l => l.acks w)
      let s := if valid then
          (s.modLink k (fun l => { l with
            rxSeq := flitSeq w, waitReplay := false, failedReplays := 0, hold := l.hold && !l.waitReplay })).flitEnter k w
        else s
      (s.pump k 64).modLink k Link.idle

def execLinkFlitReceive (l : LinkId) (field : BitVec 64) (content : Nat) (s : State) : Host.Outcome State Fault Refusal :=
  .next (s.flitReceive (linkKey l) (field.toNat + content * 2 ^ 64))

/-- LINK_REPLAY_TIMEOUT: the held flits are sent again. -/
def State.replayTimeout (s : State) (k : Nat) : State :=
  let l := s.link k
  if !linkExists k || decide (s.linkState k ≠ 3) || l.held.isEmpty then s
  else ((s.replay k true).modLink k (fun l => { l with
      failedReplays := l.failedReplays + 1, sent := l.sent ++ l.held })).checkReplays k

def execLinkReplayTimeout (l : LinkId) (s : State) : Host.Outcome State Fault Refusal := .next (s.replayTimeout (linkKey l))

/-! ### LINK_RETRAIN_REQUEST, LINK_RETRAIN -/

/-- A write of GRT_MLINK_CTL (R278: module authority only). A link that retrains already retrains once. -/
def State.retrainRequest (s : State) (k v : Nat) (auth : Auth) : State :=
  if !reaches auth none then s.outOfReach auth (mmioBase + 0x40000000 + k / 64 * 0x10000 + 0x40 * (k % 64) + 8)
  else if bit v 0 ∧ linkExists k ∧ s.linkState k = 3 then s.retrain k else s

def execLinkRetrainRequest (d : Die) (e : Fin 4) (i : Fin 16) (v : BitVec 32) (auth : Auth) (s : State) :
    Host.Outcome State Fault Refusal := .next (s.retrainRequest (mortarKey d e i) v.toNat auth)

/-- Lanes left bad once spares stand for as many as they can. -/
def Link.repair (l : Link) (badLanes : Nat) : Link × Nat × Nat :=
  let n := min badLanes (2 - (l.spares + l.withdrawn))
  ({ l with spares := l.spares + n }, n, badLanes - n)

/-- A mortar link's PRBS test: spares, then 48 Gb/s, 32 Gb/s, half width, and failure (R265). -/
def State.trainMortar (s : State) (k badLanes : Nat) : State :=
  let (l, n, left) := (s.link k).repair badLanes
  let s := s.modBoth k (fun x => { x with spares := l.spares })
  let s := if n = 0 then s else s.linkEvent k 2
  let set (s : State) (f : Link → Link) : State := s.modBoth k f
  if left = 0 ∨ (l.half ∧ left ≤ 8) then set s (fun x => { x with trial := 1 })
  else if l.rate < 2 then (set s (fun x => { x with rate := x.rate + 1, trial := 0 })).linkEvent k 3
  else if !l.half then
    (set s (fun x => { x with half := true, trial := if left ≤ 8 then 1 else 0 })).linkEvent k 4
  else set s (fun x => { x with trial := 2 })

/-- A UCIe link's test: each data rate with every module, down to 16 GT/s; below the floor it is held down (R266). -/
def State.trainUcie (s : State) (k badLanes : Nat) : State :=
  let l := s.link k
  let set (s : State) (f : Link → Link) : State := s.modBoth k f
  if badLanes = 0 then set s (fun x => { x with trial := if s.boot.ufloor < l.rate then 3 else 1 })
  else if l.rate < 2 then (set s (fun x => { x with rate := x.rate + 1, trial := 0 })).linkEvent k 3
  else set s (fun x => { x with trial := 2 })

/-- LINK_RETRAIN: begins a retrain of an up link, and runs the lane tests of one attempt. -/
def State.linkRetrain (s : State) (k badLanes : Nat) : State :=
  if !linkExists k || !(decide (s.linkState k = 3 ∨ s.linkState k = 4)) then s
  else
    let s := if s.linkState k = 3 then s.retrain k else s
    if k < 2560 then s.trainMortar k badLanes else s.trainUcie k badLanes

def execLinkRetrain (l : LinkId) (badLanes : Nat) (s : State) : Host.Outcome State Fault Refusal :=
  .next (s.linkRetrain (linkKey l) badLanes)

/-! ### A failed link (R265, R367, R368) -/

/-- A die all of whose tiles a home agent can no longer reach. -/
def State.dieCut (s : State) (d h : Nat) : Bool :=
  let first := d / 8 * 2048 + d % 8 * 16
  s.tileCut first h && s.tileCut (first + 1920) h

/-- R368 at one home agent: lines of tiles it cannot reach are poisoned and theirs no more, CDIE bits of such dies fall,
and snoops to them count as answered. -/
def State.homeCut (s : State) (h : Nat) : State :=
  let hd := h / 8
  let lost := (s.home h).dir.filter (fun d => match d.2.owner with | some (.tile t) => s.tileCut t.val hd | _ => false)
  let s := lost.foldl (fun s d =>
    { s with linePoison := s.linePoison.set false (64 * d.1) true }.modDir h d.1 (fun x => { x with owner := none })) s
  let s := s.modHome h (fun x => { x with dir := x.dir.update {} (fun _ d =>
    { d with cdie := (setPositions 40 d.cdie).foldl (fun a k => if s.dieCut k hd then a else a + 2 ^ k) 0 }) })
  let s := { s with tiles := s.tiles.update {} (fun t x =>
    if s.tileCut t hd then { x with hwc := x.hwc.keep (fun l y => !decide (s.homeOf (64 * l) = h) || y.req.isSome) } else x) }
  (s.home h).txns.foldl (fun s p => match p.2 with
    | none => s
    | some t =>
      let gone := t.snoops.filter (fun x => match x.dst with
        | .inr sl => s.tileCut ((if sl.south then 79 else 0) * 128 + sl.die.val % 8 * 16 + sl.col.val) hd
        | .inl _ => false)
      if gone.isEmpty then s
      else (s.setTrans h p.1 (some (gone.foldl (fun t x => t.take x.dst .inv) t))).settle h p.1) s

/-- R367: requests held for a failed hop are answered host-path-down, and responses discarded. -/
def State.hopDown (s : State) (k : Nat) : State :=
  let q := (s.link k).waitq
  let s := q.foldl (fun s x =>
    (if flitHead x.2 && decide (flitClass x.2 = 0) then s.errTo x.2 .hostPathDown else s).freeInput x.1 (flitClass x.2)) s
  s.modLink k (fun l => { l with waitq := [], held := [], owner := [none, none, none, none] })

/-- The panels out of service for a failed or held-down link, and the end of their jobs. -/
def State.panelsLose (s : State) (k oosc cause : Nat) (hit : Panel → Bool) : State :=
  let ps := (List.range 16).filter (fun p => hit (s.panel p))
  let e : Event := { cls := 0x17, cause := cause, unit := linkAgent k, detail := linkCoord k }
  let s := s.faultJobs (ps.flatMap (fun p => s.liveJobs p)) e
  ps.foldl (fun s p => s.modPanel p (fun x => if x.state = 2 then { x with state := 3, oosc := oosc } else x)) s

/-- A link that does not come back: `cause` 5 failed, 6 held below the floor. -/
def State.linkLost (s : State) (k cause : Nat) : State :=
  let s := s.modBoth k (fun l => { l with st := some cause, hold := false, trial := 0 })
  if k < 2560 then s.panelsLose k 1 cause (fun x => s.bandLinkFailed x)
  else if (k - 2560) % 3 = 0 then s.panelsLose k 4 cause (fun x => x.spans.any (fun q => decide (q / 2 = (k - 2560) / 3)))
  else
    let s := ((s.linkEvent k cause).hopDown k).hopDown (linkPeer k)
    (List.range 16).foldl State.homeCut s

/-- LINK_RETRAIN_COMPLETE: up, with the held flits sent again, or failed, or held below the floor. -/
def State.retrainDone (s : State) (k : Nat) : State :=
  if !linkExists k || decide (s.linkState k ≠ 4) then s
  else match (s.link k).trial with
    | 1 =>
      let s := s.modBoth k (fun l => { l with st := some 3, hold := false, trial := 0, sent := l.sent ++ l.held })
      (s.pump k 64).pump (linkPeer k) 64
    | 2 => s.linkLost k 5
    | 3 => s.linkLost k 6
    | _ => s

def execLinkRetrainComplete (l : LinkId) (s : State) : Host.Outcome State Fault Refusal := .next (s.retrainDone (linkKey l))

/-! ### Lane tests in service (R572) -/

/-- SPARE_LANE_TEST: a spare of an up link that shows an error leaves the pool. -/
def State.spareTest (s : State) (k : Nat) (err : Bool) : State :=
  let l := s.link k
  if !linkExists k || decide (s.linkState k ≠ 3) || !err || decide (2 ≤ l.spares + l.withdrawn) then s
  else (s.modBoth k (fun l => { l with withdrawn := l.withdrawn + 1 })).linkEvent k 9

def execSpareLaneTest (l : LinkId) (err : Bool) (s : State) : Host.Outcome State Fault Refusal :=
  .next (s.spareTest (linkKey l) err)

/-- FAILED_LINK_LANE_TEST: the end whose lanes fail is reported; the test never brings the link back. -/
def State.failedTest (s : State) (k badLanes : Nat) : State :=
  if !linkExists k || decide (s.linkState k ≠ 5) || decide (badLanes = 0) then s else s.linkEvent k 5

def execFailedLinkLaneTest (l : LinkId) (badLanes : Nat) (s : State) : Host.Outcome State Fault Refusal :=
  .next (s.failedTest (linkKey l) badLanes)

end Sys2Proof.Machine
end

