-- ==== Sys2Proof/Machine/Power.lean ====
section
/-!
DEFINITION. Power, temperatures and tests in service: POWER_MANAGER_TICK (01 R29 to R31, 05 R172, R173; 16 R535),
DROOP_DETECT, DROOP_RECOVERY (03 R95), TILE_TEMP_SAMPLE (R96; 20 R624), DIE_TEMP_SAMPLE, HBM_TEMP_SAMPLE (09 R315, R317),
LPDDR_PATROL_SCRUB (10 R341), ARRAY_PATTERN_TEST, SUSPICION_EXPIRY (06 R191, R192).
-/
namespace Sys2Proof.Machine

/-! ### Clock ceilings -/

/-- A die's ceiling changes, with its event (Table 19.2, class 0x20 cause 1). -/
def State.setCeiling (s : State) (d mhz : Nat) : State :=
  let old := s.ceiling d
  if old = mhz then s
  else { s with ceils := s.ceils.set 0 d (mhz - 400) }.emit
    { cls := 0x20, cause := 1, unit := dieAgent d, detail := d % 64 + old % 2 ^ 16 * 2 ^ 16 + mhz % 2 ^ 16 * 2 ^ 32 }

/-- Watts by die, of a list of readings; a die without one counts 0. -/
def wattsOf (l : List (Die × Nat)) (d : Nat) : Nat := match l.find? (fun x => decide (x.1.val = d)) with | some x => x.2 | none => 0

/-- Estimated change in watts for `mhz` at a die, the reading being for 20 MHz. -/
def stepWatts (est : List (Die × Nat)) (d mhz : Nat) : Nat := ceilDiv (wattsOf est d * mhz) 20

/-- R172: dies in order; each rises by at most 20 MHz while the sum of input power and estimates stays within 98 % of the
limit, or, with the limit at 16.0 kW, without that condition up to 950 MHz. -/
def State.raise (s : State) (est : List (Die × Nat)) : Nat → List Nat → State
  | _, [] => s
  | w, d :: ds =>
    let c := s.ceiling d
    let free := decide (s.power.limitNow = 16000 ∧ c < 950)
    let up := if free then min 20 (950 - c) else min 20 (1000 - c)
    let w' := w + stepWatts est d up
    if free ∨ 100 * w' ≤ 98 * s.power.limitNow then (s.setCeiling d (c + up)).raise est w' ds else s.raise est w ds

/-- Floor of a lowering: 950 MHz with the limit at 16.0 kW, else 400 MHz (R31, R173). -/
def State.lowFloor (s : State) : Nat := if s.power.limitNow = 16000 then 950 else 400

/-- Steps of 20 MHz, at most 30, that bring the estimate below 98 % of the limit. -/
def lowerBy (est : List (Die × Nat)) (d limit floor : Nat) : Nat → Nat → Nat → Nat × Nat
  | 0, c, w => (c, w)
  | n + 1, c, w =>
    if 100 * w < 98 * limit ∨ c ≤ floor then (c, w)
    else
      let down := min 20 (c - floor)
      lowerBy est d limit floor n (c - down) (w - wattsOf est d * down / 20)

/-- R173: die by die. -/
def State.lower (s : State) (est : List (Die × Nat)) : Nat → List Nat → State
  | _, [] => s
  | w, d :: ds =>
    let (c, w') := lowerBy est d s.power.limitNow s.lowFloor 30 (s.ceiling d) w
    (s.setCeiling d c).lower est w' ds

/-- Places a die before the first with a lower rail power. -/
def insertDie (rails : Nat → Nat) (d : Nat) : List Nat → List Nat
  | [] => [d]
  | x :: xs => if rails x < rails d then d :: x :: xs else x :: insertDie rails d xs

/-- Dies from the highest rail power down, the lower number first among equals. -/
def byRail (rails : Nat → Nat) : List Nat := (List.range 40).foldl (fun l d => insertDie rails d l) []

/-- The 100 ms windows of R29 and R535: mean, maximum, and the limit in force in the next one. -/
def PowerS.tick (p : PowerS) (w : Nat) : PowerS :=
  if p.ticks + 1 < 100 then { p with ticks := p.ticks + 1, sum := p.sum + w }
  else
    let mean := (p.sum + w) / 100
    { p with ticks := 0, sum := 0, pin := mean, pmax := max p.pmax mean, limitNow := p.limit }

/-- POWER_MANAGER_TICK: input power of the last 1 ms, rail power of the dies, and the estimated change of input power for
20 MHz at each die. -/
def State.powerTick (s : State) (w : Nat) (rails est : List (Die × Nat)) : State :=
  if !s.managed || !s.boot.rails then s
  else
    let s := { s with power := { s.power with
      rails := (List.range 40).foldl (fun t d => Table.set t 0 d (wattsOf rails d)) [] } }
    let s := if 99 * s.power.limitNow < 100 * w then s.lower est w (byRail (wattsOf rails))
      else s.raise est w (List.range 40)
    { s with power := s.power.tick w }

def execPowerManagerTick (inputW : Nat) (rails : List (Die × Nat)) (estimate : List (Die × Nat)) (s : State) :
    Host.Outcome State Fault Refusal := .next (s.powerTick inputW rails estimate)

/-! ### Islands -/

/-- R95: the cycle stretches; the frequency falls to half, and not below 400 MHz. -/
def State.droop (s : State) (t : Nat) : State :=
  let f := s.tileFreq t
  s.modTile t (fun x => { x with droop := some (max 400 (f / 2)), droopEvt := satAdd 0xFFFF x.droopEvt 1 })

/-- DROOP_DETECT, with the supply read. -/
def State.droopDetect (s : State) (t mv : Nat) : State :=
  if !s.boot.rails then s
  else (s.droop t).modTile t (fun x => { x with vmin := BitVec.ofNat 12 (min x.vmin.toNat mv) })

def execDroopDetect (t : Tile) (mv : Nat) (s : State) : Host.Outcome State Fault Refusal := .next (s.droopDetect t mv)

/-- DROOP_RECOVERY -/
def execDroopRecovery (t : Tile) (s : State) : Host.Outcome State Fault Refusal :=
  .next (s.modTile t (fun x => { x with droop := none }))

/-! ### Temperatures -/

/-- An injected reading (DET 0x0A, 0x0C): its first sample fires it, and it stands for `window` ns; in LOG mode the sample
only records it. The armed entry keeps the reading in its low 32 bits, and above them the firing time plus 1. -/
def State.injReading (s : State) (det target window : Nat) (unit : Agent) : State × Option Nat :=
  match s.armed det target with
  | none => (s, none)
  | some (a, log) =>
    let ev : Event := { cls := 0x20, cause := 18, inj := true, unit := unit, detail := det + target * 2 ^ 32 }
    if log then ((s.disarm det target).emit ev, none)
    else if a < 2 ^ 32 then
      ({ s with inj := s.inj.set none (injKey det target) (some (a + (s.now + 1) * 2 ^ 32, false)) }.emit ev, some a)
    else if s.now + 1 < a / 2 ^ 32 + window then (s, some (a % 2 ^ 32))
    else (s.disarm det target, none)

/-- 125 °C in quarters of a degree (R624). -/
def tripCode : Int := 500

/-- TILE_TEMP_SAMPLE: the thermal hold of R96, or the trip. -/
def State.tileTemp (s : State) (t : Nat) (q : Int) : State :=
  if !s.boot.rails then s
  else
    let (s, r) := s.injReading 0x0A t 10000000 (tileAgent t)
    let q := match r with | some a => signed 12 a | none => q
    let s := s.modTile t (fun x => { x with temp := BitVec.ofInt 12 q })
    let s :=
      if !(s.tile t).thermal && decide (420 ≤ q) then
        (s.modTile t (fun x => { x with thermal := true })).emit { cls := 0x20, cause := 2, unit := tileAgent t }
      else if (s.tile t).thermal && decide (q ≤ 400) then
        (s.modTile t (fun x => { x with thermal := false })).emit { cls := 0x20, cause := 3, unit := tileAgent t }
      else s
    if tripCode ≤ q then s.thermalTrip (dieAgent (tileDie t)) else s

def execTileTempSample (t : Tile) (quarterC : Int) (s : State) : Host.Outcome State Fault Refusal := .next (s.tileTemp t quarterC)

/-- DIE_TEMP_SAMPLE: a sill or a host die. -/
def State.dieTemp (s : State) (sill : Bool) (u : Nat) (q : Int) : State :=
  if !s.boot.rails || (!sill && decide (2 ≤ u)) then s
  else
    let s := { s with power := if sill then { s.power with sillTemp := s.power.sillTemp.set 0 u q }
                                else { s.power with hostTemp := s.power.hostTemp.set 0 u q } }
    if tripCode ≤ q then s.thermalTrip (if sill then sillAgent u else hostAgent u) else s

def execDieTempSample (sill : Bool) (unit : Fin 16) (quarterC : Int) (s : State) : Host.Outcome State Fault Refusal :=
  .next (s.dieTemp sill unit quarterC)

/-- Lower bound of a refresh step (Table 9.11). -/
def stepBound : Nat → Nat
  | 1 => 85
  | 2 => 95
  | 3 => 105
  | _ => 0

/-- R315: a rise in the sample that reaches a bound, a fall by one step 3 °C below the present one's. -/
def refreshStep (cur temp : Nat) : Nat :=
  let up := if 105 ≤ temp then 3 else if 95 ≤ temp then 2 else if 85 ≤ temp then 1 else 0
  if cur < up then up else if 0 < cur ∧ temp + 3 ≤ stepBound cur then cur - 1 else cur

/-- Jobs of the panels that own a stack's halves. -/
def State.stackJobs (s : State) (k : Nat) : List (Nat × Nat) :=
  ([2 * k, 2 * k + 1].filterMap s.spanPanel).eraseDups.flatMap (fun p => s.liveJobs p)

/-- HBM_TEMP_SAMPLE: refresh step, and the stop and resumption of R317. -/
def State.hbmTemp (s : State) (k temp : Nat) : State :=
  if !s.boot.rails then s
  else
    let (s, r) := s.injReading 0x0C k 100000000 (sillAgent k)
    let temp := r.getD temp
    let x := s.stack k
    let n := refreshStep x.step temp
    let s := s.modStack k (fun x => { x with temp := temp % 256, step := n })
    let s := if n = x.step then s else s.emit { cls := 0x20, cause := 4, unit := sillAgent k }
    if !x.stop && decide (115 ≤ temp) then
      (s.modStack k (fun x => { x with stop := true })).faultJobs (s.stackJobs k)
        { cls := 0x18, cause := 4, inj := r.isSome, unit := sillAgent k, detail := k }
    else if x.stop && decide (temp ≤ 100) then
      (s.modStack k (fun x => { x with stop := false })).emit { cls := 0x18, cause := 4, unit := sillAgent k, detail := k }
    else s

def execHbmTempSample (k : Sill) (degC : Nat) (s : State) : Host.Outcome State Fault Refusal := .next (s.hbmTemp k degC)

/-! ### Scrub -/

/-- LPDDR_PATROL_SCRUB: one line of a package read, what its code found, and the end of a pass. -/
def State.scrub (s : State) (h pkg a : Nat) (e : CodeErr) (done : Bool) : State :=
  let k := 16 * h + pkg
  if !s.boot.rails || ((s.host h).pkgs.get {} pkg).sref then s
  else
    let s := if isT2 a && decide (lpddrPkg a = k) then (s.lpddrCode a e).fireLpddr a none else s
    if done then s.modPkg k (fun x => { x with scrub := satAdd 0xFFFF x.scrub 1 }) else s
where
  isT2 (a : Nat) : Bool := match regionOf a with | .lpddr _ => true | _ => false

def execLpddrPatrolScrub (h : HostDie) (pkg : Fin 16) (addr : Nat) (e : CodeErr) (passDone : Bool) (s : State) :
    Host.Outcome State Fault Refusal := .next (s.scrub h pkg addr e passDone)

/-! ### Suspect tiles -/

/-- ARRAY_PATTERN_TEST: of a tile that owes it, when its array runs no command. -/
def State.patternTest (s : State) (t : Nat) (pass : Bool) : State :=
  let x := s.tile t
  if !x.patternDue || !(s.engine t 0).active.isEmpty || s.halted then s
  else if pass then
    (s.modTile t (fun x => { x with patternDue := false })).emit { cls := 0x20, cause := 8, unit := tileAgent t }
  else (s.modTile t (fun x => { x with patternDue := false, retire := true })).emit { cls := 0x20, cause := 7, unit := tileAgent t }

def execArrayPatternTest (t : Tile) (pass : Bool) (s : State) : Host.Outcome State Fault Refusal := .next (s.patternTest t pass)

/-- SUSPICION_EXPIRY: of a tile that passed its test and is not marked. -/
def State.suspicionEnds (s : State) (t : Nat) : State :=
  let x := s.tile t
  if x.suspect.isSome && !x.patternDue && !x.retire then
    (s.modTile t (fun x => { x with suspect := none })).emit { cls := 0x20, cause := 6, unit := tileAgent t }
  else s

def execSuspicionExpiry (t : Tile) (s : State) : Host.Outcome State Fault Refusal := .next (s.suspicionEnds t)

end Sys2Proof.Machine
end

