-- ==== Sys2Proof/Machine/Warm.lean ====
section
/-!
DEFINITION. The host warm reset (10 R361 to R365, Table 10.8; 14 R495; 19 R599): HOST_RESET, SBI_SYSTEM_RESET,
HOST_WATCHDOG_EXPIRY, HOST_WARM_RESET, HOST_CORE_RELEASE, HWDOG_PERIOD_WRITE, HWDOG_KICK.
-/
namespace Sys2Proof.Machine

/-! ### The trigger -/

/-- Intake commands in progress stop; their jobs end; rings and INT_ blocks take their reset values (R495). -/
def State.intakesReset (s : State) : State :=
  let js := (s.intakes.flatMap (fun n => n.2.cmds.map (fun c => (intPanel c.ring, intSlot c.ring)))).eraseDups
  let s := s.endJobs (js.filter (fun j => s.running j.1 j.2)) 2
  { s with intakes := [], rings := s.rings.keep (fun g _ => !decide (258048 ≤ g ∧ g < 260096)) }

/-- R363: lines in M are lost and counted; only what is on its way to memory stays. -/
def HostS.loseLines (x : HostS) : HostS :=
  { x with
    lost := min 0xFFFFFFFF (x.lines.filter (fun l => decide (l.2.st = .M) && !l.2.wb)).length
    lines := x.lines.update {} (fun _ l => if l.wb then { ({} : Line) with wb := true, data := l.data, pz := l.pz } else {}) }

/-- The host dies run. -/
def State.hostsUp (s : State) : Bool := (List.range 2).any (fun h => decide ((s.host h).cstate = 0))

/-- A host warm reset begins (R362); a trigger while none can begin changes nothing. -/
def State.warmTrigger (s : State) : State :=
  if !s.hostsUp then s
  else
    let s := (List.range 2).foldl (fun s h => s.modHost h (fun x => { x.loseLines with cstate := 1, domReset := false })) s
    s.intakesReset

/-! ### The reset and the release -/

/-- A home agent still serves a transaction of a host die, or waits for one's answer. -/
def Home.hostBusy (x : Home) : Bool :=
  x.txns.any (fun p => match p.2 with
    | some t => (match t.kind with | .grant (.host _) _ => true | _ => false) ||
        t.snoops.any (fun y => match y.dst with | .inl (.host _) => true | _ => false)
    | none => false)

/-- Nothing of the host dies is in progress at a home agent, and none of their writebacks is on its way. -/
def State.hostsQuiet (s : State) : Bool :=
  s.homes.all (fun h => !h.2.hostBusy) && s.grants.all (fun g => match g.1 with | .host _ => false | _ => true) &&
  s.hosts.all (fun h => h.2.lines.all (fun l => !l.2.wb))

/-- Host sharers and ownership leave every directory. -/
def Home.dropHosts (x : Home) : Home :=
  { x with dir := x.dir.update {} (fun _ d => { d with
      hdie := 0, owner := match d.owner with | some (.host _) => none | o => o }) }

/-- HOST_WARM_RESET: the core domains of both dies are reset, once the home agents have finished. -/
def State.warmReset (s : State) : State :=
  if (s.host 0).cstate ≠ 1 || (s.host 0).domReset || !s.hostsQuiet then s
  else
    let s := { s with homes := s.homes.update {} (fun _ x => x.dropHosts), cores := [], plumb := [] }
    let s := (List.range 2).foldl (fun s h => s.modHost h (fun x => { x with
      lines := [], domReset := true, wrcnt := satAdd 0xFF x.wrcnt 1 })) s
    s.emit { cls := 0x20, cause := 14 }

def execHostWarmReset (s : State) : Host.Outcome State Fault Refusal := .next s.warmReset

/-- Periods of the host watchdogs begin (R599). -/
def State.hwdogRestart (s : State) : State :=
  { s with dbg := { s.dbg with hwdog := s.dbg.hwdog.update (0, false, 0) (fun _ w => (w.1, w.2.1, s.now)) } }

/-- The core domains run: PERST_N released when the ports' domain leaves reset, HOST_RESET packets answered. -/
def State.coresRelease (s : State) : State :=
  let s := (List.range 2).foldl (fun s h => s.modHost h (fun x => { x with cstate := 0, domReset := false })) s
  ({ s with perst := 0xFF }.hwdogRestart).release .hosts noParams

/-- HOST_CORE_RELEASE: after a warm reset. -/
def execHostCoreRelease (s : State) : Host.Outcome State Fault Refusal :=
  .next (if (s.host 0).cstate = 1 ∧ (s.host 0).domReset then s.coresRelease else s)

/-! ### Triggers -/

def specHostReset : OpSpec := { run := fun s _ _ => .wait s.warmTrigger .hosts }

def execHostReset (q : IcralReq) (s : State) : Host.Outcome State Fault Refusal :=
  .next (s.performReq q (decide (q.opcode.toNat = 0x07)) specHostReset)

/-- SBI_SYSTEM_RESET: type 2, a warm reboot, triggers the reset; every other type returns SBI_ERR_NOT_SUPPORTED (−2). -/
def State.sbiReset (s : State) (c : Nat) (type : Nat) : State :=
  if !s.mayRetire c then s
  else if type = 2 then s.warmTrigger else s.modCore c (fun x => { x with sbi := some (-2) })

def execSbiSystemReset (c : CoreId) (type : BitVec 32) (s : State) : Host.Outcome State Fault Refusal :=
  .next (s.sbiReset c type.toNat)

/-- The host watchdog of a die expires (R599). -/
def State.hwdogExpires (s : State) (h : Nat) (inj : Bool) : State :=
  let w := s.dbg.hwdog.get (0, false, 0) h
  let s := { s with dbg := { s.dbg with hwdog := s.dbg.hwdog.set (0, false, 0) h (w.1, true, w.2.2) } }
  (s.emit { cls := 0x20, cause := 15, inj := inj, unit := hostAgent h }).warmTrigger

/-- HOST_WATCHDOG_EXPIRY: PERIOD 0 turns it off. -/
def execHostWatchdogExpiry (h : HostDie) (s : State) : Host.Outcome State Fault Refusal :=
  .next (if (s.dbg.hwdog.get (0, false, 0) h).1 = 0 then s else s.hwdogExpires h false)

/-- A write of MOD_HWDOG[h]: PERIOD, KICK, EXPIRED. A period begins when PERIOD is written and at a KICK; a non-zero PERIOD
below 1,000 is treated as 1,000. -/
def State.hwdogWrite (s : State) (h v : Nat) (auth : Auth) : State :=
  if !reaches auth none then s.outOfReach auth (mmioBase + 0x4A003030 + 8 * h)
  else
    let w := s.dbg.hwdog.get (0, false, 0) h
    { s with dbg := { s.dbg with hwdog := s.dbg.hwdog.set (0, false, 0) h (bits v 0 20, w.2.1 && !bit v 21, s.now) } }

def execHwdogPeriodWrite (h : HostDie) (v : BitVec 64) (auth : Auth) (s : State) : Host.Outcome State Fault Refusal :=
  .next (s.hwdogWrite h v.toNat auth)

/-- HWDOG_KICK: a write with KICK set. -/
def execHwdogKick (h : HostDie) (v : BitVec 64) (auth : Auth) (s : State) : Host.Outcome State Fault Refusal :=
  .next (if bit v.toNat 20 then s.hwdogWrite h v.toNat auth else s)

end Sys2Proof.Machine
end

