-- ==== Sys2Proof/Machine/Boot.lean ====
section
/-!
DEFINITION. Boot, supplies, reference, time, managers and life cycle (18 R561 to R583; 20 R617 to R634; 08 R274):
STANDBY_POWER_*, MAIN_POWER_*, MAIN_START, BOOT_PHASE_COMPLETE, RST_N_*, REFCLK_*, PPS_*, TIME_SET_*, MANAGER_HEARTBEAT*,
STANDBY_MANAGER_LOSS, MASON_CORE_TIMEOUT, MODULE_RESET, LIFECYCLE, IMAGE_STAGE_DONE, TEST_ACCESS_PORT_OPERATION.
-/
namespace Sys2Proof.Machine

/-! ### Supplies (R561, R618 to R622) -/

/-- STANDBY_POWER_ON -/
def State.standbyOn (s : State) (sill0Ok : Bool) : State :=
  if s.boot.p12 then s
  else (s.modBoot (fun b => { b with p12 := true, tripped := false, rst := none })).coldStart sill0Ok

def execStandbyPowerOn (sill0Ok : Bool) (s : State) : Host.Outcome State Fault Refusal := .next (s.standbyOn sill0Ok)

/-- The registers of the standby domain when 12 V is lost. -/
def State.standbyLost (s : State) : State :=
  { s with mgmt := { s.mgmt with i3cAddr := none, lease := none } }.modBoot (fun b => { b with
    p12 := false, charged := false, fault := false, phase := 0, mstate := 0, holdc := 0, stby := false, recovery := false
    rst := none, target := none, srefLost := true, blocks := [] })

/-- STANDBY_POWER_LOSS: both supplies count as lost; LPDDR5X leaves self-refresh; FAULT falls. -/
def State.standbyOff (s : State) : State :=
  if !s.boot.p12 then s else (s.selfRefresh false).domainReset.standbyLost

def execStandbyPowerLoss (s : State) : Host.Outcome State Fault Refusal := .next s.standbyOff

/-- MAIN_POWER_VALID: the input capacitance charges; 54 V back after a loss brings a module reset with RCAUSE 3. -/
def State.mainOn (s : State) : State :=
  if !s.boot.p12 then s
  else s.modBoot (fun b => { b with
    p54 := true, charged := true, rst := if b.lost54 then some (b.rst.getD 3) else b.rst, lost54 := false })

def execMainPowerValid (s : State) : Host.Outcome State Fault Refusal := .next s.mainOn

/-- MAIN_POWER_LOSS: the tiles stop, LPDDR5X enters self-refresh, the rails fall; on overvoltage the inrush limiter opens,
and on undervoltage the capacitance is spent. -/
def State.mainOff (s : State) (_overV : Bool) : State :=
  if !s.boot.p54 then s
  else s.railsDown.modBoot (fun b => { b with p54 := false, charged := false, lost54 := true })

def execMainPowerLoss (overV : Bool) (s : State) : Host.Outcome State Fault Refusal := .next (s.mainOff overV)

/-- MAIN_START: M0 (R563). -/
def execMainStart (s : State) : Host.Outcome State Fault Refusal :=
  .next (if s.boot.mayStart ∧ s.boot.phase = 2 then s.modBoot (fun b => { b with started := true }) else s)

/-- An assertion of RST_N long enough: the rails fall and a module reset with RCAUSE 2 is due; it ends a trip. -/
def State.rstN (s : State) (low : Bool) : State :=
  s.railsDown.modBoot (fun b => { b with rstN := !low, tripped := false, rst := some 2 })

/-- RST_N_ASSERT, with how long it lasts: below 100 µs nothing, from 1 ms on a reset, between them either (a free value,
log 2), the assertion being over. -/
def State.rstAssert (s : State) (usec : Nat) : State :=
  if !s.boot.p12 || decide (usec < 100) then s
  else if 1000 ≤ usec then s.rstN true
  else
    let (v, s) := s.draw
    if v % 2 = 1 then s.rstN false else s

def execRstNAssert (usec : Nat) (s : State) : Host.Outcome State Fault Refusal := .next (s.rstAssert usec)

/-- RST_N_RELEASE -/
def execRstNRelease (s : State) : Host.Outcome State Fault Refusal :=
  .next (s.modBoot (fun b => { b with rstN := true }))

/-! ### Boot phases (R563, R573 to R578) -/

def withCause (c n : Nat) (yes : Bool) : Nat := if yes then c ||| 2 ^ n else c

/-- Physical rows of a column that count as bad (R575): recorded, pending, of tiles marked for retirement, and tested. -/
def State.badRows (s : State) (d c : Nat) (tested : List (Nat × Nat × Nat)) : List Nat :=
  let f := s.repairField d c
  ((if f = 0x1F then [] else [f]) ++
   (match s.boot.pend.get none (16 * d + c) with | some r => [r] | none => []) ++
   ((List.range 16).filterMap (fun y =>
      if (s.tile ((d / 8 * 16 + y) * 128 + d % 8 * 16 + c)).retire then some (physRow f y) else none)) ++
   (tested.filterMap (fun t => if t.1 = d ∧ t.2.1 = c then some t.2.2 else none))).eraseDups

/-- M4 in one column. -/
def State.repairColumn (s : State) (tested : List (Nat × Nat × Nat)) (k : Nat) : State :=
  match s.badRows (k / 16) (k % 16) tested with
  | [] => s
  | [r] => s.modBoot (fun b => { b with repair := b.repair.set 0 k (r ^^^ 0x1F) })
  | _ => s.modBoot (fun b => { b with dfail := b.dfail ||| 2 ^ (k / 16), causes := withCause b.causes 1 true })

def State.repairColumns (s : State) (tested : List (Nat × Nat × Nat)) (ks : List Nat) : State :=
  ks.foldl (fun s k => s.repairColumn tested k) s

def State.clearMarks (s : State) : State :=
  { s with tiles := s.tiles.update {} (fun t x => if bit s.boot.dfail (tileDie t) then x else { x with retire := false }) }

/-- M4: the repair map computed and programmed; marks of tiles that a spare now replaces fall. -/
def State.repairAll (s : State) (tested : List (Nat × Nat × Nat)) : State :=
  (s.repairColumns tested (List.range 640)).clearMarks

/-- A ring hop (not an edge attachment) of the UCIe links. -/
def isHop (k : Nat) : Bool := decide (2560 ≤ k ∧ (k - 2560) % 3 ≠ 0)

/-- Keep regions as a reset finds them (R320, R577): lost where self-refresh was lost, or where a failed package's die holds
them. -/
def State.keepsFound (s : State) : Table Keep :=
  s.keeps.update {} (fun _ k => { k with
    lost := s.boot.srefLost || (List.range 2).any (fun h => (s.host h).t2Off && overlaps k.base k.len (h * 2 ^ 40) (2 ^ 40)) })

/-- M5: links trained or not, channels and packages that failed training out of use; the wipes of M6 begin. -/
def State.trainAll (s : State) (failed below channels packages : List Nat) : State :=
  let s := failed.foldl (fun s k => (s.modBoth k (fun l => { l with st := some 5 })).linkEvent k 5) s
  let s := below.foldl (fun s k => (s.modBoth k (fun l => { l with st := some 6 })).linkEvent k 6) s
  let s := channels.foldl (fun s c => (s.modStack (c / 32) (fun x => { x with outmap := x.outmap ||| 2 ^ (c % 32) })).emit
    { cls := 0x18, cause := 2, unit := sillAgent (c / 32), detail := c }) s
  let s := packages.foldl State.packageFails (s.selfRefresh false)
  let s := { s with hosts := s.hosts.update {} (fun _ x => { x with t2Off := x.pkgs.any (fun k => k.2.failed) }) }
  let lostAll := s.boot.srefLost
  let s := { s with keeps := s.keepsFound }
  let t0 := [(winBase, 10240 * winSize)]
  let t1 := (List.range 32).map (fun q => (spanAddr q, s.spanMapped q))
  let ks := if lostAll then s.keepRanges else []
  let s := (s.beginWipe 9 (t0 ++ t1 ++ s.boot.wipeDue ++ ks) none none).1
  s.modBoot (fun b => { b with
    trained := true, srefLost := false, wipeDue := []
    causes := withCause (withCause b.causes 3 ((failed ++ below).any isHop)) 4 ((s.host 0).t2Off && (s.host 1).t2Off) })

/-- M6: keep regions reported; Decommissioned erases every image slot after the wipes (R584). -/
def State.wipesDone (s : State) : State :=
  let s := s.keeps.foldl (fun s k => if k.2.lost then s.emit { cls := 0x18, cause := 5, detail := k.1 } else s) s
  let s := s.emit { cls := 0x20, cause := 17 }
  if s.boot.lcs = 4 then
    s.modBoot (fun b => { b with flash := (List.range 4).foldl (fun t k => Table.set t none k (some [])) b.flash })
  else s

/-- Lowest hold-out cause. -/
def holdCode (causes : Nat) : Nat := (setPositions 16 causes).headD 0

/-- In Deployed, Ready raises MINSVN to the running image's SVN, at most 64 times in all (R568). -/
def Boot.raiseSvn (b : Boot) : Boot :=
  if b.lcs = 2 ∧ b.minsvn < b.svn ∧ b.raises < 64 then { b with minsvn := b.svn, raises := b.raises + 1 } else b

/-- CXL-capable ports among those listed (R616, R632). -/
def cxlMask (ports : List Nat) : Nat :=
  (ports.filter (fun r => decide (r % 4 < 2))).eraseDups.foldl (fun a r => a + 2 ^ r) 0

/-- M7: Ready, or held out of Ready with its cause; the core domains run unless HOLDC is 4 or 5. -/
def State.enterReady (s : State) (coresOk : Bool) (cxl : List Nat) : State :=
  let b := s.boot
  let c := withCause (withCause (withCause (withCause b.causes 5 (!coresOk)) 6 (decide (b.ref ≠ 1))) 7 (decide (b.lcs = 3))) 8
    (decide (b.lcs = 4))
  let s := { s with cxl := cxlMask cxl }
  let s :=
    if c = 0 then
      { s with ports := (List.range 32).foldl (fun t n => Table.modify t {} n (fun x => { x with st := 1 })) s.ports }.modBoot
        (fun b => { b.raiseSvn with
          mstate := 1, holdc := 0, fault := false, attempts := none, prevPref := none, fatalDue := !b.fatalRecs.isEmpty })
    else s.modBoot (fun b => { b with mstate := 2, holdc := holdCode c })
  if holdCode c = 4 ∨ holdCode c = 5 then s else s.coresRelease

/-- The next phase is due: S1 and S2 on 12 V, M1 to M7 after main start. -/
def Boot.due (b : Boot) (n : Nat) : Bool :=
  b.p12 && !b.recovery && !b.dead && decide (b.phase + 1 = n) && (decide (n ≤ 2) || b.started)

/-- BOOT_PHASE_COMPLETE -/
def State.phaseDone (s : State) (ph : BootPhase) : State :=
  let go (n : Nat) (f : State → State) : State :=
    if s.boot.due n then (f s).modBoot (fun b => { b with phase := n }) else s
  match ph with
  | .s1 => go 1 id
  | .s2 => go 2 id
  | .m1 => if s.boot.mayStart then go 3 (fun s => s.modBoot (fun b => { b with rails := true })) else s
  | .m2 => go 4 id
  | .m3 wrong => go 5 (fun s => s.modBoot (fun b => { b with causes := withCause b.causes 2 (!wrong.isEmpty) }))
  | .m4 bad => go 6 (fun s => s.repairAll (bad.map (fun t => (t.1.val, t.2.1.val, t.2.2.val))))
  | .m5 failed below channels packages =>
    go 7 (fun s => s.trainAll (failed.map linkKey) (below.map linkKey) (channels.map (·.val)) (packages.map (·.val)))
  | .m6 => if s.wipes.isEmpty then go 8 State.wipesDone else s
  | .m7 coresOk cxl => go 9 (fun s => s.enterReady coresOk (cxl.map (·.val)))

def execBootPhaseComplete (ph : BootPhase) (s : State) : Host.Outcome State Fault Refusal := .next (s.phaseDone ph)

/-! ### Reference (R274, R628) -/

/-- REFCLK_VALID: after a reference that was never there. -/
def execRefclkValid (s : State) : Host.Outcome State Fault Refusal :=
  .next (if s.boot.ref = 0 then s.modBoot (fun b => { b with ref := 1 }) else s)

/-- REFCLK_LOSS: the PLLs hold their frequency. -/
def execRefclkLoss (s : State) : Host.Outcome State Fault Refusal :=
  .next (if s.boot.ref = 1 then s.modBoot (fun b => { b with ref := 2 }) else s)

/-- REFCLK_LOSS_TIMEOUT: every job ends with ECAUSE 6, and the module is held out of Ready. -/
def State.refLost (s : State) : State :=
  if s.boot.ref ≠ 2 then s
  else
    let s := (s.endAllJobs 6).emit { cls := 0x20, cause := 12 }
    s.modBoot (fun b => { b with
      ref := 3, mstate := if b.mstate = 1 then 2 else b.mstate, holdc := if b.mstate = 1 then 6 else b.holdc })

def execRefclkLossTimeout (s : State) : Host.Outcome State Fault Refusal := .next s.refLost

/-- REFCLK_RETURN: the PLLs relock; after a loss of more than 100 ms a module reset with RCAUSE 4 is due. -/
def State.refBack (s : State) : State :=
  if s.boot.ref = 2 then s.modBoot (fun b => { b with ref := 1 })
  else if s.boot.ref = 3 then
    (s.emit { cls := 0x20, cause := 13 }).modBoot (fun b => { b with ref := 1, rst := some (b.rst.getD 4) })
  else s

def execRefclkReturn (s : State) : Host.Outcome State Fault Refusal := .next s.refBack

/-! ### Time (R629, R630) -/

def secNs : Nat := 1000000000

/-- Distance of a time from the nearest whole second. -/
def offSecond (t : Nat) : Nat := min (t % secNs) (secNs - t % secNs)

/-- An edge follows the one before it by one second, within 1 µs. -/
def edgeGood (last e : Nat) : Bool := decide (secNs ≤ e - last + 1000 ∧ e - last ≤ secNs + 1000)

/-- What an edge at time `e` of the module's own timescale does to lock, streak and MISS. -/
def TimeS.edge (t : TimeS) (e : Nat) : TimeS :=
  if t.lock then
    if offSecond e ≤ 1000 then { t with lastEdge := some e }
    else { t with lock := false, streak := 0, miss := satAdd 0xFFFF t.miss 1, lastEdge := some e }
  else match t.lastEdge with
    | none => { t with lastEdge := some e, streak := 0 }
    | some l =>
      if edgeGood l e then { t with lastEdge := some e, streak := t.streak + 1, lock := decide (3 ≤ t.streak + 1) }
      else { t with lastEdge := some e, streak := 0, miss := satAdd 0xFFFF t.miss 1 }

/-- PPS_EDGE: at lock the fractional second is stepped to zero; an armed seconds value is taken. -/
def State.ppsEdge (s : State) (at_ : Nat) : State :=
  let e := max s.now at_
  let t := s.time.edge e
  let e := if t.lock && !s.time.lock then e / secNs * secNs else e
  let e := match t.armed with
    | some v => v * secNs + (if t.lock then 0 else e % secNs)
    | none => e
  { s with now := e, time := { t with lastEdge := some e, armed := none } }

def execPpsEdge (at_ : Nat) (s : State) : Host.Outcome State Fault Refusal := .next (s.ppsEdge at_)

/-- PPS_LOCK_LOSS: no edge within 1.5 s of the last one. -/
def execPpsLockLoss (s : State) : Host.Outcome State Fault Refusal :=
  .next (if s.time.lock then { s with time := { s.time with lock := false, streak := 0, miss := satAdd 0xFFFF s.time.miss 1 } } else s)

/-- TIME_SET_WRITE: MOD_TIME_SET; with ARM 0 the write is ignored. -/
def State.timeSet (s : State) (v : Nat) (auth : Auth) : State :=
  if !reaches auth none then s.outOfReach auth (mmioBase + 0x4A004008)
  else if bit v 48 then { s with time := { s.time with armed := some (bits v 0 48) } } else s

def execTimeSetWrite (v : BitVec 64) (auth : Auth) (s : State) : Host.Outcome State Fault Refusal := .next (s.timeSet v.toNat auth)

/-- TIME_SET_EXPIRY -/
def execTimeSetExpiry (s : State) : Host.Outcome State Fault Refusal :=
  .next (match s.time.armed with
    | some _ => { s with time := { s.time with armed := none, miss := satAdd 0xFFFF s.time.miss 1 } }
    | none => s)

/-! ### Managers (R579 to R581, R592) -/

/-- MANAGER_HEARTBEAT -/
def execManagerHeartbeat (s : State) : Host.Outcome State Fault Refusal :=
  .next (if s.managed && s.boot.stby then s.modBoot (fun b => { b with beat := s.now }) else s)

/-- BOTH_MANAGERS_LOST: dies at 0.40 GHz, host dies at 1.5 GHz, every job ends, and no Icral path answers. -/
def State.managersLost (s : State) : State :=
  let s := s.endAllJobs 2
  { s with
    ceils := []
    power := { s.power with hostMHz := [(0, 1500), (1, 1500)] } }.modBoot (fun b => { b with dead := true, stby := false })

/-- MANAGER_HEARTBEAT_TIMEOUT: the standby takes over with every session and packet (R530), or none is left. -/
def State.takeover (s : State) (standbyOk : Bool) : State :=
  if !s.managed || s.boot.recovery then s
  else if s.boot.stby && standbyOk then
    (s.modBoot (fun b => { b with active := 1 - b.active, stby := false, mepoch := b.mepoch + 1 })).emit { cls := 0x20, cause := 11 }
  else s.managersLost

def execManagerHeartbeatTimeout (standbyOk : Bool) (s : State) : Host.Outcome State Fault Refusal := .next (s.takeover standbyOk)

/-- STANDBY_MANAGER_LOSS -/
def execStandbyManagerLoss (s : State) : Host.Outcome State Fault Refusal :=
  .next (s.modBoot (fun b => { b with stby := false }))

/-- Die at a position of the test access chain (R570). -/
def chainAgent (i : Nat) : Agent :=
  if i < 8 then sillAgent i else if i = 8 then hostAgent 1 else if i < 17 then sillAgent (i - 1)
  else if i = 17 then hostAgent 0 else dieAgent (i - 18)

/-- MASON_CORE_TIMEOUT: of any die other than sills 0 and 8, fatal (R592, CAUSE 2). -/
def State.masonSilent (s : State) (i : Nat) : State :=
  if !s.boot.rails || decide (i = 0 ∨ i = 9) then s else s.fatalError 2 (chainAgent i)

def execMasonCoreTimeout (d : Fin 58) (s : State) : Host.Outcome State Fault Refusal := .next (s.masonSilent d)

/-! ### MODULE_RESET and LIFECYCLE (R533, R568, R569, R583) -/

/-- The MEPOCH the packet carries. -/
def State.epochOk (s : State) (w : Nat) : Bool := decide (bits w 0 32 = s.boot.mepoch % 2 ^ 32)

def State.resetDue (s : State) (cause : Nat) : State := s.modBoot (fun b => { b with rst := some (b.rst.getD cause) })

def specModuleReset : OpSpec :=
  { fields := fun _ _ => [⟨0, 32, anyVal⟩, ⟨32, 32, .reserved⟩]
    gate := .up
    run := fun s _ w => need (s.epochOk w) stConflict 0 (.ok (s.resetDue 1)) }

def execModuleReset (q : IcralReq) (s : State) : Host.Outcome State Fault Refusal :=
  .next (s.performReq q (decide (q.opcode.toNat = 0x08)) specModuleReset)

def lcAction (q : IcralReq) : Nat := bits q.params 32 3

/-- Blocks of 48 B that an image of the greatest length takes. -/
def maxBlocks : Nat := ceilDiv (288 + 64 * 2 ^ 20) 48

/-- No panel's grant covers any of the range. -/
def State.ungranted (s : State) (a n : Nat) : Bool :=
  s.panels.all (fun p => p.2.grants.all (fun g => !overlaps g.1 g.2 a n))

/-- Table 18.7; fields the ACTION does not use are reserved. -/
def lifeFields (s : State) (q : IcralReq) : List Field :=
  let act := lcAction q
  let n := bits q.params 128 32 + 1
  let head : List Field := [⟨0, 32, anyVal⟩, ⟨32, 3, atMost 4⟩, ⟨35, 3, if act = 0 then anyVal else .reserved⟩, ⟨38, 26, .reserved⟩]
  if act = 1 then
    head ++ [⟨64, 52, .reject (fun v => decide (v % 4096 = 0) && t2Range v n && s.ungranted v n)⟩, ⟨116, 12, .reserved⟩,
             ⟨128, 32, anyVal⟩, ⟨160, 352, .reserved⟩]
  else if act = 3 then head ++ [⟨64, 32, .reject (fun v => decide (v < maxBlocks))⟩, ⟨96, 32, .reserved⟩, ⟨128, 384, anyVal⟩]
  else if act = 4 then head ++ [⟨64, 32, .reject (fun v => decide (v < maxBlocks))⟩, ⟨96, 416, .reserved⟩]
  else head ++ [⟨64, 448, .reserved⟩]

/-- Table 18.7, TARGET. -/
def moveOk (frm dst : Nat) : Bool :=
  match frm with
  | 0 => decide (dst = 1)
  | 1 => decide (dst = 2 ∨ dst = 3 ∨ dst = 4)
  | 2 => decide (dst = 3 ∨ dst = 4)
  | 3 => decide (dst = 4)
  | _ => false

def specTransition : OpSpec :=
  { fields := lifeFields
    gate := .up
    run := fun s _ w => need (s.epochOk w) stConflict 0
      (need (moveOk s.boot.lcs (bits w 35 3)) stConflict 35
        (.ok ((s.modBoot (fun b => { b with target := some (bits w 35 3), rst := some 6 })))) ) }

/-- LIFECYCLE_TRANSITION: ACTION 0, and the reserved actions, which BAD_FIELD refuses. -/
def execLifecycleTransition (q : IcralReq) (s : State) : Host.Outcome State Fault Refusal :=
  .next (s.performReq q (decide (q.opcode.toNat = 0x09 ∧ (lcAction q = 0 ∨ 5 ≤ lcAction q))) specTransition)

/-- ACTION 1: the image in T2, checked under R566; staging begins. -/
def specStage : OpSpec :=
  { fields := lifeFields
    gate := .up
    run := fun s _ w =>
      let a := bits w 64 52
      let n := bits w 128 32 + 1
      need (s.epochOk w) stConflict 0
        (need (decide (s.boot.fwst ≠ 1)) stConflict 32
          (let (bs, t) := s.cohRead n a
           need (decide (s.readResp a n = .ok) && s.boot.accepts bs) stBadField 64
             (.ok (t.modBoot (fun b => { b with fwst := 1, staged := bs }))))) }

def execLifecycleStageImage (q : IcralReq) (s : State) : Host.Outcome State Fault Refusal :=
  .next (s.performReq q (decide (q.opcode.toNat = 0x09 ∧ lcAction q = 1)) specStage)

/-- An image written into a slot of both flashes. -/
def Boot.program (b : Boot) (slot : Nat) (bs : List Byte) : Boot :=
  { b with flash := (b.flash.set none slot (some bs)).set none (2 + slot) (some bs) }

/-- IMAGE_STAGE_DONE: the slot not running holds the image and is preferred in both flashes; writes that failed leave free
bytes there. -/
def State.stageDone (s : State) (ok : Bool) : State :=
  let b := s.boot
  if b.fwst ≠ 1 then s
  else
    let slot := 1 - b.slot
    if ok then s.modBoot (fun b => { (b.program slot b.staged) with
      fwst := 2, staged := [], prevPref := some (b.preferred 0, b.preferred 1)
      pref := (b.pref.set none 0 (some slot)).set none 1 (some slot) })
    else
      let (s, bs) := s.drawBytes b.staged.length
      s.modBoot (fun b => { (b.program slot bs) with fwst := 3, staged := [] })

def execImageStageDone (ok : Bool) (s : State) : Host.Outcome State Fault Refusal := .next (s.stageDone ok)

def specActivate : OpSpec :=
  { fields := lifeFields
    gate := .up
    run := fun s _ w => need (s.epochOk w) stConflict 0
      (need (decide (s.boot.fwst = 2)) stConflict 32
        (.ok (s.modBoot (fun b => { b with rst := some 7, attempts := some 1 })))) }

def execLifecycleActivateImage (q : IcralReq) (s : State) : Host.Outcome State Fault Refusal :=
  .next (s.performReq q (decide (q.opcode.toNat = 0x09 ∧ lcAction q = 2)) specActivate)

/-- ACTION 3 stores a block; outside recovery it has no module state to act in. -/
def specBlock : OpSpec :=
  { fields := lifeFields
    gate := .all
    run := fun s _ w => need s.boot.recovery stModuleState 0 (need (s.epochOk w) stConflict 0
      (.ok (s.modBoot (fun b => { b with blocks := b.blocks.set none (bits w 64 32) (some (bits w 128 384)) })))) }

def execLifecycleRecoveryBlock (q : IcralReq) (s : State) : Host.Outcome State Fault Refusal :=
  .next (s.performReq q (decide (q.opcode.toNat = 0x09 ∧ lcAction q = 3)) specBlock)

/-- The image the blocks make; a block never sent is free: the draws with numbers from `n` on (log 2). -/
def Boot.assembled (b : Boot) (n count : Nat) : List Byte :=
  (List.range count).flatMap (fun i => match b.blocks.get none i with
    | some v => toBytes 48 v
    | none => (List.range 48).map (fun j => BitVec.ofNat 8 (Config.freeWord (n + 48 * i + j))))

/-- Both slots of both flashes hold the image; a cold start is due. -/
def State.commitImage (s : State) (bs : List Byte) : State :=
  s.modBoot (fun b => { ((b.program 0 bs).program 1 bs) with blocks := [], rst := some 0 })

/-- ACTION 4: the image checked, written to every slot, and a cold start. -/
def specCommit : OpSpec :=
  { fields := lifeFields
    gate := .all
    run := fun s _ w =>
      let bs := s.boot.assembled s.free (bits w 64 32 + 1)
      need s.boot.recovery stModuleState 0 (need (s.epochOk w) stConflict 0
        (need (s.boot.accepts bs) stBadField 64 (.ok (s.commitImage bs)))) }

/-- LIFECYCLE_RECOVERY_COMMIT; the free bytes of its blocks are drawn. -/
def State.recoveryCommit (s : State) (q : IcralReq) : State :=
  let here := decide (q.opcode.toNat = 0x09 ∧ lcAction q = 4)
  let t := s.performReq q here specCommit
  if here && s.turnOf q then { t with free := t.free + 48 * (bits q.params 64 32 + 1) } else t

def execLifecycleRecoveryCommit (q : IcralReq) (s : State) : Host.Outcome State Fault Refusal := .next (s.recoveryCommit q)

/-! ### The test access port (R571, R574, R583, R634) -/

/-- TEST_ACCESS_PORT_OPERATION: IDCODE everywhere; writes of the repair record in Manufacturing; Returned back to
Manufacturing at a service site. The other operations move no state of the module. -/
def State.tap (s : State) (op : TapOp) : State :=
  if !s.managed then s
  else match op with
  | .trst | .bypass | .sample | .extest | .other _ => s
  | .idcode => { s with regRsp := Config.idcode % 2 ^ 32 }
  | .repairWrite d c f =>
    if s.boot.lcs = 0 ∧ (f.toNat ≤ 16 ∨ f.toNat = 0x1F) then
      s.modBoot (fun b => { b with repair := b.repair.set 0 (16 * d.val + c.val) (f.toNat ^^^ 0x1F) })
    else s
  | .toManufacturing => if s.boot.lcs = 3 then s.modBoot (fun b => { b with lcs := 0 }) else s

def execTestAccessPortOperation (op : TapOp) (s : State) : Host.Outcome State Fault Refusal := .next (s.tap op)

end Sys2Proof.Machine
end

