-- ==== Sys2Proof/Machine/Debug.lean ====
section
/-!
DEFINITION. Register accesses (00 R11, R14; 15 R503, R504): TILE_SYNC, TILE_SLOT_CTL and PNL_CTL writes, mailbox ring and
event log configuration (16 R540; 19 R611), the debug controls (19 R600 to R604), host markers (R609), REGISTER_READ_CLEAR and
REGISTER_WRITE.
-/
namespace Sys2Proof.Machine

/-! ### Tiles and panels -/

def tileBlock (t : Nat) : Nat := mmioBase + t * 0x10000

/-- A write of a register of a tile: it waits while the tile is stopped (R600, R604); out of reach it is refused. -/
def State.tileWrite (s : State) (t off : Nat) (auth : Auth) (f : State → State) : State :=
  if s.halted then s
  else if !reaches auth (s.tilePanel t) then s.outOfReach auth (tileBlock t + off)
  else f s

/-- R92: the counter takes the written value; a kind 4 record names the write by engine class 3 (R606). -/
def State.syncWrite (s : State) (t k v : Nat) (auth : Auth) : State :=
  s.tileWrite t (0x1000 + 4 * k) auth (fun s =>
    let s := s.setCtr t (k / 64) (k % 64) (BitVec.ofNat 16 v) t 3 false
    ((s.noteWaits t 0).noteWaits t 1).noteWaits t 2)

def execTileSyncWrite (t : Tile) (j : Slot) (c : Fin 64) (v : BitVec 32) (auth : Auth) (s : State) :
    Host.Outcome State Fault Refusal := .next (s.syncWrite t (64 * j.val + c.val) v.toNat auth)

/-- R91. -/
def State.pauseWrite (s : State) (t v : Nat) (auth : Auth) : State :=
  s.tileWrite t 0x10 auth (fun s => s.modTile t (fun x => { x with pause := BitVec.ofNat 8 v }))

def execTileSlotPauseWrite (t : Tile) (v : BitVec 32) (auth : Auth) (s : State) : Host.Outcome State Fault Refusal :=
  .next (s.pauseWrite t v.toNat auth)

/-- TILE_NFLAG, W1C (R63). -/
def State.nflagWrite (s : State) (t j v : Nat) (auth : Auth) : State :=
  s.tileWrite t (0x100 + 4 * j) auth (fun s =>
    s.modTile t (fun x => { x with nflag := x.nflag.modify 0 j (fun n => n - (n &&& v)) }))

def pnlBlock (p : Nat) : Nat := mmioBase + 0x44000000 + p * 0x10000

/-- A write of a register of a panel's own block. -/
def State.pnlWrite (s : State) (p off : Nat) (auth : Auth) (f : State → State) : State :=
  if !reaches auth (some p) then s.outOfReach auth (pnlBlock p + off) else f s

/-- R510. -/
def State.suspWrite (s : State) (p v : Nat) (auth : Auth) : State :=
  s.pnlWrite p 8 auth (fun s => s.modPanel p (fun x => { x with susp := BitVec.ofNat 8 v }))

def execPanelSuspendWrite (p : PanelId) (v : BitVec 32) (auth : Auth) (s : State) : Host.Outcome State Fault Refusal :=
  .next (s.suspWrite p v.toNat auth)

/-- PNL_TRC_CTL (Table 19.9). -/
def State.trcCtlWrite (s : State) (p v : Nat) (auth : Auth) : State :=
  s.pnlWrite p 0x2000 auth (fun s => s.modPanel p (fun x => { x with trcCtl := bits v 0 11 }))

/-- R609: a host marker of an enabled slot, to trace ring 1. -/
def State.traceMark (s : State) (p v : Nat) (auth : Auth) : State :=
  s.pnlWrite p 0x2008 auth (fun s => s.traceUnit p none { kind := 8, unit := 0x3FFF, slot := bits v 34 3, arg := bits v 0 34 })

def execTraceMark (p : PanelId) (v : BitVec 64) (auth : Auth) (s : State) : Host.Outcome State Fault Refusal :=
  .next (s.traceMark p v.toNat auth)

/-! ### Configuration of mailbox rings and of the module log (R540, R611) -/

/-- The alignments and places that bind a ring with EN 1: LOG2SIZE 6 to 16, base and log in the reach of the writer. -/
def State.ringFits (s : State) (auth : Auth) (r : Ring) (log : Bool) : Bool :=
  !r.en || (decide (6 ≤ r.log2 ∧ r.log2 ≤ 16 ∧ r.base % (2 ^ r.log2 * 64) = 0) && s.t2Reach auth r.base (2 ^ r.log2 * 64) &&
    (!log || (decide (r.clog % (2 ^ r.log2 * 8) = 0) && s.t2Reach auth r.clog (2 ^ r.log2 * 8))))

/-- The ring with CFG written; MODR is that of the writer while EN is 1. -/
def Ring.cfgWrite (r : Ring) (v : Nat) (auth : Auth) : Ring :=
  { r with log2 := bits v 0 5, en := bit v 5, base := bits v 12 40 * 4096, modr := bit v 5 && decide (auth = .owner) }

/-- The ring that a write of one of its registers would leave. -/
def Ring.icrWrite (r : Ring) (k : IcrReg) (v : Nat) (auth : Auth) : Ring :=
  match k with
  | .cfg => r.cfgWrite v auth
  | .clog => { r with clog := bits v 0 52 }
  | .msia => { r with msia := bits v 0 64 }
  | .msid => { r with msid := bits v 0 32 }

def icrOff : IcrReg → Nat | .cfg => 0 | .clog => 0x18 | .msia => 0x20 | .msid => 0x28

/-- ICR_RING_CONFIG_WRITE. -/
def State.icrWrite (s : State) (p : PanelId) (i : Fin 64) (k : IcrReg) (v : Nat) (auth : Auth) : State :=
  let g := mailboxRing p i
  let r := s.ring g
  if !reaches auth (some p.val) || s.modulesOwn g auth then
    s.outOfReach auth (mmioBase + 0x47001000 + p.val * 0x10000 + 0x40 * i.val + icrOff k)
  else
    let r' := r.icrWrite k v auth
    if (r.en && decide (r.head ≠ r.tail)) || !s.ringFits auth r' true then
      s.modPanel p (fun x => { x with cfgerr := satAdd 0xFFFF x.cfgerr 1 })
    else
      let s := s.setRing g r'
      if k = .cfg ∧ r'.en then s.dropSession (.mailbox p i) else s

def execIcrRingConfigWrite (p : PanelId) (i : Fin 64) (r : IcrReg) (v : BitVec 64) (auth : Auth) (s : State) :
    Host.Outcome State Fault Refusal := .next (s.icrWrite p i r v.toNat auth)

/-- R593: a fatal record of the flashes offered to the module log, with the log's LSEQ. -/
def State.writeFatal (s : State) (rec : Nat) : State :=
  match s.evt.offer with
  | (r', some a) => { (s.cohWriteNat 64 a (setBits rec 32 32 s.evt.lseq)) with evt := r' }
  | (r', none) => { s with evt := r', dbg := { s.dbg with edrop := satAdd 0xFFFF s.dbg.edrop 1 } }

/-- R593: the fatal records due after Ready, oldest first, once the log is enabled. -/
def State.writeFatals (s : State) : State :=
  if s.boot.fatalDue && s.evt.en then (s.boot.fatalRecs.foldl State.writeFatal s).modBoot (fun b => { b with fatalDue := false })
  else s

/-- A register of the MOD_ block is reached by module authority only. -/
def State.modWrite (s : State) (off : Nat) (auth : Auth) (f : State → State) : State :=
  if !reaches auth none then s.outOfReach auth (mmioBase + 0x4A000000 + off) else f s

/-- MOD_EVT_CFG_WRITE; a log newly enabled counts its records from 0. -/
def State.evtCfg (s : State) (v : Nat) (auth : Auth) : State :=
  s.modWrite 0x3100 auth (fun s =>
    let r := s.evt
    let r' := r.cfgWrite v auth
    if (r.en && decide (r.head ≠ r.tail)) || !s.ringFits auth r' false then
      { s with dbg := { s.dbg with cfgerr := satAdd 0xFFFF s.dbg.cfgerr 1 } }
    else State.writeFatals { s with evt := { r' with lseq := if r'.en && !r.en then 0 else r.lseq } })

def execModEvtCfgWrite (v : BitVec 64) (auth : Auth) (s : State) : Host.Outcome State Fault Refusal := .next (s.evtCfg v.toNat auth)

/-- R589, R205: a consumer doorbell of the module event log. -/
def State.evtConsume (s : State) (h : Count) : State :=
  if !s.evt.en then s.emit { cls := 4, detail := h.toNat }
  else match consumerBell s.evt h with
    | some r => { s with evt := r }
    | none => { s with dbg := { s.dbg with edrop := satAdd 0xFFFF s.dbg.edrop 1 } }

/-- R589 on the module log: a stale doorbell is counted in EDROP; R205 when the log is disabled. -/
def State.evtBell (s : State) (h : Count) (auth : Auth) : State :=
  s.modWrite 0x3110 auth (fun s => s.evtConsume h)

/-- Trace ring of a panel (Table 7.1). -/
def traceRingId (p i : Nat) : Nat := 261120 + 64 * p + i

def execEventLogDoorbell (g : Option (PanelId × Fin 64)) (count : Count) (auth : Auth) (s : State) :
    Host.Outcome State Fault Refusal :=
  .next (match g with
    | none => s.evtBell count auth
    | some (p, i) => s.doorbell (traceRingId p i) count auth)

/-! ### Halt, thaw, skim (R600 to R604) -/

/-- Remote adds held at stopped tiles are applied in arrival order. -/
def State.applyHeld (s : State) : State :=
  s.tiles.foldl (fun s x =>
    let s := s.modTile x.1 (fun y => { y with heldAdds := [] })
    let s := x.2.heldAdds.foldl State.applyAdd s
    ((s.noteWaits x.1 0).noteWaits x.1 1).noteWaits x.1 2) s

/-- R602: every tile restarts. -/
def State.releaseHalt (s : State) : State :=
  { s with dbg := { s.dbg with halt := false, thawed := false } }.applyHeld

/-- R603: a skim of the selected bands; refused in halted mode while the plane runs, or with a buffer not in T2. -/
def State.skim (s : State) (halted : Bool) (bands : Nat) : State :=
  if (halted && !s.halted) || !skimFits s.dbg.skimAddr bands then { s with dbg := { s.dbg with skerr := true } }
  else
    let s := s.skimTo s.dbg.skimAddr bands
    { s with dbg := { s.dbg with skbusy := true } }

/-- A write of MOD_DBG_CTL: the fields, a skim of the state the write finds, then halt and thaw. -/
def State.dbgCtl (s : State) (v : Nat) (auth : Auth) : State :=
  s.modWrite 0x3000 auth (fun s =>
    let s := { s with dbg := { s.dbg with skmode := bit v 3, skbands := bits v 4 16 } }
    let s := if bit v 2 then s.skim (bit v 3) (bits v 4 16) else s
    if bit v 0 then
      let s := s.assertHalt
      { s with dbg := { s.dbg with thawed := bit v 1 } }
    else if s.halted then s.releaseHalt else s)

/-- HALT: writes with HALT 1. -/
def execHalt (v : BitVec 32) (auth : Auth) (s : State) : Host.Outcome State Fault Refusal :=
  .next (if bit v.toNat 0 then s.dbgCtl v.toNat auth else s)

/-- HALT_RELEASE: writes with HALT 0. -/
def execHaltRelease (v : BitVec 32) (auth : Auth) (s : State) : Host.Outcome State Fault Refusal :=
  .next (if bit v.toNat 0 then s else s.dbgCtl v.toNat auth)

/-- THAW: writes with THAW 1. -/
def execThaw (v : BitVec 32) (auth : Auth) (s : State) : Host.Outcome State Fault Refusal :=
  .next (if bit v.toNat 1 then s.dbgCtl v.toNat auth else s)

/-- SKIM_LIVE: writes with SKIM 1 and SKMODE 0. -/
def execSkimLive (v : BitVec 32) (auth : Auth) (s : State) : Host.Outcome State Fault Refusal :=
  .next (if bit v.toNat 2 && !bit v.toNat 3 then s.dbgCtl v.toNat auth else s)

/-- SKIM_HALTED: writes with SKIM 1 and SKMODE 1. -/
def execSkimHalted (v : BitVec 32) (auth : Auth) (s : State) : Host.Outcome State Fault Refusal :=
  .next (if bit v.toNat 2 && bit v.toNat 3 then s.dbgCtl v.toNat auth else s)

/-- SKIM_COMPLETE: SKBUSY falls. -/
def execSkimComplete (s : State) : Host.Outcome State Fault Refusal := .next { s with dbg := { s.dbg with skbusy := false } }

/-! ### REGISTER_READ_CLEAR (R11, R504, R282) -/

/-- Naturally aligned 4 B or 8 B (R330). -/
def regAligned (a : Nat) (wide : Bool) : Bool := decide (a % (if wide then 8 else 4) = 0)

/-- The tile that holds the register is stopped, so that the access waits. -/
def State.regWaits (s : State) (b : Block) (write : Bool) : Bool :=
  match b with | .tile _ => if write then s.halted else s.frozen | _ => false

/-- A read at an offset of a block: its value, and its RC fields cleared. -/
def State.regRead (s : State) (addr : Nat) (wide : Bool) (auth : Auth) : State :=
  if !regAligned addr wide then s
  else match blockOf addr with
    | none => { (s.recordUnmapped .manager addr false) with regRsp := 0 }
    | some (b, off) =>
      if s.regWaits b false then s
      else if !s.blockReach auth b off false then { (s.outOfReach auth addr) with regRsp := 0 }
      else
        let v := s.regValue b off wide
        { (s.clearRead b (off / 8 * 8) (wide || decide (off % 8 = 0)) (wide || decide (off % 8 = 4))) with regRsp := v }

def execRegisterReadClear (addr : Nat) (wide : Bool) (auth : Auth) (s : State) : Host.Outcome State Fault Refusal :=
  .next (s.regRead addr wide auth)

/-! ### REGISTER_WRITE (R11, R14) -/

/-- The doorbells of a block of ring registers: `n` rings from ring ID `g`, registers from `base`, stride 0x20. -/
def State.bellAt (s : State) (g base n off v : Nat) (auth : Auth) : State :=
  let i := (off - base) / 0x20
  if base ≤ off ∧ i < n ∧ (off - base) % 0x20 = 0x10 then s.doorbell (g + i) (BitVec.ofNat 32 v) auth else s

/-- Words of a write: low and high, where written. -/
def State.onLow (s : State) (lo : Bool) (f : State → State) : State := if lo then f s else s

def State.writeTile (s : State) (t off v : Nat) (lo hi : Bool) (auth : Auth) : State :=
  let l := bits v 0 32
  let h := bits v 32 32
  if off = 0x10 then s.onLow lo (fun s => s.pauseWrite t l auth)
  else if 0x100 ≤ off ∧ off < 0x120 then
    let j := (off - 0x100) / 4
    (s.onLow lo (fun s => s.nflagWrite t j l auth)).onLow hi (fun s => s.nflagWrite t (j + 1) h auth)
  else if 0x400 ≤ off ∧ off < 0x700 then s.onLow lo (fun s => s.bellAt (24 * t) 0x400 24 off l auth)
  else if 0x1000 ≤ off ∧ off < 0x1800 then
    let k := (off - 0x1000) / 4
    (s.onLow lo (fun s => s.syncWrite t k l auth)).onLow hi (fun s => s.syncWrite t (k + 1) h auth)
  else s

def State.writePnl (s : State) (p off v : Nat) (lo : Bool) (auth : Auth) : State :=
  if off = 8 then s.onLow lo (fun s => s.suspWrite p (bits v 0 32) auth)
  else if off = 0x2000 then s.onLow lo (fun s => s.trcCtlWrite p (bits v 0 32) auth)
  else if off = 0x2008 then s.traceMark p v auth
  else s.onLow lo (fun s => s.bellAt (panelLog p) 0x3000 64 off (bits v 0 32) auth)

/-- The 8 B of `cur` with the written halves of `v`. -/
def mergeHalves (cur v : Nat) (lo hi : Bool) : Nat :=
  (if lo then bits v 0 32 else bits cur 0 32) + (if hi then bits v 32 32 else bits cur 32 32) * 2 ^ 32

/-- Register number `k` of a mailbox ring's block (Table 16.17). -/
def State.writeMailbox (s : State) (p : PanelId) (i : Fin 64) (k v : Nat) (lo hi : Bool) (auth : Auth) : State :=
  let r := s.ring (mailboxRing p i)
  match k with
  | 0 => s.icrWrite p i .cfg (mergeHalves (r.dword true 0) v lo hi) auth
  | 2 => s.onLow lo (fun s => s.doorbell (mailboxRing p i) (BitVec.ofNat 32 v) auth)
  | 3 => s.icrWrite p i .clog (mergeHalves r.clog v lo hi) auth
  | 4 => s.icrWrite p i .msia (mergeHalves r.msia v lo hi) auth
  | 5 => s.onLow lo (fun s => s.icrWrite p i .msid v auth)
  | _ => s

/-- A mailbox ring's registers; a 32-bit write of a 64-bit register leaves its other word as it stands. -/
def State.writeIcr (s : State) (p : Fin 16) (off v : Nat) (lo hi : Bool) (auth : Auth) : State :=
  if off < 0x1000 ∨ 0x2000 ≤ off then s
  else
    s.writeMailbox p (Fin.ofNat 64 ((off - 0x1000) / 0x40)) ((off - 0x1000) % 0x40 / 8) v lo hi auth

/-- Debug registers without a behaviour of their own: SKERR, MOD_HALTON, MOD_SKIM_ADDR, MOD_DUMP_ADDR. -/
def Dbg.write (d : Dbg) (off v : Nat) (lo hi : Bool) : Dbg :=
  let merge (cur n : Nat) : Nat :=
    ((if lo then bits v 0 32 else bits cur 0 32) + (if hi then bits v 32 32 else bits cur 32 32) * 2 ^ 32) % 2 ^ n
  if off = 0x3008 then { d with skerr := d.skerr && !(lo && bit v 3) }
  else if off = 0x3010 then
    let m := merge d.halton 64
    { d with halton := m, haltSeen := d.haltSeen &&& m }
  else if off = 0x3018 then { d with skimAddr := merge d.skimAddr 52 }
  else if off = 0x3020 then { d with dumpAddr := merge d.dumpAddr 52 }
  else d

def State.writeMod (s : State) (off v : Nat) (lo hi : Bool) (auth : Auth) : State :=
  if off = 0x3000 then s.onLow lo (fun s => s.dbgCtl (bits v 0 32) auth)
  else if off = 0x3030 then s.onLow lo (fun s => s.hwdogWrite 0 v auth)
  else if off = 0x3038 then s.onLow lo (fun s => s.hwdogWrite 1 v auth)
  else if off = 0x3100 then
    let cur := s.evt.dword true 0
    s.evtCfg ((if lo then bits v 0 32 else bits cur 0 32) + (if hi then bits v 32 32 else bits cur 32 32) * 2 ^ 32) auth
  else if off = 0x3110 then s.onLow lo (fun s => s.evtBell (BitVec.ofNat 32 v) auth)
  else if off = 0x4008 then s.timeSet v auth
  else s.modWrite off auth (fun s => { s with dbg := s.dbg.write off v lo hi })

/-- The aligned 8 B of a block take the written words; `v` is 0 in a word not written. -/
def State.blockWrite (s : State) (b : Block) (off v : Nat) (lo hi : Bool) (auth : Auth) : State :=
  let l := bits v 0 32
  match b with
  | .tile t => s.writeTile t off v lo hi auth
  | .grtDie d => if off % 0x40 = 8 ∧ off / 0x40 < 64 then s.onLow lo (fun s => s.retrainRequest (64 * d + off / 0x40) l auth) else s
  | .seg p => if off = 0x1000 then s.onLow lo (fun s => s.stageInvalidate p l auth) else s
  | .pnl p => s.writePnl p off v lo auth
  | .hod h => s.onLow lo (fun s => s.bellAt (253952 + 128 * h) 0x1000 128 off l auth)
  | .crs n =>
    if off = 8 then s.onLow lo (fun s => s.retrainPort n l auth)
    else s.onLow lo (fun s => s.bellAt (245760 + 256 * n) 0x1000 256 off l auth)
  | .icr p => s.writeIcr (Fin.ofNat 16 p) off v lo hi auth
  | .int n => s.onLow lo (fun s => s.bellAt (258048 + 512 * n) 0x1000 512 off l auth)
  | .mod => s.writeMod off v lo hi auth
  | .grtSill _ => s
  | .grtHost _ => s
  | .hst _ => s

/-- A write of 4 B or 8 B. -/
def State.regWrite (s : State) (addr : Nat) (wide : Bool) (v : Nat) (auth : Auth) : State :=
  if !regAligned addr wide then s
  else match blockOf addr with
    | none => s.recordUnmapped .manager addr true
    | some (b, off) =>
      if s.regWaits b true then s
      else if !s.blockReach auth b off true then s.outOfReach auth addr
      else
        let high := !wide && decide (off % 8 = 4)
        s.blockWrite b (off / 8 * 8) (if wide then v else if high then bits v 0 32 * 2 ^ 32 else bits v 0 32) (!high) (wide || high) auth

def execRegisterWrite (addr : Nat) (wide : Bool) (v : BitVec 64) (auth : Auth) (s : State) : Host.Outcome State Fault Refusal :=
  .next (s.regWrite addr wide v.toNat auth)

end Sys2Proof.Machine
end

