-- ==== Sys2Proof/Machine/Inject.lean ====
section
/-!
DEFINITION. INJECT and INJECT_DISARM (16 R537, R538, Table 16.15). Injections that wait for an occurrence are armed in State,
where the operations they fire at find them; those that fire at once have their effect here.
-/
namespace Sys2Proof.Machine

/-- Targets that a detector has. -/
def injTarget (det t : Nat) : Bool :=
  match det with
  | 0x01 | 0x02 | 0x08 | 0x09 | 0x0A | 0x0B => decide (t < 10240)
  | 0x03 => decide (t < 512)
  | 0x04 | 0x07 => decide (t < 32)
  | 0x05 => decide (t < 2560) && (edgeFaces (t / 64) (t % 64 / 16)).isSome
  | 0x06 => decide (t < 54) && (decide (t < 48) || decide (t % 3 ≠ 0))
  | 0x0C => decide (t < 16)
  | 0x0D => decide (t = 0)
  | 0x0E => decide (t < 65536)
  | 0x0F | 0x11 => decide (t < 128)
  | 0x10 => decide (t < 2)
  | _ => false

/-- ARG by detector, at bit 64 of the parameters; a detector without an argument takes none. -/
def injArg (det : Nat) : List Field :=
  match det with
  | 0x01 | 0x03 | 0x04 | 0x0E => [⟨64, 32, .clamp 0 1 1 false⟩]
  | 0x02 => [⟨64, 3, anyVal⟩, ⟨67, 6, .clamp 0 32 1 false⟩, ⟨73, 6, .clamp 0 32 1 false⟩, ⟨79, 5, anyVal⟩, ⟨84, 12, .reserved⟩]
  | 0x05 | 0x06 | 0x07 => [⟨64, 32, .clamp 1 255 1 false⟩]
  | 0x0A => [⟨64, 32, anyVal⟩]
  | 0x0C => [⟨64, 32, .clamp 0 125 1 false⟩]
  | 0x0D => [⟨64, 32, .clamp 1 99 1 false⟩]
  | _ => [⟨64, 32, .reserved⟩]

def injFields (_ : State) (q : IcralReq) : List Field :=
  let w := q.params
  let det := bits w 0 8
  let off := bit w 9
  [⟨0, 8, .reject (fun d => decide (1 ≤ d ∧ d ≤ 0x11))⟩, ⟨8, 1, if off then .reserved else anyVal⟩, ⟨9, 1, anyVal⟩, ⟨10, 22, .reserved⟩,
   ⟨32, 32, .reject (injTarget det)⟩] ++ (if off then [⟨64, 32, .reserved⟩] else injArg det) ++ [⟨96, 32, .reserved⟩]

/-- The record of an injection whose real event writes none (R538). -/
def injEvent (det target : Nat) (unit : Agent) : Event :=
  { cls := 0x20, cause := 18, inj := true, unit := unit, detail := det + target * 2 ^ 32 }

/-- An injection that fires now; in LOG mode it is recorded only. -/
def State.injectNow (s : State) (det target : Nat) (log : Bool) : State :=
  match det with
  | 0x0B => (if log then s else s.droop target).emit (injEvent det target (tileAgent target))
  | 0x0D =>
    (if log ∨ s.boot.ref ≠ 1 then s else s.modBoot (fun b => { b with ref := 2 })).emit (injEvent det target .manager)
  | 0x0F =>
    let p := target / 8
    let j := target % 8
    if log then s.emit { cls := 0x12, inj := true, job := some (p, j), unit := .manager } else s.watchdogEnds p j true
  | _ =>
    if log then s.emit { cls := 0x20, cause := 15, inj := true, unit := hostAgent target } else s.hwdogExpires target true

def injNow (det : Nat) : Bool := decide (det = 0x0B ∨ det = 0x0D ∨ det = 0x0F ∨ det = 0x10)

def specInject : OpSpec :=
  { fields := injFields
    run := fun s _ w =>
      let det := bits w 0 8
      let t := bits w 32 32
      if det = 0x0F ∧ !s.running (t / 8) (t % 8) then .refuse stConflict 32
      else if injNow det then .ok (s.injectNow det t (bit w 8))
      else .ok { s with inj := s.inj.set none (injKey det t) (some (bits w 64 32, bit w 8)) } }

def execInject (q : IcralReq) (s : State) : Host.Outcome State Fault Refusal :=
  .next (s.performReq q (decide (q.opcode.toNat = 0x40) && !bit q.params 9) specInject)

def specDisarm : OpSpec :=
  { fields := injFields
    run := fun s _ w => .ok (s.disarm (bits w 0 8) (bits w 32 32)) }

def execInjectDisarm (q : IcralReq) (s : State) : Host.Outcome State Fault Refusal :=
  .next (s.performReq q (decide (q.opcode.toNat = 0x40) && bit q.params 9) specDisarm)

end Sys2Proof.Machine
end

