-- ==== Sys2Proof/Machine/Dispatch.lean ====
section
/-!
DEFINITION. One arm per command: a direct call of its meaning.
-/
namespace Sys2Proof.Machine

def exec (i : Instr) (s : State) : Host.Outcome State Fault Refusal :=
  match i with
  | .nop t c => Sys2Proof.Machine.execNop t c s
  | .fence t c => Sys2Proof.Machine.execFence t c s
  | .cskip t c => Sys2Proof.Machine.execCskip t c s
  | .marker t c => Sys2Proof.Machine.execMarker t c s
  | .stamp t => Sys2Proof.Machine.execStamp t s
  | .mm t => Sys2Proof.Machine.execMm t s
  | .mmAcc t => Sys2Proof.Machine.execMmAcc t s
  | .conv t => Sys2Proof.Machine.execConv t s
  | .convAcc t => Sys2Proof.Machine.execConvAcc t s
  | .ws8 t => Sys2Proof.Machine.execWs8 t s
  | .ws8Acc t => Sys2Proof.Machine.execWs8Acc t s
  | .ws2 t => Sys2Proof.Machine.execWs2 t s
  | .ws2Acc t => Sys2Proof.Machine.execWs2Acc t s
  | .vew1 t => Sys2Proof.Machine.execVew1 t s
  | .vew2 t => Sys2Proof.Machine.execVew2 t s
  | .vfma t => Sys2Proof.Machine.execVfma t s
  | .vred t => Sys2Proof.Machine.execVred t s
  | .vcvt t => Sys2Proof.Machine.execVcvt t s
  | .vzmap t => Sys2Proof.Machine.execVzmap t s
  | .moeCount t => Sys2Proof.Machine.execMoeCount t s
  | .moeScan t => Sys2Proof.Machine.execMoeScan t s
  | .moeSum t => Sys2Proof.Machine.execMoeSum t s
  | .mvCopy t => Sys2Proof.Machine.execMvCopy t s
  | .mvExpand t => Sys2Proof.Machine.execMvExpand t s
  | .mvFill t => Sys2Proof.Machine.execMvFill t s
  | .moeDispatch t => Sys2Proof.Machine.execMoeDispatch t s
  | .moeGather t => Sys2Proof.Machine.execMoeGather t s
  | .rbAdd t => Sys2Proof.Machine.execRbAdd t s
  | .rbRead t => Sys2Proof.Machine.execRbRead t s
  | .ringDoorbell g count auth => Sys2Proof.Machine.execRingDoorbell g count auth s
  | .ringEntryFetch g => Sys2Proof.Machine.execRingEntryFetch g s
  | .sequencerSelect t c => Sys2Proof.Machine.execSequencerSelect t c s
  | .commandTranslated t c => Sys2Proof.Machine.execCommandTranslated t c s
  | .engineTakeCommand t c => Sys2Proof.Machine.execEngineTakeCommand t c s
  | .feederFill t col ix => Sys2Proof.Machine.execFeederFill t col ix s
  | .arrayStepIssue t => Sys2Proof.Machine.execArrayStepIssue t s
  | .weightLoadPass t => Sys2Proof.Machine.execWeightLoadPass t s
  | .arrayDrain t => Sys2Proof.Machine.execArrayDrain t s
  | .commandComplete t c u => Sys2Proof.Machine.execCommandComplete t c u s
  | .remoteAddApply src dst => Sys2Proof.Machine.execRemoteAddApply src dst s
  | .remoteAddAck t => Sys2Proof.Machine.execRemoteAddAck t s
  | .moverTransactionResponse t tag r => Sys2Proof.Machine.execMoverTransactionResponse t tag r s
  | .sramCorrectedWriteback t bank => Sys2Proof.Machine.execSramCorrectedWriteback t bank s
  | .remoteAgentRequest t rq e => Sys2Proof.Machine.execRemoteAgentRequest t rq e s
  | .sillHbmRequest u rq e => Sys2Proof.Machine.execSillHbmRequest u rq e s
  | .caccReceive p => Sys2Proof.Machine.execCaccReceive p s
  | .stagedRead t u addr len tag => Sys2Proof.Machine.execStagedRead t u addr len tag s
  | .stagingFillComplete q line => Sys2Proof.Machine.execStagingFillComplete q line s
  | .stagingInvalidate p v auth => Sys2Proof.Machine.execStagingInvalidate p v auth s
  | .cohReq h line cmd age who => Sys2Proof.Machine.execCohReq h line cmd age who s
  | .writeback h line who data => Sys2Proof.Machine.execWriteback h line who data s
  | .homeNoncohAccess h rq e => Sys2Proof.Machine.execHomeNoncohAccess h rq e s
  | .homeAtomic h rq => Sys2Proof.Machine.execHomeAtomic h rq s
  | .sliceSnoop sl line k => Sys2Proof.Machine.execSliceSnoop sl line k s
  | .sliceSnoopRsp sl line t r => Sys2Proof.Machine.execSliceSnoopRsp sl line t r s
  | .cacheSnoop who line k => Sys2Proof.Machine.execCacheSnoop who line k s
  | .homeSnoopRsp h line src r => Sys2Proof.Machine.execHomeSnoopRsp h line src r s
  | .homeSnoopResend h line dst => Sys2Proof.Machine.execHomeSnoopResend h line dst s
  | .cohGrantReceive who line g => Sys2Proof.Machine.execCohGrantReceive who line g s
  | .cacheHoldExpiry who line => Sys2Proof.Machine.execCacheHoldExpiry who line s
  | .cohNackReceive who line reason => Sys2Proof.Machine.execCohNackReceive who line reason s
  | .cohRetry who line => Sys2Proof.Machine.execCohRetry who line s
  | .reservationExpiry h r => Sys2Proof.Machine.execReservationExpiry h r s
  | .pcieInboundRequest rp rid iova op relaxed ans => Sys2Proof.Machine.execPcieInboundRequest rp rid iova op relaxed ans s
  | .pcieWake rp => Sys2Proof.Machine.execPcieWake rp s
  | .mxZero c rd rs1 rs2 => Sys2Proof.Machine.execMxZero c rd rs1 rs2 s
  | .mxOpa c rd rs1 rs2 => Sys2Proof.Machine.execMxOpa c rd rs1 rs2 s
  | .mxOpn c rd rs1 rs2 => Sys2Proof.Machine.execMxOpn c rd rs1 rs2 s
  | .mxLd c rd rs1 rs2 => Sys2Proof.Machine.execMxLd c rd rs1 rs2 s
  | .mxSt c rd rs1 rs2 => Sys2Proof.Machine.execMxSt c rd rs1 rs2 s
  | .mxStb c rd rs1 rs2 => Sys2Proof.Machine.execMxStb c rd rs1 rs2 s
  | .mxMvr c rd rs1 rs2 => Sys2Proof.Machine.execMxMvr c rd rs1 rs2 s
  | .sbiSystemReset c type => Sys2Proof.Machine.execSbiSystemReset c type s
  | .tvplumbWrite c v mode => Sys2Proof.Machine.execTvplumbWrite c v mode s
  | .plumbTurnEnd h g why => Sys2Proof.Machine.execPlumbTurnEnd h g why s
  | .hostWarmReset => Sys2Proof.Machine.execHostWarmReset s
  | .hostCoreRelease => Sys2Proof.Machine.execHostCoreRelease s
  | .cNop n ix => Sys2Proof.Machine.execCNop n ix s
  | .cWrite n ix => Sys2Proof.Machine.execCWrite n ix s
  | .cAcc n ix => Sys2Proof.Machine.execCAcc n ix s
  | .cPut n ix => Sys2Proof.Machine.execCPut n ix s
  | .cBcast n ix => Sys2Proof.Machine.execCBcast n ix s
  | .cAllreduce n ix => Sys2Proof.Machine.execCAllreduce n ix s
  | .cRscatter n ix => Sys2Proof.Machine.execCRscatter n ix s
  | .cVote n ix => Sys2Proof.Machine.execCVote n ix s
  | .cAbort n ix => Sys2Proof.Machine.execCAbort n ix s
  | .collectivePhaseAdvance n ix => Sys2Proof.Machine.execCollectivePhaseAdvance n ix s
  | .courseCommandComplete n ix => Sys2Proof.Machine.execCourseCommandComplete n ix s
  | .courseDataReceive n f => Sys2Proof.Machine.execCourseDataReceive n f s
  | .courseFrameApplied k seq => Sys2Proof.Machine.execCourseFrameApplied k seq s
  | .courseAckReceive n f => Sys2Proof.Machine.execCourseAckReceive n f s
  | .courseAckTimer k => Sys2Proof.Machine.execCourseAckTimer k s
  | .courseRetxTimer k seq => Sys2Proof.Machine.execCourseRetxTimer k seq s
  | .coursePathSkipExpiry k path => Sys2Proof.Machine.execCoursePathSkipExpiry k path s
  | .courseConnFailTimer k seq => Sys2Proof.Machine.execCourseConnFailTimer k seq s
  | .voteFrameReceive n f => Sys2Proof.Machine.execVoteFrameReceive n f s
  | .voteTimeout p u => Sys2Proof.Machine.execVoteTimeout p u s
  | .courseAbortReceive n f => Sys2Proof.Machine.execCourseAbortReceive n f s
  | .abortResend p u => Sys2Proof.Machine.execAbortResend p u s
  | .courseLinkDown n => Sys2Proof.Machine.execCourseLinkDown n s
  | .courseLinkHoldExpiry n => Sys2Proof.Machine.execCourseLinkHoldExpiry n s
  | .coursePortRetrain n v auth => Sys2Proof.Machine.execCoursePortRetrain n v auth s
  | .ethFrameReceive n f => Sys2Proof.Machine.execEthFrameReceive n f s
  | .ethFrameTransmit n q => Sys2Proof.Machine.execEthFrameTransmit n q s
  | .hNop h ix => Sys2Proof.Machine.execHNop h ix s
  | .hGather h ix => Sys2Proof.Machine.execHGather h ix s
  | .hMerge h ix => Sys2Proof.Machine.execHMerge h ix s
  | .hUpdate h ix => Sys2Proof.Machine.execHUpdate h ix s
  | .hodCommandComplete h ix => Sys2Proof.Machine.execHodCommandComplete h ix s
  | .iNop n ix => Sys2Proof.Machine.execINop n ix s
  | .iImage n ix => Sys2Proof.Machine.execIImage n ix s
  | .iVideo n ix => Sys2Proof.Machine.execIVideo n ix s
  | .iAlign n ix => Sys2Proof.Machine.execIAlign n ix s
  | .iShuffle n ix => Sys2Proof.Machine.execIShuffle n ix s
  | .intakeCommandComplete n ix => Sys2Proof.Machine.execIntakeCommandComplete n ix s
  | .mailboxEntryFetch p ix => Sys2Proof.Machine.execMailboxEntryFetch p ix s
  | .mgmtDatagramReceive d => Sys2Proof.Machine.execMgmtDatagramReceive d s
  | .i3cPrivateWrite bytes => Sys2Proof.Machine.execI3cPrivateWrite bytes s
  | .i3cPrivateRead => Sys2Proof.Machine.execI3cPrivateRead s
  | .sessionIdleExpiry ip port => Sys2Proof.Machine.execSessionIdleExpiry ip port s
  | .reassemblyExpiry ip ident => Sys2Proof.Machine.execReassemblyExpiry ip ident s
  | .idQuery q => Sys2Proof.Machine.execIdQuery q s
  | .setModuleId q => Sys2Proof.Machine.execSetModuleId q s
  | .statusQuery q => Sys2Proof.Machine.execStatusQuery q s
  | .telemetry q => Sys2Proof.Machine.execTelemetry q s
  | .setPowerLimit q => Sys2Proof.Machine.execSetPowerLimit q s
  | .setFabric q => Sys2Proof.Machine.execSetFabric q s
  | .hostReset q => Sys2Proof.Machine.execHostReset q s
  | .moduleReset q => Sys2Proof.Machine.execModuleReset q s
  | .lifecycleTransition q => Sys2Proof.Machine.execLifecycleTransition q s
  | .lifecycleStageImage q => Sys2Proof.Machine.execLifecycleStageImage q s
  | .lifecycleActivateImage q => Sys2Proof.Machine.execLifecycleActivateImage q s
  | .lifecycleRecoveryBlock q => Sys2Proof.Machine.execLifecycleRecoveryBlock q s
  | .lifecycleRecoveryCommit q => Sys2Proof.Machine.execLifecycleRecoveryCommit q s
  | .imageStageDone ok => Sys2Proof.Machine.execImageStageDone ok s
  | .panelCreate q => Sys2Proof.Machine.execPanelCreate q s
  | .panelDestroy q => Sys2Proof.Machine.execPanelDestroy q s
  | .panelReset q => Sys2Proof.Machine.execPanelReset q s
  | .panelResetComplete p => Sys2Proof.Machine.execPanelResetComplete p s
  | .grant q => Sys2Proof.Machine.execGrant q s
  | .grantRevoke q => Sys2Proof.Machine.execGrantRevoke q s
  | .keepDefine q => Sys2Proof.Machine.execKeepDefine q s
  | .keepRelease q => Sys2Proof.Machine.execKeepRelease q s
  | .keepAssign q => Sys2Proof.Machine.execKeepAssign q s
  | .keepUnassign q => Sys2Proof.Machine.execKeepUnassign q s
  | .poolMap q => Sys2Proof.Machine.execPoolMap q s
  | .poolUnmap q => Sys2Proof.Machine.execPoolUnmap q s
  | .staging q => Sys2Proof.Machine.execStaging q s
  | .ringConfig q => Sys2Proof.Machine.execRingConfig q s
  | .segment q => Sys2Proof.Machine.execSegment q s
  | .segmentRead q => Sys2Proof.Machine.execSegmentRead q s
  | .segmentUpdateComplete p u e => Sys2Proof.Machine.execSegmentUpdateComplete p u e s
  | .window q => Sys2Proof.Machine.execWindow q s
  | .windowRead q => Sys2Proof.Machine.execWindowRead q s
  | .rtableWrite q => Sys2Proof.Machine.execRtableWrite q s
  | .rtableRead q => Sys2Proof.Machine.execRtableRead q s
  | .rtableArm q => Sys2Proof.Machine.execRtableArm q s
  | .coursePort q => Sys2Proof.Machine.execCoursePort q s
  | .mgmtNet q => Sys2Proof.Machine.execMgmtNet q s
  | .jobStart q => Sys2Proof.Machine.execJobStart q s
  | .jobEnd q => Sys2Proof.Machine.execJobEnd q s
  | .inject q => Sys2Proof.Machine.execInject q s
  | .injectDisarm q => Sys2Proof.Machine.execInjectDisarm q s
  | .jobSlotIdle p u => Sys2Proof.Machine.execJobSlotIdle p u s
  | .jobWatchdogExpiry p u => Sys2Proof.Machine.execJobWatchdogExpiry p u s
  | .transactionTimeout a tag => Sys2Proof.Machine.execTransactionTimeout a tag s
  | .t3AccessTimeout a tag => Sys2Proof.Machine.execT3AccessTimeout a tag s
  | .hostWatchdogExpiry h => Sys2Proof.Machine.execHostWatchdogExpiry h s
  | .hwdogPeriodWrite h v auth => Sys2Proof.Machine.execHwdogPeriodWrite h v auth s
  | .hwdogKick h v auth => Sys2Proof.Machine.execHwdogKick h v auth s
  | .tileSyncWrite t u c v auth => Sys2Proof.Machine.execTileSyncWrite t u c v auth s
  | .tileSlotPauseWrite t v auth => Sys2Proof.Machine.execTileSlotPauseWrite t v auth s
  | .panelSuspendWrite p v auth => Sys2Proof.Machine.execPanelSuspendWrite p v auth s
  | .linkRetrainRequest d e ix v auth => Sys2Proof.Machine.execLinkRetrainRequest d e ix v auth s
  | .icrRingConfigWrite p ix r v auth => Sys2Proof.Machine.execIcrRingConfigWrite p ix r v auth s
  | .modEvtCfgWrite v auth => Sys2Proof.Machine.execModEvtCfgWrite v auth s
  | .eventLogDoorbell g count auth => Sys2Proof.Machine.execEventLogDoorbell g count auth s
  | .halt v auth => Sys2Proof.Machine.execHalt v auth s
  | .haltRelease v auth => Sys2Proof.Machine.execHaltRelease v auth s
  | .thaw v auth => Sys2Proof.Machine.execThaw v auth s
  | .skimLive v auth => Sys2Proof.Machine.execSkimLive v auth s
  | .skimHalted v auth => Sys2Proof.Machine.execSkimHalted v auth s
  | .traceMark p v auth => Sys2Proof.Machine.execTraceMark p v auth s
  | .timeSetWrite v auth => Sys2Proof.Machine.execTimeSetWrite v auth s
  | .timeSetExpiry => Sys2Proof.Machine.execTimeSetExpiry s
  | .registerReadClear addr wide auth => Sys2Proof.Machine.execRegisterReadClear addr wide auth s
  | .registerWrite addr wide v auth => Sys2Proof.Machine.execRegisterWrite addr wide v auth s
  | .linkFlitReceive l field content => Sys2Proof.Machine.execLinkFlitReceive l field content s
  | .linkReplayTimeout l => Sys2Proof.Machine.execLinkReplayTimeout l s
  | .linkRetrain l badLanes => Sys2Proof.Machine.execLinkRetrain l badLanes s
  | .linkRetrainComplete l => Sys2Proof.Machine.execLinkRetrainComplete l s
  | .spareLaneTest l err => Sys2Proof.Machine.execSpareLaneTest l err s
  | .failedLinkLaneTest l badLanes => Sys2Proof.Machine.execFailedLinkLaneTest l badLanes s
  | .powerManagerTick inputW rails estimate => Sys2Proof.Machine.execPowerManagerTick inputW rails estimate s
  | .droopDetect t mv => Sys2Proof.Machine.execDroopDetect t mv s
  | .tileTempSample t quarterC => Sys2Proof.Machine.execTileTempSample t quarterC s
  | .hbmTempSample u degC => Sys2Proof.Machine.execHbmTempSample u degC s
  | .lpddrPatrolScrub h pkg addr e passDone => Sys2Proof.Machine.execLpddrPatrolScrub h pkg addr e passDone s
  | .arrayPatternTest t pass => Sys2Proof.Machine.execArrayPatternTest t pass s
  | .suspicionExpiry t => Sys2Proof.Machine.execSuspicionExpiry t s
  | .wipeComplete id => Sys2Proof.Machine.execWipeComplete id s
  | .standbyPowerOn sill0Ok => Sys2Proof.Machine.execStandbyPowerOn sill0Ok s
  | .standbyPowerLoss => Sys2Proof.Machine.execStandbyPowerLoss s
  | .mainPowerValid => Sys2Proof.Machine.execMainPowerValid s
  | .mainPowerLoss overV => Sys2Proof.Machine.execMainPowerLoss overV s
  | .mainStart => Sys2Proof.Machine.execMainStart s
  | .bootPhaseComplete ph => Sys2Proof.Machine.execBootPhaseComplete ph s
  | .rstNAssert usec => Sys2Proof.Machine.execRstNAssert usec s
  | .rstNRelease => Sys2Proof.Machine.execRstNRelease s
  | .moduleResetBegin => Sys2Proof.Machine.execModuleResetBegin s
  | .refclkValid => Sys2Proof.Machine.execRefclkValid s
  | .refclkLoss => Sys2Proof.Machine.execRefclkLoss s
  | .refclkLossTimeout => Sys2Proof.Machine.execRefclkLossTimeout s
  | .refclkReturn => Sys2Proof.Machine.execRefclkReturn s
  | .ppsEdge at_ => Sys2Proof.Machine.execPpsEdge at_ s
  | .ppsLockLoss => Sys2Proof.Machine.execPpsLockLoss s
  | .managerHeartbeat => Sys2Proof.Machine.execManagerHeartbeat s
  | .managerHeartbeatTimeout standbyOk => Sys2Proof.Machine.execManagerHeartbeatTimeout standbyOk s
  | .masonCoreTimeout d => Sys2Proof.Machine.execMasonCoreTimeout d s
  | .courseLinkUp n half => Sys2Proof.Machine.execCourseLinkUp n half s
  | .waitWordPoll g => Sys2Proof.Machine.execWaitWordPoll g s
  | .droopRecovery t => Sys2Proof.Machine.execDroopRecovery t s
  | .writebackAckReceive who line => Sys2Proof.Machine.execWritebackAckReceive who line s
  | .homeMemoryReadDone h line => Sys2Proof.Machine.execHomeMemoryReadDone h line s
  | .pciePresenceChange rp present => Sys2Proof.Machine.execPciePresenceChange rp present s
  | .i3cDynamicAddressAssign addr => Sys2Proof.Machine.execI3cDynamicAddressAssign addr s
  | .dhcpLeaseTimer ans => Sys2Proof.Machine.execDhcpLeaseTimer ans s
  | .resumeCheckTimeout p u => Sys2Proof.Machine.execResumeCheckTimeout p u s
  | .hodAccessResponse h write r => Sys2Proof.Machine.execHodAccessResponse h write r s
  | .intakeAccessResponse n write r => Sys2Proof.Machine.execIntakeAccessResponse n write r s
  | .skimComplete => Sys2Proof.Machine.execSkimComplete s
  | .testAccessPortOperation op => Sys2Proof.Machine.execTestAccessPortOperation op s
  | .standbyManagerLoss => Sys2Proof.Machine.execStandbyManagerLoss s
  | .dieTempSample sill unit quarterC => Sys2Proof.Machine.execDieTempSample sill unit quarterC s

end Sys2Proof.Machine
end

