-- ==== Sys2Proof/Safety.lean ====
section
/-!
DEFINITION. What counts as a safe run, and the terms in which claims say what a command leaves alone.
-/
namespace Sys2Proof.Machine

/-- `s'` is what one step of `s` answers. -/
def Steps (s s' : State) : Prop := step s = .next s'

/-- `s'` is reached from `s` by steps that answer next states. -/
inductive Reaches (s : State) : State → Prop where
  | refl : Reaches s s
  | step {u v : State} : Reaches s u → Steps u v → Reaches s v

/-! ### Frames: from `s` to `u` only the named part differs -/

def State.onlyTile (s u : State) (t : Nat) : Prop :=
  u = { s with tiles := u.tiles } ∧ ∀ v, v ≠ t → u.tile v = s.tile v

def State.onlyRing (s u : State) (g : Nat) : Prop :=
  u = { s with rings := u.rings } ∧ ∀ v, v ≠ g → u.ring v = s.ring v

def State.onlyPanel (s u : State) (p : Nat) : Prop :=
  u = { s with panels := u.panels } ∧ ∀ v, v ≠ p → u.panel v = s.panel v

/-- Of a tile only the engine of class `c`. -/
def TileS.onlyEngine (x y : TileS) (c : Nat) : Prop :=
  y = { x with eng := y.eng } ∧ ∀ d, d ≠ c → y.eng.get {} d = x.eng.get {} d

/-- Every byte outside `[a, a + n)` reads as before. -/
def State.bytesOutside (s u : State) (a n : Nat) : Prop :=
  ∀ k, k < a ∨ a + n ≤ k → u.readByte k = s.readByte k

/-- Only bytes of `[a, a + n)`, with the poison of the units they lie in (R639). -/
def State.onlyBytes (s u : State) (a n : Nat) : Prop :=
  u = { s with mem := u.mem, poison := u.poison, injPoison := u.injPoison, linePoison := u.linePoison } ∧
  s.bytesOutside u a n

/-- No panel has tracing on. -/
def State.noTrace (s : State) : Prop := ∀ p, (s.panel p).trcCtl = 0

/-- No injection is armed. -/
def State.noInjection (s : State) : Prop := s.inj = []

/-- No cache holds a line, no home agent tracks one, and no grant is on its way. -/
def State.untracked (s : State) : Prop := (∀ l, s.holders l = []) ∧ s.homes = [] ∧ s.grants = []

/-- An access at `a` reaches memory alone: outside the coherence domain, or with nothing tracked in it. -/
def State.plain (s : State) (a : Nat) : Prop := isCoherent a = false ∨ s.untracked

/-! ### Names the statements use -/

/-- MSTATE, LCS and the life-cycle state a reset is to enter are codes of their tables. -/
def Boot.codesLegal (b : Boot) : Prop := b.lcs ≤ 4 ∧ b.mstate ≤ 2 ∧ ∀ x, b.target = some x → x ≤ 4

/-- The array opcodes' rows, each for the running command of its opcode. -/
def squareRows (t : Tile) : List (Nat × Instr) := [(0x10, .mm t), (0x11, .mmAcc t), (0x12, .conv t), (0x13, .convAcc t)]

def wsRows (t : Tile) : List (Nat × Instr) := [(0x14, .ws8 t), (0x15, .ws8Acc t), (0x16, .ws2 t), (0x17, .ws2Acc t)]

/-- The vector opcodes' rows, each for the running command of its opcode. -/
def vecRows (t : Tile) : List (Nat × Instr) :=
  [(0x40, .vew1 t), (0x41, .vew2 t), (0x42, .vfma t), (0x43, .vred t), (0x44, .vcvt t), (0x45, .vzmap t)]

/-- The mover opcodes' rows but for STAMP, each for the running command of its opcode. -/
def moverRows (t : Tile) : List (Nat × Instr) :=
  [(0x80, .mvCopy t), (0x81, .mvExpand t), (0x82, .mvFill t), (0x88, .moeDispatch t), (0x89, .moeGather t), (0x8C, .rbAdd t),
   (0x8D, .rbRead t)]

/-- The course opcodes that send frames, each for its ring. -/
def courseRows (n : Port) (i : Fin 256) : List (Nat × Instr) :=
  [(0x01, .cWrite n i), (0x02, .cAcc n i), (0x03, .cPut n i), (0x08, .cBcast n i), (0x10, .cAllreduce n i),
   (0x11, .cRscatter n i), (0x20, .cVote n i)]

/-- A read of `n` bytes at `a`, which reaches memory alone, answers OK. -/
def State.readable (s : State) (a n : Nat) : Prop := 0 < n ∧ s.plain a ∧ s.readResp a n = .ok

/-- The same of a write. -/
def State.writable (s : State) (a n : Nat) : Prop := 0 < n ∧ s.plain a ∧ s.writeResp a n = .ok

def hodRows (h : HodId) (i : Fin 128) : List (Nat × Instr) := [(1, .hGather h i), (2, .hMerge h i), (3, .hUpdate h i)]

/-- What a run of a hod or intake command leaves alone: all but memory and the engines' own state. -/
def State.onlyHods (s u : State) : Prop :=
  u = { s with mem := u.mem, poison := u.poison, injPoison := u.injPoison, linePoison := u.linePoison, homes := u.homes, hods := u.hods }

/-- The bytes are a packet that passes steps 1 to 6: header and CRC right, its SEQ ahead of its session's and answered
nowhere, no packet of the session being performed, room for it, its opcode known, allowed, and of the right length. -/
def State.passes (s : State) (k : SessKey) (auth : Auth) (bytes : List Byte) : Prop :=
  let q := readPacket k auth bytes
  headerOk bytes = true ∧ packetCrcOk bytes = true ∧ s.performing k = none ∧ assoc (s.session k).replies q.seq = none ∧
  seqAhead (s.session k).high q.seq = true ∧ s.noRoom k = false ∧
  ∃ o, opcodeTable.find? (fun o => o.1 = q.opcode.toNat) = some o ∧ opAllowed o.2.1 auth q.panel = true ∧ q.plen = o.2.2

/-- From `s` to `u` the packet has been accepted into its session, and nothing but the manager's state differs. -/
def State.accepts (s u : State) (a : Accepted) : Prop :=
  u = { s with mgmt := u.mgmt } ∧ u.mgmt.accepted = s.mgmt.accepted ++ [a] ∧ (u.session a.q.sess).high = some a.q.seq ∧
  (u.session a.q.sess).last = s.now ∧ (u.session a.q.sess).replies = (s.session a.q.sess).replies

/-- The packet has opcode `op`, its turn has come, CHECK is 0, its authority reaches what it names, `o`'s fields give the
parameters in force `w` with the clamps `cl`, and the module and its panel are in states that serve it. -/
def State.taken (s : State) (q : IcralReq) (op : Nat) (o : OpSpec) (w : Nat) (cl : List Nat) : Prop :=
  q.opcode.toNat = op ∧ s.turnOf q = true ∧ q.check = false ∧ o.outside s q = false ∧
  judgeFields (o.fields s q) q.params = .ok (w, cl) ∧ s.serves o.gate = true ∧ s.refusedResetting q = false

/-- The packet has been performed and its reply waits for `x`. -/
def State.waiting (s : State) (q : IcralReq) (x : Wait) (cl : List Nat) : State :=
  s.modMgmt (fun m => { m with accepted := m.accepted.map (fun b => if b.q = q then { b with wait := some x, clamps := cl } else b) })

end Sys2Proof.Machine
end

