-- ==== Sys2Proof/Certificates/Slice0/Obligations.lean ====
section
/-!
DEFINITION. The statements for the provers. A docstring says what its statement says; the rules are named in OBLIGATIONS.json.
-/
open Sys2Proof Sys2Proof.Machine

/-! ### The block's step -/

/-- The command at the front of the queue is executed on the state with the queue's rest; nothing is added around it. -/
def Obligations.StepRunsTheFrontCommand : Prop :=
  ∀ (s : State) (c : Instr) (rest : List Instr), s.pending = c :: rest → step s = exec c { s with pending := rest }

/-- A step takes its command off the queue and neither adds nor drops another; on an empty queue one nanosecond passes and
nothing else changes. The queue and the idle step are the model's choice (log 3). -/
def Obligations.StepTakesOnlyTheFrontCommand : Prop :=
  ∀ s u : State, (step s = .next u → u.pending = s.pending.tail) ∧ (s.pending = [] → step s = .next { s with now := s.now + 1 })

/-- No command is refused or faults: from every state every command answers a next state (log 4: a command the module's
state does not allow changes nothing). -/
def Obligations.EveryCommandAnswersANextState : Prop :=
  ∀ (c : Instr) (s : State), ∃ u, exec c s = .next u

/-! ### Reset -/

/-- Reset: no supply is present, nothing commanded, MSTATE 0 and PHASE 0, no ring enabled, no panel, no job, memory
listing no byte and so in its canonical form, the power limit of 16.0 kW, the halt tree released. -/
def Obligations.ResetLeavesTheModuleUnpowered : Prop :=
  State.reset.pending = [] ∧ State.reset.boot.p12 = false ∧ State.reset.boot.p54 = false ∧ State.reset.boot.mstate = 0 ∧
  State.reset.boot.phase = 0 ∧ State.reset.mem = [] ∧ Memory.wf State.reset.mem = true ∧ State.reset.power.limit = 16000 ∧
  State.reset.halted = false ∧ (∀ g, (State.reset.ring g).en = false) ∧ (∀ p, (State.reset.panel p).state = 0) ∧
  (∀ p j, (State.reset.job p j).jstate = 0) ∧ (∀ t c e, ((State.reset.tile t).ctr c e).val = 0)

/-! ### What every step keeps -/

/-- Every step keeps memory's canonical form: addresses strictly rising, no byte listed that an unlisted address reads as. -/
def Obligations.StepKeepsMemoryCanonical : Prop :=
  ∀ (s u : State), Memory.wf s.mem = true → step s = .next u → Memory.wf u.mem = true

/-- No command lowers MINSVN, and none lowers MEPOCH; MINSVN is raised at most 64 times, at every step and at reset. -/
def Obligations.StepNeverLowersMinsvnOrMepoch : Prop :=
  State.reset.boot.raises ≤ 64 ∧ ∀ (s u : State), step s = .next u → s.boot.minsvn ≤ u.boot.minsvn ∧ s.boot.mepoch ≤ u.boot.mepoch ∧
    (s.boot.raises ≤ 64 → u.boot.raises ≤ 64)

/-- The module is always in one of the five life-cycle states and reports one of the three module states: the codes are
legal at reset and every step keeps them legal. Decommissioned is final: no command takes the module out of it. -/
def Obligations.LifeCycleCodesStayLegal : Prop :=
  State.reset.boot.codesLegal ∧ ∀ (s u : State), step s = .next u → (s.boot.codesLegal → u.boot.codesLegal) ∧
    (s.boot.lcs = 4 ∧ s.boot.target = none → u.boot.lcs = 4 ∧ u.boot.target = none)

/-! ### Control commands (07) -/

/-- NOP and FENCE finish their command on their engine and change nothing else; CSKIP also sets how many commands its ring
skips next. -/
def Obligations.NopFenceCskipFinish : Prop :=
  ∀ (s : State) (t : Tile) (c : EngClass) (a : Active), s.halted = false →
    ((s.engine t c).control 0 = some a → ∃ u, exec (.nop t c) s = .next u ∧
      u.engine t c = (s.engine t c).putActive a.finish ∧ s.onlyTile u t ∧ (s.tile t).onlyEngine (u.tile t) c) ∧
    ((s.engine t c).active.find? (fun a => a.c.cmd.op = 1 && !a.issued && s.fenceMet t a) = some a →
      ∃ u, exec (.fence t c) s = .next u ∧
      u.engine t c = (s.engine t c).putActive a.finish ∧ s.onlyTile u t ∧ (s.tile t).onlyEngine (u.tile t) c) ∧
    ((s.engine t c).control 2 = some a → ∃ u, exec (.cskip t c) s = .next u ∧
      u.engine t c = (s.engine t c).putActive a.finish ∧
      u.ring (tileRing t a.c.cmd.slot c) = { s.ring (tileRing t a.c.cmd.slot c) with cskip := bits a.c.cmd.d0 0 8 } ∧
      u = { s with tiles := u.tiles, rings := u.rings } ∧ (∀ v, v ≠ t.val → u.tile v = s.tile v) ∧
      (s.tile t).onlyEngine (u.tile t) c ∧ (∀ g, g ≠ tileRing t a.c.cmd.slot c → u.ring g = s.ring g))

/-- MARKER finishes its command. With the panel's trace on for its slot, a record of kind 8 with the marker's ID and kind,
stamped with the time the engine took it, goes to the tail of the tile's trace ring; with trace off nothing else changes. -/
def Obligations.MarkerWritesItsRecord : Prop :=
  ∀ (s : State) (t : Tile) (c : EngClass) (a : Active) (p : Nat), s.halted = false →
    (s.engine t c).control 3 = some a → s.tilePanel t = some p →
    (bit (s.panel p).trcCtl a.c.cmd.slot = false → ∃ u, exec (.marker t c) s = .next u ∧
      u.engine t c = (s.engine t c).putActive a.finish ∧ s.onlyTile u t ∧ (s.tile t).onlyEngine (u.tile t) c) ∧
    (bit (s.panel p).trcCtl a.c.cmd.slot = true →
      let g := (s.panel p).traceRing p (tileSpan t)
      let at_ := (s.ring g).entryAddr (s.ring g).tail
      (s.ring g).en = true → (s.ring g).full = false → (s.ring g).lost = 0 → s.plain at_ →
      ∃ u, exec (.marker t c) s = .next u ∧
        u.engine t c = (s.engine t c).putActive a.finish ∧
        u.readBytes 64 at_ = toBytes 64 (Trace.code
          { kind := 8, unit := t.val, slot := a.c.cmd.slot, eng := c.val, pos := a.c.pos.toNat, arg := bits a.c.cmd.d0 0 34 }
          a.at_ s.time.lock) ∧
        s.bytesOutside u at_ 64 ∧ u.ring g = { s.ring g with tail := (s.ring g).tail + 1 } ∧
        (∀ v, v ≠ g → u.ring v = s.ring v) ∧ (∀ v, v ≠ t.val → u.tile v = s.tile v) ∧ u.panels = s.panels)

/-! ### Doorbells (07) -/

/-- The doorbell rule on an enabled ring whose writer reaches it: equal to TAIL, no effect; behind TAIL, ignored and
counted; at most SIZE ahead of HEAD, the new TAIL; further, TAIL unchanged and the ring's job ends. -/
def Obligations.DoorbellRule : Prop :=
  ∀ (s : State) (g : RingId) (T : Count) (auth : Auth),
    (g.val < 245760 → s.halted = false) → reaches auth (s.ringOwner g).panel = true → s.modulesOwn g auth = false →
    (s.ring g).en = true → isTraceRing g = false →
    (T = (s.ring g).tail → exec (.ringDoorbell g T auth) s = .next s) ∧
    (0x80000000 ≤ (T - (s.ring g).tail).toNat → ∃ u, exec (.ringDoorbell g T auth) s = .next u ∧
      u = { s with panels := u.panels } ∧
      (∀ p, (s.ringOwner g).panel = some p → countsStale g = true →
        u.panel p = { s.panel p with stale := min 0xFFFF ((s.panel p).stale + 1) }) ∧
      (∀ p, (s.ringOwner g).panel ≠ some p → u.panel p = s.panel p)) ∧
    (T ≠ (s.ring g).tail → (T - (s.ring g).tail).toNat < 0x80000000 →
      (T - (s.ring g).head).toNat ≤ 2 ^ (s.ring g).log2 → ∃ u, exec (.ringDoorbell g T auth) s = .next u ∧
      s.onlyRing u g ∧ (u.ring g).tail = T ∧
      u.ring g = { s.ring g with tail := T, avail := (u.ring g).avail }) ∧
    (T ≠ (s.ring g).tail → (T - (s.ring g).tail).toNat < 0x80000000 →
      2 ^ (s.ring g).log2 < (T - (s.ring g).head).toNat → ∃ u, exec (.ringDoorbell g T auth) s = .next u ∧
      (u.ring g).tail = (s.ring g).tail ∧
      (∀ p j, (s.ringOwner g).job = some (p, j) → isMailbox g = false → (s.job p j).jstate = 1 → (s.job p j).faulted = false →
        (u.job p j).jstate = 2 ∧ (u.job p j).ecause = 2))

/-! ### Fetch, selection, translation, the engine's choice (03, 07) -/

/-- A ring that is served takes as many entries as R201 lets it, in order from the first it does not hold; nothing else
changes. A ring that is not served, or that has no entry to take, changes nothing. -/
def Obligations.RingFetchTakesTheNextEntries : Prop :=
  ∀ (s : State) (g : RingId), let r := s.ring g; let pos := r.head + BitVec.ofNat 32 r.fetched.length
    ((s.ringLive g = false ∨ r.fetchCount = 0) → exec (.ringEntryFetch g) s = .next s) ∧
    (s.ringLive g = true → 0 < r.fetchCount → (∀ n, (s.ringOwner g).unit ≠ .port n) →
      (∀ i, i < r.fetchCount → s.readResp (r.entryAddr (pos + BitVec.ofNat 32 i)) 64 = .ok ∧
        s.plain (r.entryAddr (pos + BitVec.ofNat 32 i))) →
      let es := (List.range r.fetchCount).map (fun i => s.readNat 64 (r.entryAddr (pos + BitVec.ofNat 32 i)))
      exec (.ringEntryFetch g) s = .next (s.setRing g { r with fetched := r.fetched ++ es }))

/-- The sequencer takes the first eligible urgent head in rotation, in place of a normal command it is translating; with
no urgent head and nothing in translation the first eligible normal head; else nothing changes. -/
def Obligations.SequencerSelectsInRotation : Prop :=
  ∀ (s : State) (t : Tile) (c : EngClass) (d : Nat) (u : Bool), d < 8 →
    let e := s.engine t c
    let j := (e.selPtr + d) % 8
    s.eligible t c j = some u → (∀ i, i < d → s.eligible t c ((e.selPtr + i) % 8) ≠ some u) →
    (e.xlat = none ∨ u = true) → (∀ k, e.xlat ≠ some (k, true)) →
    (u = false → ∀ k, k < 8 → s.eligible t c k ≠ some true) →
    exec (.sequencerSelect t c) s = .next (s.setEngine t c { e with xlat := some (j, u), selPtr := (j + 1) % 8 })

/-- A translated command leaves its ring's head for its lane of the engine's FIFO, with its operands' addresses, the
job's generation and no wait recorded (its slot having no earlier command in the FIFO and no wait of its own). -/
def Obligations.TranslationMovesTheCommand : Prop :=
  ∀ (s : State) (t : Tile) (c : EngClass) (j p : Nat) (u : Bool) (w : WorkCmd) (oa ob oc : Opnd),
    let e := s.engine t c
    let g := tileRing t j c
    let x : Cmd := { cmd := w, pos := (s.ring g).head, a := oa, b := ob, c := oc, gen := (s.job p j).gen }
    s.halted = false → e.xlat = some (j, u) → s.tilePanel t = some p → (s.ring g).headCmd = some w →
    s.translate t p j c w = .ok oa ob oc → w.waitEn = false → w.slot = j → e.oldest j = none →
    let urgent := if w.urg then e.urgent ++ [x] else e.urgent
    let normal := if w.urg then e.normal else e.normal ++ [x]
    exec (.commandTranslated t c) s = .next ((s.setEngine t c { e with xlat := none, urgent := urgent, normal := normal }).setRing g
      ((s.ring g).pass (if w.xt then 2 else 1)))

/-- A command that translation finds malformed or that fails translation sets its slot's SLOT_FAULT bit and ends its job
with ECAUSE 2, and HEAD has passed it. -/
def Obligations.BadTranslationEndsTheJob : Prop :=
  ∀ (s : State) (t : Tile) (c : EngClass) (j p : Nat) (u : Bool) (w : WorkCmd),
    s.halted = false → (s.engine t c).xlat = some (j, u) → s.tilePanel t = some p →
    (s.ring (tileRing t j c)).headCmd = some w → (∀ oa ob oc, s.translate t p j c w ≠ .ok oa ob oc) →
    j < 8 → p < 16 → (s.job p j).jstate = 1 → (s.job p j).faulted = false →
    ∃ v, exec (.commandTranslated t c) s = .next v ∧ (v.job p j).jstate = 2 ∧ (v.job p j).ecause = 2 ∧
      (v.ring (tileRing t j c)).head = (s.ring (tileRing t j c)).head + BitVec.ofNat 32 (if w.xt then 2 else 1) ∧
      (v.tile t).slotFault.getLsbD j = true

/-- An engine that may take a command, with one command in its FIFO (its wait met, its slot neither suspended nor
traced) and none started, takes it: under CSKIP it is skipped with OUTCOME 2, and the count goes down; without a
condition an array, vector or mover command starts its first chunk, and a control command is set to finish. -/
def Obligations.EngineTakesTheReadyCommand : Prop :=
  ∀ (s : State) (t : Tile) (c : EngClass) (p : Nat) (x : Cmd),
    let e := s.engine t c
    let j := x.cmd.slot
    let g := tileRing t j c
    let a : Active := { c := x, at_ := s.now, effM := x.cmd.m }
    s.halted = false → e.running = none → (c.val = 0 → (s.tile t).patternDue = false ∧ (s.tile t).retire = false) →
    (if x.cmd.urg then e.urgent = [x] ∧ e.normal = [] else e.urgent = [] ∧ e.normal = [x]) → e.active = [] →
    x.noted ≠ 1 → (s.tile t).waitMet x.cmd = true → s.tilePanel t = some p → (s.panel p).susp.getLsbD j = false →
    bit (s.panel p).trcCtl j = false →
    let taken : Engine := { e with urgent := [], normal := [], engPtr := (j + 1) % 8 }
    (0 < (s.ring g).cskip → exec (.engineTakeCommand t c) s = .next
      ((s.setEngine t c { taken with active := [{ a with issued := true, done := true, outcome := 2 }] }).setRing g
        { s.ring g with cskip := (s.ring g).cskip - 1 })) ∧
    ((s.ring g).cskip = 0 → x.cmd.condSrc = 0 → isControlOp x.cmd.op = false → isWsOp x.cmd.op = false →
      exec (.engineTakeCommand t c) s = .next
        (s.setEngine t c { taken with active := [{ a with chunks := 1 }], running := some j })) ∧
    ((s.ring g).cskip = 0 → x.cmd.condSrc = 0 → isControlOp x.cmd.op = true →
      exec (.engineTakeCommand t c) s = .next
        (s.setEngine t c { taken with active := [{ a with fence := s.fenceList t j }] })) ∧
    ((s.ring g).cskip = 0 → x.cmd.condSrc = 1 → (((s.tile t).ctr j (x.cmd.condArg % 64)).val.toNat = 0 ↔ x.cmd.condZ = false) →
      exec (.engineTakeCommand t c) s = .next
        (s.setEngine t c { taken with active := [{ a with issued := true, done := true, outcome := 1 }] }))

/-! ### Array (04, 05, 06) -/

/-- A row feeder with a free entry takes the next step of the group in progress that it does not hold, and so does a column
feeder whose DPUs hold no K-step (no injection armed); nothing else changes. -/
def Obligations.FeederFillTakesTheNextStep : Prop :=
  ∀ (s : State) (t : Tile) (f : Fin 32) (a : Active) (k : Nat), s.noInjection → s.halted = false →
    (s.engine t 0).current = some a → isArrayOp a.c.cmd.op = true → isWsOp a.c.cmd.op = false →
    let x := (s.tile t).arr
    let ks := ((s.groupSteps t a a.grp).map (entryKey a.grp)).filter (fun k => decide (a.prog ≤ k))
    ((x.rowFeed.get [] f).length < 8 → nextKey (x.rowFeed.get [] f) ks = some k →
      let e : FeedEntry := { s.rowEntry t a (k / 2 ^ 20) (k % 2 ^ 20) f with step := k }
      exec (.feederFill t false f) s =
        .next (s.modArr t (fun x => { x with rowFeed := x.rowFeed.modify [] f (· ++ [e]) }))) ∧
    ((x.colFeed.get [] f).length < 8 → x.held = [] → nextKey (x.colFeed.get [] f) (colKeys ks) = some k →
      let e : FeedEntry := { s.colEntry t a (k / 2 ^ 20) (k % 2 ^ 20) f with step := k }
      exec (.feederFill t true f) s =
        .next (s.modArr t (fun x => { x with colFeed := x.colFeed.modify [] f (· ++ [e]) }))) ∧
    (8 ≤ (x.rowFeed.get [] f).length → exec (.feederFill t false f) s = .next s) ∧
    (8 ≤ (x.colFeed.get [] f).length → exec (.feederFill t true f) s = .next s)

/-- A step of a square group whose entries stand at the heads of all 64 feeders and are sound updates the accumulators of
its sub-block, counts its K-blocks, releases the heads and moves on to the group's next step. -/
def Obligations.ArrayStepUpdatesTheAccumulators : Prop :=
  ∀ (s : State) (t : Tile) (a : Active) (i st set : Nat) (nU : List Nat) (rs cs : List FeedEntry), s.halted = false →
    (s.engine t 0).current = some a → isArrayOp a.c.cmd.op = true → isWsOp a.c.cmd.op = false →
    let w := a.c.cmd
    let x := (s.tile t).arr
    let n := (w.stepBlocks (st / 4)).2
    let k := 4 * set + st % 4
    let r := gridSteps (isBf16 w) w.sat (Acc.table x k) rs cs n
    let rowFeed := x.rowFeed.update [] (fun _ q => if (q.headD {}).step = progAt i st then q.drop 1 else q)
    let colFeed := x.colFeed.update [] (fun _ q => if (q.headD {}).step = entryKey i (st / 4) then q.drop 1 else q)
    let grp := some (set, nU.set (st % 4) (nU.getD (st % 4) 0 + n))
    let y : ArrayS := { x with accs := x.accs.set [] k r.1, held := cs, grp := grp, rowFeed := rowFeed, colFeed := colFeed }
    let u := (s.modArr t (fun _ => y)).putActive t 0 { a.gather r.2 with prog := progAt i (st + 1) }
    s.planStep t a = .step i st → x.grp = some (set, nU) → x.rowHeads (progAt i st) = some rs →
    x.colHeads (entryKey i (st / 4)) = some cs → entriesFault (rs ++ cs) = none →
    (u.groupSteps t { a.gather r.2 with prog := progAt i (st + 1) } i).any (fun k => decide (st < k)) = true →
    exec (.arrayStepIssue t) s = .next u

/-- A wide-shallow command's next pass is loaded: its weights join the store, and the first pass starts the accumulators
(no injection armed, every weight read sound). -/
def Obligations.WeightLoadFillsThePass : Prop :=
  ∀ (s : State) (t : Tile) (a : Active) (p : Nat), s.noInjection → s.halted = false →
    (s.engine t 0).current = some a → isWsOp a.c.cmd.op = true →
    let x := (s.tile t).arr
    (x.wts = [] → p = a.grp) → (∀ q, x.wts.getLast? = some q → p = q.1 + 1) →
    let rs := (List.range a.c.cmd.n).map (fun n => s.wsWeights a p n)
    p < a.c.cmd.passes → (x.wts = [] ∨ (x.wts.length = 1 ∧ a.fitsHalf (p - 1) = true ∧ a.fitsHalf p = true)) →
    (x.wts = [] → p = 0 → x.drains = []) → entriesFault [joinReads rs 0] = none →
    let wts := x.wts ++ [(p, rs.map (·.blks))]
    exec (.weightLoadPass t) s = .next (s.modArr t (fun x => { x with wts := wts, accs := if p = 0 then [] else x.accs }))

/-- A drain tc in the middle of a sub-block checks two rows, writes them as output rows of the drain's command and stays
at the port. -/
def Obligations.DrainWritesTwoRows : Prop :=
  ∀ (s : State) (t : Tile) (d : Drain) (ds : List Drain) (a : Active), s.halted = false →
    (s.tile t).arr.drains = d :: ds → s.drainCmd t d = some a → d.ws = false → d.next % 16 ≠ 0 → d.next % 16 ≠ 15 →
    d.next + 1 < 16 * d.subs →
    let l := Acc.table (s.tile t).arr (4 * d.set + d.next / 16)
    let c := d.squareChecks a.c.cmd l
    let m := 32 * (d.mb + d.next / 16) + d.next % 16 * 2
    let rows := [(m, d.nb, (cellRow l (d.next % 16 * 2) 32).map (·.v)),
                 (m + 1, d.nb, (cellRow l (d.next % 16 * 2 + 1) 32).map (·.v))]
    let v := s.modTile t (fun x => { x with unmade := x.unmade + c.2 })
    (∀ r ∈ rows, v.rowPoison a.c.cmd a.c.c.addr r.1 r.2.1 = none) →
    exec (.arrayDrain t) s = .next ((v.drainRows t a rows).putDrain t { c.1 with next := c.1.next + 1 })

/-- An array opcode's row acts on the running command of its opcode and on no other. The move after which that command no
longer runs, its chunk or the command being over, is its last; when it issued the command's last step, the drains that
wait follow. -/
def Obligations.ArrayRowsRunTheirCommand : Prop :=
  ∀ (s : State) (t : Tile) (op : Nat) (c : Instr),
    ((op, c) ∈ squareRows t ∨ (op, c) ∈ wsRows t →
      (s.halted = true ∨ (∀ a, (s.engine t 0).current = some a → a.c.cmd.op ≠ op)) → exec c s = .next s) ∧
    (∀ a, s.halted = false → (s.engine t 0).current = some a → a.c.cmd.op = op →
      ((op, c) ∈ squareRows t → ((s.squareMove t a).engine t 0).current = none →
        exec c s = .next ((s.squareMove t a).lastDrains t a)) ∧
      ((op, c) ∈ wsRows t → ((s.wsMove t a).engine t 0).current = none →
        exec c s = .next ((s.wsMove t a).lastDrains t a)))

/-! ### Vector unit (02, 05, 07) -/

/-- A vector opcode's row performs units of the running command of its opcode, in order (no injection armed). After its
last unit the command is finished; after a unit that fills the 512 tc of a chunk the chunk ends; else it goes on as
from the state after the unit. -/
def Obligations.VectorRowsPerformUnits : Prop :=
  ∀ (s : State) (t : Tile) (op : Nat) (c : Instr) (a : Active), (op, c) ∈ vecRows t → s.noInjection → s.halted = false →
    (s.engine t 1).current = some a → a.c.cmd.op = op → s.unitPoison a a.prog = none → a.prog < vecUnits a.c.cmd →
    let w := a.c.cmd
    let r := s.vecUnit a a.prog
    let b : Active := { a.gather r.2 with prog := a.prog + 1, chunkLen := a.chunkLen + vecUnitTime w }
    let stop (u : State) : State := u.modEngine t 1 (fun e => e.stop w.slot)
    (vecUnits w = a.prog + 1 → exec c s = .next (stop (r.1.putActive t 1 b.finish))) ∧
    (a.prog + 1 < vecUnits w → 512 < a.chunkLen + vecUnitTime w + vecUnitTime w →
      exec c s = .next (stop (r.1.putActive t 1 { b with chunkLen := 0 }))) ∧
    (a.prog + 1 < vecUnits w → a.chunkLen + vecUnitTime w + vecUnitTime w ≤ 512 →
      exec c s = exec c (r.1.putActive t 1 b))

/-- A dispatch stage of the vector unit does its work in one row and finishes: MOE_COUNT and MOE_SCAN without flags,
MOE_SUM with those of its rows (no injection armed, nothing it reads poisoned). -/
def Obligations.DispatchStagesFinish : Prop :=
  ∀ (s : State) (t : Tile) (a : Active), s.noInjection → s.halted = false → (s.engine t 1).current = some a →
    s.moePoison t a = none →
    let done (u : State) (f : NFlags) : State :=
      (u.putActive t 1 (a.gather f).finish).modEngine t 1 (fun e => e.stop a.c.cmd.slot)
    (a.c.cmd.op = 0x50 → exec (.moeCount t) s = .next (done (s.moeCount a) {})) ∧
    (a.c.cmd.op = 0x51 → exec (.moeScan t) s = .next (done (s.moeScan a) {})) ∧
    (a.c.cmd.op = 0x52 → exec (.moeSum t) s = .next (done (s.moeSum t a).1 (s.moeSum t a).2))

/-! ### Mover (03, 05, 07, 11, 17) -/

/-- A mover command whose work is all issued and whose transactions are all answered finishes and leaves the mover free;
RB_READ also writes its output then, and MV_EXPAND finishes only when every brick has been written. -/
def Obligations.MoverCommandFinishes : Prop :=
  ∀ (s : State) (t : Tile) (op : Nat) (c : Instr) (a : Active), (op, c) ∈ moverRows t → s.halted = false →
    (s.engine t 2).current = some a → a.c.cmd.op = op → a.plan = some [] → a.done = false →
    (s.tile t).txns.any (fun x => x.slot = a.c.cmd.slot && x.pos = a.c.pos) = false → op ≠ 0x8D →
    (op = 0x81 → a.brick = expandTotal a.c.cmd) →
    let e : Engine := (s.engine t 2).putActive { a.finish with bytes := [], elems := [] }
    exec c s = .next (s.setEngine t 2 { e with running := none })

/-- The last request of a planned mover command whose memory is another unit's (and not behind the host-window cache)
enters the router with the smallest free tag: a read for a copy, a frame or a reduction buffer as it stands; a copy out
of the tile's SRAM with its bytes; RB_ADD's with its packet. The command's last work is then issued, and it waits. -/
def Obligations.MoverIssuesItsLastRequest : Prop :=
  ∀ (s : State) (t : Tile) (op : Nat) (c : Instr) (a : Active) (w : Work) (r : Reach), (op, c) ∈ moverRows t →
    s.halted = false → (s.engine t 2).current = some a → a.c.cmd.op = op → a.plan = some [w] → a.reach t w = some r →
    r.coh = false → (s.tile t).txns.length < 64 →
    let x : Txn :=
      { tag := (s.tile t).freeTag, slot := a.c.cmd.slot, pos := a.c.pos, work := w, waiting := r.staged, staged := r.staged }
    let b : Active := { a with plan := some [], prog := a.prog + 1, issued := true }
    let sent (u : State) (y : Txn) (b : Active) : State :=
      u.setTile t { u.tile t with
        txns := (u.tile t).txns ++ [y],
        eng := (u.tile t).eng.set {} 2 { (u.engine t 2).putActive b with running := none } }
    ((∀ src dst n, w = .copy src dst n → inOwn t src = false) → (∀ i j n d, w ≠ .cacc i j n d) →
      exec c s = .next (sent s x b)) ∧
    (∀ src dst n, w = .copy src dst n → inOwn t src = true → isCoherent src = false → s.readResp src n = .ok →
      exec c s = .next (sent s { x with work := .put dst (s.readBytes n src) } b)) ∧
    (∀ row e0 n ad p f, w = .cacc row e0 n ad → s.caccPacket t a row e0 n ad = .ok (p, f) →
      exec c s = .next (sent { s with caccs := s.caccs ++ [p] } x (b.gather f)))

/-- MV_FILL and MV_COPY inside the tile's own SRAM, in one piece: the destination holds the pattern, or the source's
bytes; no other byte changes; the command is finished and the mover free. -/
def Obligations.MoverFillsAndCopiesItsOwnMemory : Prop :=
  ∀ (s : State) (t : Tile) (a : Active) (src dst n : Nat), s.noInjection → s.halted = false →
    (s.engine t 2).current = some a → a.plan = none → a.done = false →
    (s.tile t).txns.any (fun x => x.slot = a.c.cmd.slot && x.pos = a.c.pos) = false →
    inOwn t dst = true → isCoherent dst = false → s.writeResp dst n = .ok →
    let e : Engine := (s.engine t 2).putActive { a.finish with plan := some [], prog := a.prog + 1, bytes := [], elems := [] }
    let rest (u : State) : Prop := s.bytesOutside u dst n ∧ u.rings = s.rings ∧ u.panels = s.panels ∧
      u.tiles = (s.setEngine t 2 { e with running := none }).tiles
    (a.c.cmd.op = 0x82 → fillPlan a = [.fill dst n 0] → ∃ u, exec (.mvFill t) s = .next u ∧
      u.readBytes n dst = patternBytes a.c.cmd.d0 0 n ∧ rest u) ∧
    (a.c.cmd.op = 0x80 → copyPlan t a = [.copy src dst n] → inOwn t src = true → isCoherent src = false →
      s.readResp src n = .ok → ∃ u, exec (.mvCopy t) s = .next u ∧ u.readBytes n dst = s.readBytes n src ∧ rest u)

/-- STAMP whose input and output lie in the tile's own SRAM reads the job's context and the input and writes the 64 B
record of Table 17.5 over them; it is then finished. -/
def Obligations.StampWritesTheRecord : Prop :=
  ∀ (s : State) (t : Tile) (a : Active) (p : Nat), s.noInjection → s.halted = false → s.tilePanel t = some p →
    (s.engine t 2).current = some a → a.c.cmd.op = 0x04 →
    let ctx := (s.job p a.c.cmd.slot).hdrAddr + 64
    inOwn t ctx = false → s.readResp ctx 64 = .ok →
    inOwn t a.c.a.addr = true → isCoherent a.c.a.addr = false → s.readResp a.c.a.addr 32 = .ok →
    isCoherent a.c.c.addr = false → s.writeResp a.c.c.addr 64 = .ok →
    linesOf ctx 64 = [lineOf ctx] → s.holders (lineOf ctx) = [] →
    ∃ u, exec (.stamp t) s = .next u ∧
      u.readBytes 64 a.c.c.addr = toBytes 64 (s.stampOf a p (s.readBytes 64 ctx) (s.readBytes 32 a.c.a.addr)) ∧
      s.bytesOutside u a.c.c.addr 64 ∧ u.rings = s.rings ∧ u.panels = s.panels ∧
      u.engine t 2 = { (s.engine t 2).putActive a.finish with running := none }

/-- An OK answer to a read for a copy into the tile's SRAM frees the tag and writes the bytes read; another answer ends
the job (its command having more to issue). -/
def Obligations.TransactionResponseActs : Prop :=
  ∀ (s : State) (t : Tile) (tag : BitVec 8) (x : Txn) (a : Active) (src dst n p : Nat),
    (s.tile t).txns.find? (fun y => y.tag = tag.toNat) = some x → x.work = .copy src dst n → x.waiting = false →
    x.staged = false → x.bad = .ok → s.frozen = false → s.noInjection →
    (s.engine t 2).find x.slot x.pos = some a → a.issued = false → inOwn t dst = true → inOwn t src = false →
    isCoherent dst = false → isCoherent src = false → a.c.a.tier ≠ 4 →
    let txns := (s.tile t).txns.filter (fun z => decide (z.tag ≠ tag.toNat))
    (s.readResp src n = .ok → s.writeResp dst n = .ok → ∃ u, exec (.moverTransactionResponse t tag .ok) s = .next u ∧
      u.readBytes n dst = s.readBytes n src ∧ s.bytesOutside u dst n ∧ (u.tile t).txns = txns ∧
      u.engine t 2 = (s.engine t 2).putActive a ∧ u.rings = s.rings ∧ u.panels = s.panels) ∧
    (s.tilePanel t = some p → (s.job p a.c.cmd.slot).jstate = 1 → (s.job p a.c.cmd.slot).faulted = false →
      ∃ u, exec (.moverTransactionResponse t tag .errOther) s = .next u ∧
      (u.job p a.c.cmd.slot).jstate = 2 ∧ (u.job p a.c.cmd.slot).ecause = 2)

/-! ### Completion, remote adds, corrected words (03, 07) -/

/-- A finished command with no completion record and no tracing completes: its flags join its slot's TILE_NFLAG, it
leaves the engine, and its signal acts (no signal; a local add; a local set; a remote add, sent with the command's
generation; a remote add that finds eight unacknowledged waits, its flags in place). -/
def Obligations.CommandCompleteSignals : Prop :=
  ∀ (s : State) (t : Tile) (c : EngClass) (j : Slot) (a : Active) (p : Nat), s.halted = false → s.noTrace →
    (s.engine t c).oldestActive j = some a → a.done = true → a.held = false → a.c.cmd.crec = false →
    (s.engine t c).urgent = [] → (s.engine t c).normal = [] → s.tilePanel t = some p →
    let w := a.c.cmd
    let x := (s.tile t).orFlags j a.flags
    let e := (s.engine t c).removeActive a
    let old := ((s.tile t).ctr w.slot w.sigCtr).val
    let put (v : BitVec 16) : Table SyncCtr := x.sync.set {} (ctrKey w.slot w.sigCtr) ⟨v, t, c, false⟩
    let add : RemoteAdd := ⟨.tile t, c, w.sigTile, p, w.slot, w.sigCtr, w.sigVal, a.c.gen⟩
    (w.sigOp = 0 → exec (.commandComplete t c j) s = .next (s.setTile t { x with eng := x.eng.set {} c e })) ∧
    (w.sigOp = 1 → exec (.commandComplete t c j) s =
      .next (s.setTile t { x with eng := x.eng.set {} c e, sync := put (old + BitVec.ofNat 16 w.sigVal) })) ∧
    (w.sigOp = 2 → exec (.commandComplete t c j) s =
      .next (s.setTile t { x with eng := x.eng.set {} c e, sync := put (BitVec.ofNat 16 w.sigVal) })) ∧
    (w.sigOp = 3 → (s.tile t).unacked < 8 → exec (.commandComplete t c j) s =
      .next { (s.setTile t { x with eng := x.eng.set {} c e, unacked := x.unacked + 1 }) with adds := s.adds ++ [add] }) ∧
    (w.sigOp = 3 → 8 ≤ (s.tile t).unacked → exec (.commandComplete t c j) s =
      .next (s.setTile t { x with eng := x.eng.set {} c ((s.engine t c).putActive { a with held := true }) }))

/-- A remote add that arrives while nothing is halted or traced is added to its counter if its generation is the job's,
else discarded and counted; either way the source tile's acknowledgement is on its way. At a halted tile it is held.
REMOTE_ADD_ACK frees one of the source's eight. A bank's oldest corrected word is written back. -/
def Obligations.RemoteAddsAndAcks : Prop :=
  ∀ (s : State) (src t : Tile) (x : RemoteAdd), s.noTrace → s.adds.find? (fun y => y.src = .tile src && y.dst = t.val) = some x →
    (∀ c, (s.engine t c).urgent = [] ∧ (s.engine t c).normal = []) →
    let y := s.tile t
    let u : State := { s with adds := s.adds.erase x, addAcks := s.addAcks.modify 0 src (· + 1) }
    let sum : SyncCtr := ⟨(y.ctr x.slot x.ctr).val + BitVec.ofNat 16 x.val, src, x.eng, true⟩
    let q := s.panel x.panel
    (s.halted = false → (s.job x.panel x.slot).gen % 256 = x.gen % 256 → x.src = .tile src → x.dst = t.val →
      exec (.remoteAddApply (.tile src) t) s = .next (u.setTile t { y with sync := y.sync.set {} (ctrKey x.slot x.ctr) sum })) ∧
    (s.halted = false → (s.job x.panel x.slot).gen % 256 ≠ x.gen % 256 →
      exec (.remoteAddApply (.tile src) t) s = .next (u.setPanel x.panel { q with gendis := min 0xFFFF (q.gendis + 1) })) ∧
    (s.halted = true → s.frozen = false →
      exec (.remoteAddApply (.tile src) t) s = .next (u.setTile t { y with heldAdds := y.heldAdds ++ [x] })) ∧
    (0 < s.addAcks.get 0 t → s.frozen = false → exec (.remoteAddAck t) s =
      .next { (s.setTile t { y with unacked := y.unacked - 1 }) with addAcks := s.addAcks.modify 0 t (· - 1) }) ∧
    (∀ (b : Fin 24) (w : Nat × Nat), s.halted = false → y.corrected.find? (fun z => z.1 = b.val) = some w →
      exec (.sramCorrectedWriteback t b) s = .next (s.setTile t { y with corrected := y.corrected.erase w }))

/-! ### Memory requests (03, 09, 10) -/

/-- Table 10.5's atomics on 64-bit and 32-bit operands. -/
def Obligations.AtomicsComputeTheirTable : Prop :=
  (∀ o v c : BitVec 64,
    let f (op : AtomicOp) := atomicNew op true o.toNat v.toNat c.toNat
    f .add = (o + v).toNat ∧ f .swap = v.toNat ∧ f .cas = (if o = c then v else o).toNat ∧ f .and = (o &&& v).toNat ∧
    f .or = (o ||| v).toNat ∧ f .xor = (o ^^^ v).toNat ∧ f .min = (if o.toInt < v.toInt then o else v).toNat ∧
    f .max = (if v.toInt < o.toInt then o else v).toNat ∧ f .minu = (if o < v then o else v).toNat ∧
    f .maxu = (if v < o then o else v).toNat) ∧
  (∀ o v c : BitVec 32,
    let f (op : AtomicOp) := atomicNew op false o.toNat v.toNat c.toNat
    f .add = (o + v).toNat ∧ f .swap = v.toNat ∧ f .cas = (if o = c then v else o).toNat ∧ f .and = (o &&& v).toNat ∧
    f .or = (o ||| v).toNat ∧ f .xor = (o ^^^ v).toNat ∧ f .min = (if o.toInt < v.toInt then o else v).toNat ∧
    f .max = (if v.toInt < o.toInt then o else v).toNat ∧ f .minu = (if o < v then o else v).toNat ∧
    f .maxu = (if v < o then o else v).toNat)

/-- A tile's remote agent and a sill serve a request of memory that is mapped, up, aligned and sound: a read answers the
bytes, a write stores them, an atomic stores its result and answers the old value; nothing else changes. -/
def Obligations.TileAndSillServeRequests : Prop :=
  ∀ (s : State) (t : Tile) (k : Sill) (rq : MemReq) (c : Instr), s.noInjection → 0 < opSize rq.op → rqAligned rq = true →
    s.readResp rq.addr (opSize rq.op) = .ok →
    ((c = .remoteAgentRequest t rq .clean ∧ s.frozen = false ∧ within rq.addr (opSize rq.op) (winAddr t 0) winSize = true) ∨
     (c = .sillHbmRequest k rq .clean ∧ ∃ q off, regionOf rq.addr = .hbm q off ∧ q / 2 = k.val)) →
    let answer (u : State) (bs : List Byte) : State := { u with rsps := u.rsps ++ [⟨rq.src, rq.tag.toNat, .ok, bs⟩] }
    (∀ n, rq.op = .read n → exec c s = .next (answer s (s.readBytes n rq.addr))) ∧
    (∀ bs, rq.op = .write bs → exec c s = .next (answer (s.writeBytes rq.addr bs) [])) ∧
    (∀ op w v cmp, rq.op = .atomic op w v cmp →
      let n := if w then 8 else 4
      let old := s.readNat n rq.addr
      exec c s = .next (answer (s.writeNat n rq.addr (atomicNew op w old v cmp)) (toBytes n old)))

/-- A packet reaches the reduction engine: each element (a 48-bit sum as it stands, an FP32 value as its contribution) is
added to its place in the buffer modulo 2^48, the packet's status joins the entry's, and it leaves the network; no other
byte changes. A packet that its entry refuses (not valid, outside the buffer, not on an element group) adds nothing: with
no mover command waiting for it, its job ends. -/
def Obligations.ReductionEngineAdds : Prop :=
  ∀ (s : State) (p : CaccPacket), let e := (s.panel p.panel).rtab.get 0 p.rtid.val
    let n := p.vals.length
    let elem (v : Nat) : Int := if p.kind1 then signed 48 v else (contribution e v).1
    let status : RStat := if p.kind1 then ⟨p.cof, p.cnf, if p.cmv then some p.cmaxe else none⟩
      else p.vals.foldl (fun a v => a.or (contribution e v).2) {}
    (rtRefuse e p.addr n = none → s.writeResp p.addr (6 * n) = .ok → s.noInjection →
      ∃ u, exec (.caccReceive p) s = .next u ∧ u.caccs = s.caccs.erase p ∧
      (∀ i v, p.vals[i]? = some v → let a := p.addr + 6 * i
        u.readNat 6 a = unsigned 48 (signed 48 (s.readNat 6 a) + elem v)) ∧
      s.bytesOutside u p.addr (6 * n) ∧ u.rings = s.rings ∧ u.tiles = s.tiles ∧
      (u.panel p.panel).rtab.get 0 p.rtid.val = rtMerge e status) ∧
    (∀ k, rtRefuse e p.addr p.vals.length = some k → s.caccTxn p = none → (s.job p.panel p.slot).jstate = 1 →
      (s.job p.panel p.slot).faulted = false → ∃ u, exec (.caccReceive p) s = .next u ∧
      (u.job p.panel p.slot).jstate = 2 ∧ (u.job p.panel p.slot).ecause = 2)

/-! ### Staging (09) -/

/-- A staged read whose line the window holds is served: the mover transaction gets the bytes. A read of a line it does
not hold waits on a demand fill. A finished fill with no reads waiting and sound data copies its line of T2 into the window: the
set then holds it (a stale fill's line not as held), no other byte changes, and the fill is gone. STAGING_INVALIDATE with bit 0
leaves no line of any window of the panel held and marks every fill in progress stale; with bit 0 clear it changes nothing. -/
def Obligations.StagingServesFillsAndInvalidates : Prop :=
  (∀ (s : State) (t : Tile) (j : Slot) (ad n : Nat) (tag : BitVec 8) (p : Nat) (x : Txn),
      let q := tileSpan t
      let wl := (s.panel p).wl
      let w := (s.panel p).stage.get {} q
      let line := ad / 65536
      let rd : StagedWait := ⟨t, j, ad, n, tag.toNat⟩
      s.tilePanel t = some p → (s.tile t).txns.find? (fun y => decide (y.tag = tag.toNat)) = some x →
      x.staged = true → x.waiting = true → x.slot = j → 0 < wl → rd ∉ w.waits → rd ∉ w.class_ → s.noInjection →
      let a := s.stageBase q wl + line % wl * 65536 + ad % 65536
      let bs := s.readBytes n a
      (w.has wl line = true → s.readResp a n = .ok → exec (.stagedRead t j ad n tag) s =
        .next (s.setTile t { s.tile t with
          txns := (s.tile t).txns.map (fun y => if y.tag = tag.toNat then { y with waiting := false, data := bs, bad := .ok } else y) })) ∧
      (w = {} → (s.panel p).pf = 0 → ∃ u, exec (.stagedRead t j ad n tag) s = .next u ∧
        u = { s with panels := u.panels } ∧ (∀ v, v ≠ p → u.panel v = s.panel v) ∧
        (u.panel p).stage.get {} q = { w with waits := [rd], fills := [⟨line, false, false⟩] })) ∧
  (∀ (s : State) (q : SpanId) (n p : Nat) (f : Fill),
      let wl := (s.panel p).wl
      let w := (s.panel p).stage.get {} q
      let src := n * 65536
      let dst := s.stageBase q wl + n % wl * 65536
      (s.spanPanel q = some p → w = { w with fills := [f], queue := [], waits := [], class_ := [] } → f.line = n →
        (∀ l, s.holders l = []) → (∀ i, s.poisoned (src + 32 * i) 32 = false) →
        ∃ u, exec (.stagingFillComplete q n) s = .next u ∧ u.readBytes 65536 dst = s.readBytes 65536 src ∧
        s.bytesOutside u dst 65536 ∧ u.rings = s.rings ∧ u.tiles = s.tiles ∧
        ((u.panel p).stage.get {} q) = { w with held := w.held.set none (n % wl) (some (n, f.stale)), fills := [] }) ∧
      (∀ (v : BitVec 32) (P : PanelId), v.getLsbD 0 = true → ∃ u, exec (.stagingInvalidate P v .owner) s = .next u ∧
        s.onlyPanel u P ∧ ∀ k, let x := (s.panel P).stage.get {} k; let y := (u.panel P).stage.get {} k
          (∀ m, y.has (s.panel P).wl m = false) ∧ (∀ g ∈ y.fills, g.stale = true) ∧ y.fills.length = x.fills.length ∧
          y.waits = x.waits ∧ y.queue = x.queue) ∧
      (∀ (v : BitVec 32) (P : PanelId), v.getLsbD 0 = false → exec (.stagingInvalidate P v .owner) s = .next s))

/-! ### Coherence (10) -/

/-- What a cache does with what reaches it. A grant installs its line, in E with its hold window; the window's end; a NACK
marks the request, and COH_RETRY sends it again with its age one greater, at most 255; a snoop of a line in M with no
hold, request or writeback takes the data (and the line, or leaves it shared), of a line in its hold or requested is
answered Hold; an acknowledgement frees the writeback buffer. -/
def Obligations.CachesActOnWhatReachesThem : Prop :=
  ∀ (s : State) (who : Holder) (l : Nat) (g : Grant) (r : Fin 3) (k : SnoopKind),
    let x := s.cacheLine who l
    let took (u : State) : State := { u with grants := s.grants.erase (who, l, g) }
    let nacked (u : State) : State := { u with nacks := s.nacks.erase (who, l, r.val) }
    let acked (u : State) : State := { u with wbAcks := s.wbAcks.erase (who, l) }
    let pz := s.poisoned (64 * l) 64
    s.halted = false →
    ((who, l, g) ∈ s.grants →
      (∀ d, g = .shared d → exec (.cohGrantReceive who l g) s = .next (took (s.setCacheLine who l { st := .S, data := d, pz := pz }))) ∧
      (∀ d, g = .exclusive d →
        exec (.cohGrantReceive who l g) s = .next (took (s.setCacheLine who l { st := .E, data := d, hold := true, pz := pz }))) ∧
      (g = .upgraded →
        exec (.cohGrantReceive who l g) s = .next (took (s.setCacheLine who l { st := .E, data := x.data, hold := true, pz := x.pz })))) ∧
    exec (.cacheHoldExpiry who l) s = .next (s.setCacheLine who l { x with hold := false }) ∧
    ((who, l, r.val) ∈ s.nacks → exec (.cohNackReceive who l r) s = .next (nacked (s.setCacheLine who l { x with nacked := true }))) ∧
    (x.nacked = true → exec (.cohRetry who l) s =
      .next (s.setCacheLine who l { x with nacked := false, age := min 255 (x.age + 1) })) ∧
    ((who, l) ∈ s.wbAcks → x.st ≠ .I →
      exec (.writebackAckReceive who l) s = .next (acked (s.setCacheLine who l { x with wb := false }))) ∧
    (∀ t y, who = .tile t → (s.slice (sliceOf t)).txns.get none l = some y → t.val ∈ y.waits → y.kind = k →
      s.rspOut (.inl who) l = none → (∀ z ∈ s.grants, z.1 = who → z.2.1 ≠ l) → x.wb = false →
      let answer (z : Line) (a : SnoopRsp) : State :=
        { (s.setCacheLine who l z) with snpRsps := s.snpRsps ++ [(.inl who, l, a)] }
      ((x.req ≠ none ∨ x.hold = true) → exec (.cacheSnoop who l k) s = .next (answer x .hold)) ∧
      (x.req = none → x.hold = false → x.st = .M → k = .inv → exec (.cacheSnoop who l k) s = .next (answer {} (.invData x.data))) ∧
      (x.req = none → x.hold = false → x.st = .M → k = .shr →
        exec (.cacheSnoop who l k) s = .next (answer { x with st := .S } (.shrData x.data))) ∧
      (x.req = none → x.hold = false → x.st = .S → k = .inv → exec (.cacheSnoop who l k) s = .next (answer {} .inv)))

/-- Slices and home agents collect answers. A slice without a copy answers a snoop Inv at once; with copies it snoops
each; the last tile's answer sends the slice's. At the home agent an answer Hold keeps the snoop held, to be sent again
by HOME_SNOOP_RESEND, and is counted; another answer drops the snoop. A reservation ends with its 2 µs. -/
def Obligations.SlicesAndHomesCollectAnswers : Prop :=
  ∀ (s : State) (sl : SliceId) (l : Nat) (k : SnoopKind) (t : Tile) (h : HomeId) (src : Holder ⊕ SliceId) (tr : Trans),
    let x := s.slice sl
    let copies := (x.ents.get [] l).filter (fun v => decide (s.requester l ≠ some (toHolderTile v)))
    let putSlice (y : Slice) : State := { s with slices := s.slices.set {} (sliceKey sl) y }
    (s.snoopOut (.inr sl) l k = true → x.txns.get none l = none →
      (copies = [] → exec (.sliceSnoop sl l k) s = .next { s with snpRsps := s.snpRsps ++ [(.inr sl, l, .inv)] }) ∧
      (copies ≠ [] → exec (.sliceSnoop sl l k) s =
        .next (putSlice { x with txns := x.txns.set none l (some { kind := k, waits := copies }) }))) ∧
    (∀ y, x.txns.get none l = some y → y.waits = [t.val] → y.hold = false → y.dirty = none → y.shared = false →
      s.rspOut (.inl (.tile t)) l = some .inv →
      exec (.sliceSnoopRsp sl l t .inv) s = .next { (putSlice { x with
          ents := x.ents.modify [] l (fun ts => ts.erase t.val), txns := x.txns.set none l none }) with
        snpRsps := s.snpRsps.erase (.inl (.tile t), l, .inv) ++ [(.inr sl, l, .inv)] }) ∧
    ((s.home h).txns.get none l = some tr →
      (∀ y ∈ tr.snoops, y.dst = src → y.held = false → s.rspOut src l = some .hold →
        ∃ u, exec (.homeSnoopRsp h l src .hold) s = .next u ∧ u.snpRsps = s.snpRsps.erase (src, l, .hold) ∧
        (u.home h).txns.get none l = some { tr with
          snoops := tr.snoops.map (fun z => if z.dst = src then { z with held := true } else z) } ∧
        (u.host (h.val / 8)).holds = min 0xFFFF ((s.host (h.val / 8)).holds + 1) ∧ u.mem = s.mem ∧ u.tiles = s.tiles) ∧
      (∀ y ∈ tr.snoops, y.dst = src → y.held = false → s.rspOut src l = some .inv → (∃ z ∈ tr.snoops, z.dst ≠ src) →
        exec (.homeSnoopRsp h l src .inv) s = .next { (s.modHome h (fun z => { z with
            txns := z.txns.set none l (some { tr with snoops := tr.snoops.filter (fun z => decide (z.dst ≠ src)) }) })) with
          snpRsps := s.snpRsps.erase (src, l, .inv) }) ∧
      exec (.homeSnoopResend h l src) s = .next (s.modHome h (fun z => { z with txns := z.txns.set none l (some { tr with
          snoops := tr.snoops.map (fun z => if z.dst = src then { z with held := false } else z) }) }))) ∧
    exec (.reservationExpiry h .table) s = .next (s.modHome h (fun z => { z with tableRes := none })) ∧
    (∀ n, exec (.reservationExpiry h (.set n)) s = .next (s.modHome h (fun z => { z with setRes := z.setRes.set none n none }))) ∧
    ((s.home h).busy l = false → ∃ u, exec (.reservationExpiry h (.line l)) s = .next u ∧
      ((u.home h).dir.get {} l) = { (s.home h).dir.get {} l with res := none } ∧ u = { s with homes := u.homes })

/-- The home agent. A request for a line with no directory entry opens a transaction with no snoops; when its memory read
is done the requester gets the line, exclusive, and becomes its owner. A request for a busy line is answered NACK 0. A
tile's writeback of a line it owns reaches memory and is acknowledged. A read of a line no cache holds answers the
bytes, a write stores them, an atomic stores its result and answers the old value. -/
def Obligations.HomeServesRequests : Prop :=
  ∀ (s : State) (h : HomeId) (l : Nat) (t : Tile) (age : BitVec 8) (rq : MemReq),
    let who : Holder := .tile t
    let x := s.home h
    (∀ cmd, s.requestOut h l cmd age.toNat who = true → cmd = .rdS ∨ cmd = .rdU →
      (x.txns = [] → x.dir = [] → ∃ u, exec (.cohReq h l cmd age who) s = .next u ∧
        (u.home h).txns.get none l = some { kind := .grant who cmd } ∧ u = { s with homes := u.homes }) ∧
      (x.busy l = true → ∃ u, exec (.cohReq h l cmd age who) s = .next u ∧
        u.nacks = s.nacks ++ [(who, l, 0)] ∧ u = { s with nacks := u.nacks, homes := u.homes, hosts := u.hosts })) ∧
    (∀ cmd, x.txns.get none l = some { kind := .grant who cmd } → cmd = .rdS ∨ cmd = .rdU → x.dir = [] →
      ∃ u, exec (.homeMemoryReadDone h l) s = .next u ∧ (u.home h).txns.get none l = none ∧
      ((u.home h).dir.get {} l).owner = some who ∧
      u.grants = s.grants ++ [(who, l, .exclusive (s.readNat 64 (64 * l)))] ∧
      u = { s with grants := u.grants, homes := u.homes, slices := u.slices }) ∧
    (∀ d, (s.cacheLine who l).wb = true → (s.cacheLine who l).data = d → (who, l) ∉ s.wbAcks → s.homeOf (64 * l) = h →
      (x.dir.get {} l).owner = some who → (s.cacheLine who l).pz = false → ∃ u, exec (.writeback h l who d) s = .next u ∧
      u.wbAcks = s.wbAcks ++ [(who, l)] ∧ u.readNat 64 (64 * l) = d % 2 ^ 512 ∧ s.bytesOutside u (64 * l) 64 ∧
      ((u.home h).dir.get {} l).owner = none ∧ u.tiles = s.tiles) ∧
    (isCoherent rq.addr = true → s.homeOf rq.addr = h → linesOf rq.addr (opSize rq.op) = [l] → s.lineBusy l = false →
      x.txns = [] → x.dir = [] → s.readResp rq.addr (opSize rq.op) = .ok → 0 < opSize rq.op →
      s.mapped rq.addr = true → s.mapped (rq.addr + opSize rq.op - 1) = true → s.noInjection →
      let answer (u : State) (bs : List Byte) : Prop := u.rsps = s.rsps ++ [⟨rq.src, rq.tag.toNat, .ok, bs⟩] ∧
        u.tiles = s.tiles ∧ u.rings = s.rings ∧ u.panels = s.panels
      (∀ n, rq.op = .read n → ∃ u, exec (.homeNoncohAccess h rq .clean) s = .next u ∧ answer u (s.readBytes n rq.addr) ∧
        u.mem = s.mem) ∧
      (∀ bs, rq.op = .write bs → ∃ u, exec (.homeNoncohAccess h rq .clean) s = .next u ∧ answer u [] ∧
        u.readBytes bs.length rq.addr = bs ∧ s.bytesOutside u rq.addr bs.length) ∧
      (∀ op w v c, rq.op = .atomic op w v c → rq.addr % (if w then 8 else 4) = 0 →
        let n := if w then 8 else 4
        let old := s.readNat n rq.addr
        ∃ u, exec (.homeAtomic h rq) s = .next u ∧ answer u (toBytes n old) ∧
        u.readNat n rq.addr = atomicNew op w old v c % 256 ^ n ∧ s.bytesOutside u rq.addr n))

/-! ### Host cores and inbound I/O (10, 17, 20) -/

/-- The Xtvmx rows. On a core that may retire: with MS Off or a bad field, an illegal instruction; else MX_ZERO clears its
accumulator; MX_OPA and MX_OPN give every element acc ± a·b rounded once; MX_MVR copies a row, modulo 32, into a pair of
vector registers; MX_LD and MX_ST move 32 rows between memory no cache holds lines of and the accumulator, MX_STB
stores it as BF16; a misaligned base traps. Other accumulators, and all else but the core, are unchanged. -/
def Obligations.MatrixExtension : Prop :=
  ∀ (s : State) (c : CoreId) (rd rs1 rs2 : BitVec 5), s.mayRetire c = true →
    let x := s.core c
    let only (u : State) : Prop := u = { s with cores := u.cores } ∧ ∀ d, d ≠ c.val → u.core d = s.core d
    let others (u : State) (acc : Nat) : Prop := ∀ a i j, a < 4 → a ≠ acc → i < 32 → j < 32 → (u.core c).elem a i j = x.elem a i j
    let trap (cause tval : Nat) : Host.Outcome State Fault Refusal := .next (s.modCore c (fun x => { x with trap := some (cause, tval) }))
    let b := x.xreg rs1
    let st := x.xreg rs2
    ((x.ms = 0 ∨ 4 ≤ rd.toNat) → ∀ i ∈ [Instr.mxZero c rd rs1 rs2, .mxOpa c rd rs1 rs2, .mxOpn c rd rs1 rs2, .mxLd c rd rs1 rs2,
      .mxSt c rd rs1 rs2, .mxStb c rd rs1 rs2], exec i s = trap 2 0) ∧
    ((x.ms = 0 ∨ 4 ≤ rs2.toNat ∨ rd.toNat % 2 = 1 ∨ x.vstart ≠ 0) → exec (.mxMvr c rd rs1 rs2) s = trap 2 0) ∧
    (x.ms ≠ 0 → rd.toNat < 4 → rs1 = 0 → rs2 = 0 → ∃ u, exec (.mxZero c rd rs1 rs2) s = .next u ∧ only u ∧
      (u.core c).ms = 3 ∧ others u rd.toNat ∧ ∀ i j, i < 32 → j < 32 → (u.core c).elem rd.toNat i j = 0) ∧
    (∀ neg : Bool, x.ms ≠ 0 → rd.toNat < 4 →
      ∃ u, exec (if neg then .mxOpn c rd rs1 rs2 else .mxOpa c rd rs1 rs2) s = .next u ∧ only u ∧ (u.core c).ms = 3 ∧
      others u rd.toNat ∧ ∀ i j, i < 32 → j < 32 → (u.core c).elem rd.toNat i j = (mxElem neg (x.elem rd.toNat i j)
        (bits (x.vreg rs1.toNat) (16 * i) 16) (bits (x.vreg rs2.toNat) (16 * j) 16)).1 % 2 ^ 32) ∧
    (x.ms ≠ 0 → rs2.toNat < 4 → rd.toNat % 2 = 0 → x.vstart = 0 → ∃ u, exec (.mxMvr c rd rs1 rs2) s = .next u ∧ only u ∧
      (u.core c).acc = x.acc ∧ (∀ r, r ≠ rd.toNat → r ≠ rd.toNat + 1 → (u.core c).v.get 0 r = x.v.get 0 r) ∧
      ∀ h j, h < 2 → j < 16 → bits ((u.core c).vreg (rd.toNat + h)) (32 * j) 32 = x.elem rs2.toNat (b % 32) (16 * h + j)) ∧
    (x.ms ≠ 0 → rd.toNat < 4 → b % 128 ≠ 0 → exec (.mxLd c rd rs1 rs2) s = trap 4 b ∧ exec (.mxSt c rd rs1 rs2) s = trap 6 b) ∧
    (x.ms ≠ 0 → rd.toNat < 4 → b % 64 ≠ 0 → exec (.mxStb c rd rs1 rs2) s = trap 6 b) ∧
    (x.ms ≠ 0 → rd.toNat < 4 → b % 128 = 0 → st % 128 = 0 →
      (∀ i, i < 32 → let a := rowAddr b st i; s.plain a ∧ s.coreMay a 128 = true ∧ s.readResp a 128 = .ok) →
      ∃ u, exec (.mxLd c rd rs1 rs2) s = .next u ∧ only u ∧ (u.core c).ms = 3 ∧ others u rd.toNat ∧
      ∀ i j, i < 32 → j < 32 → (u.core c).elem rd.toNat i j = bits (s.readNat 128 (rowAddr b st i)) (32 * j) 32) ∧
    (x.ms ≠ 0 → rd.toNat < 4 → b % 128 = 0 → st % 128 = 0 → 128 ≤ st → b + 31 * st < 2 ^ 64 →
      (∀ i, i < 32 → let a := b + i * st; s.plain a ∧ s.coreMay a 128 = true ∧ s.writeResp a 128 = .ok) →
      ∃ u, exec (.mxSt c rd rs1 rs2) s = .next u ∧ u.tiles = s.tiles ∧ u.cores = s.cores ∧ u.panels = s.panels ∧
      (∀ i, i < 32 → u.readBytes 128 (b + i * st) = (List.range 32).flatMap (fun j => toBytes 4 (x.elem rd.toNat i j))) ∧
      ∀ k, (∀ i, i < 32 → k < b + i * st ∨ b + i * st + 128 ≤ k) → u.readByte k = s.readByte k) ∧
    (x.ms ≠ 0 → rd.toNat < 4 → b % 64 = 0 → st % 64 = 0 → 64 ≤ st → b + 31 * st < 2 ^ 64 →
      (∀ i, i < 32 → let a := b + i * st; s.plain a ∧ s.coreMay a 64 = true ∧ s.writeResp a 64 = .ok) →
      ∃ u, exec (.mxStb c rd rs1 rs2) s = .next u ∧ u.tiles = s.tiles ∧ u.cores = s.cores ∧ u.panels = s.panels ∧
      (∀ i, i < 32 → u.readBytes 64 (b + i * st) = (List.range 32).flatMap (fun j => toBF16 (x.elem rd.toNat i j))) ∧
      ∀ k, (∀ i, i < 32 → k < b + i * st ∨ b + i * st + 64 ≤ k) → u.readByte k = s.readByte k)

/-- Plumb groups, the sideband and the host watchdogs. TVPLUMB_WRITE in M or S mode sets the core's register, in U mode
traps as illegal, in VS or VU mode as a virtual instruction; a core that joins a group gives its turn to the lowest
member. PLUMB_TURN_END passes the turn to the next higher member. SBI_SYSTEM_RESET of a type other than 2 answers −2, of
type 2 begins the warm reset; HOST_WATCHDOG_EXPIRY sets EXPIRED, records it and begins the warm reset; a write by module
authority sets PERIOD, clears EXPIRED where its bit is set, and begins a period, as HWDOG_KICK does. -/
def Obligations.PlumbSidebandAndWatchdogs : Prop :=
  ∀ (s : State) (c : CoreId) (v : BitVec 64) (md : HartMode) (h : HostDie) (g : Fin 8) (why : TurnEnd),
    let wd := s.dbg.hwdog.get (0, false, 0) h
    let put (u : State) (w : Nat × Bool × Nat) : State := { u with dbg := { s.dbg with hwdog := s.dbg.hwdog.set (0, false, 0) h w } }
    let w : Nat × Bool × Nat := (bits v.toNat 0 20, wd.2.1 && !bit v.toNat 21, s.now)
    let down (x : HostS) : HostS := { x.loseLines with cstate := 1, domReset := false }
    (s.mayRetire c = true → (md = .m ∨ md = .s) → ∃ u, exec (.tvplumbWrite c v md) s = .next u ∧
      u = { s with cores := u.cores, plumb := u.plumb } ∧ u.core c = { s.core c with tvplumb := v.toNat % 16 } ∧
      (∀ d, d ≠ c.val → u.core d = s.core d) ∧
      ((s.core c).grouped = false → (u.core c).grouped = true →
        u.plumb.get none (plumbKey (coreDie c) (u.core c).group) = (u.plumbMembers (coreDie c) (u.core c).group).head?)) ∧
    (s.mayRetire c = true → exec (.tvplumbWrite c v .u) s = .next (s.modCore c (fun x => { x with trap := some (2, 0) })) ∧
      exec (.tvplumbWrite c v .vs) s = .next (s.modCore c (fun x => { x with trap := some (22, 0) })) ∧
      exec (.tvplumbWrite c v .vu) s = .next (s.modCore c (fun x => { x with trap := some (22, 0) }))) ∧
    (∀ d e, s.plumb.get none (plumbKey h g) = some d → (s.plumbMembers h g).find? (fun x => decide (d < x)) = some e →
      exec (.plumbTurnEnd h g why) s = .next { s with plumb := s.plumb.set none (plumbKey h g) (some e) }) ∧
    (∀ ty, s.mayRetire c = true → ty ≠ 2#32 →
      exec (.sbiSystemReset c ty) s = .next (s.modCore c (fun x => { x with sbi := some (-2) }))) ∧
    (s.mayRetire c = true → s.intakes = [] → (s.host 0).cstate = 0 → ∃ u, exec (.sbiSystemReset c 2) s = .next u ∧
      u.host 0 = down (s.host 0) ∧ u.host 1 = down (s.host 1) ∧ u.mem = s.mem ∧ u.tiles = s.tiles ∧ u.panels = s.panels) ∧
    (wd.1 ≠ 0 → (s.host 0).cstate ≠ 0 → (s.host 1).cstate ≠ 0 → exec (.hostWatchdogExpiry h) s =
      .next ((put s (wd.1, true, wd.2.2)).emit { cls := 0x20, cause := 15, unit := .host h })) ∧
    exec (.hwdogPeriodWrite h v .owner) s = .next (put s w) ∧
    (bit v.toNat 20 = true → exec (.hwdogKick h v .owner) s = .next (put s w))

/-- The reset and release of a warm reset, and inbound I/O. HOST_WARM_RESET, once nothing of the host dies is in progress,
resets cores, groups and caches, counts the reset and records it; HOST_CORE_RELEASE sets both dies running with PERST_N
released. An inbound read of T2 with no cached copy answers the bytes, a write stores them, an IMSIC write raises its
interrupt, an IOMMU fault is refused and recorded. PCIE_WAKE and a presence change raise one interrupt, whose address and
data the platform sets (free, log 2). -/
def Obligations.WarmResetAndInboundIo : Prop :=
  ∀ (s : State) (rp : RootPort) (rid : BitVec 16) (iova : Nat) (rlx there : Bool) (bs : List Byte) (n a : Nat),
    let h := rp.val / 4
    let rq (op : MemOp) (ans : IommuAnswer) := Instr.pcieInboundRequest rp rid iova op rlx ans
    let msi := (Config.freeWord s.free, Config.freeWord (s.free + 1))
    let plain (m : Nat) : Prop := (∃ d e, regionOf a = .lpddr d ∧ regionOf (a + m - 1) = .lpddr e) ∧ 0 < m ∧
      (∀ l ∈ linesOf a m, s.lineBusy l = false) ∧ ∀ l, s.holders l = []
    ((s.host 0).cstate = 1 → (s.host 0).domReset = false → s.hostsQuiet = true → ∃ u : State,
      exec .hostWarmReset s = .next (u.emit { cls := 0x20, cause := 14 }) ∧ u.cores = [] ∧ u.plumb = [] ∧ (∀ d, d < 2 → (u.host d).lines = [] ∧ (u.host d).domReset = true ∧
      (u.host d).wrcnt = min 255 ((s.host d).wrcnt + 1))) ∧
    ((s.host 0).cstate = 1 → (s.host 0).domReset = true → (∀ z ∈ s.mgmt.accepted, z.wait ≠ some .hosts) →
      ∃ u, exec .hostCoreRelease s = .next u ∧ u.perst = 255 ∧ (∀ d, d < 2 → (u.host d).cstate = 0) ∧ u.mem = s.mem ∧
      u.tiles = s.tiles ∧ u.panels = s.panels) ∧
    ((s.host h).cstate = 0 → plain n → s.readResp a n = .ok → s.noInjection → ∃ u, exec (rq (.read n) (.phys a)) s = .next u ∧
      u.rsps = s.rsps ++ [⟨hostAgent h, 0, .ok, s.readBytes n a⟩] ∧ u.mem = s.mem ∧ u.tiles = s.tiles) ∧
    ((s.host h).cstate = 0 → plain bs.length → s.writeResp a bs.length = .ok →
      ∃ u, exec (rq (.write bs) (.phys a)) s = .next u ∧ u.readBytes bs.length a = bs ∧ s.bytesOutside u a bs.length ∧
      u.tiles = s.tiles ∧ u.rings = s.rings) ∧
    ((s.host h).cstate = 0 → exec (rq (.write bs) (.imsic a)) s = .next { s with msis := s.msis ++ [(a, ofBytes (bs.take 4))] }) ∧
    ((s.host h).cstate = 0 → exec (rq (.write bs) .fault) s =
      .next (s.emit { cls := 0x16, cause := 1, unit := hostAgent h, detail := rid.toNat })) ∧
    exec (.pcieWake rp) s = .next { s with free := s.free + 2, msis := s.msis ++ [msi] } ∧
    (bit s.present rp ≠ there → (s.host h).cstate = 0 → exec (.pciePresenceChange rp there) s =
      .next { s with free := s.free + 2, msis := s.msis ++ [msi], present := setBits s.present rp 1 (b2n there) })

/-! ### Course (12, 11) -/

/-- A started course command whose last frame has its window, path and room sends it: the frame carries the next SEQ and
the payload read from its source (a VOTE frame its record), it stands on the connection until accepted, and the command
is sent, or a collective moves to its next phase. Nothing else changes but the port's count. -/
def Obligations.CourseCommandSendsItsFrame : Prop :=
  ∀ (s : State) (n : Port) (i : Fin 256) (op k m : Nat) (c : Instr) (x : CourseCmd) (f : SentFrame) (bs : List Byte),
    let cn := s.conn k
    let q := cn.paths.getD m (0, 0)
    let g : SentFrame := { f with seq := cn.seq, path := m }
    (op, c) ∈ courseRows n i → s.courseActive n i = some x → ccOp x.w = op →
    s.cmdFrames n (crsPanel i) (crsSlot i) x = [(k, f)] → x.prog = 0 → cn.live = true → seqSub cn.seq cn.acked < 1024 →
    s.nextPath cn cn.rr = some m → s.inFlight q.1 < 16384 → s.noInjection →
    ((f.vote = true ∧ bs = f.payload) ∨ (f.vote = false ∧ 0 < f.len ∧ s.plain f.src ∧
      s.readResp f.src f.len = .ok ∧ bs = s.readBytes f.len f.src)) →
    ∃ u, exec c s = .next u ∧ u.courseTx = s.courseTx ++ [⟨q.1, q.2, s.courseHdr (s.frameHdr k cn g) bs, bs⟩] ∧
      u.conn k = { cn with seq := seqInc cn.seq, rr := (m + 1) % cn.paths.length, frames := cn.frames ++ [g] } ∧
      (∀ y, y ≠ k → u.conn y = s.conn y) ∧ u.mem = s.mem ∧ u.tiles = s.tiles ∧ u.panels = s.panels ∧ u.rings = s.rings ∧
      (u.port n).cmds = (s.port n).cmds.map (fun y => if y.ring = i.val ∧ y.pos = x.pos then y.advance 1 1 else y)

/-- C_NOP at the head of its ring, with no wait, starts and is sent: HEAD passes it. C_ABORT ends its running job with
ECAUSE 2. COLLECTIVE_PHASE_ADVANCE moves an all-reduce to its all-gather, and any other phase to its end, once its arrival
counter has reached the target. COURSE_COMMAND_COMPLETE of a sent command with all its frames applied and no record sends
its remote add and forgets it. -/
def Obligations.CourseCommandsStartAndComplete : Prop :=
  ∀ (s : State) (n : Port) (i : Fin 256), s.noTrace →
    let g := crsRing n i
    let p := crsPanel i
    let j := crsSlot i
    let pt := s.port n
    (∀ w, s.courseActive n i = none → s.courseHead n i = some w → ccWaddr w = 0 → ccOp w = 0 → exec (.cNop n i) s =
      .next ((s.setRing g ((s.ring g).pass 1)).modPort n (fun y => { y with
        cmds := y.cmds ++ [{ ring := i, pos := (s.ring g).head, w := w, sent := true }] }))) ∧
    (∀ w, s.courseActive n i = none → s.courseHead n i = some w → ccWaddr w = 0 → ccOp w = 0x21 →
      (s.job p j).jstate = 1 → (s.job p j).faulted = false → ∃ u, exec (.cAbort n i) s = .next u ∧
      (u.job p j).jstate = 2 ∧ (u.job p j).ecause = 2) ∧
    (∀ x, pt.cmds.find? (fun c => decide (c.ring = i.val) && decide (c.phase = 1 ∨ c.phase = 3)) = some x →
      let na := wnAddr ((s.panel p).wins.get 0 (ccWin x.w))
      let a := na + (if x.phase = 1 then 8 else 16)
      let target := if x.phase = 1 then ccTacc x.w else ccTput x.w
      na ≠ 0 → s.noInjection → s.plain a → s.readResp a 8 = .ok →
      (seqSub (s.readNat 8 a % 2 ^ 32) target < 2 ^ 31 → exec (.collectivePhaseAdvance n i) s =
        .next (s.modCmd n i x.pos (fun y => { y with phase := if y.phase = 1 ∧ ccOp y.w = 0x10 then 2 else 4 }))) ∧
      (2 ^ 31 ≤ seqSub (s.readNat 8 a % 2 ^ 32) target → exec (.collectivePhaseAdvance n i) s = .next s)) ∧
    (∀ x, pt.cmds.find? (fun c => c.ring = i.val) = some x → x.sent = true →
      (ccCollective (ccOp x.w) = false ∨ x.phase = 4) → s.framesGone n p j x = true → ccRec x.w = false →
      let add : RemoteAdd := ⟨portAgent n, 3, ccSigtile x.w, p, j, ccSigctr x.w, ccSigval x.w % 2 ^ 16, (s.job p j).gen⟩
      let u := s.modPort n (fun y => { y with cmds := y.cmds.erase x })
      (ccSigen x.w = true → exec (.courseCommandComplete n i) s = .next { u with adds := s.adds ++ [add] }) ∧
      (ccSigen x.w = false → exec (.courseCommandComplete n i) s = .next u))

/-- Frames at an open Course port. One that fails its checks is discarded and counted, whatever its type. A data frame
next in order is held and P passes it; a duplicate is discarded, counted, and owed an ACK. A held write next in
order is applied: the window holds its payload, A passes it. An ACK marks and releases the frames it names. An ABORT of a
STEP not committed ends the job with ECAUSE 3. -/
def Obligations.CourseFramesAreReceived : Prop :=
  ∀ (s : State) (n : Port) (f : CourseFrame) (k : ConnKey), s.portOpen n = true → s.noInjection →
    let key := connKey k.panel k.slot k.rank k.ch
    let q := fhSeq f.hdr
    let cn := (s.conn key).acknowledge (fhAckseq f.hdr)
    let got : State := s.modPort n (fun x => { x with rxf := min 0xFFFFFFFF (x.rxf + 1) })
    (s.frameIntact n f = false → ∀ c ∈ [Instr.courseDataReceive n f, .voteFrameReceive n f, .courseAckReceive n f,
      .courseAbortReceive n f], exec c s = .next (s.modPort n (fun x => { x with badf := min 0xFFFF (x.badf + 1) }))) ∧
    (s.frameIntact n f = true → s.connOf f.hdr = some key → fhType f.hdr = 0 →
      (cn.duplicate q = false → cn.beyond q = false → (got.setConn key cn).rxFull n f.payload.length = false →
        cn.nackNow q s.now = false → s.windowFault (keyPanel key) f.hdr = none →
        ¬ (16 ≤ seqSub (cn.holdFrame q n f).p cn.ackP ∨ 16 ≤ seqSub cn.a cn.ackA) →
        exec (.courseDataReceive n f) s = .next (got.setConn key (cn.holdFrame q n f))) ∧
      (cn.duplicate q = true → exec (.courseDataReceive n f) s =
        .next ((got.modPort n (fun x => { x with dup := min 0xFFFF (x.dup + 1) })).setConn key { cn with ackSoon := true }))) ∧
    (s.frameIntact n f = true → s.connOf f.hdr = some key → fhType f.hdr = 1 →
      let bm := ofBytes f.payload % 2 ^ 1024
      exec (.courseAckReceive n f) s = .next (got.setConn key (((s.conn key).mark q bm).acknowledge (fhAckseq f.hdr)))) ∧
    (s.frameIntact n f = true → s.connOf f.hdr = some key → fhType f.hdr = 4 → (s.conn key).jtag = fhJtag f.hdr →
      let p := keyPanel key
      let j := keySlot key
      (s.job p j).jstate = 1 → (s.job p j).faulted = false → (s.job p j).committed (ofBytes (f.payload.take 8)) = false →
      ∃ u, exec (.courseAbortReceive n f) s = .next u ∧ (u.job p j).jstate = 2 ∧ (u.job p j).ecause = 3) ∧
    (∀ r : RxFrame, let h := r.hdr; let c := s.conn key
      let a := wnBase ((s.panel (keyPanel key)).wins.get 0 (fhWin h)) + fhOff h
      c.rx.get none c.a = some r → r.applied = false → fhType h = 0 → fhOp h = 0 → c.a < 2 ^ 32 →
      s.windowStopped a = false → s.plain a → s.writeResp a r.payload.length = .ok → fhLast h = false →
      c.rx.get none (seqInc c.a) = none → ¬ (16 ≤ seqSub c.p c.ackP ∨ 16 ≤ seqSub (seqInc c.a) c.ackA) →
      ∃ u, exec (.courseFrameApplied k (BitVec.ofNat 32 c.a)) s = .next u ∧ u.readBytes r.payload.length a = r.payload ∧
      s.bytesOutside u a r.payload.length ∧ (u.conn key).a = seqInc c.a ∧ (u.conn key).rx.get none c.a = none ∧
      (u.conn key).p = c.p ∧ u.tiles = s.tiles ∧ u.panels = s.panels)

/-- A VOTE frame of a job whose own READY is not waiting, next in its connection and applied at once: the sender's READY
for its STEP is held, its record lies in the sender's slot of the vote table, and A and P pass the frame. -/
def Obligations.VoteFrameIsHeld : Prop :=
  ∀ (s : State) (n : Port) (f : CourseFrame) (key : Nat), s.portOpen n = true → s.noInjection →
    let got : State := s.modPort n (fun x => { x with rxf := min 0xFFFFFFFF (x.rxf + 1) })
    let c := (s.conn key).acknowledge (fhAckseq f.hdr)
    let p := keyPanel key
    let j := keySlot key
    let step := ofBytes (f.payload.take 8)
    let a := (s.job p j).vtab + 128 * keyRank key + 64 * (step % 2)
    s.frameIntact n f = true → s.connOf f.hdr = some key → fhType f.hdr = 3 → f.payload.length = 64 →
    (s.job p j).vote = none → s.plain a → fhSeq f.hdr = c.p → c.p = c.a → c.p < 2 ^ 32 - 1 → c.bitmap = 0 →
    c.rx = [] → (got.setConn key c).rxFull n 64 = false → c.ackP = c.p → c.ackA = c.a → c.live = true →
    ∃ u, exec (.voteFrameReceive n f) s = .next u ∧ (keyRank key, step) ∈ (u.job p j).ready ∧
      u.readBytes 64 a = f.payload ∧ s.bytesOutside u a 64 ∧ (u.conn key).a = c.a + 1 ∧ (u.conn key).p = c.p + 1

/-- Timers, holds and Ethernet. An owed ACK is sent. A retransmission timer sends its frame again on the next path, and
counts its path's expiries; a skipped path is used again at its expiry; a connection timer outside holds, and a vote timer,
end the job with ECAUSE 2. ABORT_RESEND of a last copy forgets it. An up link that goes down retrains under hold and is
recorded, and is failed when the hold expires; RETRAIN by module authority retrains; a link comes up. A received Ethernet
frame with no buffer is counted, and one with room is written to its buffer; a queued frame is transmitted. -/
def Obligations.CourseTimersLinksAndEthernet : Prop :=
  ∀ (s : State) (n : Port) (k : ConnKey) (seq : Count) (path : Fin 8) (p : PanelId) (j : Slot) (v : BitVec 32) (half : Bool),
    let key := connKey k.panel k.slot k.rank k.ch
    let c := s.conn key
    let pt := s.port n
    let down : State := s.modPort n (fun x => { x with st := 3, hold := true })
    (∀ q, c.live = true → c.ackSoon = true → c.paths.find? (fun z => decide (z.1 = 32 ∧ (s.port z.1).st = 2)) = none →
      c.paths.find? (fun z => decide ((s.port z.1).st = 2)) = some q → ∃ u, exec (.courseAckTimer k) s = .next u ∧
      u.courseTx.length = s.courseTx.length + 1 ∧ u.conn key = { c with ackP := c.p, ackA := c.a, ackSoon := false } ∧
      u = { s with courseTx := u.courseTx, ports := u.ports, conns := u.conns }) ∧
    (∀ f, c.frames.find? (fun f => decide (f.seq = seq.toNat) && !f.accepted) = some f →
      let e : Conn := { c with expiries := c.expiries.modify 0 f.path (fun e => min 2 (e + 1)) }
      ((s.setConn key e).nextPath e (f.path + 1) = none → exec (.courseRetxTimer k seq) s = .next (s.setConn key e)) ∧
      (∀ m, f.vote = true → (s.setConn key e).nextPath e (f.path + 1) = some m → ∃ u, exec (.courseRetxTimer k seq) s = .next u ∧
        u.courseTx.length = s.courseTx.length + 1 ∧ (u.conn key).expiries = e.expiries ∧
        (u.conn key).frames = c.frames.map (fun g => if g.seq = f.seq then { f with path := m, sends := f.sends + 1 } else g)) ∧
      (s.failStopped c = false → (s.job (keyPanel key) (keySlot key)).jstate = 1 →
        (s.job (keyPanel key) (keySlot key)).faulted = false → ∃ u, exec (.courseConnFailTimer k seq) s = .next u ∧
        (u.job (keyPanel key) (keySlot key)).jstate = 2 ∧ (u.job (keyPanel key) (keySlot key)).ecause = 2)) ∧
    (2 ≤ c.expiries.get 0 path → exec (.coursePathSkipExpiry k path) s =
      .next (s.setConn key { c with expiries := c.expiries.set 0 path 0 })) ∧
    (∀ step, (s.job p j).vote = some (step, false) → (s.job p j).vtimer = true → s.courseHold = false → s.linkHold = false →
      s.halted = false → (s.job p j).jstate = 1 → (s.job p j).faulted = false → ∃ u, exec (.voteTimeout p j) s = .next u ∧
      (u.job p j).jstate = 2 ∧ (u.job p j).ecause = 2) ∧
    (∀ a, s.aborts.find? (fun a => decide (a.panel = p.val ∧ a.slot = j.val)) = some a → a.left = 1 → a.frames = [] →
      exec (.abortResend p j) s = .next { s with aborts := s.aborts.erase a }) ∧
    (pt.st = 2 → exec (.courseLinkDown n) s = .next (down.emit { cls := 0x17, cause := 1, unit := portAgent n, detail := n })) ∧
    (pt.st = 3 → pt.hold = true → s.mgmt.accepted = [] → s.conns = [] → exec (.courseLinkHoldExpiry n) s =
      .next ((s.modPort n (fun x => { x with st := 4, hold := false })).emit { cls := 0x17, cause := 8, unit := portAgent n, detail := n })) ∧
    (v.getLsbD 0 = true → 2 ≤ pt.st → exec (.coursePortRetrain n v .owner) s =
      .next (down.emit { cls := 0x17, cause := 1, unit := portAgent n, detail := n })) ∧
    ((pt.st = 1 ∨ pt.st = 3) → s.mgmt.accepted = [] →
      let u := s.modPort n (fun x => { x with st := 2, hold := false, half := half })
      exec (.courseLinkUp n half) s = .next (if half then u.emit { cls := 0x17, cause := 7, unit := portAgent n, detail := n } else u)) ∧
    (∀ f, pt.eth = true → pt.st = 2 → pt.ethAccepts f.bytes = true →
      let g := crsRing n (128 + flowHash f.bytes % pt.nrxq)
      let r := s.ring g
      let e := s.readNat 64 (r.entryAddr r.head)
      let a := bits e 0 52
      let w := r.entryAddr r.head + 32
      ((s.ring g).en = false → exec (.ethFrameReceive n f) s = .next (s.modPort n (fun x => { x with rxdrop := min 0xFFFF (x.rxdrop + 1) }))) ∧
      (r.en = true → r.stopped = false → r.count ≠ 0 → s.noInjection → s.plain (r.entryAddr r.head) →
        s.readResp (r.entryAddr r.head) 64 = .ok → f.bytes.length ≤ bits e 64 14 → f.fcsOk = true → 0 < f.bytes.length →
        s.plain a → s.plain w → s.writeResp a f.bytes.length = .ok → s.writeResp w 32 = .ok →
        (a + f.bytes.length ≤ w ∨ w + 32 ≤ a) → ∃ u, exec (.ethFrameReceive n f) s = .next u ∧
        u.readBytes f.bytes.length a = f.bytes ∧ u.ring g = r.pass 1 ∧
        u.readNat 32 w = f.bytes.length + b2n s.time.lock * 2 ^ 16 + s.now % 2 ^ 64 * 2 ^ 64)) ∧
    (∀ q : Fin 128, let g := crsRing n q; let r := s.ring g; let e := s.readNat 64 (r.entryAddr r.head)
      let a := bits e 0 52; let w := r.entryAddr r.head + 32
      pt.eth = true → pt.st = 2 → r.en = true → r.stopped = false → r.count ≠ 0 → s.noInjection →
      s.plain (r.entryAddr r.head) → s.readResp (r.entryAddr r.head) 64 = .ok → 0 < bits e 64 14 →
      s.plain a → s.readResp a (bits e 64 14) = .ok → s.plain w → s.writeResp w 32 = .ok →
      ∃ u, exec (.ethFrameTransmit n q) s = .next u ∧ u.ethTx = s.ethTx ++ [(n.val, pt.addTag (s.readBytes (bits e 64 14) a))] ∧
      u.ring g = r.pass 1 ∧ s.bytesOutside u w 32)

/-! ### Hod and intake engines (13, 14) -/

/-- Hod commands. H_NOP starts when it is the slot's next, and HEAD passes its two entries. H_GATHER of one index, without
bags or weights, writes the row of the index, times 1.0, in OFMT at DATA, and counts the row. H_MERGE of one occurrence
writes the list (its length, the index) at UOUT and the occurrence's gradient as FP32 at MOUT. H_UPDATE of a list of one row
under RULE 0 writes the row less LR times its gradient back into its slot in the slot's own format. An access answered
OK leaves those outstanding and others issue; one answered otherwise ends the job with ECAUSE 2 and stops the slot's rings. A
command run and answered completes with its remote add. -/
def Obligations.HodCommandsRun : Prop :=
  ∀ (s : State) (h : HodId) (i : Fin 128) (p : Nat), s.spanPanel h = some p → s.noTrace → s.noInjection →
    let j := i.val / 16
    let g := hodRing h i
    let hd := s.hod h
    (∀ w, hd.cmds.find? (fun c => decide (c.ring = i.val) && !c.ran && decide (hcOp c.w = 0 ∨ 3 < hcOp c.w)) = none →
      s.hodPick h p j = some (i.val, w) → hcOp w = 0 → s.hodCauses p j w = [] → hcWaiten w = false → hcCond w = false →
      let x : HodCmd := { ring := i, pos := (s.ring g).head, w := w, ran := true }
      exec (.hNop h i) s = .next ((s.setRing g ((s.ring g).pass 2)).modHod h (fun y =>
        ({ y with ringPtr := y.ringPtr.set 0 j ((i.val + 1) % 16), cmds := y.cmds ++ [x] } : HodS).issueAll))) ∧
    (∀ op c x, (op, c) ∈ hodRows h i → hcOp x.w = op → x.ran = false → x.rLeft = 0 → x.rOut = 0 → s.hodStopped x = false →
      hd.cmds.find? (fun c => decide (c.ring = i.val) && !c.ran && decide (hcOp c.w = op)) = some x → hcNidx x.w = 0 →
      hcPool x.w = 0 → hcWen x.w = false →
      let d := x.desc
      let sat := hcOvf x.w
      let u0 := s.readNat 4 (if op = 3 then x.idxA 1 else x.idxA 0)
      let e := s.readNat 4 (x.addr 7 + 4 * u0)
      let n := slotSize d (e % 4)
      let a := x.slotA (e % 4) (e / 4)
      let row : List (Nat × NFlags) := (List.range (tdD d)).map (rowElem d (e % 4) sat (s.readBytes n a))
      u0 < tdRows d → s.readable (x.idxA 0) 4 →
      (op = 1 → s.readable (x.addr 7 + 4 * u0) 4 → e % 4 < 3 → e / 4 < tdCnt d (e % 4) → s.readable a n →
        let es := row.map (fun y => ((fpOp2 2 sat fp32One y.1).1, y.2.or (fpOp2 2 sat fp32One y.1).2.noUf))
        let bs := ((gatherRow x 0 es).writes.headD (0, [])).2
        s.writable (x.dataA 0) bs.length → ∃ u, exec c s = .next u ∧ u.readBytes bs.length (x.dataA 0) = bs ∧
        s.bytesOutside u (x.dataA 0) bs.length ∧ (u.hod h).rows = satAdd 0xFFFFFFFF hd.rows 1 ∧ s.onlyHods u) ∧
      (op = 2 → let eb := fmtBytes (hcOfmt x.w)
        let gb := s.readBytes (tdD d * eb) (x.dataA 0)
        let es := (List.range (tdD d)).map (fun k => let y := readElem (fmtOf (hcOfmt x.w)) sat (ofBytes ((gb.drop (k * eb)).take eb)) none; (fpFma sat fp32One y.1 0).1)
        let bs := es.flatMap (fun z => toBytes 4 z)
        s.readable (x.dataA 0) (tdD d * eb) → s.writable (x.addr 4) 8 → s.writable (x.addr 5) bs.length → s.writable (x.addr 6) 8 →
        (x.addr 4 + 8 ≤ x.addr 5 ∨ x.addr 5 + bs.length ≤ x.addr 4) → (x.addr 4 + 8 ≤ x.addr 6 ∨ x.addr 6 + 8 ≤ x.addr 4) →
        (x.addr 5 + bs.length ≤ x.addr 6 ∨ x.addr 6 + 8 ≤ x.addr 5) → ∃ u, exec c s = .next u ∧
        u.readBytes 8 (x.addr 4) = toBytes 4 1 ++ toBytes 4 u0 ∧ u.readBytes bs.length (x.addr 5) = bs ∧ u.tiles = s.tiles ∧ u.panels = s.panels) ∧
      (op = 3 → s.readNat 4 (x.idxA 0) = 1 → s.readable (x.idxA 1) 4 → s.readable (x.addr 7 + 4 * u0) 4 → e % 4 < 3 →
        e / 4 < tdCnt d (e % 4) → s.readable a n → s.readable (x.dataA 0) (4 * tdD d) → tdRule d = 0 →
        (hcCond x.w && hcClip x.w) = false →
        let gs : List (Nat × NFlags) := (List.range (tdD d)).map (fun k => (ofBytes (((s.readBytes (4 * tdD d) (x.dataA 0)).drop (4 * k)).take 4), {}))
        let new := (row.zip gs).map (fun y => (fpFma sat (negCode (tdLr d, {})).1 y.2.1 y.1.1).1)
        let bs := (slotBytes x (e % 4) u0 new).1
        s.writable a bs.length → ∃ u, exec c s = .next u ∧ u.readBytes bs.length a = bs ∧ s.bytesOutside u a bs.length ∧
        (u.hod h).rows = satAdd 0xFFFFFFFF hd.rows 1 ∧ s.onlyHods u)) ∧
    (∀ x write, hd.cmds.find? (fun c => decide (0 < (if write then c.wOut else c.rOut))) = some x →
      exec (.hodAccessResponse h write .ok) s = .next ((s.modHodCmd h x.ring x.pos (fun c =>
        if write then { c with wOut := c.wOut - 1 } else { c with rOut := c.rOut - 1 })).modHod h HodS.issueAll) ∧
      (∀ r, r ≠ .ok → (s.job p (x.ring / 16)).jstate = 1 → (s.job p (x.ring / 16)).faulted = false →
        ∃ u, exec (.hodAccessResponse h write r) s = .next u ∧ (u.job p (x.ring / 16)).jstate = 2 ∧
        (u.job p (x.ring / 16)).ecause = 2)) ∧
    (∀ x, hd.cmds.find? (fun c => c.ring = i.val) = some x → x.ran = true → x.rOut = 0 → x.wLeft = 0 → x.wOut = 0 →
      hcRec x.w = false →
      let add : RemoteAdd := ⟨hodAgent h, 3, hcSigtile x.w, p, j, hcSigctr x.w, hcSigval x.w % 2 ^ 16, (s.job p j).gen⟩
      let u := s.modHod h (fun y => { y with cmds := y.cmds.filter (fun c => !(c.ring = i.val && c.pos = x.pos)) })
      (hcSigen x.w = true → exec (.hodCommandComplete h i) s = .next { u with adds := s.adds ++ [add] }) ∧
      (hcSigen x.w = false → exec (.hodCommandComplete h i) s = .next u))

/-- Intake commands, on an engine whose host die runs. I_NOP starts when it is the engine's next. I_IMAGE without NORM writes
its picture at OUT, and I_VIDEO its pictures (samples free, log 28), the contents of WORK being free (log 31); one that a check
rejects before decoding writes nothing, a JPEG rejected while decoding nothing but WORK, and its status says STATUS 1 and the
cause. I_ALIGN of two streams of one sample each writes the group of sample 0, unless it lacks its member and MODE is 0; any
other run of it leaves what runAlign gives. I_SHUFFLE writes the CNT permuted numbers from POS on. An access answered OK lets
others issue; one answered otherwise ends the job with ECAUSE 2. A command run and answered, without record and remote add,
writes its status record with the time and is forgotten. -/
def Obligations.IntakeCommandsRun : Prop :=
  ∀ (s : State) (n : IntakeId) (i : Fin 512), s.noTrace → s.noInjection → s.intakeHeld n = false →
    let p := intPanel i
    let j := intSlot i
    let g := intRing n i
    let it := s.intake n
    let running (x : IntCmd) (op : Nat) : Prop := x.ran = false ∧ x.rLeft = 0 ∧ x.rOut = 0 ∧ icOp x.w = op ∧
      it.cmds.find? (fun c => decide (c.ring = i.val) && !c.ran && decide (icOp c.w = op)) = some x
    let done (v : State) (x : IntCmd) (out : HodOut) (st : IcStat) (pics rej drop : Nat) : State :=
      (v.modIntCmd n x.ring x.pos (fun c => { c with ran := true, wLeft := (out.writes.map (fun w => accessPieces w.1 w.2.length)).sum, flags := out.flags.toNat, status := st.code })).modIntake n
        (fun y => { y with pics := pics, rej := rej, drop := drop }.issueAll)
    (∀ w, it.cmds.find? (fun c => decide (c.ring = i.val) && !c.ran && decide (icOp c.w = 0 ∨ 4 < icOp c.w)) = none →
      s.intPick n = some (i.val, w) → icOp w = 0 → s.intakeMalformed p j w = false → icWaiten w = false →
      let tr := (intakeUses w).map (fun u => (s.segAddr p j u.1 u.2.1 u.2.2.1 u.2.2.2 [3]).getD 0)
      let x : IntCmd := { ring := i, pos := (s.ring g).head, w := w, tr := tr, ran := true }
      exec (.iNop n i) s = .next ((s.setRing g ((s.ring g).pass 2)).modIntake n (fun y =>
        ({ y with panelPtr := (p + 1) % 16, ringPtr := y.ringPtr.set 0 p ((i.val % 32 + 1) % 32), cmds := y.cmds ++ [x] } : IntS).issueAll))) ∧
    (∀ x, running x 1 → s.readable (x.addr 0) (icInlen x.w) → icNen x.w = false →
      let bs := s.readBytes (icInlen x.w) (x.addr 0)
      let hd := Config.picHead 0 bs
      let wk := s.drawBytes (min (decodedBytes hd) (icWorklen x.w))
      let rej (c : Nat) : IcStat := { headStat x.w hd with status := 1, cause := c, cs := 0 }
      (∀ c, rejectCause x.w hd (Config.jpegError bs) = some c → c ≠ 8 ∨ hd.bad = true → exec (.iImage n i) s =
        .next (done s x {} (rej c) (satAdd 0xFFFFFFFF it.pics 0) (satAdd 0xFFFF it.rej 1) (satAdd 0xFFFF it.drop 0))) ∧
      (rejectCause x.w hd (Config.jpegError bs) = some 8 → hd.bad = false → ∀ v, wk.1.intWrites [(x.addr 3, wk.2)] = (v, none) →
        exec (.iImage n i) s = .next (done v x { writes := [(x.addr 3, wk.2)] } (rej 8) (satAdd 0xFFFFFFFF (v.intake n).pics 0)
          (satAdd 0xFFFF (v.intake n).rej 1) (satAdd 0xFFFF (v.intake n).drop 0))) ∧
      (rejectCause x.w hd (Config.jpegError bs) = none →
        let out := HodOut.join [{ writes := [(x.addr 3, wk.2)] }, pictureOut x.w (x.addr 1) bs hd [] 0 (icPos x.w)]
        ∀ v, wk.1.intWrites out.writes = (v, none) → exec (.iImage n i) s =
          .next (done v x out { headStat x.w hd with outN := 1 } (satAdd 0xFFFFFFFF (v.intake n).pics 1) (v.intake n).rej (satAdd 0xFFFF (v.intake n).drop 0)))) ∧
    (∀ x, running x 2 → s.readable (x.addr 0) (icInlen x.w) → icNen x.w = false →
      let bs := s.readBytes (icInlen x.w) (x.addr 0)
      let hd := Config.picHead (icCoding x.w) bs
      let vr := Config.videoRun (icCoding x.w) bs (icPics x.w)
      let k := min vr.pics (icPics x.w)
      let wk := s.drawBytes (min ((hd.dpb + 1) * decodedBytes hd) (icWorklen x.w))
      (∀ c, rejectCause x.w hd vr.early = some c → exec (.iVideo n i) s =
        .next (done s x {} { headStat x.w hd with status := 1, cause := c, cs := 0 } (satAdd 0xFFFFFFFF it.pics 0) (satAdd 0xFFFF it.rej 1)
          (satAdd 0xFFFF it.drop 0))) ∧
      (rejectCause x.w hd vr.early = none →
        let out := HodOut.join ({ writes := [(x.addr 3, wk.2)] } :: (List.range k).map (fun q => pictureOut x.w (x.addr 1) bs hd [] q (icPos x.w + q)))
        let st : IcStat := if vr.dropped = 0 then { headStat x.w hd with outN := k }
          else { headStat x.w hd with status := 2, cause := if vr.cause10 then 10 else 9, outN := k, dropN := vr.dropped, first := vr.first }
        ∀ v, wk.1.intWrites out.writes = (v, none) → exec (.iVideo n i) s =
          .next (done v x out st (satAdd 0xFFFFFFFF (v.intake n).pics k) (v.intake n).rej (satAdd 0xFFFF (v.intake n).drop vr.dropped)))) ∧
    (∀ x, running x 3 → ∀ v out st, runAlign p j x s = (v, .ok (out, st)) → ∀ t, v.intWrites out.writes = (t, none) → st.status ≠ 1 →
      exec (.iAlign n i) s = .next (done t x out st (t.intake n).pics (t.intake n).rej (t.intake n).drop)) ∧
    (∀ x, running x 3 →
      let h := s.readNat 16 (x.addr 0)
      let t (k : Nat) : Nat := s.readNat 8 (x.addr (5 + k))
      let near : Prop := bit (t 1) 63 = bit (t 0) 63 ∧ natDist (bits (t 1) 0 63) (bits (t 0) 0 63) ≤ alTol h
      let wrote (bs : List Byte) (st : IcStat) : State :=
        done (s.writeBytes (x.addr 1) bs) x { writes := [(x.addr 1, bs)] } st it.pics it.rej it.drop
      s.readable (x.addr 0) 16 → alStreams h = 2 → (∀ k, k < 2 → s.readable (x.addr 0 + 16 + 16 * k) 16 ∧
        alCount (s.readNat 16 (x.addr 0 + 16 + 16 * k)) = 1 ∧ s.readable (x.addr (5 + k)) 8) → s.writable (x.addr 1) 8 →
      (near → exec (.iAlign n i) s = .next (wrote (toBytes 4 0 ++ toBytes 4 0) { outN := 1 })) ∧
      (¬ near → alMode1 h = true →
        exec (.iAlign n i) s = .next (wrote (toBytes 4 0 ++ toBytes 4 0xFFFFFFFF) { status := 2, outN := 1, dropN := 1 })) ∧
      (¬ near → alMode1 h = false → exec (.iAlign n i) s = .next (wrote [] { status := 2, dropN := 1 }))) ∧
    (∀ x, running x 4 →
      let bs := (List.range (icCnt x.w)).flatMap (fun q => toBytes 8 (perm (icPos x.w + q) (icN x.w) (icSeed x.w) (icEpoch x.w)))
      s.writable (x.addr 1) bs.length → ∃ u, exec (.iShuffle n i) s = .next u ∧ u.readBytes bs.length (x.addr 1) = bs ∧
      s.bytesOutside u (x.addr 1) bs.length ∧ u.tiles = s.tiles ∧ u.panels = s.panels) ∧
    (∀ x write, it.cmds.find? (fun c => decide (0 < (if write then c.wOut else c.rOut))) = some x →
      exec (.intakeAccessResponse n write .ok) s = .next ((s.modIntCmd n x.ring x.pos (fun c =>
        if write then { c with wOut := c.wOut - 1 } else { c with rOut := c.rOut - 1 })).modIntake n IntS.issueAll) ∧
      (∀ r, r ≠ .ok → let q := intPanel x.ring; let k := intSlot x.ring
        (s.job q k).jstate = 1 → (s.job q k).faulted = false → ∃ u, exec (.intakeAccessResponse n write r) s = .next u ∧
        (u.job q k).jstate = 2 ∧ (u.job q k).ecause = 2)) ∧
    (∀ x, it.cmds.find? (fun c => c.ring = i.val) = some x → x.ran = true → x.rOut = 0 → x.wLeft = 0 → x.wOut = 0 →
      icRec x.w = false → icOp x.w ≠ 0 → icSigen x.w = false → s.writable (x.addr 2) 32 →
      ∃ u, exec (.intakeCommandComplete n i) s = .next u ∧ s.bytesOutside u (x.addr 2) 32 ∧
      u.readBytes 32 (x.addr 2) = toBytes 32 (x.status + b2n s.time.lock * 2 ^ 16 + s.now % 2 ^ 64 * 2 ^ 192) ∧
      (u.intake n).cmds = it.cmds.filter (fun c => !(c.ring = i.val && c.pos = x.pos)) ∧ u.adds = s.adds ∧ u.rings = s.rings)

/-! ### Icral: paths, sessions and replies (16) -/

/-- The three packet paths. A packet that passes is accepted: written over I3C, where it also discards an unread reply; in
one IPv4 datagram of an allowed source; and named by the entry at HEAD of a mailbox ring, with the authority of its
doorbell. One with a wrong CRC over I3C is answered BAD_CRC at once. An entry that breaks its rules is answered in its
completion record with ENTRY_BAD, and HEAD passes it. -/
def Obligations.PacketsAreAccepted : Prop :=
  ∀ (s : State) (bytes : List Byte) (d : Datagram) (p : PanelId) (i : Fin 64), s.managed = true →
    let u : State := { s with mgmt := { s.mgmt with i3cReply := none } }
    (s.boot.lcs ≠ 4 → u.passes .i3c .owner bytes → ∃ t, exec (.i3cPrivateWrite bytes) s = .next t ∧
      t.mgmt.i3cReply = none ∧ u.accepts t { q := readPacket .i3c .owner bytes }) ∧
    (s.boot.lcs ≠ 4 → headerOk bytes = true → packetCrcOk bytes = false → ∃ t, exec (.i3cPrivateWrite bytes) s = .next t ∧
      t.mgmt.i3cReply = some (s.formReply (readPacket .i3c .owner bytes) stBadCrc 0 [] []) ∧
      t.mgmt.accepted = s.mgmt.accepted ∧ t.mgmt.ibi = s.mgmt.ibi ++ [0xA1]) ∧
    (s.boot.recovery = false → s.boot.lcs ≠ 4 → s.allowed d.srcIp = true → d.offset = 0 → d.more = false →
      d.bytes.length ≤ 8224 → s.mgmt.frags = [] → s.passes (.eth d.srcIp d.srcPort) .owner d.bytes →
      ∃ t, exec (.mgmtDatagramReceive d) s = .next t ∧ s.accepts t { q := readPacket (.eth d.srcIp d.srcPort) .owner d.bytes }) ∧
    (let g := mailboxRing p i
     let r := s.ring g
     let ea := r.entryAddr r.head
     let e := s.readNat 64 ea
     let pkt := bits e 0 52
     let n := 32 + bits (s.readNat 32 pkt) 64 13
     let k : SessKey := .mailbox p i
     let auth := r.authAt r.head
     r.en = true → r.count ≠ 0 → s.performing k = none → s.mgmt.accepted.length < 256 → s.plain ea →
     s.readResp ea 64 = .ok →
     (s.entryOk auth e = true → s.plain pkt → s.readResp pkt 32 = .ok → s.t2Reach auth pkt n = true →
       s.readResp pkt n = .ok → s.passes k auth (s.readBytes n pkt) → ∃ t, exec (.mailboxEntryFetch p i) s = .next t ∧
       s.accepts t { q := readPacket k auth (s.readBytes n pkt), pos := r.head, rpy := bits e 64 52, rblk := bits e 128 7, msi := bit e 135 }) ∧
     (s.entryOk auth e = false → bit e 135 = false → let a := r.clog + r.head.toNat % r.size * 8
       s.plain a → ∃ t, exec (.mailboxEntryFetch p i) s = .next t ∧
       t.readNat 8 a = r.head.toNat + stEntryBad * 2 ^ 32 ∧ s.bytesOutside t a 8 ∧ (t.ring g).head = r.head + 1 ∧
       t.mgmt = s.mgmt))

/-- What ends on its own. An unread I3C reply is returned to a private read, and none stays; a private read without one returns
nothing. The session of an idle source makes room when a source needs it. A reassembly that does not end in time is
discarded. The dynamic address assigned is held, and a DHCP lease is the address the server gives. -/
def Obligations.ReplyReadsAndExpiries : Prop :=
  ∀ (s : State) (ip : BitVec 32) (port ident : BitVec 16) (addr : BitVec 7) (ans : Option (BitVec 32)),
    let m := s.mgmt
    (∀ r, m.i3cReply = some r → exec .i3cPrivateRead s =
      .next { s with mgmt := { m with i3cReply := none, i3cOut := m.i3cOut ++ [r] } }) ∧
    (m.i3cReply = none → exec .i3cPrivateRead s = .next s) ∧
    (∀ x, assoc m.sessions (.eth ip port) = some x → m.want = true → s.performing (.eth ip port) = none →
      exec (.sessionIdleExpiry ip port) s =
        .next { s with mgmt := { m with sessions := m.sessions.filter (fun x => x.1 ≠ .eth ip port), want := false } }) ∧
    (∃ u, exec (.reassemblyExpiry ip ident) s = .next u ∧ u = { s with mgmt := { m with frags := u.mgmt.frags } } ∧
      (∀ r ∈ u.mgmt.frags, ¬ (r.ip = ip ∧ r.ident = ident)) ∧
      ∀ r ∈ m.frags, ¬ (r.ip = ip ∧ r.ident = ident) → r ∈ u.mgmt.frags) ∧
    (s.managed = true → exec (.i3cDynamicAddressAssign addr) s = .next { s with mgmt := { m with i3cAddr := some addr } }) ∧
    (s.managed = true → m.static = false → exec (.dhcpLeaseTimer ans) s =
      .next { s with mgmt := { m with lease := ans.map (·.toNat) } })

/-! ### Icral: the module (16, 18) -/

/-- Queries and settings of the module. ID_QUERY over I3C leaves its reply to be read, cached under its SEQ, and forgets the
packet. STATUS_QUERY answers the panel's words, and TELEMETRY the readings, beginning a new maximum. SET_MODULE_ID without a
job, SET_POWER_LIMIT (7.0 to 16.0 kW in steps of 10 W, whatever was asked), SET_FABRIC and MGMT_NET set what they name. HOST_RESET
triggers a warm reset and waits for it. MODULE_RESET with the right MEPOCH makes a reset with RCAUSE 1 due. -/
def Obligations.ModuleQueriesAndSettings : Prop :=
  ∀ (s : State) (q : IcralReq) (w : Nat) (cl : List Nat),
    let a := s.acceptedOf q
    (s.taken q 0x01 specIdQuery w cl → q.sess = .i3c → ∃ u, exec (.idQuery q) s = .next u ∧
      let rep := s.formReply q stOk 0 s.idReply cl
      u.mgmt.i3cReply = some rep ∧ u.mgmt.ibi = s.mgmt.ibi ++ [0xA1] ∧ (q.seq, rep) ∈ (u.session .i3c).replies ∧
      (∀ b ∈ u.mgmt.accepted, b.q ≠ q) ∧ u = { s with mgmt := u.mgmt }) ∧
    (s.taken q 0x02 specSetModuleId w cl → s.anyJob = false → exec (.setModuleId q) s =
      .next (State.answer { s with modId := bits w 0 10, midset := true } a stOk 0 [] cl)) ∧
    (s.taken q 0x03 specStatusQuery w cl → (s.panel q.panel).state ≠ 0 → exec (.statusQuery q) s =
      .next (s.answer a stOk 0 (s.statusReply q.panel) cl)) ∧
    (s.taken q 0x04 specTelemetry w cl → let t := s.answer a stOk 0 s.telemetryReply cl
      exec (.telemetry q) s = .next { t with power := { t.power with pmax := 0 }, free := t.free + 18 }) ∧
    (s.taken q 0x05 specSetPowerLimit w cl → exec (.setPowerLimit q) s =
      .next (State.answer { s with power := { s.power with limit := bits w 0 32 } } a stOk 0 [] cl) ∧
      7000 ≤ bits w 0 32 ∧ bits w 0 32 ≤ 16000 ∧ bits w 0 32 % 10 = 0) ∧
    (s.taken q 0x06 specSetFabric w cl → exec (.setFabric q) s =
      .next (State.answer { s with strict := bit w 0, boot := { s.boot with ufloor := bits w 1 2 } } a stOk 0 [] cl)) ∧
    (s.taken q 0x25 specMgmtNet w cl →
      let allow := (List.range (bits w 128 4)).map (fun k => (bits w (192 + 64 * k) 32, bits w (224 + 64 * k) 6))
      exec (.mgmtNet q) s = .next (State.answer { s with mgmt := { s.mgmt with static := bit w 0, addr := bits w 32 32, masklen := bits w 64 6, gw := bits w 96 32, allow := allow } } a stOk 0 [] cl)) ∧
    (s.taken q 0x07 specHostReset w cl → exec (.hostReset q) s = .next (s.warmTrigger.waiting q .hosts cl)) ∧
    (s.taken q 0x08 specModuleReset w cl → bits w 0 32 = s.boot.mepoch % 2 ^ 32 → exec (.moduleReset q) s =
      .next (State.answer { s with boot := { s.boot with rst := some (s.boot.rst.getD 1) } } a stOk 0 [] cl))

/-- LIFECYCLE with the right MEPOCH. A transition that Table 18.7 allows makes a reset with RCAUSE 6 due, and the target is kept;
any other is CONFLICT at bit 35. An image staged from T2 that R566 accepts is kept, and FWST says staging, any other is BAD_FIELD at bit 64; when its flash writes
end the slot not running holds it in both flashes and is preferred. Activation makes a reset with RCAUSE 7 due. In recovery
a block is kept under its number, and the commit of an accepted image writes every slot and makes a cold start due, of any other nothing. -/
def Obligations.LifecyclePacketsAct : Prop :=
  ∀ (s : State) (q : IcralReq) (w : Nat) (cl : List Nat),
    let a := s.acceptedOf q
    let b := s.boot
    let epoch := bits w 0 32 = b.mepoch % 2 ^ 32
    (s.taken q 0x09 specTransition w cl → lcAction q = 0 → epoch → (moveOk b.lcs (bits w 35 3) = true → exec (.lifecycleTransition q) s =
        .next (State.answer { s with boot := { b with target := some (bits w 35 3), rst := some 6 } } a stOk 0 [] cl)) ∧
      (moveOk b.lcs (bits w 35 3) = false → exec (.lifecycleTransition q) s = .next (s.answer a stConflict 35 [] []))) ∧
    (s.taken q 0x09 specStage w cl → lcAction q = 1 → epoch → b.fwst ≠ 1 → let n := bits w 128 32 + 1; let bs := s.readBytes n (bits w 64 52)
      s.plain (bits w 64 52) → s.readResp (bits w 64 52) n = .ok → exec (.lifecycleStageImage q) s = .next (if b.accepts bs = true then
        State.answer { s with boot := { b with fwst := 1, staged := bs } } a stOk 0 [] cl else s.answer a stBadField 64 [] [])) ∧
    (b.fwst = 1 → let k := 1 - b.slot
      (∃ u, exec (.imageStageDone true) s = .next u ∧ u = { s with boot := u.boot } ∧ u.boot.fwst = 2 ∧
        (k ≤ 1 → u.boot.image 0 k = b.staged ∧ u.boot.image 1 k = b.staged ∧ u.boot.preferred 0 = k ∧ u.boot.preferred 1 = k) ∧
        u.boot.slot = b.slot) ∧
      ∃ u, exec (.imageStageDone false) s = .next u ∧ u.boot.fwst = 3 ∧ u.boot.pref = b.pref) ∧
    (s.taken q 0x09 specActivate w cl → lcAction q = 2 → epoch → b.fwst = 2 → exec (.lifecycleActivateImage q) s =
      .next (State.answer { s with boot := { b with rst := some 7, attempts := some 1 } } a stOk 0 [] cl)) ∧
    (s.taken q 0x09 specBlock w cl → lcAction q = 3 → epoch → b.recovery = true → exec (.lifecycleRecoveryBlock q) s =
      .next (State.answer { s with boot := { b with blocks := b.blocks.set none (bits w 64 32) (some (bits w 128 384)) } } a stOk 0 [] cl)) ∧
    (s.taken q 0x09 specCommit w cl → lcAction q = 4 → epoch → b.recovery = true → let bs := b.assembled s.free (bits w 64 32 + 1)
      ∃ u, exec (.lifecycleRecoveryCommit q) s = .next u ∧ (b.accepts bs = true → u.boot.rst = some 0 ∧
        ∀ f k, f ≤ 1 → k ≤ 1 → u.boot.image f k = bs) ∧ (b.accepts bs = false → u.boot = b))

/-! ### Icral: panels, memory and wipes (15, 09) -/

/-- Panels and their memory. PANEL_CREATE of a free panel on free columns, and PANEL_DESTROY and PANEL_RESET of a panel that
is there, begin a reset and wait for it; a second PANEL_RESET joins the one in progress. GRANT and KEEP_DEFINE, KEEP_ASSIGN and
KEEP_UNASSIGN change what they name, POOL_MAP and POOL_UNMAP the pool map, and STAGING the panel's windows; GRANT_REVOKE and
KEEP_RELEASE begin a wipe of the range and wait for it. -/
def Obligations.PanelPacketsAct : Prop :=
  ∀ (s : State) (q : IcralReq) (w : Nat) (cl : List Nat),
    let a := s.acceptedOf q
    let p := q.panel.val
    let x := s.panel p
    let b := bits w 64 52
    let n := bits w 128 52 + 1
    let r := bits w 0 5
    let k := s.keep r
    (s.taken q 0x10 specPanelCreate w cl → x.state = 0 → (∀ i, i < bits w 4 5 → s.colPanel (8 * (bits w 0 4 + i)) = none) →
      exec (.panelCreate q) s = .next (((s.setPanel p { x with state := 1, b0 := bits w 0 4, wb := bits w 4 5 }).panelResetBegin p 1).waiting q (.panel p) cl)) ∧
    (s.taken q 0x11 specPanelDestroy w cl → x.state ≠ 0 →
      exec (.panelDestroy q) s = .next ((s.panelResetBegin p 2).waiting q (.panel p) cl)) ∧
    (s.taken q 0x12 specPanelReset w cl → x.state ≠ 0 → exec (.panelReset q) s =
      .next ((if x.state = 1 then s else s.panelResetBegin p 0).waiting q (.panel p) cl)) ∧
    (s.taken q 0x13 specGrant w cl → bit q.params 0 = false → x.state ≠ 0 → s.grantConflict p b n = false →
      exec (.grant q) s = .next ((s.setPanel p { x with grants := x.grants ++ [(b, n)] }).answer a stOk 0 [] cl)) ∧
    (s.taken q 0x13 specGrantRevoke w cl → bit q.params 0 = true → x.state ≠ 0 → (b, n) ∈ x.grants → s.rangeUsed p b n = false →
      let u := s.setPanel p { x with grants := x.grants.erase (b, n) }
      let wp : Wipe := { id := s.wipeNext, tier := 2, ranges := u.lessKeeps [(b, n)], panel := none, keep := none }
      exec (.grantRevoke q) s = .next (State.waiting { u with wipes := s.wipes ++ [wp], wipeNext := s.wipeNext + 1 } q (.wipe s.wipeNext) cl)) ∧
    (s.taken q 0x14 specKeepDefine w cl → bits q.params 5 2 = 0 → k.defined = false →
      s.keepRanges.any (fun z => overlaps z.1 z.2 b n) = false → s.t2Dead b n = false → s.keepTotal + n ≤ 1792 * gib →
      let u : State := { s with keeps := s.keeps.set {} r { defined := true, base := b, len := n } }
      exec (.keepDefine q) s = .next (u.answer a stOk 0 (u.keepReply (bits q.params 0 5)) cl)) ∧
    (s.taken q 0x14 specKeepRelease w cl → bits q.params 5 2 = 1 → k.defined = true → k.panel = none →
      let wp : Wipe := { id := s.wipeNext, tier := 2, ranges := [(k.base, k.len)], panel := none, keep := some r }
      let u : State := { s with keeps := s.keeps.set {} r { k with wiping := true } }
      exec (.keepRelease q) s = .next (State.waiting { u with wipes := s.wipes ++ [wp], wipeNext := s.wipeNext + 1 } q (.wipe s.wipeNext) cl)) ∧
    (s.taken q 0x14 specKeepAssign w cl → bits q.params 5 2 = 2 → (s.panel (bits w 7 4)).state ≠ 0 → k.defined = true →
      (k.panel = none ∨ k.panel = some (bits w 7 4)) →
      let u : State := { s with keeps := s.keeps.set {} r { k with panel := some (bits w 7 4) } }
      exec (.keepAssign q) s = .next (u.answer a stOk 0 (u.keepReply (bits q.params 0 5)) cl)) ∧
    (s.taken q 0x14 specKeepUnassign w cl → bits q.params 5 2 = 3 → k.defined = true → (∀ o, k.panel = some o → s.rangeUsed o k.base k.len = false) →
      let u : State := { s with keeps := s.keeps.set {} r { k with panel := none } }
      exec (.keepUnassign q) s = .next (u.answer a stOk 0 (u.keepReply (bits q.params 0 5)) cl)) ∧
    (s.taken q 0x15 specPoolMap w cl → bit q.params 10 = false → (setPositions 8 (poolPorts (bits w 0 4))).all (bit s.cxl) = true →
      s.pool.any (fun e => overlaps e.1 e.2.1 b n) = false → exec (.poolMap q) s =
      .next (State.answer { s with pool := s.pool ++ [(b, n, poolPorts (bits w 0 4), bits w 4 2, bits w 6 4)] } a stOk 0 [] cl)) ∧
    (s.taken q 0x15 specPoolUnmap w cl → bit q.params 10 = true → (∃ e ∈ s.pool, e.1 = b) → exec (.poolUnmap q) s =
      .next (State.answer { s with pool := s.pool.filter (fun e => decide (e.1 ≠ b)) } a stOk 0 [] cl)) ∧
    (s.taken q 0x16 specStaging w cl → x.state = 2 → x.segs.any (fun e => sgValid e.2 && decide (sgTier e.2 = 4)) = false →
      let stage := if bits w 0 19 = x.wl then x.stage else []
      exec (.staging q) s = .next ((s.setPanel p { x with wl := bits w 0 19, pf := bits w 19 3, stage := stage }).answer a stOk 0 [] cl))

/-- The end of a wipe and of a panel reset. When a wipe completes its bytes read zero and all others as before, its number is
gone (no packet waiting for it). When a panel's reset completes, its bands wiped, its registers
and tables hold their reset values, it is in service, or out of service with its cause, the event is recorded, and the
packets that waited are answered. -/
def Obligations.WipesAndPanelResetsEnd : Prop :=
  ∀ (s : State) (id : Nat) (p : PanelId),
    (∀ w b n, s.wipes.find? (fun w => decide (w.id = id)) = some w → w.ranges = [(b, n)] → w.keep = none →
      s.mgmt.accepted = [] → ∃ u, exec (.wipeComplete id) s = .next u ∧ (∀ c, b ≤ c → c < b + n → u.readByte c = 0) ∧
      s.bytesOutside u b n ∧ (∀ z ∈ u.wipes, z.id ≠ id) ∧ u.panels = s.panels ∧ u.tiles = s.tiles) ∧
    (let x := s.panel p
     x.state = 1 → x.wiped = true → s.wipes.any (fun w => decide (w.panel = some p.val)) = false →
     s.tiles.any (fun t => x.holdsTile t.1 && t.2.patternDue && !t.2.retire) = false →
     s.tiles.filter (fun t => x.holdsTile t.1 && t.2.retire) = [] → x.after ≠ 2 →
     let v := s.panelRegs p
     let c := v.outOfService p
     let y : Panel := { v.panel p with state := if c = 0 then 2 else 3, oosc := c, wiped := false, after := 0 }
     let e : Event := { cls := 0x20, cause := 10, unit := .manager, detail := p.val }
     exec (.panelResetComplete p) s = .next (((v.setPanel p y).emit e).release (.panel p) noParams) ∧
     (v.panel p).segs = [] ∧ (v.panel p).wins = [] ∧ (v.panel p).rtab = [] ∧ (v.panel p).susp = 0 ∧
     (∀ t, x.holdsTile t = true → (v.tile t).nflag = [] ∧ (v.tile t).sync = [] ∧ (v.tile t).pause = 0) ∧
     (∀ t, x.holdsTile t = false → v.tile t = s.tile t) ∧ v.mem = s.mem)

/-! ### Icral: tables of a panel, ports, injection (16, 19) -/

/-- Tables and ports. For a panel in service: RING_CONFIG of an idle or disabled ring sets its CFG and CLOG and leaves HEAD and
TAIL; SEGMENT, WINDOW and RTABLE writes that their rules admit set the entry, a SEGMENT whose old entry commands still use
waiting for them; the reads answer the entries; RTABLE arming arms each valid entry of the range. COURSE_PORT sets a port's
settings; a change of mode retrains the link and the reply waits. INJECT arms its detector, or fires at once, and DISARM
disarms it. -/
def Obligations.TablePacketsAct : Prop :=
  ∀ (s : State) (q : IcralReq) (w : Nat) (cl : List Nat),
    let a := s.acceptedOf q
    let p := q.panel.val
    let x := s.panel p
    let v := bits w 64 256
    let rv := bits w 64 192
    let g := bits w 0 18
    let r := s.ring g
    let k := bits w 4 3 * 16 + bits w 0 4
    let n := bits w 0 5
    let y := (s.port n).configure w
    let det := bits w 0 8
    let tgt := bits w 32 32
    (s.taken q 0x20 specRingConfig w cl → (s.isEthRing g = true ∨ x.state = 2) → (r.en = false ∨ r.head = r.tail) →
      let c : Ring := { r with log2 := bits w 64 5, en := bit w 69, base := bits w 76 40 * 4096, clog := bits w 128 52, fetched := [], lseq := if bit w 69 && !r.en then 0 else r.lseq }
      exec (.ringConfig q) s = .next ((s.setRing g c).answer a stOk 0 [] cl)) ∧
    (s.taken q 0x21 specSegment w cl → bit q.params 8 = false → x.state = 2 → s.segOk p (bits w 4 3) (bits w 0 4) v = true →
      let u := s.setPanel p { x with segs := x.segs.set 0 k v }
      let users := s.segUsers p (bits w 4 3) (bits w 0 4)
      (users = [] → exec (.segment q) s = .next (u.answer a stOk 0 (segRp u q) cl)) ∧
      (users ≠ [] → exec (.segment q) s = .next (u.waiting q (.seg p (bits w 4 3) (bits w 0 4) users) cl))) ∧
    (s.taken q 0x21 specSegmentRead w cl → bit q.params 8 = true → x.state = 2 →
      exec (.segmentRead q) s = .next (s.answer a stOk 0 (toBytes 32 (x.segs.get 0 (bits q.params 4 3 * 16 + bits q.params 0 4))) cl)) ∧
    (∀ (z : Accepted) (e : Fin 16) (j : Slot) cmds, s.mgmt.accepted = [z] → z.wait = some (.seg p j e cmds) →
      (cmds.any s.inEngine = false → exec (.segmentUpdateComplete q.panel j e) s = .next (s.answer z stOk 0 (segRp s z.q) z.clamps)) ∧
      (cmds.any s.inEngine = true → exec (.segmentUpdateComplete q.panel j e) s = .next s)) ∧
    (s.taken q 0x22 specWindow w cl → bit q.params 8 = false → x.state = 2 → s.winOk p v = true →
      let u := s.setPanel p { x with wins := x.wins.set 0 (bits w 0 8) v }
      exec (.window q) s = .next (u.answer a stOk 0 (winRp u q) cl)) ∧
    (s.taken q 0x22 specWindowRead w cl → bit q.params 8 = true → x.state = 2 →
      exec (.windowRead q) s = .next (s.answer a stOk 0 (toBytes 32 (x.wins.get 0 (bits q.params 0 8))) cl)) ∧
    (s.taken q 0x23 specRtableWrite w cl → bits q.params 0 2 = 0 → x.state = 2 → s.rtOk p rv = true → exec (.rtableWrite q) s =
      .next ((s.setPanel p { x with rtab := x.rtab.set 0 (bits w 2 12) rv }).answer a stOk 0 [] cl)) ∧
    (s.taken q 0x23 specRtableRead w cl → bits q.params 0 2 = 1 → x.state = 2 → exec (.rtableRead q) s =
      .next (s.answer a stOk 0 ((rtRange 1 q.params).flatMap (fun i => toBytes 24 (x.rtab.get 0 i))) cl)) ∧
    (s.taken q 0x23 specRtableArm w cl → bits q.params 0 2 = 2 → x.state = 2 →
      ∃ t, exec (.rtableArm q) s = .next ((s.setPanel p { x with rtab := t }).answer a stOk 0 [] cl) ∧
      ∀ i, t.get 0 i = if (rtRange 2 w).contains i && rtValid (x.rtab.get 0 i) then rtArm (x.rtab.get 0 i) else x.rtab.get 0 i) ∧
    (s.taken q 0x24 specCoursePort w cl → ((s.port n).sameFixed y = true ∨ s.portNamed n = false) →
      ((s.port n).nrxq = y.nrxq ∨ s.rxRingOn n = false) →
      ((s.port n).eth = y.eth → exec (.coursePort q) s = .next ((s.modPort n (fun _ => y)).answer a stOk 0 [] cl)) ∧
      ((s.port n).eth ≠ y.eth → (s.port n).st = 2 → exec (.coursePort q) s =
        .next (((s.modPort n (fun z => { z with st := 3, hold := true })).emit { cls := 0x17, cause := 1, unit := portAgent n, detail := n }).waiting q (.port n) cl))) ∧
    (s.taken q 0x40 specInject w cl → bit q.params 9 = false →
      (det ≠ 0x0B → det ≠ 0x0D → det ≠ 0x0F → det ≠ 0x10 → exec (.inject q) s =
        .next (State.answer { s with inj := s.inj.set none (injKey det tgt) (some (bits w 64 32, bit w 8)) } a stOk 0 [] cl)) ∧
      (det = 0x0B → bit w 8 = false → exec (.inject q) s = .next (((s.droop tgt).emit (injEvent det tgt (tileAgent tgt))).answer a stOk 0 [] cl)) ∧
      (det = 0x0D → bit w 8 = true → exec (.inject q) s = .next ((s.emit (injEvent det tgt .manager)).answer a stOk 0 [] cl)) ∧
      (det = 0x0F → s.running (tgt / 8) (tgt % 8) = false → exec (.inject q) s = .next (s.answer a stConflict 32 [] []))) ∧
    (s.taken q 0x40 specDisarm w cl → bit q.params 9 = true → exec (.injectDisarm q) s =
      .next (State.answer { s with inj := s.inj.set none (injKey det tgt) none } a stOk 0 [] cl))

/-! ### Jobs and their timers (15, 16 R536, 19 R597) -/

/-- The life of a job. JOB_START without a resume check, all its conditions met, makes the slot's record, running under the
next generation; JOB_END of an idle slot answers at once, of a running one ends the job with ECAUSE 1 and waits. When a slot
of an ending job is quiet, JOB_SLOT_IDLE makes it idle, clears the slot's counters, and records class 0x20, cause 9.
Outside holds JOB_WATCHDOG_EXPIRY ends a running job with ECAUSE 4; with WDOG 0 it changes nothing. -/
def Obligations.JobsStartEndAndIdle : Prop :=
  ∀ (s : State) (q : IcralReq) (w : Nat) (cl : List Nat) (p : PanelId) (j : Slot),
    let a := s.acceptedOf q
    let pn := q.panel.val
    let k := bits w 0 3
    let nmod := bits w 16 10
    let ptab := bits w 384 52
    let rd := s.cohRead (72 * (nmod + 1)) ptab
    let tab := peerTable nmod rd.1
    let own := tab.getD (bits w 6 10) 0
    let cs := peerConns pn k nmod tab
    let b := s.job p j
    (s.taken q 0x30 specJobStart w cl → s.patternOwed pn = false → s.midset = true → (s.panel pn).state = 2 →
      s.readResp ptab (72 * (nmod + 1)) = .ok → bits own 0 10 = s.modId → bits own 10 4 = pn → bits own 14 3 = k →
      (s.job pn k).jstate = 0 → (s.panel pn).jobs.all (fun x => decide (x.2.jstate = 0 ∨ x.2.tag = bits w 32 32)) = true →
      cs.all (fun c => c.2.paths.all (fun x => !(s.port x.1).eth)) = true → 2 * s.conns.length + 2 * cs.length ≤ 8192 →
      bit w 5 = false → bit q.params 5 = false → let u := rd.2.jobBegins pn k w cs
      exec (.jobStart q) s = .next (u.answer a stOk 0 [] cl) ∧ (u.job pn k).jstate = 1 ∧
      (u.job pn k).gen = ((rd.2.job pn k).gen + 1) % 256 ∧ (u.job pn k).jobId = bits w 64 64 ∧ (u.job pn k).faulted = false) ∧
    (s.taken q 0x31 specJobEnd w cl → (s.panel pn).state ≠ 0 →
      ((s.job pn k).jstate = 0 → exec (.jobEnd q) s = .next (s.answer a stOk 0 [] cl)) ∧
      ((s.job pn k).jstate = 1 → exec (.jobEnd q) s = .next ((s.endJob pn k 1).waiting q (.slot pn k) cl) ∧
        ((s.endJob pn k 1).job pn k).jstate = 2 ∧ ((s.endJob pn k 1).job pn k).ecause = 1)) ∧
    (b.jstate = 2 → s.slotQuiet p j = true → s.halted = false → (s.panel p).state ≠ 1 → s.mgmt.accepted = [] →
      let e : Event := { cls := 0x20, cause := 9, job := some (p, j), unit := .manager, detail := b.ecause + b.gen % 256 * 2 ^ 8 }
      ∃ u : State, exec (.jobSlotIdle p j) s = .next (u.emit e) ∧
      u.job p j = { b with jstate := 0, faulted := false, vote := none, voted := [], ready := [] } ∧
      (u.panel p).jend = satAdd 0xFFFF (s.panel p).jend 1 ∧ (∀ v, v ≠ p.val → u.panel v = s.panel v) ∧ u.mem = s.mem ∧
      (∀ t c, (s.panel p).holdsTile t = true → c < 64 → (u.tile t).sync.get {} (64 * j.val + c) = {}) ∧
      (∀ t, (s.panel p).holdsTile t = false → u.tile t = s.tile t)) ∧
    (b.wdog ≠ 0 → s.linkHold = false → s.halted = false → b.jstate = 1 → ∃ u, exec (.jobWatchdogExpiry p j) s = .next u ∧
      (u.job p j).jstate = 2 ∧ (u.job p j).ecause = 4) ∧
    (b.wdog = 0 → exec (.jobWatchdogExpiry p j) s = .next s)

/-- Timers of requests and polls. A timer under a module hold or the halt does nothing. TRANSACTION_TIMEOUT of a tile's oldest
remote add, and of a hod or intake engine's command with an access outstanding, ends its job with ECAUSE 2;
T3_ACCESS_TIMEOUT of a mover access to the pool answers it ERR. RESUME_CHECK_TIMEOUT refuses the job start with
REFUSED_RESUME, naming a rank that no command gives (free, log 2). WAIT_WORD_POLL of a course ring begins its head
command when the word has reached its value, and else changes nothing but the cache that read it. -/
def Obligations.RequestTimersAndPolls : Prop :=
  ∀ (s : State) (t : Tile) (h : HodId) (n : IntakeId) (ag : Agent) (tag : BitVec 8) (p : PanelId) (j : Slot),
    let runs (p j : Nat) : Prop := (s.job p j).jstate = 1 ∧ (s.job p j).faulted = false
    let ended (c : Instr) (p j : Nat) : Prop := ∃ u, exec c s = .next u ∧ (u.job p j).jstate = 2 ∧ (u.job p j).ecause = 2
    let busy := s.linkHold = false ∧ s.halted = false
    ((s.linkHold = true ∨ s.halted = true) → exec (.transactionTimeout ag tag) s = .next s ∧ exec (.t3AccessTimeout ag tag) s = .next s) ∧
    (∀ d, busy → 128 ≤ tag.toNat → s.adds.find? (fun z => decide (z.src = tileAgent t)) = some d → runs d.panel d.slot →
      ended (.transactionTimeout (.tile t) tag) d.panel d.slot) ∧
    (∀ x m, busy → s.spanPanel h = some m → (s.hod h).cmds.find? (fun c => decide (0 < c.rOut + c.wOut)) = some x → runs m (x.ring / 16) →
      ended (.transactionTimeout (.hod h) tag) m (x.ring / 16)) ∧
    (∀ x, busy → (s.intake n).cmds.find? (fun c => decide (0 < c.rOut + c.wOut)) = some x → runs (intPanel x.ring) (intSlot x.ring) →
      ended (.transactionTimeout (.intake n) tag) (intPanel x.ring) (intSlot x.ring)) ∧
    (∀ x, busy → (s.tile t).txns.find? (fun z => decide (z.tag = tag.toNat)) = some x →
      (isPool (s.txnAddr t x) = true → exec (.t3AccessTimeout (.tile t) tag) s = .next (s.txnResponse t tag.toNat .errOther)) ∧
      (isPool (s.txnAddr t x) = false → exec (.t3AccessTimeout (.tile t) tag) s = .next s)) ∧
    (∀ z, s.mgmt.accepted = [z] → z.wait = some (.resume p j) →
      let r := Config.freeWord s.free % (bits z.q.params 16 10 + 1)
      exec (.resumeCheckTimeout p j) s = .next (State.answer { s with free := s.free + 1 } z stRefusedResume r [] [])) ∧
    (∀ (g : RingId) (m : Port) (i : Fin 256) (w : Nat) u, g.val = crsRing m i → s.courseActive m i = none →
      s.courseHead m i = some w → ccWaddr w ≠ 0 →
      (s.waitWord (crsPanel i) (crsSlot i) (ccWaddr w) (ccWval w) = (u, .ok true) → exec (.waitWordPoll g) s = .next (u.courseBegin m i w)) ∧
      (s.waitWord (crsPanel i) (crsSlot i) (ccWaddr w) (ccWval w) = (u, .ok false) → exec (.waitWordPoll g) s = .next u))

/-! ### Registers and debug controls (00 R11, 15 R503, 16 R540, 19) -/

/-- Writes that act. TILE_SYNC sets one counter, TILE_SLOT_CTL the pauses, PNL_CTL the suspensions; a mailbox ring's register is
set, or the write is counted in CFGERR and dropped; MOD_EVT_CFG likewise. A doorbell of a trace log is that of its ring, one of
the disabled module log is recorded as class 4. MOD_DBG_CTL asserts and releases the halt, thaws, and skims; SKIM_COMPLETE drops
SKBUSY. A host marker of a traced slot goes to trace ring 1. MOD_TIME_SET arms a value, and its expiry counts a MISS. A read of
PNL_CNT returns four counters and clears them; an unaligned access does nothing; REGISTER_WRITE of PNL_CTL is the panel's write. -/
def Obligations.RegisterAccessesAct : Prop :=
  ∀ (s : State) (t : Tile) (j : Slot) (c : Fin 64) (p : PanelId) (i : Fin 64) (v : BitVec 32) (x : BitVec 64) (h : Count) (au : Auth),
    let g := mailboxRing p i
    let r := s.ring g
    let y := s.panel p
    let d := s.dbg
    let idle (r : Ring) : Prop := r.en = false ∨ r.head = r.tail
    let fields : Dbg := { d with skmode := bit v.toNat 3, skbands := bits v.toNat 4 16 }
    let evt : Ring := { s.evt with log2 := bits x.toNat 0 5, en := bit x.toNat 5, base := bits x.toNat 12 40 * 4096, modr := bit x.toNat 5 }
    (s.halted = false → reaches au (s.tilePanel t) = true → s.noTrace → ∃ u, exec (.tileSyncWrite t j c v au) s = .next u ∧
      ((u.tile t).ctr j c).val = v.setWidth 16 ∧ (∀ k, k ≠ ctrKey j c → (u.tile t).sync.get {} k = (s.tile t).sync.get {} k) ∧
      (∀ w, w ≠ t.val → u.tile w = s.tile w) ∧ u.panels = s.panels ∧ u.rings = s.rings) ∧
    (s.halted = false → reaches au (s.tilePanel t) = true →
      exec (.tileSlotPauseWrite t v au) s = .next (s.setTile t { s.tile t with pause := v.setWidth 8 })) ∧
    (s.halted = true → exec (.tileSyncWrite t j c v au) s = .next s ∧ exec (.tileSlotPauseWrite t v au) s = .next s) ∧
    (reaches au (some p.val) = true → exec (.panelSuspendWrite p v au) s = .next (s.setPanel p { y with susp := v.setWidth 8 })) ∧
    (∀ k, reaches au (some p.val) = true → s.modulesOwn g au = false → let z := r.icrWrite k x.toNat au
      (idle r → s.ringFits au z true = true → exec (.icrRingConfigWrite p i k x au) s =
        .next (if k = .cfg ∧ z.en = true then (s.setRing g z).dropSession (.mailbox p i) else s.setRing g z)) ∧
      ((¬ idle r ∨ s.ringFits au z true = false) → exec (.icrRingConfigWrite p i k x au) s =
        .next (s.setPanel p { y with cfgerr := min 0xFFFF (y.cfgerr + 1) }))) ∧
    (s.boot.fatalDue = false → idle s.evt → s.ringFits .owner evt false = true → exec (.modEvtCfgWrite x .owner) s =
      .next { s with evt := { evt with lseq := if evt.en && !s.evt.en then 0 else s.evt.lseq } }) ∧
    (¬ idle s.evt → exec (.modEvtCfgWrite x .owner) s = .next { s with dbg := { d with cfgerr := min 0xFFFF (d.cfgerr + 1) } }) ∧
    (∀ a : RingId, a.val = traceRingId p i → exec (.eventLogDoorbell (some (p, i)) h au) s = exec (.ringDoorbell a h au) s) ∧
    (s.evt.en = false → exec (.eventLogDoorbell none h .owner) s = .next (s.emit { cls := 4, detail := h.toNat })) ∧
    (s.evt.en = true → (h - s.evt.head).toNat ≤ (s.evt.tail - s.evt.head).toNat →
      exec (.eventLogDoorbell none h .owner) s = .next { s with evt := { s.evt with head := h } }) ∧
    (bit v.toNat 0 = true → bit v.toNat 2 = false → d.halt = false → ∃ u, exec (.halt v .owner) s = .next u ∧
      u.dbg = { fields with halt := true, thawed := bit v.toNat 1 } ∧ u = { s with dbg := u.dbg, tiles := u.tiles }) ∧
    (bit v.toNat 0 = false → bit v.toNat 2 = false → (d.halt = true → exec (.haltRelease v .owner) s =
        .next (State.applyHeld { s with dbg := { fields with halt := false, thawed := false } })) ∧
      (d.halt = false → exec (.haltRelease v .owner) s = .next { s with dbg := fields })) ∧
    (bit v.toNat 0 = true → bit v.toNat 1 = true → bit v.toNat 2 = false → d.halt = true →
      exec (.thaw v .owner) s = .next { s with dbg := { fields with thawed := true } }) ∧
    (bit v.toNat 2 = true → bit v.toNat 0 = false → bit v.toNat 3 = false → d.halt = false →
      (skimFits d.skimAddr (bits v.toNat 4 16) = true → ∃ u, exec (.skimLive v .owner) s = .next u ∧ u.dbg.skbusy = true ∧ u.dbg.skerr = d.skerr ∧ u.dbg.halt = false) ∧
      (skimFits d.skimAddr (bits v.toNat 4 16) = false → exec (.skimLive v .owner) s = .next { s with dbg := { fields with skerr := true } })) ∧
    (bit v.toNat 2 = true → bit v.toNat 0 = false → bit v.toNat 3 = true → d.halt = false →
      exec (.skimHalted v .owner) s = .next { s with dbg := { fields with skerr := true } }) ∧
    (bit v.toNat 2 = true → bit v.toNat 0 = true → bit v.toNat 3 = true → d.halt = true → skimFits d.skimAddr (bits v.toNat 4 16) = true →
      ∃ u, exec (.skimHalted v .owner) s = .next u ∧ u.dbg.skbusy = true ∧ u.dbg.halt = true) ∧
    exec .skimComplete s = .next { s with dbg := { d with skbusy := false } } ∧
    (reaches au (some p.val) = true → let slot := bits x.toNat 34 3; let w := s.ring (traceRingId p 1); let a := w.entryAddr w.tail
      (bit y.trcCtl slot = false → exec (.traceMark p x au) s = .next s) ∧
      (bit y.trcCtl slot = true → w.en = true → w.full = false → w.lost = 0 → s.plain a → exec (.traceMark p x au) s =
        .next ((s.writeNat 64 a (Trace.code { kind := 8, unit := 0x3FFF, slot := slot, arg := bits x.toNat 0 34 } s.now s.time.lock)).setRing (traceRingId p 1) { w with tail := w.tail + 1 }))) ∧
    (bit x.toNat 48 = true → exec (.timeSetWrite x .owner) s = .next { s with time := { s.time with armed := some (bits x.toNat 0 48) } }) ∧
    (bit x.toNat 48 = false → exec (.timeSetWrite x .owner) s = .next s) ∧
    (∀ z, s.time.armed = some z → exec .timeSetExpiry s = .next { s with time := { s.time with armed := none, miss := min 0xFFFF (s.time.miss + 1) } }) ∧
    exec (.registerReadClear (pnlBlock p + 0x2010) true .owner) s = .next { (s.setPanel p { y with stale := 0, gendis := 0, tdrop := 0, edrop := 0 }) with regRsp := y.stale + y.gendis * 2 ^ 16 + y.tdrop * 2 ^ 32 + y.edrop * 2 ^ 48 } ∧
    (∀ a, a % 4 ≠ 0 → exec (.registerReadClear a false au) s = .next s ∧ exec (.registerWrite a false x au) s = .next s) ∧
    exec (.registerWrite (pnlBlock p + 8) false x .owner) s = exec (.panelSuspendWrite p (x.setWidth 32) .owner) s

/-! ### Links of the grout network (08, 18 R572) -/

/-- Links that are up, with no injection armed. A flit with a bad CRC is counted and not accepted, a replay is asked for
and the hold asserted; an intact idle flit acknowledges what it names; an intact body flit next in order is accepted. A replay
timeout sends the held flits again. A write of RETRAIN begins a retrain at both ends, recorded as cause
1; its lane tests pass, or with no spare left lower the rate; its completion brings the link up with the held flits sent again, or
leaves it failed. A spare that shows an error leaves the pool; a failed link's test reports it again. -/
def Obligations.LinksReceiveReplayAndRetrain : Prop :=
  ∀ (s : State) (l : LinkId) (f : BitVec 64) (content bad : Nat) (d : Die) (e : Fin 4) (i : Fin 16) (v : BitVec 32), s.noInjection →
    let k := linkKey l
    let x := s.link k
    let w := f.toNat + content * 2 ^ 64
    let rcv := exec (.linkFlitReceive l f content) s
    let live := linkExists k = true ∧ s.linkState k = 3
    let intact := flitCrc w = bits w 32 32
    let rec_ (k cause : Nat) : Event := { cls := 0x17, cause := cause, unit := linkAgent k, detail := linkCoord k }
    let begin_ (y : Link) : Link := { y with st := some 4, hold := true, trial := 0, retrains := min 0xFF (y.retrains + 1), failedReplays := 0, replayTimes := [] }
    let only (u : State) : Prop := u = { s with links := u.links } ∧ ∀ j, j ≠ k → u.link j = s.link j
    ((linkExists k = false ∨ s.linkState k ≠ 3) → rcv = .next s ∧ exec (.linkReplayTimeout l) s = .next s ∧ exec (.spareLaneTest l true) s = .next s) ∧
    (live → ¬ intact → x.waitReplay = false → x.failedReplays < 8 → x.replayTimes.length < 16 → ∃ u, rcv = .next u ∧ only u ∧
      let y := u.link k
      y.crcerr = min 0xFFFF (x.crcerr + 1) ∧ y.replays = min 0xFFFF (x.replays + 1) ∧ y.waitReplay = true ∧ y.hold = true ∧
      y.rxSeq = x.rxSeq ∧ y.buffered = x.buffered ∧ y.held = x.held ∧ y.st = x.st) ∧
    (live → intact → bit w 21 = false → x.waitq = [] → rcv = .next (s.modLink k (fun y => (y.acks w).idle))) ∧
    (live → intact → bit w 21 = true → flitSeq w = (x.rxSeq + 1) % 256 → flitHead w = false → x.waitq = [] →
      x.exit.getD (flitClass w) none = none → ∃ u, rcv = .next u ∧ only u ∧ (u.link k).rxSeq = flitSeq w ∧ (u.link k).waitReplay = false) ∧
    (live → x.held ≠ [] → x.failedReplays < 7 → x.replayTimes.length < 16 → ∃ u, exec (.linkReplayTimeout l) s = .next u ∧ only u ∧
      (u.link k).sent = x.sent ++ x.held ∧ (u.link k).held = x.held ∧ (u.link k).hold = true ∧ (u.link k).failedReplays = x.failedReplays + 1) ∧
    (let m := mortarKey d e i
     bit v.toNat 0 = true → linkExists m = true → s.linkState m = 3 →
      exec (.linkRetrainRequest d e i v .owner) s = .next ((s.modBoth m begin_).emit (rec_ m 1))) ∧
    (linkExists k = true → s.linkState k = 4 →
      (k < 2560 → exec (.linkRetrain l 0) s = .next ((s.modBoth k (fun y => { y with spares := x.spares })).modBoth k (fun y => { y with trial := 1 }))) ∧
      (k < 2560 → 0 < bad → x.spares + x.withdrawn = 2 → x.rate < 2 → x.half = false → exec (.linkRetrain l bad) s =
        .next (((s.modBoth k (fun y => { y with spares := x.spares })).modBoth k (fun y => { y with rate := y.rate + 1, trial := 0 })).emit (rec_ k 3))) ∧
      (2560 ≤ k → x.rate ≤ s.boot.ufloor → exec (.linkRetrain l 0) s = .next (s.modBoth k (fun y => { y with trial := 1 }))) ∧
      (x.trial = 1 → x.waitq = [] → (s.link (linkPeer k)).waitq = [] → exec (.linkRetrainComplete l) s =
        .next (s.modBoth k (fun y => { y with st := some 3, hold := false, trial := 0, sent := y.sent ++ y.held }))) ∧
      (x.trial = 2 → ∃ u, exec (.linkRetrainComplete l) s = .next u ∧ (k < 2560 → (u.link k).st = some 5 ∧ (u.link k).hold = false))) ∧
    (live → x.spares + x.withdrawn < 2 → exec (.spareLaneTest l true) s =
      .next ((s.modBoth k (fun y => { y with withdrawn := y.withdrawn + 1 })).emit (rec_ k 9))) ∧
    (linkExists k = true → s.linkState k = 5 → 0 < bad → exec (.failedLinkLaneTest l bad) s = .next (s.emit (rec_ k 5)))

/-! ### Power, temperatures, tests in service (01, 03, 05, 06, 09, 10, 20) -/

/-- Samples and ticks. The power manager lowers no ceiling while the input power is at most 99 % of the limit and raises none
above it, and keeps its window of 100 ticks. A droop halves an island's frequency, not below 400 MHz, and is counted; it
recovers. A tile at 105 °C is held and at 100 °C let go; a die at 125 °C trips the module. An HBM stack changes its
refresh step. A scrub counts its passes. A pattern test clears what a tile owes, or marks it for retirement; a suspicion
ends. -/
def Obligations.PowerSamplesAndTestsAct : Prop :=
  ∀ (s : State) (t : Tile) (k : Sill) (h : HostDie) (pkg : Fin 16) (w mv deg : Nat) (rails est : List (Die × Nat)) (q : Int), s.noInjection →
    let x := s.tile t
    let z := s.stack k
    let warm : TileS := { x with temp := BitVec.ofInt 12 q }
    let ev (c : Nat) (u : Agent) : Event := { cls := 0x20, cause := c, unit := u }
    let pkgs := (s.host h).pkgs
    (s.boot.rails = true →
      (s.managed = true → ∃ u, exec (.powerManagerTick w rails est) s = .next u ∧
        (99 * s.power.limitNow < 100 * w → ∀ d, u.ceiling d ≤ s.ceiling d) ∧ (100 * w ≤ 99 * s.power.limitNow → ∀ d, s.ceiling d ≤ u.ceiling d) ∧
        (s.power.ticks + 1 < 100 → u.power.ticks = s.power.ticks + 1 ∧ u.power.sum = s.power.sum + w ∧ u.power.limitNow = s.power.limitNow) ∧
        (99 ≤ s.power.ticks → u.power.pin = (s.power.sum + w) / 100 ∧ u.power.limitNow = s.power.limit ∧ u.power.ticks = 0)) ∧
      exec (.droopDetect t mv) s = .next (s.setTile t { x with droop := some (max 400 (s.tileFreq t / 2)), droopEvt := min 0xFFFF (x.droopEvt + 1), vmin := BitVec.ofNat 12 (min x.vmin.toNat mv) }) ∧
      (x.thermal = false → 420 ≤ q → q < 500 → exec (.tileTempSample t q) s = .next ((s.setTile t { warm with thermal := true }).emit (ev 2 (tileAgent t)))) ∧
      (x.thermal = true → q ≤ 400 → exec (.tileTempSample t q) s = .next ((s.setTile t { warm with thermal := false }).emit (ev 3 (tileAgent t)))) ∧
      ((x.thermal = true ∨ q < 420) → (x.thermal = false ∨ 400 < q) → q < 500 → exec (.tileTempSample t q) s = .next (s.setTile t warm)) ∧
      (∀ u : Fin 16, q < 500 → exec (.dieTempSample true u q) s = .next { s with power := { s.power with sillTemp := s.power.sillTemp.set 0 u q } }) ∧
      (∀ u : Fin 16, 500 ≤ q → s.boot.tripped = false → ∃ v, exec (.dieTempSample true u q) s = .next v ∧ v.boot.tripped = true ∧ v.boot.rails = false) ∧
      (deg < 115 → z.stop = false → let n := refreshStep z.step deg; let y := s.modStack k (fun a => { a with temp := deg % 256, step := n })
        exec (.hbmTempSample k deg) s = .next (if n = z.step then y else y.emit (ev 4 (sillAgent k)))) ∧
      ((pkgs.get {} pkg).sref = false → let y := pkgs.get {} pkg
        exec (.lpddrPatrolScrub h pkg w .clean true) s = .next (s.modHost h (fun a => { a with pkgs := pkgs.set {} pkg { y with scrub := min 0xFFFF (y.scrub + 1) } })))) ∧
    exec (.droopRecovery t) s = .next (s.setTile t { x with droop := none }) ∧
    (x.patternDue = true → (s.engine t 0).active = [] → s.halted = false →
      exec (.arrayPatternTest t true) s = .next ((s.setTile t { x with patternDue := false }).emit (ev 8 (tileAgent t))) ∧
      exec (.arrayPatternTest t false) s = .next ((s.setTile t { x with patternDue := false, retire := true }).emit (ev 7 (tileAgent t)))) ∧
    (x.patternDue = false → exec (.arrayPatternTest t true) s = .next s) ∧
    (∀ a, x.suspect = some a → x.patternDue = false → x.retire = false →
      exec (.suspicionExpiry t) s = .next ((s.setTile t { x with suspect := none }).emit (ev 6 (tileAgent t))))

/-! ### Supplies, resets, boot (18, 20) -/

/-- Supplies, resets and phases. 12 V begins a cold start; its loss leaves nothing of the module's start. 54 V charges, and
back after a loss makes a reset with RCAUSE 3 due; its loss takes the rails. RST_N below 100 µs does nothing, from 1 ms on
it takes the rails and makes RCAUSE 2 due, between them either (free, log 2). A reset that is due clears the module domain, counts
MEPOCH and keeps its RCAUSE. A phase completes only when due: S1, S2, M1 brings the rails up, M6 waits for the wipes, M7
enters Ready, or, a die absent or wrong, is held out with cause 2. -/
def Obligations.SuppliesResetsAndPhasesAct : Prop :=
  ∀ (s : State) (ok ov : Bool) (usec : Nat) (ph : BootPhase) (cxl : List RootPort),
    let b := s.boot
    let put (f : Boot) : State := { s with boot := f }
    let down (u : State) (rst : Option Nat) : Prop := u.boot.rails = false ∧ u.boot.mstate = (if b.recovery = true then b.mstate else 0) ∧
      u.boot.phase = min b.phase 2 ∧ u.boot.rst = rst ∧ u.panels = [] ∧ u.rings = [] ∧ u.mem = s.mem ∧ u.boot.mepoch = b.mepoch
    (b.p12 = true → exec (.standbyPowerOn ok) s = .next s) ∧
    (b.p12 = false → exec (.standbyPowerOn ok) s = .next (State.coldStart (put { b with p12 := true, tripped := false, rst := none }) ok)) ∧
    (b.p12 = false → exec .standbyPowerLoss s = .next s ∧ exec .mainPowerValid s = .next s ∧ exec (.rstNAssert usec) s = .next s ∧ exec .moduleResetBegin s = .next s) ∧
    (b.p12 = true → ∃ u, exec .standbyPowerLoss s = .next u ∧ u.boot.p12 = false ∧ u.boot.phase = 0 ∧ u.boot.mstate = 0 ∧ u.boot.fault = false ∧
      u.boot.srefLost = true ∧ u.panels = [] ∧ u.boot.mepoch = b.mepoch ∧ u.boot.minsvn = b.minsvn ∧ u.boot.flash = b.flash) ∧
    (b.p12 = true → exec .mainPowerValid s = .next (put { b with p54 := true, charged := true, rst := if b.lost54 then some (b.rst.getD 3) else b.rst, lost54 := false })) ∧
    (b.p54 = true → ∃ u, exec (.mainPowerLoss ov) s = .next u ∧ down u b.rst ∧ u.boot.p54 = false ∧ u.boot.charged = false ∧ u.boot.lost54 = true) ∧
    (b.p54 = false → exec (.mainPowerLoss ov) s = .next s) ∧
    (b.mayStart = true → b.phase = 2 → exec .mainStart s = .next (put { b with started := true })) ∧
    (b.mayStart = false → exec .mainStart s = .next s) ∧
    (usec < 100 → exec (.rstNAssert usec) s = .next s) ∧
    (b.p12 = true → 1000 ≤ usec → ∃ u, exec (.rstNAssert usec) s = .next u ∧ down u (some 2) ∧ u.boot.rstN = false ∧ u.boot.tripped = false) ∧
    (b.p12 = true → 100 ≤ usec → usec < 1000 → ∃ u, exec (.rstNAssert usec) s = .next u ∧ if Config.freeWord s.free % 2 = 0 then u = { s with free := s.free + 1 }
      else down u (some 2) ∧ u.boot.rstN = true) ∧
    exec .rstNRelease s = .next (put { b with rstN := true }) ∧
    (∀ c, b.p12 = true → b.rst = some c → c ≠ 0 → c ≠ 6 → c ≠ 7 → b.attempts = none → ∃ u, exec .moduleResetBegin s = .next u ∧
      u.boot.rcause = c ∧ u.boot.rst = none ∧ u.boot.mepoch = b.mepoch + 1 ∧ u.boot.phase = min b.phase 2 ∧ u.boot.rails = false ∧ u.boot.lcs = b.lcs ∧
      u.boot.minsvn = b.minsvn ∧ u.panels = [] ∧ u.rings = [] ∧ u.links = [] ∧ u.mgmt.accepted = []) ∧
    (b.rst = none → exec .moduleResetBegin s = .next s) ∧
    ((∀ n, b.due n = false) → exec (.bootPhaseComplete ph) s = .next s) ∧
    (b.due 1 = true → exec (.bootPhaseComplete .s1) s = .next (put { b with phase := 1 })) ∧
    (b.due 2 = true → exec (.bootPhaseComplete .s2) s = .next (put { b with phase := 2 })) ∧
    (b.due 3 = true → b.mayStart = true → exec (.bootPhaseComplete .m1) s = .next (put { b with rails := true, phase := 3 })) ∧
    (s.wipes ≠ [] → exec (.bootPhaseComplete .m6) s = .next s) ∧
    (b.due 9 = true → s.mgmt.accepted = [] →
      (ok = true → b.causes = 0 → b.ref = 1 → b.lcs ≠ 3 → b.lcs ≠ 4 → ∃ u, exec (.bootPhaseComplete (.m7 ok cxl)) s = .next u ∧
        u.boot.mstate = 1 ∧ u.boot.holdc = 0 ∧ u.boot.phase = 9 ∧ u.boot.fault = false ∧
        u.boot.minsvn = (if b.lcs = 2 ∧ b.minsvn < b.svn ∧ b.raises < 64 then b.svn else b.minsvn)) ∧
      (b.causes = 2 ^ 2 → ok = true → b.ref = 1 → b.lcs ≠ 3 → b.lcs ≠ 4 → ∃ u, exec (.bootPhaseComplete (.m7 ok cxl)) s = .next u ∧ u.boot.mstate = 2 ∧ u.boot.holdc = 2))

/-- The reference, time, the managers and the test access port. A reference loss that lasts holds a Ready module out
with cause 6; its return then makes RCAUSE 4 due. A PPS edge within 1 µs of a second keeps lock, and takes an armed value; a third
good edge locks, and steps to the second; a lock lost is counted. A silent active manager is replaced by a standby with
the same firmware, MEPOCH counted and class 0x20, cause 11 recorded; without one both are lost. A silent mason core elsewhere
makes RCAUSE 5 due. -/
def Obligations.ReferenceTimeAndManagersAct : Prop :=
  ∀ (s : State) (at_ : Nat) (ok : Bool) (d : Fin 58) (op : TapOp) (die : Die) (c : Fin 16) (f : BitVec 5),
    let b := s.boot
    let t := s.time
    let e := max s.now at_
    let put (f : Boot) : State := { s with boot := f }
    (b.ref = 0 → exec .refclkValid s = .next (put { b with ref := 1 })) ∧
    (b.ref = 1 → exec .refclkLoss s = .next (put { b with ref := 2 }) ∧ exec .refclkLossTimeout s = .next s ∧ exec .refclkReturn s = .next s ∧ exec .refclkValid s = .next s) ∧
    (b.ref = 2 → exec .refclkReturn s = .next (put { b with ref := 1 }) ∧ ∃ u, exec .refclkLossTimeout s = .next u ∧
      u.boot = { b with ref := 3, mstate := if b.mstate = 1 then 2 else b.mstate, holdc := if b.mstate = 1 then 6 else b.holdc }) ∧
    (b.ref = 3 → ∃ u : State, exec .refclkReturn s = .next { u with boot := { b with ref := 1, rst := some (b.rst.getD 4) } } ∧ u = s.emit { cls := 0x20, cause := 13 }) ∧
    (t.lock = true → offSecond e ≤ 1000 → ∀ v, t.armed = some v → exec (.ppsEdge at_) s =
      .next { s with now := v * 1000000000, time := { t with lastEdge := some (v * 1000000000), armed := none } }) ∧
    (t.lock = true → 1000 < offSecond e → t.armed = none → exec (.ppsEdge at_) s =
      .next { s with now := e, time := { t with lock := false, streak := 0, miss := min 0xFFFF (t.miss + 1), lastEdge := some e } }) ∧
    (∀ l, t.lock = false → t.lastEdge = some l → edgeGood l e = true → t.streak = 2 → t.armed = none → exec (.ppsEdge at_) s =
      .next { s with now := e / 1000000000 * 1000000000, time := { t with lock := true, streak := 3, lastEdge := some (e / 1000000000 * 1000000000) } }) ∧
    (t.lock = true → exec .ppsLockLoss s = .next { s with time := { t with lock := false, streak := 0, miss := min 0xFFFF (t.miss + 1) } }) ∧
    (t.lock = false → exec .ppsLockLoss s = .next s) ∧
    (s.managed = true →
      (b.stby = true → exec .managerHeartbeat s = .next (put { b with beat := s.now })) ∧
      (b.recovery = false → b.stby = true → exec (.managerHeartbeatTimeout true) s =
        .next ((put { b with active := 1 - b.active, stby := false, mepoch := b.mepoch + 1 }).emit { cls := 0x20, cause := 11 })) ∧
      (b.recovery = false → (b.stby = false ∨ ok = false) → ∃ u, exec (.managerHeartbeatTimeout ok) s = .next u ∧
        u.boot = { b with dead := true, stby := false } ∧ u.ceils = [] ∧ u.power.hostMHz = [(0, 1500), (1, 1500)]) ∧
      exec (.testAccessPortOperation .idcode) s = .next { s with regRsp := Config.idcode % 2 ^ 32 } ∧
      (b.lcs = 0 → f.toNat ≤ 16 → exec (.testAccessPortOperation (.repairWrite die c f)) s =
        .next (put { b with repair := b.repair.set 0 (16 * die.val + c.val) (f.toNat ^^^ 0x1F) })) ∧
      (b.lcs ≠ 0 → exec (.testAccessPortOperation (.repairWrite die c f)) s = .next s) ∧
      (b.lcs = 3 → exec (.testAccessPortOperation .toManufacturing) s = .next (put { b with lcs := 0 }))) ∧
    (s.managed = false → exec (.testAccessPortOperation op) s = .next s ∧ exec .managerHeartbeat s = .next s) ∧
    exec .standbyManagerLoss s = .next (put { b with stby := false }) ∧
    ((b.rails = false ∨ d.val = 0 ∨ d.val = 9) → exec (.masonCoreTimeout d) s = .next s) ∧
    (b.rails = true → d.val ≠ 0 → d.val ≠ 9 → ∃ u, exec (.masonCoreTimeout d) s = .next u ∧ u.boot.rst = some 5)
end

