-- ==== Sys2Proof/Laws/Table.lean ====
section
/-!
SUPPORT. What the operations on sparse tables do: the entry that is read after a write, and that the canonical form is kept.
-/
namespace Sys2Proof.Machine

variable {α : Type}

@[simp] theorem Table.get_nil (d : α) (k : Nat) : Table.get ([] : Table α) d k = d := rfl

theorem Table.get_filter_ne (t : Table α) (d : α) (k j : Nat) :
    Table.get (t.filter (fun p => p.1 ≠ k)) d j = if j = k then d else Table.get t d j := by
  induction t with
  | nil => simp
  | cons x r ih =>
    obtain ⟨i, v⟩ := x
    by_cases h : i = k
    · subst h; simp only [List.filter, ne_eq, not_true_eq_false, decide_false]
      rw [ih]; by_cases hj : j = i
      · simp [hj]
      · simp [hj, Table.get, Ne.symm hj]
    · simp only [List.filter, ne_eq, h, not_false_eq_true, decide_true, Table.get]
      rw [ih]
      by_cases hj : i = j
      · subst hj; simp [h]
      · simp [hj]

theorem Table.get_ins (t : Table α) (d v : α) (k j : Nat) (h : Table.get t d k = d)
    (hk : ∀ p ∈ t, p.1 ≠ k) : Table.get (Table.ins k v t) d j = if j = k then v else Table.get t d j := by
  induction t with
  | nil => simp [Table.ins, Table.get, eq_comm]
  | cons x r ih =>
    obtain ⟨i, u⟩ := x
    have hi : i ≠ k := hk (i, u) (by simp)
    have hr : ∀ p ∈ r, p.1 ≠ k := fun p hp => hk p (by simp [hp])
    have hg : Table.get r d k = d := by simpa [Table.get, hi] using h
    by_cases hlt : k < i
    · simp only [Table.ins, hlt, if_true, Table.get]
      by_cases hj : j = k
      · simp [hj]
      · simp [hj, Ne.symm hj]
    · simp only [Table.ins, hlt, if_false, Table.get, ih hg hr]
      by_cases hij : i = j
      · subst hij; simp [hi]
      · simp [hij]

/-- Reading after a write of the same entry, and of another. -/
theorem Table.get_set [DecidableEq α] (t : Table α) (d v : α) (k j : Nat) :
    Table.get (Table.set t d k v) d j = if j = k then v else Table.get t d j := by
  unfold Table.set
  by_cases h : v = d
  · simp only [h, if_true]; rw [Table.get_filter_ne]
  · simp only [h, if_false]
    rw [Table.get_ins _ _ _ _ _ (by rw [Table.get_filter_ne]; simp) (by intro p hp; simp at hp; exact hp.2), Table.get_filter_ne]
    by_cases hj : j = k <;> simp [hj]

@[simp] theorem Table.get_set_self [DecidableEq α] (t : Table α) (d v : α) (k : Nat) :
    Table.get (Table.set t d k v) d k = v := by rw [Table.get_set]; simp

theorem Table.get_set_ne [DecidableEq α] (t : Table α) (d v : α) {k j : Nat} (h : j ≠ k) :
    Table.get (Table.set t d k v) d j = Table.get t d j := by rw [Table.get_set]; simp [h]

theorem Table.filter_ins (t : Table α) (k : Nat) (v : α) :
    (Table.ins k v t).filter (fun p => p.1 ≠ k) = t.filter (fun p => p.1 ≠ k) := by
  induction t with
  | nil => simp [Table.ins]
  | cons x r ih =>
    obtain ⟨j, u⟩ := x
    simp only [Table.ins]
    split
    · simp
    · simp only [List.filter_cons, ih]

@[simp] theorem Table.set_set [DecidableEq α] (t : Table α) (d u v : α) (k : Nat) :
    Table.set (Table.set t d k u) d k v = Table.set t d k v := by
  have h : (Table.set t d k u).filter (fun p => p.1 ≠ k) = t.filter (fun p => p.1 ≠ k) := by
    unfold Table.set
    dsimp only
    split
    · rw [List.filter_filter]; simp
    · rw [Table.filter_ins, List.filter_filter]; simp
  rw [show ((Table.set t d k u).set d k v) = (let r := (Table.set t d k u).filter (fun p => p.1 ≠ k)
    if v = d then r else Table.ins k v r) from rfl, h]
  rfl

@[simp] theorem Table.get_modify_self [DecidableEq α] (t : Table α) (d : α) (k : Nat) (f : α → α) :
    Table.get (Table.modify t d k f) d k = f (Table.get t d k) := Table.get_set_self ..

theorem Table.get_modify_ne [DecidableEq α] (t : Table α) (d : α) {k j : Nat} (f : α → α) (h : j ≠ k) :
    Table.get (Table.modify t d k f) d j = Table.get t d j := Table.get_set_ne _ _ _ h

theorem Table.get_eq_of_all_gt (t : Table α) (d : α) (k : Nat) (h : ∀ p ∈ t, p.1 ≠ k) : Table.get t d k = d := by
  induction t with
  | nil => rfl
  | cons x r ih =>
    obtain ⟨i, u⟩ := x
    have hi : i ≠ k := h (i, u) (by simp)
    simp [Table.get, hi, ih (fun p hp => h p (by simp [hp]))]

@[simp] theorem Table.wf_nil [DecidableEq α] (d : α) : Table.wf ([] : Table α) d = true := rfl

theorem Table.wf_cons [DecidableEq α] {k : Nat} {v d : α} {r : Table α} :
    Table.wf ((k, v) :: r) d = true ↔ v ≠ d ∧ (∀ p ∈ r, k < p.1) ∧ Table.wf r d = true := by
  simp [Table.wf, and_assoc]

theorem Table.wf_filter [DecidableEq α] (t : Table α) (d : α) (q : Nat × α → Bool) (h : Table.wf t d = true) :
    Table.wf (t.filter q) d = true := by
  induction t with
  | nil => rfl
  | cons x r ih =>
    obtain ⟨k, v⟩ := x
    obtain ⟨hv, hk, hr⟩ := Table.wf_cons.mp h
    by_cases hq : q (k, v) = true
    · rw [List.filter_cons_of_pos hq]
      exact Table.wf_cons.mpr ⟨hv, fun p hp => hk p (List.mem_filter.mp hp).1, ih hr⟩
    · rw [List.filter_cons_of_neg hq]; exact ih hr

@[simp] theorem Table.wf_keep [DecidableEq α] (t : Table α) (d : α) (q : Nat → α → Bool) (h : Table.wf t d = true) :
    Table.wf (Table.keep t q) d = true := Table.wf_filter t d _ h

theorem Table.mem_ins {k : Nat} {v : α} {t : Table α} {p : Nat × α} (h : p ∈ Table.ins k v t) : p = (k, v) ∨ p ∈ t := by
  induction t with
  | nil => simpa [Table.ins] using h
  | cons x r ih =>
    obtain ⟨i, u⟩ := x
    simp only [Table.ins] at h
    split at h
    · simpa using h
    · rcases List.mem_cons.mp h with h | h
      · exact .inr (by simp [h])
      · rcases ih h with h | h
        · exact .inl h
        · exact .inr (by simp [h])

theorem Table.wf_ins [DecidableEq α] (t : Table α) (d v : α) (k : Nat) (h : Table.wf t d = true) (hv : v ≠ d)
    (hk : ∀ p ∈ t, p.1 ≠ k) : Table.wf (Table.ins k v t) d = true := by
  induction t with
  | nil => simp [Table.ins, Table.wf, hv]
  | cons x r ih =>
    obtain ⟨i, u⟩ := x
    obtain ⟨hu, hi, hr⟩ := Table.wf_cons.mp h
    have hne : i ≠ k := hk (i, u) (by simp)
    simp only [Table.ins]
    split
    · rename_i hlt
      refine Table.wf_cons.mpr ⟨hv, ?_, h⟩
      intro p hp
      rcases List.mem_cons.mp hp with rfl | hp
      · exact hlt
      · exact Nat.lt_trans hlt (hi p hp)
    · rename_i hlt
      refine Table.wf_cons.mpr ⟨hu, ?_, ih hr (fun p hp => hk p (by simp [hp]))⟩
      intro p hp
      rcases Table.mem_ins hp with rfl | hp
      · show i < k; omega
      · exact hi p hp

/-- A write keeps the canonical form. -/
@[simp] theorem Table.wf_set [DecidableEq α] (t : Table α) (d v : α) (k : Nat) (h : Table.wf t d = true) :
    Table.wf (Table.set t d k v) d = true := by
  unfold Table.set
  have hf := Table.wf_filter t d (fun p => p.1 ≠ k) h
  dsimp only
  split
  · exact hf
  · rename_i hv
    exact Table.wf_ins _ _ _ _ hf hv (by intro p hp; simp at hp; exact hp.2)

@[simp] theorem Table.wf_modify [DecidableEq α] (t : Table α) (d : α) (k : Nat) (f : α → α) (h : Table.wf t d = true) :
    Table.wf (Table.modify t d k f) d = true := Table.wf_set _ _ _ _ h

theorem Table.key_update [DecidableEq α] (t : Table α) (d : α) (f : Nat → α → α) (p : Nat × α)
    (h : p ∈ Table.update t d f) : ∃ q ∈ t, q.1 = p.1 := by
  induction t with
  | nil => simp [Table.update] at h
  | cons x r ih =>
    obtain ⟨k, v⟩ := x
    by_cases hd : f k v = d
    · simp only [Table.update, hd, if_true, List.mem_filter] at h
      obtain ⟨q, hq, he⟩ := ih h.1
      exact ⟨q, List.mem_cons_of_mem _ hq, he⟩
    · simp only [Table.update, hd, if_false, List.mem_cons] at h
      rcases h with rfl | h
      · exact ⟨_, List.mem_cons_self, rfl⟩
      · obtain ⟨q, hq, he⟩ := ih h
        exact ⟨q, List.mem_cons_of_mem _ hq, he⟩

@[simp] theorem Table.wf_update [DecidableEq α] (t : Table α) (d : α) (f : Nat → α → α) (h : Table.wf t d = true) :
    Table.wf (Table.update t d f) d = true := by
  induction t with
  | nil => rfl
  | cons x r ih =>
    obtain ⟨k, v⟩ := x
    obtain ⟨-, hk, hr⟩ := Table.wf_cons.mp h
    have ih := ih hr
    by_cases hd : f k v = d
    · simp only [Table.update, hd, if_true]
      exact Table.wf_filter _ _ _ ih
    · simp only [Table.update, hd, if_false]
      refine Table.wf_cons.mpr ⟨hd, fun p hp => ?_, ih⟩
      obtain ⟨q, hq, he⟩ := Table.key_update r d f p hp
      rw [← he]; exact hk q hq

/-- An update whose function keeps the default rewrites every entry as it is read. -/
theorem Table.get_update [DecidableEq α] (t : Table α) (d : α) (f : Nat → α → α) (hf : ∀ k, f k d = d) (k : Nat) :
    Table.get (Table.update t d f) d k = f k (Table.get t d k) := by
  induction t with
  | nil => simp [Table.update, hf]
  | cons x r ih =>
    obtain ⟨j, v⟩ := x
    by_cases hd : f j v = d
    · simp only [Table.update, hd, if_true, Table.get_filter_ne, Table.get]
      by_cases h : j = k
      · subst h; simp [hd]
      · simp [h, Ne.symm h, ih]
    · simp only [Table.update, hd, if_false, Table.get]
      by_cases h : j = k
      · subst h; simp
      · simp [h, ih]

@[simp] theorem writeMem_wf (m : Table Byte) (a : Nat) (bs : List Byte) (h : Table.wf m 0 = true) :
    Table.wf (writeMem m a bs) 0 = true := by
  induction bs generalizing m a with
  | nil => exact h
  | cons b bs ih => exact ih _ _ (Table.wf_set _ _ _ _ h)

/-- A byte after a list of bytes is written at `a`. -/
theorem writeMem_get (m : Table Byte) (a : Nat) (bs : List Byte) (k : Nat) :
    Table.get (writeMem m a bs) 0 k = if a ≤ k ∧ k < a + bs.length then bs.getD (k - a) 0 else Table.get m 0 k := by
  induction bs generalizing m a with
  | nil =>
    rw [if_neg (by rw [List.length_nil]; omega)]
    rfl
  | cons b bs ih =>
    rw [writeMem, ih, Table.get_set]
    by_cases h1 : k = a
    · subst h1
      have : ¬ (k + 1 ≤ k ∧ k < k + 1 + bs.length) := by omega
      rw [if_neg this]; simp
    · by_cases h2 : a + 1 ≤ k ∧ k < a + 1 + bs.length
      · have : k - a = (k - (a + 1)) + 1 := by omega
        have h3 : a ≤ k ∧ k < a + (b :: bs).length := by simp; omega
        rw [if_pos h2, if_pos h3, this]; simp
      · have h3 : ¬ (a ≤ k ∧ k < a + (b :: bs).length) := by simp; omega
        simp only [h2, h3, h1, if_false]

end Sys2Proof.Machine
end

