-- ==== Sys2Proof/Laws/State.lean ====
section
/-!
SUPPORT. What each named update of State leaves alone, field by field, and what it changes; all by computation.
-/
namespace Sys2Proof.Machine
open Sys2Proof

/-! ### Updates written over another update -/

theorem State.modTile_eq (s : State) (t : Nat) (f : TileS → TileS) : s.modTile t f = s.setTile t (f (s.tile t)) := rfl
theorem State.setEngine_eq (s : State) (t c : Nat) (e : Engine) : s.setEngine t c e = s.setTile t { s.tile t with eng := (s.tile t).eng.set {} c e } := rfl
theorem State.modEngine_eq (s : State) (t c : Nat) (f : Engine → Engine) : s.modEngine t c f = s.setEngine t c (f (s.engine t c)) := rfl
theorem State.putActive_eq (s : State) (t c : Nat) (a : Active) : s.putActive t c a = s.modEngine t c (fun e => e.putActive a) := rfl
theorem State.modArr_eq (s : State) (t : Nat) (f : ArrayS → ArrayS) : s.modArr t f = s.setTile t { s.tile t with arr := f (s.tile t).arr } := rfl
theorem State.modRing_eq (s : State) (g : Nat) (f : Ring → Ring) : s.modRing g f = s.setRing g (f (s.ring g)) := rfl
theorem State.modPanel_eq (s : State) (p : Nat) (f : Panel → Panel) : s.modPanel p f = s.setPanel p (f (s.panel p)) := rfl
theorem State.setJob_eq (s : State) (p j : Nat) (v : Job) : s.setJob p j v = s.setPanel p { s.panel p with jobs := (s.panel p).jobs.set {} j v } := rfl
theorem State.modJob_eq (s : State) (p j : Nat) (f : Job → Job) : s.modJob p j f = s.setJob p j (f (s.job p j)) := rfl
theorem State.modConn_eq (s : State) (k : Nat) (f : Conn → Conn) : s.modConn k f = s.setConn k (f (s.conn k)) := rfl

/-! ### The record an update writes -/

@[simp] theorem State.tile_setTile (s : State) (t : Nat) (v : TileS) : (s.setTile t v).tile t = v :=
  Table.get_set_self _ _ _ _
@[simp] theorem State.ring_setRing (s : State) (g : Nat) (v : Ring) : (s.setRing g v).ring g = v :=
  Table.get_set_self _ _ _ _
@[simp] theorem State.panel_setPanel (s : State) (p : Nat) (v : Panel) : (s.setPanel p v).panel p = v :=
  Table.get_set_self _ _ _ _
@[simp] theorem State.stack_modStack (s : State) (k : Nat) (f : Stack → Stack) : (s.modStack k f).stack k = f (s.stack k) :=
  Table.get_set_self _ _ _ _
@[simp] theorem State.keep_modKeep (s : State) (k : Nat) (f : Keep → Keep) : (s.modKeep k f).keep k = f (s.keep k) :=
  Table.get_set_self _ _ _ _
@[simp] theorem State.home_modHome (s : State) (h : Nat) (f : Home → Home) : (s.modHome h f).home h = f (s.home h) :=
  Table.get_set_self _ _ _ _
@[simp] theorem State.host_modHost (s : State) (h : Nat) (f : HostS → HostS) : (s.modHost h f).host h = f (s.host h) :=
  Table.get_set_self _ _ _ _
@[simp] theorem State.core_modCore (s : State) (c : Nat) (f : HostCore → HostCore) : (s.modCore c f).core c = f (s.core c) :=
  Table.get_set_self _ _ _ _
@[simp] theorem State.port_modPort (s : State) (n : Nat) (f : CPort → CPort) : (s.modPort n f).port n = f (s.port n) :=
  Table.get_set_self _ _ _ _
@[simp] theorem State.conn_setConn (s : State) (k : Nat) (c : Conn) : (s.setConn k c).conn k = c :=
  Table.get_set_self _ _ _ _
theorem State.tile_setTile_ne (s : State) (t u : Nat) (v : TileS) (h : u ≠ t) : (s.setTile t v).tile u = s.tile u :=
  Table.get_set_ne _ _ _ h
theorem State.ring_setRing_ne (s : State) (g u : Nat) (v : Ring) (h : u ≠ g) : (s.setRing g v).ring u = s.ring u :=
  Table.get_set_ne _ _ _ h
theorem State.panel_setPanel_ne (s : State) (p u : Nat) (v : Panel) (h : u ≠ p) : (s.setPanel p v).panel u = s.panel u :=
  Table.get_set_ne _ _ _ h
theorem State.stack_modStack_ne (s : State) (k u : Nat) (f : Stack → Stack) (h : u ≠ k) : (s.modStack k f).stack u = s.stack u :=
  Table.get_set_ne _ _ _ h
theorem State.keep_modKeep_ne (s : State) (k u : Nat) (f : Keep → Keep) (h : u ≠ k) : (s.modKeep k f).keep u = s.keep u :=
  Table.get_set_ne _ _ _ h
theorem State.home_modHome_ne (s : State) (a u : Nat) (f : Home → Home) (h : u ≠ a) : (s.modHome a f).home u = s.home u :=
  Table.get_set_ne _ _ _ h
theorem State.host_modHost_ne (s : State) (a u : Nat) (f : HostS → HostS) (h : u ≠ a) : (s.modHost a f).host u = s.host u :=
  Table.get_set_ne _ _ _ h
theorem State.core_modCore_ne (s : State) (c u : Nat) (f : HostCore → HostCore) (h : u ≠ c) : (s.modCore c f).core u = s.core u :=
  Table.get_set_ne _ _ _ h
theorem State.port_modPort_ne (s : State) (n u : Nat) (f : CPort → CPort) (h : u ≠ n) : (s.modPort n f).port u = s.port u :=
  Table.get_set_ne _ _ _ h
theorem State.conn_setConn_ne (s : State) (k u : Nat) (c : Conn) (h : u ≠ k) : (s.setConn k c).conn u = s.conn u :=
  Table.get_set_ne _ _ _ h

/-! ### `State.setTile` leaves every field but `tiles` -/

@[simp] theorem State.setTile_pending (s : State) (t : Nat) (v : TileS) : (s.setTile t v).pending = s.pending := rfl
@[simp] theorem State.setTile_free (s : State) (t : Nat) (v : TileS) : (s.setTile t v).free = s.free := rfl
@[simp] theorem State.setTile_now (s : State) (t : Nat) (v : TileS) : (s.setTile t v).now = s.now := rfl
@[simp] theorem State.setTile_time (s : State) (t : Nat) (v : TileS) : (s.setTile t v).time = s.time := rfl
@[simp] theorem State.setTile_mem (s : State) (t : Nat) (v : TileS) : (s.setTile t v).mem = s.mem := rfl
@[simp] theorem State.setTile_poison (s : State) (t : Nat) (v : TileS) : (s.setTile t v).poison = s.poison := rfl
@[simp] theorem State.setTile_linePoison (s : State) (t : Nat) (v : TileS) : (s.setTile t v).linePoison = s.linePoison := rfl
@[simp] theorem State.setTile_injPoison (s : State) (t : Nat) (v : TileS) : (s.setTile t v).injPoison = s.injPoison := rfl
@[simp] theorem State.setTile_inj (s : State) (t : Nat) (v : TileS) : (s.setTile t v).inj = s.inj := rfl
@[simp] theorem State.setTile_rings (s : State) (t : Nat) (v : TileS) : (s.setTile t v).rings = s.rings := rfl
@[simp] theorem State.setTile_evt (s : State) (t : Nat) (v : TileS) : (s.setTile t v).evt = s.evt := rfl
@[simp] theorem State.setTile_adds (s : State) (t : Nat) (v : TileS) : (s.setTile t v).adds = s.adds := rfl
@[simp] theorem State.setTile_addAcks (s : State) (t : Nat) (v : TileS) : (s.setTile t v).addAcks = s.addAcks := rfl
@[simp] theorem State.setTile_panels (s : State) (t : Nat) (v : TileS) : (s.setTile t v).panels = s.panels := rfl
@[simp] theorem State.setTile_hbmStks (s : State) (t : Nat) (v : TileS) : (s.setTile t v).hbmStks = s.hbmStks := rfl
@[simp] theorem State.setTile_wipes (s : State) (t : Nat) (v : TileS) : (s.setTile t v).wipes = s.wipes := rfl
@[simp] theorem State.setTile_keeps (s : State) (t : Nat) (v : TileS) : (s.setTile t v).keeps = s.keeps := rfl
@[simp] theorem State.setTile_pool (s : State) (t : Nat) (v : TileS) : (s.setTile t v).pool = s.pool := rfl
@[simp] theorem State.setTile_homes (s : State) (t : Nat) (v : TileS) : (s.setTile t v).homes = s.homes := rfl
@[simp] theorem State.setTile_hosts (s : State) (t : Nat) (v : TileS) : (s.setTile t v).hosts = s.hosts := rfl
@[simp] theorem State.setTile_cores (s : State) (t : Nat) (v : TileS) : (s.setTile t v).cores = s.cores := rfl
@[simp] theorem State.setTile_slices (s : State) (t : Nat) (v : TileS) : (s.setTile t v).slices = s.slices := rfl
@[simp] theorem State.setTile_snpRsps (s : State) (t : Nat) (v : TileS) : (s.setTile t v).snpRsps = s.snpRsps := rfl
@[simp] theorem State.setTile_grants (s : State) (t : Nat) (v : TileS) : (s.setTile t v).grants = s.grants := rfl
@[simp] theorem State.setTile_caccs (s : State) (t : Nat) (v : TileS) : (s.setTile t v).caccs = s.caccs := rfl
@[simp] theorem State.setTile_nacks (s : State) (t : Nat) (v : TileS) : (s.setTile t v).nacks = s.nacks := rfl
@[simp] theorem State.setTile_wbAcks (s : State) (t : Nat) (v : TileS) : (s.setTile t v).wbAcks = s.wbAcks := rfl
@[simp] theorem State.setTile_rsps (s : State) (t : Nat) (v : TileS) : (s.setTile t v).rsps = s.rsps := rfl
@[simp] theorem State.setTile_dbg (s : State) (t : Nat) (v : TileS) : (s.setTile t v).dbg = s.dbg := rfl
@[simp] theorem State.setTile_ceils (s : State) (t : Nat) (v : TileS) : (s.setTile t v).ceils = s.ceils := rfl
@[simp] theorem State.setTile_msis (s : State) (t : Nat) (v : TileS) : (s.setTile t v).msis = s.msis := rfl
@[simp] theorem State.setTile_plumb (s : State) (t : Nat) (v : TileS) : (s.setTile t v).plumb = s.plumb := rfl
@[simp] theorem State.setTile_cxl (s : State) (t : Nat) (v : TileS) : (s.setTile t v).cxl = s.cxl := rfl
@[simp] theorem State.setTile_perst (s : State) (t : Nat) (v : TileS) : (s.setTile t v).perst = s.perst := rfl
@[simp] theorem State.setTile_present (s : State) (t : Nat) (v : TileS) : (s.setTile t v).present = s.present := rfl
@[simp] theorem State.setTile_links (s : State) (t : Nat) (v : TileS) : (s.setTile t v).links = s.links := rfl
@[simp] theorem State.setTile_ports (s : State) (t : Nat) (v : TileS) : (s.setTile t v).ports = s.ports := rfl
@[simp] theorem State.setTile_conns (s : State) (t : Nat) (v : TileS) : (s.setTile t v).conns = s.conns := rfl
@[simp] theorem State.setTile_courseTx (s : State) (t : Nat) (v : TileS) : (s.setTile t v).courseTx = s.courseTx := rfl
@[simp] theorem State.setTile_ethTx (s : State) (t : Nat) (v : TileS) : (s.setTile t v).ethTx = s.ethTx := rfl
@[simp] theorem State.setTile_aborts (s : State) (t : Nat) (v : TileS) : (s.setTile t v).aborts = s.aborts := rfl
@[simp] theorem State.setTile_hods (s : State) (t : Nat) (v : TileS) : (s.setTile t v).hods = s.hods := rfl
@[simp] theorem State.setTile_intakes (s : State) (t : Nat) (v : TileS) : (s.setTile t v).intakes = s.intakes := rfl
@[simp] theorem State.setTile_modId (s : State) (t : Nat) (v : TileS) : (s.setTile t v).modId = s.modId := rfl
@[simp] theorem State.setTile_midset (s : State) (t : Nat) (v : TileS) : (s.setTile t v).midset = s.midset := rfl
@[simp] theorem State.setTile_fw (s : State) (t : Nat) (v : TileS) : (s.setTile t v).fw = s.fw := rfl
@[simp] theorem State.setTile_strict (s : State) (t : Nat) (v : TileS) : (s.setTile t v).strict = s.strict := rfl
@[simp] theorem State.setTile_mgmt (s : State) (t : Nat) (v : TileS) : (s.setTile t v).mgmt = s.mgmt := rfl
@[simp] theorem State.setTile_power (s : State) (t : Nat) (v : TileS) : (s.setTile t v).power = s.power := rfl
@[simp] theorem State.setTile_boot (s : State) (t : Nat) (v : TileS) : (s.setTile t v).boot = s.boot := rfl
@[simp] theorem State.setTile_regRsp (s : State) (t : Nat) (v : TileS) : (s.setTile t v).regRsp = s.regRsp := rfl
@[simp] theorem State.setTile_wipeNext (s : State) (t : Nat) (v : TileS) : (s.setTile t v).wipeNext = s.wipeNext := rfl

/-! ### `State.setRing` leaves every field but `rings` -/

@[simp] theorem State.setRing_pending (s : State) (g : Nat) (v : Ring) : (s.setRing g v).pending = s.pending := rfl
@[simp] theorem State.setRing_free (s : State) (g : Nat) (v : Ring) : (s.setRing g v).free = s.free := rfl
@[simp] theorem State.setRing_now (s : State) (g : Nat) (v : Ring) : (s.setRing g v).now = s.now := rfl
@[simp] theorem State.setRing_time (s : State) (g : Nat) (v : Ring) : (s.setRing g v).time = s.time := rfl
@[simp] theorem State.setRing_mem (s : State) (g : Nat) (v : Ring) : (s.setRing g v).mem = s.mem := rfl
@[simp] theorem State.setRing_poison (s : State) (g : Nat) (v : Ring) : (s.setRing g v).poison = s.poison := rfl
@[simp] theorem State.setRing_linePoison (s : State) (g : Nat) (v : Ring) : (s.setRing g v).linePoison = s.linePoison := rfl
@[simp] theorem State.setRing_injPoison (s : State) (g : Nat) (v : Ring) : (s.setRing g v).injPoison = s.injPoison := rfl
@[simp] theorem State.setRing_inj (s : State) (g : Nat) (v : Ring) : (s.setRing g v).inj = s.inj := rfl
@[simp] theorem State.setRing_tiles (s : State) (g : Nat) (v : Ring) : (s.setRing g v).tiles = s.tiles := rfl
@[simp] theorem State.setRing_evt (s : State) (g : Nat) (v : Ring) : (s.setRing g v).evt = s.evt := rfl
@[simp] theorem State.setRing_adds (s : State) (g : Nat) (v : Ring) : (s.setRing g v).adds = s.adds := rfl
@[simp] theorem State.setRing_addAcks (s : State) (g : Nat) (v : Ring) : (s.setRing g v).addAcks = s.addAcks := rfl
@[simp] theorem State.setRing_panels (s : State) (g : Nat) (v : Ring) : (s.setRing g v).panels = s.panels := rfl
@[simp] theorem State.setRing_hbmStks (s : State) (g : Nat) (v : Ring) : (s.setRing g v).hbmStks = s.hbmStks := rfl
@[simp] theorem State.setRing_wipes (s : State) (g : Nat) (v : Ring) : (s.setRing g v).wipes = s.wipes := rfl
@[simp] theorem State.setRing_keeps (s : State) (g : Nat) (v : Ring) : (s.setRing g v).keeps = s.keeps := rfl
@[simp] theorem State.setRing_pool (s : State) (g : Nat) (v : Ring) : (s.setRing g v).pool = s.pool := rfl
@[simp] theorem State.setRing_homes (s : State) (g : Nat) (v : Ring) : (s.setRing g v).homes = s.homes := rfl
@[simp] theorem State.setRing_hosts (s : State) (g : Nat) (v : Ring) : (s.setRing g v).hosts = s.hosts := rfl
@[simp] theorem State.setRing_cores (s : State) (g : Nat) (v : Ring) : (s.setRing g v).cores = s.cores := rfl
@[simp] theorem State.setRing_slices (s : State) (g : Nat) (v : Ring) : (s.setRing g v).slices = s.slices := rfl
@[simp] theorem State.setRing_snpRsps (s : State) (g : Nat) (v : Ring) : (s.setRing g v).snpRsps = s.snpRsps := rfl
@[simp] theorem State.setRing_grants (s : State) (g : Nat) (v : Ring) : (s.setRing g v).grants = s.grants := rfl
@[simp] theorem State.setRing_caccs (s : State) (g : Nat) (v : Ring) : (s.setRing g v).caccs = s.caccs := rfl
@[simp] theorem State.setRing_nacks (s : State) (g : Nat) (v : Ring) : (s.setRing g v).nacks = s.nacks := rfl
@[simp] theorem State.setRing_wbAcks (s : State) (g : Nat) (v : Ring) : (s.setRing g v).wbAcks = s.wbAcks := rfl
@[simp] theorem State.setRing_rsps (s : State) (g : Nat) (v : Ring) : (s.setRing g v).rsps = s.rsps := rfl
@[simp] theorem State.setRing_dbg (s : State) (g : Nat) (v : Ring) : (s.setRing g v).dbg = s.dbg := rfl
@[simp] theorem State.setRing_ceils (s : State) (g : Nat) (v : Ring) : (s.setRing g v).ceils = s.ceils := rfl
@[simp] theorem State.setRing_msis (s : State) (g : Nat) (v : Ring) : (s.setRing g v).msis = s.msis := rfl
@[simp] theorem State.setRing_plumb (s : State) (g : Nat) (v : Ring) : (s.setRing g v).plumb = s.plumb := rfl
@[simp] theorem State.setRing_cxl (s : State) (g : Nat) (v : Ring) : (s.setRing g v).cxl = s.cxl := rfl
@[simp] theorem State.setRing_perst (s : State) (g : Nat) (v : Ring) : (s.setRing g v).perst = s.perst := rfl
@[simp] theorem State.setRing_present (s : State) (g : Nat) (v : Ring) : (s.setRing g v).present = s.present := rfl
@[simp] theorem State.setRing_links (s : State) (g : Nat) (v : Ring) : (s.setRing g v).links = s.links := rfl
@[simp] theorem State.setRing_ports (s : State) (g : Nat) (v : Ring) : (s.setRing g v).ports = s.ports := rfl
@[simp] theorem State.setRing_conns (s : State) (g : Nat) (v : Ring) : (s.setRing g v).conns = s.conns := rfl
@[simp] theorem State.setRing_courseTx (s : State) (g : Nat) (v : Ring) : (s.setRing g v).courseTx = s.courseTx := rfl
@[simp] theorem State.setRing_ethTx (s : State) (g : Nat) (v : Ring) : (s.setRing g v).ethTx = s.ethTx := rfl
@[simp] theorem State.setRing_aborts (s : State) (g : Nat) (v : Ring) : (s.setRing g v).aborts = s.aborts := rfl
@[simp] theorem State.setRing_hods (s : State) (g : Nat) (v : Ring) : (s.setRing g v).hods = s.hods := rfl
@[simp] theorem State.setRing_intakes (s : State) (g : Nat) (v : Ring) : (s.setRing g v).intakes = s.intakes := rfl
@[simp] theorem State.setRing_modId (s : State) (g : Nat) (v : Ring) : (s.setRing g v).modId = s.modId := rfl
@[simp] theorem State.setRing_midset (s : State) (g : Nat) (v : Ring) : (s.setRing g v).midset = s.midset := rfl
@[simp] theorem State.setRing_fw (s : State) (g : Nat) (v : Ring) : (s.setRing g v).fw = s.fw := rfl
@[simp] theorem State.setRing_strict (s : State) (g : Nat) (v : Ring) : (s.setRing g v).strict = s.strict := rfl
@[simp] theorem State.setRing_mgmt (s : State) (g : Nat) (v : Ring) : (s.setRing g v).mgmt = s.mgmt := rfl
@[simp] theorem State.setRing_power (s : State) (g : Nat) (v : Ring) : (s.setRing g v).power = s.power := rfl
@[simp] theorem State.setRing_boot (s : State) (g : Nat) (v : Ring) : (s.setRing g v).boot = s.boot := rfl
@[simp] theorem State.setRing_regRsp (s : State) (g : Nat) (v : Ring) : (s.setRing g v).regRsp = s.regRsp := rfl
@[simp] theorem State.setRing_wipeNext (s : State) (g : Nat) (v : Ring) : (s.setRing g v).wipeNext = s.wipeNext := rfl

/-! ### `State.setPanel` leaves every field but `panels` -/

@[simp] theorem State.setPanel_pending (s : State) (p : Nat) (v : Panel) : (s.setPanel p v).pending = s.pending := rfl
@[simp] theorem State.setPanel_free (s : State) (p : Nat) (v : Panel) : (s.setPanel p v).free = s.free := rfl
@[simp] theorem State.setPanel_now (s : State) (p : Nat) (v : Panel) : (s.setPanel p v).now = s.now := rfl
@[simp] theorem State.setPanel_time (s : State) (p : Nat) (v : Panel) : (s.setPanel p v).time = s.time := rfl
@[simp] theorem State.setPanel_mem (s : State) (p : Nat) (v : Panel) : (s.setPanel p v).mem = s.mem := rfl
@[simp] theorem State.setPanel_poison (s : State) (p : Nat) (v : Panel) : (s.setPanel p v).poison = s.poison := rfl
@[simp] theorem State.setPanel_linePoison (s : State) (p : Nat) (v : Panel) : (s.setPanel p v).linePoison = s.linePoison := rfl
@[simp] theorem State.setPanel_injPoison (s : State) (p : Nat) (v : Panel) : (s.setPanel p v).injPoison = s.injPoison := rfl
@[simp] theorem State.setPanel_inj (s : State) (p : Nat) (v : Panel) : (s.setPanel p v).inj = s.inj := rfl
@[simp] theorem State.setPanel_tiles (s : State) (p : Nat) (v : Panel) : (s.setPanel p v).tiles = s.tiles := rfl
@[simp] theorem State.setPanel_rings (s : State) (p : Nat) (v : Panel) : (s.setPanel p v).rings = s.rings := rfl
@[simp] theorem State.setPanel_evt (s : State) (p : Nat) (v : Panel) : (s.setPanel p v).evt = s.evt := rfl
@[simp] theorem State.setPanel_adds (s : State) (p : Nat) (v : Panel) : (s.setPanel p v).adds = s.adds := rfl
@[simp] theorem State.setPanel_addAcks (s : State) (p : Nat) (v : Panel) : (s.setPanel p v).addAcks = s.addAcks := rfl
@[simp] theorem State.setPanel_hbmStks (s : State) (p : Nat) (v : Panel) : (s.setPanel p v).hbmStks = s.hbmStks := rfl
@[simp] theorem State.setPanel_wipes (s : State) (p : Nat) (v : Panel) : (s.setPanel p v).wipes = s.wipes := rfl
@[simp] theorem State.setPanel_keeps (s : State) (p : Nat) (v : Panel) : (s.setPanel p v).keeps = s.keeps := rfl
@[simp] theorem State.setPanel_pool (s : State) (p : Nat) (v : Panel) : (s.setPanel p v).pool = s.pool := rfl
@[simp] theorem State.setPanel_homes (s : State) (p : Nat) (v : Panel) : (s.setPanel p v).homes = s.homes := rfl
@[simp] theorem State.setPanel_hosts (s : State) (p : Nat) (v : Panel) : (s.setPanel p v).hosts = s.hosts := rfl
@[simp] theorem State.setPanel_cores (s : State) (p : Nat) (v : Panel) : (s.setPanel p v).cores = s.cores := rfl
@[simp] theorem State.setPanel_slices (s : State) (p : Nat) (v : Panel) : (s.setPanel p v).slices = s.slices := rfl
@[simp] theorem State.setPanel_snpRsps (s : State) (p : Nat) (v : Panel) : (s.setPanel p v).snpRsps = s.snpRsps := rfl
@[simp] theorem State.setPanel_grants (s : State) (p : Nat) (v : Panel) : (s.setPanel p v).grants = s.grants := rfl
@[simp] theorem State.setPanel_caccs (s : State) (p : Nat) (v : Panel) : (s.setPanel p v).caccs = s.caccs := rfl
@[simp] theorem State.setPanel_nacks (s : State) (p : Nat) (v : Panel) : (s.setPanel p v).nacks = s.nacks := rfl
@[simp] theorem State.setPanel_wbAcks (s : State) (p : Nat) (v : Panel) : (s.setPanel p v).wbAcks = s.wbAcks := rfl
@[simp] theorem State.setPanel_rsps (s : State) (p : Nat) (v : Panel) : (s.setPanel p v).rsps = s.rsps := rfl
@[simp] theorem State.setPanel_dbg (s : State) (p : Nat) (v : Panel) : (s.setPanel p v).dbg = s.dbg := rfl
@[simp] theorem State.setPanel_ceils (s : State) (p : Nat) (v : Panel) : (s.setPanel p v).ceils = s.ceils := rfl
@[simp] theorem State.setPanel_msis (s : State) (p : Nat) (v : Panel) : (s.setPanel p v).msis = s.msis := rfl
@[simp] theorem State.setPanel_plumb (s : State) (p : Nat) (v : Panel) : (s.setPanel p v).plumb = s.plumb := rfl
@[simp] theorem State.setPanel_cxl (s : State) (p : Nat) (v : Panel) : (s.setPanel p v).cxl = s.cxl := rfl
@[simp] theorem State.setPanel_perst (s : State) (p : Nat) (v : Panel) : (s.setPanel p v).perst = s.perst := rfl
@[simp] theorem State.setPanel_present (s : State) (p : Nat) (v : Panel) : (s.setPanel p v).present = s.present := rfl
@[simp] theorem State.setPanel_links (s : State) (p : Nat) (v : Panel) : (s.setPanel p v).links = s.links := rfl
@[simp] theorem State.setPanel_ports (s : State) (p : Nat) (v : Panel) : (s.setPanel p v).ports = s.ports := rfl
@[simp] theorem State.setPanel_conns (s : State) (p : Nat) (v : Panel) : (s.setPanel p v).conns = s.conns := rfl
@[simp] theorem State.setPanel_courseTx (s : State) (p : Nat) (v : Panel) : (s.setPanel p v).courseTx = s.courseTx := rfl
@[simp] theorem State.setPanel_ethTx (s : State) (p : Nat) (v : Panel) : (s.setPanel p v).ethTx = s.ethTx := rfl
@[simp] theorem State.setPanel_aborts (s : State) (p : Nat) (v : Panel) : (s.setPanel p v).aborts = s.aborts := rfl
@[simp] theorem State.setPanel_hods (s : State) (p : Nat) (v : Panel) : (s.setPanel p v).hods = s.hods := rfl
@[simp] theorem State.setPanel_intakes (s : State) (p : Nat) (v : Panel) : (s.setPanel p v).intakes = s.intakes := rfl
@[simp] theorem State.setPanel_modId (s : State) (p : Nat) (v : Panel) : (s.setPanel p v).modId = s.modId := rfl
@[simp] theorem State.setPanel_midset (s : State) (p : Nat) (v : Panel) : (s.setPanel p v).midset = s.midset := rfl
@[simp] theorem State.setPanel_fw (s : State) (p : Nat) (v : Panel) : (s.setPanel p v).fw = s.fw := rfl
@[simp] theorem State.setPanel_strict (s : State) (p : Nat) (v : Panel) : (s.setPanel p v).strict = s.strict := rfl
@[simp] theorem State.setPanel_mgmt (s : State) (p : Nat) (v : Panel) : (s.setPanel p v).mgmt = s.mgmt := rfl
@[simp] theorem State.setPanel_power (s : State) (p : Nat) (v : Panel) : (s.setPanel p v).power = s.power := rfl
@[simp] theorem State.setPanel_boot (s : State) (p : Nat) (v : Panel) : (s.setPanel p v).boot = s.boot := rfl
@[simp] theorem State.setPanel_regRsp (s : State) (p : Nat) (v : Panel) : (s.setPanel p v).regRsp = s.regRsp := rfl
@[simp] theorem State.setPanel_wipeNext (s : State) (p : Nat) (v : Panel) : (s.setPanel p v).wipeNext = s.wipeNext := rfl

/-! ### `State.modStack` leaves every field but `hbmStks` -/

@[simp] theorem State.modStack_pending (s : State) (k : Nat) (f : Stack → Stack) : (s.modStack k f).pending = s.pending := rfl
@[simp] theorem State.modStack_free (s : State) (k : Nat) (f : Stack → Stack) : (s.modStack k f).free = s.free := rfl
@[simp] theorem State.modStack_now (s : State) (k : Nat) (f : Stack → Stack) : (s.modStack k f).now = s.now := rfl
@[simp] theorem State.modStack_time (s : State) (k : Nat) (f : Stack → Stack) : (s.modStack k f).time = s.time := rfl
@[simp] theorem State.modStack_mem (s : State) (k : Nat) (f : Stack → Stack) : (s.modStack k f).mem = s.mem := rfl
@[simp] theorem State.modStack_poison (s : State) (k : Nat) (f : Stack → Stack) : (s.modStack k f).poison = s.poison := rfl
@[simp] theorem State.modStack_linePoison (s : State) (k : Nat) (f : Stack → Stack) : (s.modStack k f).linePoison = s.linePoison := rfl
@[simp] theorem State.modStack_injPoison (s : State) (k : Nat) (f : Stack → Stack) : (s.modStack k f).injPoison = s.injPoison := rfl
@[simp] theorem State.modStack_inj (s : State) (k : Nat) (f : Stack → Stack) : (s.modStack k f).inj = s.inj := rfl
@[simp] theorem State.modStack_tiles (s : State) (k : Nat) (f : Stack → Stack) : (s.modStack k f).tiles = s.tiles := rfl
@[simp] theorem State.modStack_rings (s : State) (k : Nat) (f : Stack → Stack) : (s.modStack k f).rings = s.rings := rfl
@[simp] theorem State.modStack_evt (s : State) (k : Nat) (f : Stack → Stack) : (s.modStack k f).evt = s.evt := rfl
@[simp] theorem State.modStack_adds (s : State) (k : Nat) (f : Stack → Stack) : (s.modStack k f).adds = s.adds := rfl
@[simp] theorem State.modStack_addAcks (s : State) (k : Nat) (f : Stack → Stack) : (s.modStack k f).addAcks = s.addAcks := rfl
@[simp] theorem State.modStack_panels (s : State) (k : Nat) (f : Stack → Stack) : (s.modStack k f).panels = s.panels := rfl
@[simp] theorem State.modStack_wipes (s : State) (k : Nat) (f : Stack → Stack) : (s.modStack k f).wipes = s.wipes := rfl
@[simp] theorem State.modStack_keeps (s : State) (k : Nat) (f : Stack → Stack) : (s.modStack k f).keeps = s.keeps := rfl
@[simp] theorem State.modStack_pool (s : State) (k : Nat) (f : Stack → Stack) : (s.modStack k f).pool = s.pool := rfl
@[simp] theorem State.modStack_homes (s : State) (k : Nat) (f : Stack → Stack) : (s.modStack k f).homes = s.homes := rfl
@[simp] theorem State.modStack_hosts (s : State) (k : Nat) (f : Stack → Stack) : (s.modStack k f).hosts = s.hosts := rfl
@[simp] theorem State.modStack_cores (s : State) (k : Nat) (f : Stack → Stack) : (s.modStack k f).cores = s.cores := rfl
@[simp] theorem State.modStack_slices (s : State) (k : Nat) (f : Stack → Stack) : (s.modStack k f).slices = s.slices := rfl
@[simp] theorem State.modStack_snpRsps (s : State) (k : Nat) (f : Stack → Stack) : (s.modStack k f).snpRsps = s.snpRsps := rfl
@[simp] theorem State.modStack_grants (s : State) (k : Nat) (f : Stack → Stack) : (s.modStack k f).grants = s.grants := rfl
@[simp] theorem State.modStack_caccs (s : State) (k : Nat) (f : Stack → Stack) : (s.modStack k f).caccs = s.caccs := rfl
@[simp] theorem State.modStack_nacks (s : State) (k : Nat) (f : Stack → Stack) : (s.modStack k f).nacks = s.nacks := rfl
@[simp] theorem State.modStack_wbAcks (s : State) (k : Nat) (f : Stack → Stack) : (s.modStack k f).wbAcks = s.wbAcks := rfl
@[simp] theorem State.modStack_rsps (s : State) (k : Nat) (f : Stack → Stack) : (s.modStack k f).rsps = s.rsps := rfl
@[simp] theorem State.modStack_dbg (s : State) (k : Nat) (f : Stack → Stack) : (s.modStack k f).dbg = s.dbg := rfl
@[simp] theorem State.modStack_ceils (s : State) (k : Nat) (f : Stack → Stack) : (s.modStack k f).ceils = s.ceils := rfl
@[simp] theorem State.modStack_msis (s : State) (k : Nat) (f : Stack → Stack) : (s.modStack k f).msis = s.msis := rfl
@[simp] theorem State.modStack_plumb (s : State) (k : Nat) (f : Stack → Stack) : (s.modStack k f).plumb = s.plumb := rfl
@[simp] theorem State.modStack_cxl (s : State) (k : Nat) (f : Stack → Stack) : (s.modStack k f).cxl = s.cxl := rfl
@[simp] theorem State.modStack_perst (s : State) (k : Nat) (f : Stack → Stack) : (s.modStack k f).perst = s.perst := rfl
@[simp] theorem State.modStack_present (s : State) (k : Nat) (f : Stack → Stack) : (s.modStack k f).present = s.present := rfl
@[simp] theorem State.modStack_links (s : State) (k : Nat) (f : Stack → Stack) : (s.modStack k f).links = s.links := rfl
@[simp] theorem State.modStack_ports (s : State) (k : Nat) (f : Stack → Stack) : (s.modStack k f).ports = s.ports := rfl
@[simp] theorem State.modStack_conns (s : State) (k : Nat) (f : Stack → Stack) : (s.modStack k f).conns = s.conns := rfl
@[simp] theorem State.modStack_courseTx (s : State) (k : Nat) (f : Stack → Stack) : (s.modStack k f).courseTx = s.courseTx := rfl
@[simp] theorem State.modStack_ethTx (s : State) (k : Nat) (f : Stack → Stack) : (s.modStack k f).ethTx = s.ethTx := rfl
@[simp] theorem State.modStack_aborts (s : State) (k : Nat) (f : Stack → Stack) : (s.modStack k f).aborts = s.aborts := rfl
@[simp] theorem State.modStack_hods (s : State) (k : Nat) (f : Stack → Stack) : (s.modStack k f).hods = s.hods := rfl
@[simp] theorem State.modStack_intakes (s : State) (k : Nat) (f : Stack → Stack) : (s.modStack k f).intakes = s.intakes := rfl
@[simp] theorem State.modStack_modId (s : State) (k : Nat) (f : Stack → Stack) : (s.modStack k f).modId = s.modId := rfl
@[simp] theorem State.modStack_midset (s : State) (k : Nat) (f : Stack → Stack) : (s.modStack k f).midset = s.midset := rfl
@[simp] theorem State.modStack_fw (s : State) (k : Nat) (f : Stack → Stack) : (s.modStack k f).fw = s.fw := rfl
@[simp] theorem State.modStack_strict (s : State) (k : Nat) (f : Stack → Stack) : (s.modStack k f).strict = s.strict := rfl
@[simp] theorem State.modStack_mgmt (s : State) (k : Nat) (f : Stack → Stack) : (s.modStack k f).mgmt = s.mgmt := rfl
@[simp] theorem State.modStack_power (s : State) (k : Nat) (f : Stack → Stack) : (s.modStack k f).power = s.power := rfl
@[simp] theorem State.modStack_boot (s : State) (k : Nat) (f : Stack → Stack) : (s.modStack k f).boot = s.boot := rfl
@[simp] theorem State.modStack_regRsp (s : State) (k : Nat) (f : Stack → Stack) : (s.modStack k f).regRsp = s.regRsp := rfl
@[simp] theorem State.modStack_wipeNext (s : State) (k : Nat) (f : Stack → Stack) : (s.modStack k f).wipeNext = s.wipeNext := rfl

/-! ### `State.modKeep` leaves every field but `keeps` -/

@[simp] theorem State.modKeep_pending (s : State) (k : Nat) (f : Keep → Keep) : (s.modKeep k f).pending = s.pending := rfl
@[simp] theorem State.modKeep_free (s : State) (k : Nat) (f : Keep → Keep) : (s.modKeep k f).free = s.free := rfl
@[simp] theorem State.modKeep_now (s : State) (k : Nat) (f : Keep → Keep) : (s.modKeep k f).now = s.now := rfl
@[simp] theorem State.modKeep_time (s : State) (k : Nat) (f : Keep → Keep) : (s.modKeep k f).time = s.time := rfl
@[simp] theorem State.modKeep_mem (s : State) (k : Nat) (f : Keep → Keep) : (s.modKeep k f).mem = s.mem := rfl
@[simp] theorem State.modKeep_poison (s : State) (k : Nat) (f : Keep → Keep) : (s.modKeep k f).poison = s.poison := rfl
@[simp] theorem State.modKeep_linePoison (s : State) (k : Nat) (f : Keep → Keep) : (s.modKeep k f).linePoison = s.linePoison := rfl
@[simp] theorem State.modKeep_injPoison (s : State) (k : Nat) (f : Keep → Keep) : (s.modKeep k f).injPoison = s.injPoison := rfl
@[simp] theorem State.modKeep_inj (s : State) (k : Nat) (f : Keep → Keep) : (s.modKeep k f).inj = s.inj := rfl
@[simp] theorem State.modKeep_tiles (s : State) (k : Nat) (f : Keep → Keep) : (s.modKeep k f).tiles = s.tiles := rfl
@[simp] theorem State.modKeep_rings (s : State) (k : Nat) (f : Keep → Keep) : (s.modKeep k f).rings = s.rings := rfl
@[simp] theorem State.modKeep_evt (s : State) (k : Nat) (f : Keep → Keep) : (s.modKeep k f).evt = s.evt := rfl
@[simp] theorem State.modKeep_adds (s : State) (k : Nat) (f : Keep → Keep) : (s.modKeep k f).adds = s.adds := rfl
@[simp] theorem State.modKeep_addAcks (s : State) (k : Nat) (f : Keep → Keep) : (s.modKeep k f).addAcks = s.addAcks := rfl
@[simp] theorem State.modKeep_panels (s : State) (k : Nat) (f : Keep → Keep) : (s.modKeep k f).panels = s.panels := rfl
@[simp] theorem State.modKeep_hbmStks (s : State) (k : Nat) (f : Keep → Keep) : (s.modKeep k f).hbmStks = s.hbmStks := rfl
@[simp] theorem State.modKeep_wipes (s : State) (k : Nat) (f : Keep → Keep) : (s.modKeep k f).wipes = s.wipes := rfl
@[simp] theorem State.modKeep_pool (s : State) (k : Nat) (f : Keep → Keep) : (s.modKeep k f).pool = s.pool := rfl
@[simp] theorem State.modKeep_homes (s : State) (k : Nat) (f : Keep → Keep) : (s.modKeep k f).homes = s.homes := rfl
@[simp] theorem State.modKeep_hosts (s : State) (k : Nat) (f : Keep → Keep) : (s.modKeep k f).hosts = s.hosts := rfl
@[simp] theorem State.modKeep_cores (s : State) (k : Nat) (f : Keep → Keep) : (s.modKeep k f).cores = s.cores := rfl
@[simp] theorem State.modKeep_slices (s : State) (k : Nat) (f : Keep → Keep) : (s.modKeep k f).slices = s.slices := rfl
@[simp] theorem State.modKeep_snpRsps (s : State) (k : Nat) (f : Keep → Keep) : (s.modKeep k f).snpRsps = s.snpRsps := rfl
@[simp] theorem State.modKeep_grants (s : State) (k : Nat) (f : Keep → Keep) : (s.modKeep k f).grants = s.grants := rfl
@[simp] theorem State.modKeep_caccs (s : State) (k : Nat) (f : Keep → Keep) : (s.modKeep k f).caccs = s.caccs := rfl
@[simp] theorem State.modKeep_nacks (s : State) (k : Nat) (f : Keep → Keep) : (s.modKeep k f).nacks = s.nacks := rfl
@[simp] theorem State.modKeep_wbAcks (s : State) (k : Nat) (f : Keep → Keep) : (s.modKeep k f).wbAcks = s.wbAcks := rfl
@[simp] theorem State.modKeep_rsps (s : State) (k : Nat) (f : Keep → Keep) : (s.modKeep k f).rsps = s.rsps := rfl
@[simp] theorem State.modKeep_dbg (s : State) (k : Nat) (f : Keep → Keep) : (s.modKeep k f).dbg = s.dbg := rfl
@[simp] theorem State.modKeep_ceils (s : State) (k : Nat) (f : Keep → Keep) : (s.modKeep k f).ceils = s.ceils := rfl
@[simp] theorem State.modKeep_msis (s : State) (k : Nat) (f : Keep → Keep) : (s.modKeep k f).msis = s.msis := rfl
@[simp] theorem State.modKeep_plumb (s : State) (k : Nat) (f : Keep → Keep) : (s.modKeep k f).plumb = s.plumb := rfl
@[simp] theorem State.modKeep_cxl (s : State) (k : Nat) (f : Keep → Keep) : (s.modKeep k f).cxl = s.cxl := rfl
@[simp] theorem State.modKeep_perst (s : State) (k : Nat) (f : Keep → Keep) : (s.modKeep k f).perst = s.perst := rfl
@[simp] theorem State.modKeep_present (s : State) (k : Nat) (f : Keep → Keep) : (s.modKeep k f).present = s.present := rfl
@[simp] theorem State.modKeep_links (s : State) (k : Nat) (f : Keep → Keep) : (s.modKeep k f).links = s.links := rfl
@[simp] theorem State.modKeep_ports (s : State) (k : Nat) (f : Keep → Keep) : (s.modKeep k f).ports = s.ports := rfl
@[simp] theorem State.modKeep_conns (s : State) (k : Nat) (f : Keep → Keep) : (s.modKeep k f).conns = s.conns := rfl
@[simp] theorem State.modKeep_courseTx (s : State) (k : Nat) (f : Keep → Keep) : (s.modKeep k f).courseTx = s.courseTx := rfl
@[simp] theorem State.modKeep_ethTx (s : State) (k : Nat) (f : Keep → Keep) : (s.modKeep k f).ethTx = s.ethTx := rfl
@[simp] theorem State.modKeep_aborts (s : State) (k : Nat) (f : Keep → Keep) : (s.modKeep k f).aborts = s.aborts := rfl
@[simp] theorem State.modKeep_hods (s : State) (k : Nat) (f : Keep → Keep) : (s.modKeep k f).hods = s.hods := rfl
@[simp] theorem State.modKeep_intakes (s : State) (k : Nat) (f : Keep → Keep) : (s.modKeep k f).intakes = s.intakes := rfl
@[simp] theorem State.modKeep_modId (s : State) (k : Nat) (f : Keep → Keep) : (s.modKeep k f).modId = s.modId := rfl
@[simp] theorem State.modKeep_midset (s : State) (k : Nat) (f : Keep → Keep) : (s.modKeep k f).midset = s.midset := rfl
@[simp] theorem State.modKeep_fw (s : State) (k : Nat) (f : Keep → Keep) : (s.modKeep k f).fw = s.fw := rfl
@[simp] theorem State.modKeep_strict (s : State) (k : Nat) (f : Keep → Keep) : (s.modKeep k f).strict = s.strict := rfl
@[simp] theorem State.modKeep_mgmt (s : State) (k : Nat) (f : Keep → Keep) : (s.modKeep k f).mgmt = s.mgmt := rfl
@[simp] theorem State.modKeep_power (s : State) (k : Nat) (f : Keep → Keep) : (s.modKeep k f).power = s.power := rfl
@[simp] theorem State.modKeep_boot (s : State) (k : Nat) (f : Keep → Keep) : (s.modKeep k f).boot = s.boot := rfl
@[simp] theorem State.modKeep_regRsp (s : State) (k : Nat) (f : Keep → Keep) : (s.modKeep k f).regRsp = s.regRsp := rfl
@[simp] theorem State.modKeep_wipeNext (s : State) (k : Nat) (f : Keep → Keep) : (s.modKeep k f).wipeNext = s.wipeNext := rfl

/-! ### `State.modHome` leaves every field but `homes` -/

@[simp] theorem State.modHome_pending (s : State) (h : Nat) (f : Home → Home) : (s.modHome h f).pending = s.pending := rfl
@[simp] theorem State.modHome_free (s : State) (h : Nat) (f : Home → Home) : (s.modHome h f).free = s.free := rfl
@[simp] theorem State.modHome_now (s : State) (h : Nat) (f : Home → Home) : (s.modHome h f).now = s.now := rfl
@[simp] theorem State.modHome_time (s : State) (h : Nat) (f : Home → Home) : (s.modHome h f).time = s.time := rfl
@[simp] theorem State.modHome_mem (s : State) (h : Nat) (f : Home → Home) : (s.modHome h f).mem = s.mem := rfl
@[simp] theorem State.modHome_poison (s : State) (h : Nat) (f : Home → Home) : (s.modHome h f).poison = s.poison := rfl
@[simp] theorem State.modHome_linePoison (s : State) (h : Nat) (f : Home → Home) : (s.modHome h f).linePoison = s.linePoison := rfl
@[simp] theorem State.modHome_injPoison (s : State) (h : Nat) (f : Home → Home) : (s.modHome h f).injPoison = s.injPoison := rfl
@[simp] theorem State.modHome_inj (s : State) (h : Nat) (f : Home → Home) : (s.modHome h f).inj = s.inj := rfl
@[simp] theorem State.modHome_tiles (s : State) (h : Nat) (f : Home → Home) : (s.modHome h f).tiles = s.tiles := rfl
@[simp] theorem State.modHome_rings (s : State) (h : Nat) (f : Home → Home) : (s.modHome h f).rings = s.rings := rfl
@[simp] theorem State.modHome_evt (s : State) (h : Nat) (f : Home → Home) : (s.modHome h f).evt = s.evt := rfl
@[simp] theorem State.modHome_adds (s : State) (h : Nat) (f : Home → Home) : (s.modHome h f).adds = s.adds := rfl
@[simp] theorem State.modHome_addAcks (s : State) (h : Nat) (f : Home → Home) : (s.modHome h f).addAcks = s.addAcks := rfl
@[simp] theorem State.modHome_panels (s : State) (h : Nat) (f : Home → Home) : (s.modHome h f).panels = s.panels := rfl
@[simp] theorem State.modHome_hbmStks (s : State) (h : Nat) (f : Home → Home) : (s.modHome h f).hbmStks = s.hbmStks := rfl
@[simp] theorem State.modHome_wipes (s : State) (h : Nat) (f : Home → Home) : (s.modHome h f).wipes = s.wipes := rfl
@[simp] theorem State.modHome_keeps (s : State) (h : Nat) (f : Home → Home) : (s.modHome h f).keeps = s.keeps := rfl
@[simp] theorem State.modHome_pool (s : State) (h : Nat) (f : Home → Home) : (s.modHome h f).pool = s.pool := rfl
@[simp] theorem State.modHome_hosts (s : State) (h : Nat) (f : Home → Home) : (s.modHome h f).hosts = s.hosts := rfl
@[simp] theorem State.modHome_cores (s : State) (h : Nat) (f : Home → Home) : (s.modHome h f).cores = s.cores := rfl
@[simp] theorem State.modHome_slices (s : State) (h : Nat) (f : Home → Home) : (s.modHome h f).slices = s.slices := rfl
@[simp] theorem State.modHome_snpRsps (s : State) (h : Nat) (f : Home → Home) : (s.modHome h f).snpRsps = s.snpRsps := rfl
@[simp] theorem State.modHome_grants (s : State) (h : Nat) (f : Home → Home) : (s.modHome h f).grants = s.grants := rfl
@[simp] theorem State.modHome_caccs (s : State) (h : Nat) (f : Home → Home) : (s.modHome h f).caccs = s.caccs := rfl
@[simp] theorem State.modHome_nacks (s : State) (h : Nat) (f : Home → Home) : (s.modHome h f).nacks = s.nacks := rfl
@[simp] theorem State.modHome_wbAcks (s : State) (h : Nat) (f : Home → Home) : (s.modHome h f).wbAcks = s.wbAcks := rfl
@[simp] theorem State.modHome_rsps (s : State) (h : Nat) (f : Home → Home) : (s.modHome h f).rsps = s.rsps := rfl
@[simp] theorem State.modHome_dbg (s : State) (h : Nat) (f : Home → Home) : (s.modHome h f).dbg = s.dbg := rfl
@[simp] theorem State.modHome_ceils (s : State) (h : Nat) (f : Home → Home) : (s.modHome h f).ceils = s.ceils := rfl
@[simp] theorem State.modHome_msis (s : State) (h : Nat) (f : Home → Home) : (s.modHome h f).msis = s.msis := rfl
@[simp] theorem State.modHome_plumb (s : State) (h : Nat) (f : Home → Home) : (s.modHome h f).plumb = s.plumb := rfl
@[simp] theorem State.modHome_cxl (s : State) (h : Nat) (f : Home → Home) : (s.modHome h f).cxl = s.cxl := rfl
@[simp] theorem State.modHome_perst (s : State) (h : Nat) (f : Home → Home) : (s.modHome h f).perst = s.perst := rfl
@[simp] theorem State.modHome_present (s : State) (h : Nat) (f : Home → Home) : (s.modHome h f).present = s.present := rfl
@[simp] theorem State.modHome_links (s : State) (h : Nat) (f : Home → Home) : (s.modHome h f).links = s.links := rfl
@[simp] theorem State.modHome_ports (s : State) (h : Nat) (f : Home → Home) : (s.modHome h f).ports = s.ports := rfl
@[simp] theorem State.modHome_conns (s : State) (h : Nat) (f : Home → Home) : (s.modHome h f).conns = s.conns := rfl
@[simp] theorem State.modHome_courseTx (s : State) (h : Nat) (f : Home → Home) : (s.modHome h f).courseTx = s.courseTx := rfl
@[simp] theorem State.modHome_ethTx (s : State) (h : Nat) (f : Home → Home) : (s.modHome h f).ethTx = s.ethTx := rfl
@[simp] theorem State.modHome_aborts (s : State) (h : Nat) (f : Home → Home) : (s.modHome h f).aborts = s.aborts := rfl
@[simp] theorem State.modHome_hods (s : State) (h : Nat) (f : Home → Home) : (s.modHome h f).hods = s.hods := rfl
@[simp] theorem State.modHome_intakes (s : State) (h : Nat) (f : Home → Home) : (s.modHome h f).intakes = s.intakes := rfl
@[simp] theorem State.modHome_modId (s : State) (h : Nat) (f : Home → Home) : (s.modHome h f).modId = s.modId := rfl
@[simp] theorem State.modHome_midset (s : State) (h : Nat) (f : Home → Home) : (s.modHome h f).midset = s.midset := rfl
@[simp] theorem State.modHome_fw (s : State) (h : Nat) (f : Home → Home) : (s.modHome h f).fw = s.fw := rfl
@[simp] theorem State.modHome_strict (s : State) (h : Nat) (f : Home → Home) : (s.modHome h f).strict = s.strict := rfl
@[simp] theorem State.modHome_mgmt (s : State) (h : Nat) (f : Home → Home) : (s.modHome h f).mgmt = s.mgmt := rfl
@[simp] theorem State.modHome_power (s : State) (h : Nat) (f : Home → Home) : (s.modHome h f).power = s.power := rfl
@[simp] theorem State.modHome_boot (s : State) (h : Nat) (f : Home → Home) : (s.modHome h f).boot = s.boot := rfl
@[simp] theorem State.modHome_regRsp (s : State) (h : Nat) (f : Home → Home) : (s.modHome h f).regRsp = s.regRsp := rfl
@[simp] theorem State.modHome_wipeNext (s : State) (h : Nat) (f : Home → Home) : (s.modHome h f).wipeNext = s.wipeNext := rfl

/-! ### `State.modHost` leaves every field but `hosts` -/

@[simp] theorem State.modHost_pending (s : State) (h : Nat) (f : HostS → HostS) : (s.modHost h f).pending = s.pending := rfl
@[simp] theorem State.modHost_free (s : State) (h : Nat) (f : HostS → HostS) : (s.modHost h f).free = s.free := rfl
@[simp] theorem State.modHost_now (s : State) (h : Nat) (f : HostS → HostS) : (s.modHost h f).now = s.now := rfl
@[simp] theorem State.modHost_time (s : State) (h : Nat) (f : HostS → HostS) : (s.modHost h f).time = s.time := rfl
@[simp] theorem State.modHost_mem (s : State) (h : Nat) (f : HostS → HostS) : (s.modHost h f).mem = s.mem := rfl
@[simp] theorem State.modHost_poison (s : State) (h : Nat) (f : HostS → HostS) : (s.modHost h f).poison = s.poison := rfl
@[simp] theorem State.modHost_linePoison (s : State) (h : Nat) (f : HostS → HostS) : (s.modHost h f).linePoison = s.linePoison := rfl
@[simp] theorem State.modHost_injPoison (s : State) (h : Nat) (f : HostS → HostS) : (s.modHost h f).injPoison = s.injPoison := rfl
@[simp] theorem State.modHost_inj (s : State) (h : Nat) (f : HostS → HostS) : (s.modHost h f).inj = s.inj := rfl
@[simp] theorem State.modHost_tiles (s : State) (h : Nat) (f : HostS → HostS) : (s.modHost h f).tiles = s.tiles := rfl
@[simp] theorem State.modHost_rings (s : State) (h : Nat) (f : HostS → HostS) : (s.modHost h f).rings = s.rings := rfl
@[simp] theorem State.modHost_evt (s : State) (h : Nat) (f : HostS → HostS) : (s.modHost h f).evt = s.evt := rfl
@[simp] theorem State.modHost_adds (s : State) (h : Nat) (f : HostS → HostS) : (s.modHost h f).adds = s.adds := rfl
@[simp] theorem State.modHost_addAcks (s : State) (h : Nat) (f : HostS → HostS) : (s.modHost h f).addAcks = s.addAcks := rfl
@[simp] theorem State.modHost_panels (s : State) (h : Nat) (f : HostS → HostS) : (s.modHost h f).panels = s.panels := rfl
@[simp] theorem State.modHost_hbmStks (s : State) (h : Nat) (f : HostS → HostS) : (s.modHost h f).hbmStks = s.hbmStks := rfl
@[simp] theorem State.modHost_wipes (s : State) (h : Nat) (f : HostS → HostS) : (s.modHost h f).wipes = s.wipes := rfl
@[simp] theorem State.modHost_keeps (s : State) (h : Nat) (f : HostS → HostS) : (s.modHost h f).keeps = s.keeps := rfl
@[simp] theorem State.modHost_pool (s : State) (h : Nat) (f : HostS → HostS) : (s.modHost h f).pool = s.pool := rfl
@[simp] theorem State.modHost_homes (s : State) (h : Nat) (f : HostS → HostS) : (s.modHost h f).homes = s.homes := rfl
@[simp] theorem State.modHost_cores (s : State) (h : Nat) (f : HostS → HostS) : (s.modHost h f).cores = s.cores := rfl
@[simp] theorem State.modHost_slices (s : State) (h : Nat) (f : HostS → HostS) : (s.modHost h f).slices = s.slices := rfl
@[simp] theorem State.modHost_snpRsps (s : State) (h : Nat) (f : HostS → HostS) : (s.modHost h f).snpRsps = s.snpRsps := rfl
@[simp] theorem State.modHost_grants (s : State) (h : Nat) (f : HostS → HostS) : (s.modHost h f).grants = s.grants := rfl
@[simp] theorem State.modHost_caccs (s : State) (h : Nat) (f : HostS → HostS) : (s.modHost h f).caccs = s.caccs := rfl
@[simp] theorem State.modHost_nacks (s : State) (h : Nat) (f : HostS → HostS) : (s.modHost h f).nacks = s.nacks := rfl
@[simp] theorem State.modHost_wbAcks (s : State) (h : Nat) (f : HostS → HostS) : (s.modHost h f).wbAcks = s.wbAcks := rfl
@[simp] theorem State.modHost_rsps (s : State) (h : Nat) (f : HostS → HostS) : (s.modHost h f).rsps = s.rsps := rfl
@[simp] theorem State.modHost_dbg (s : State) (h : Nat) (f : HostS → HostS) : (s.modHost h f).dbg = s.dbg := rfl
@[simp] theorem State.modHost_ceils (s : State) (h : Nat) (f : HostS → HostS) : (s.modHost h f).ceils = s.ceils := rfl
@[simp] theorem State.modHost_msis (s : State) (h : Nat) (f : HostS → HostS) : (s.modHost h f).msis = s.msis := rfl
@[simp] theorem State.modHost_plumb (s : State) (h : Nat) (f : HostS → HostS) : (s.modHost h f).plumb = s.plumb := rfl
@[simp] theorem State.modHost_cxl (s : State) (h : Nat) (f : HostS → HostS) : (s.modHost h f).cxl = s.cxl := rfl
@[simp] theorem State.modHost_perst (s : State) (h : Nat) (f : HostS → HostS) : (s.modHost h f).perst = s.perst := rfl
@[simp] theorem State.modHost_present (s : State) (h : Nat) (f : HostS → HostS) : (s.modHost h f).present = s.present := rfl
@[simp] theorem State.modHost_links (s : State) (h : Nat) (f : HostS → HostS) : (s.modHost h f).links = s.links := rfl
@[simp] theorem State.modHost_ports (s : State) (h : Nat) (f : HostS → HostS) : (s.modHost h f).ports = s.ports := rfl
@[simp] theorem State.modHost_conns (s : State) (h : Nat) (f : HostS → HostS) : (s.modHost h f).conns = s.conns := rfl
@[simp] theorem State.modHost_courseTx (s : State) (h : Nat) (f : HostS → HostS) : (s.modHost h f).courseTx = s.courseTx := rfl
@[simp] theorem State.modHost_ethTx (s : State) (h : Nat) (f : HostS → HostS) : (s.modHost h f).ethTx = s.ethTx := rfl
@[simp] theorem State.modHost_aborts (s : State) (h : Nat) (f : HostS → HostS) : (s.modHost h f).aborts = s.aborts := rfl
@[simp] theorem State.modHost_hods (s : State) (h : Nat) (f : HostS → HostS) : (s.modHost h f).hods = s.hods := rfl
@[simp] theorem State.modHost_intakes (s : State) (h : Nat) (f : HostS → HostS) : (s.modHost h f).intakes = s.intakes := rfl
@[simp] theorem State.modHost_modId (s : State) (h : Nat) (f : HostS → HostS) : (s.modHost h f).modId = s.modId := rfl
@[simp] theorem State.modHost_midset (s : State) (h : Nat) (f : HostS → HostS) : (s.modHost h f).midset = s.midset := rfl
@[simp] theorem State.modHost_fw (s : State) (h : Nat) (f : HostS → HostS) : (s.modHost h f).fw = s.fw := rfl
@[simp] theorem State.modHost_strict (s : State) (h : Nat) (f : HostS → HostS) : (s.modHost h f).strict = s.strict := rfl
@[simp] theorem State.modHost_mgmt (s : State) (h : Nat) (f : HostS → HostS) : (s.modHost h f).mgmt = s.mgmt := rfl
@[simp] theorem State.modHost_power (s : State) (h : Nat) (f : HostS → HostS) : (s.modHost h f).power = s.power := rfl
@[simp] theorem State.modHost_boot (s : State) (h : Nat) (f : HostS → HostS) : (s.modHost h f).boot = s.boot := rfl
@[simp] theorem State.modHost_regRsp (s : State) (h : Nat) (f : HostS → HostS) : (s.modHost h f).regRsp = s.regRsp := rfl
@[simp] theorem State.modHost_wipeNext (s : State) (h : Nat) (f : HostS → HostS) : (s.modHost h f).wipeNext = s.wipeNext := rfl

/-! ### `State.modCore` leaves every field but `cores` -/

@[simp] theorem State.modCore_pending (s : State) (c : Nat) (f : HostCore → HostCore) : (s.modCore c f).pending = s.pending := rfl
@[simp] theorem State.modCore_free (s : State) (c : Nat) (f : HostCore → HostCore) : (s.modCore c f).free = s.free := rfl
@[simp] theorem State.modCore_now (s : State) (c : Nat) (f : HostCore → HostCore) : (s.modCore c f).now = s.now := rfl
@[simp] theorem State.modCore_time (s : State) (c : Nat) (f : HostCore → HostCore) : (s.modCore c f).time = s.time := rfl
@[simp] theorem State.modCore_mem (s : State) (c : Nat) (f : HostCore → HostCore) : (s.modCore c f).mem = s.mem := rfl
@[simp] theorem State.modCore_poison (s : State) (c : Nat) (f : HostCore → HostCore) : (s.modCore c f).poison = s.poison := rfl
@[simp] theorem State.modCore_linePoison (s : State) (c : Nat) (f : HostCore → HostCore) : (s.modCore c f).linePoison = s.linePoison := rfl
@[simp] theorem State.modCore_injPoison (s : State) (c : Nat) (f : HostCore → HostCore) : (s.modCore c f).injPoison = s.injPoison := rfl
@[simp] theorem State.modCore_inj (s : State) (c : Nat) (f : HostCore → HostCore) : (s.modCore c f).inj = s.inj := rfl
@[simp] theorem State.modCore_tiles (s : State) (c : Nat) (f : HostCore → HostCore) : (s.modCore c f).tiles = s.tiles := rfl
@[simp] theorem State.modCore_rings (s : State) (c : Nat) (f : HostCore → HostCore) : (s.modCore c f).rings = s.rings := rfl
@[simp] theorem State.modCore_evt (s : State) (c : Nat) (f : HostCore → HostCore) : (s.modCore c f).evt = s.evt := rfl
@[simp] theorem State.modCore_adds (s : State) (c : Nat) (f : HostCore → HostCore) : (s.modCore c f).adds = s.adds := rfl
@[simp] theorem State.modCore_addAcks (s : State) (c : Nat) (f : HostCore → HostCore) : (s.modCore c f).addAcks = s.addAcks := rfl
@[simp] theorem State.modCore_panels (s : State) (c : Nat) (f : HostCore → HostCore) : (s.modCore c f).panels = s.panels := rfl
@[simp] theorem State.modCore_hbmStks (s : State) (c : Nat) (f : HostCore → HostCore) : (s.modCore c f).hbmStks = s.hbmStks := rfl
@[simp] theorem State.modCore_wipes (s : State) (c : Nat) (f : HostCore → HostCore) : (s.modCore c f).wipes = s.wipes := rfl
@[simp] theorem State.modCore_keeps (s : State) (c : Nat) (f : HostCore → HostCore) : (s.modCore c f).keeps = s.keeps := rfl
@[simp] theorem State.modCore_pool (s : State) (c : Nat) (f : HostCore → HostCore) : (s.modCore c f).pool = s.pool := rfl
@[simp] theorem State.modCore_homes (s : State) (c : Nat) (f : HostCore → HostCore) : (s.modCore c f).homes = s.homes := rfl
@[simp] theorem State.modCore_hosts (s : State) (c : Nat) (f : HostCore → HostCore) : (s.modCore c f).hosts = s.hosts := rfl
@[simp] theorem State.modCore_slices (s : State) (c : Nat) (f : HostCore → HostCore) : (s.modCore c f).slices = s.slices := rfl
@[simp] theorem State.modCore_snpRsps (s : State) (c : Nat) (f : HostCore → HostCore) : (s.modCore c f).snpRsps = s.snpRsps := rfl
@[simp] theorem State.modCore_grants (s : State) (c : Nat) (f : HostCore → HostCore) : (s.modCore c f).grants = s.grants := rfl
@[simp] theorem State.modCore_caccs (s : State) (c : Nat) (f : HostCore → HostCore) : (s.modCore c f).caccs = s.caccs := rfl
@[simp] theorem State.modCore_nacks (s : State) (c : Nat) (f : HostCore → HostCore) : (s.modCore c f).nacks = s.nacks := rfl
@[simp] theorem State.modCore_wbAcks (s : State) (c : Nat) (f : HostCore → HostCore) : (s.modCore c f).wbAcks = s.wbAcks := rfl
@[simp] theorem State.modCore_rsps (s : State) (c : Nat) (f : HostCore → HostCore) : (s.modCore c f).rsps = s.rsps := rfl
@[simp] theorem State.modCore_dbg (s : State) (c : Nat) (f : HostCore → HostCore) : (s.modCore c f).dbg = s.dbg := rfl
@[simp] theorem State.modCore_ceils (s : State) (c : Nat) (f : HostCore → HostCore) : (s.modCore c f).ceils = s.ceils := rfl
@[simp] theorem State.modCore_msis (s : State) (c : Nat) (f : HostCore → HostCore) : (s.modCore c f).msis = s.msis := rfl
@[simp] theorem State.modCore_plumb (s : State) (c : Nat) (f : HostCore → HostCore) : (s.modCore c f).plumb = s.plumb := rfl
@[simp] theorem State.modCore_cxl (s : State) (c : Nat) (f : HostCore → HostCore) : (s.modCore c f).cxl = s.cxl := rfl
@[simp] theorem State.modCore_perst (s : State) (c : Nat) (f : HostCore → HostCore) : (s.modCore c f).perst = s.perst := rfl
@[simp] theorem State.modCore_present (s : State) (c : Nat) (f : HostCore → HostCore) : (s.modCore c f).present = s.present := rfl
@[simp] theorem State.modCore_links (s : State) (c : Nat) (f : HostCore → HostCore) : (s.modCore c f).links = s.links := rfl
@[simp] theorem State.modCore_ports (s : State) (c : Nat) (f : HostCore → HostCore) : (s.modCore c f).ports = s.ports := rfl
@[simp] theorem State.modCore_conns (s : State) (c : Nat) (f : HostCore → HostCore) : (s.modCore c f).conns = s.conns := rfl
@[simp] theorem State.modCore_courseTx (s : State) (c : Nat) (f : HostCore → HostCore) : (s.modCore c f).courseTx = s.courseTx := rfl
@[simp] theorem State.modCore_ethTx (s : State) (c : Nat) (f : HostCore → HostCore) : (s.modCore c f).ethTx = s.ethTx := rfl
@[simp] theorem State.modCore_aborts (s : State) (c : Nat) (f : HostCore → HostCore) : (s.modCore c f).aborts = s.aborts := rfl
@[simp] theorem State.modCore_hods (s : State) (c : Nat) (f : HostCore → HostCore) : (s.modCore c f).hods = s.hods := rfl
@[simp] theorem State.modCore_intakes (s : State) (c : Nat) (f : HostCore → HostCore) : (s.modCore c f).intakes = s.intakes := rfl
@[simp] theorem State.modCore_modId (s : State) (c : Nat) (f : HostCore → HostCore) : (s.modCore c f).modId = s.modId := rfl
@[simp] theorem State.modCore_midset (s : State) (c : Nat) (f : HostCore → HostCore) : (s.modCore c f).midset = s.midset := rfl
@[simp] theorem State.modCore_fw (s : State) (c : Nat) (f : HostCore → HostCore) : (s.modCore c f).fw = s.fw := rfl
@[simp] theorem State.modCore_strict (s : State) (c : Nat) (f : HostCore → HostCore) : (s.modCore c f).strict = s.strict := rfl
@[simp] theorem State.modCore_mgmt (s : State) (c : Nat) (f : HostCore → HostCore) : (s.modCore c f).mgmt = s.mgmt := rfl
@[simp] theorem State.modCore_power (s : State) (c : Nat) (f : HostCore → HostCore) : (s.modCore c f).power = s.power := rfl
@[simp] theorem State.modCore_boot (s : State) (c : Nat) (f : HostCore → HostCore) : (s.modCore c f).boot = s.boot := rfl
@[simp] theorem State.modCore_regRsp (s : State) (c : Nat) (f : HostCore → HostCore) : (s.modCore c f).regRsp = s.regRsp := rfl
@[simp] theorem State.modCore_wipeNext (s : State) (c : Nat) (f : HostCore → HostCore) : (s.modCore c f).wipeNext = s.wipeNext := rfl

/-! ### `State.modPort` leaves every field but `ports` -/

@[simp] theorem State.modPort_pending (s : State) (n : Nat) (f : CPort → CPort) : (s.modPort n f).pending = s.pending := rfl
@[simp] theorem State.modPort_free (s : State) (n : Nat) (f : CPort → CPort) : (s.modPort n f).free = s.free := rfl
@[simp] theorem State.modPort_now (s : State) (n : Nat) (f : CPort → CPort) : (s.modPort n f).now = s.now := rfl
@[simp] theorem State.modPort_time (s : State) (n : Nat) (f : CPort → CPort) : (s.modPort n f).time = s.time := rfl
@[simp] theorem State.modPort_mem (s : State) (n : Nat) (f : CPort → CPort) : (s.modPort n f).mem = s.mem := rfl
@[simp] theorem State.modPort_poison (s : State) (n : Nat) (f : CPort → CPort) : (s.modPort n f).poison = s.poison := rfl
@[simp] theorem State.modPort_linePoison (s : State) (n : Nat) (f : CPort → CPort) : (s.modPort n f).linePoison = s.linePoison := rfl
@[simp] theorem State.modPort_injPoison (s : State) (n : Nat) (f : CPort → CPort) : (s.modPort n f).injPoison = s.injPoison := rfl
@[simp] theorem State.modPort_inj (s : State) (n : Nat) (f : CPort → CPort) : (s.modPort n f).inj = s.inj := rfl
@[simp] theorem State.modPort_tiles (s : State) (n : Nat) (f : CPort → CPort) : (s.modPort n f).tiles = s.tiles := rfl
@[simp] theorem State.modPort_rings (s : State) (n : Nat) (f : CPort → CPort) : (s.modPort n f).rings = s.rings := rfl
@[simp] theorem State.modPort_evt (s : State) (n : Nat) (f : CPort → CPort) : (s.modPort n f).evt = s.evt := rfl
@[simp] theorem State.modPort_adds (s : State) (n : Nat) (f : CPort → CPort) : (s.modPort n f).adds = s.adds := rfl
@[simp] theorem State.modPort_addAcks (s : State) (n : Nat) (f : CPort → CPort) : (s.modPort n f).addAcks = s.addAcks := rfl
@[simp] theorem State.modPort_panels (s : State) (n : Nat) (f : CPort → CPort) : (s.modPort n f).panels = s.panels := rfl
@[simp] theorem State.modPort_hbmStks (s : State) (n : Nat) (f : CPort → CPort) : (s.modPort n f).hbmStks = s.hbmStks := rfl
@[simp] theorem State.modPort_wipes (s : State) (n : Nat) (f : CPort → CPort) : (s.modPort n f).wipes = s.wipes := rfl
@[simp] theorem State.modPort_keeps (s : State) (n : Nat) (f : CPort → CPort) : (s.modPort n f).keeps = s.keeps := rfl
@[simp] theorem State.modPort_pool (s : State) (n : Nat) (f : CPort → CPort) : (s.modPort n f).pool = s.pool := rfl
@[simp] theorem State.modPort_homes (s : State) (n : Nat) (f : CPort → CPort) : (s.modPort n f).homes = s.homes := rfl
@[simp] theorem State.modPort_hosts (s : State) (n : Nat) (f : CPort → CPort) : (s.modPort n f).hosts = s.hosts := rfl
@[simp] theorem State.modPort_cores (s : State) (n : Nat) (f : CPort → CPort) : (s.modPort n f).cores = s.cores := rfl
@[simp] theorem State.modPort_slices (s : State) (n : Nat) (f : CPort → CPort) : (s.modPort n f).slices = s.slices := rfl
@[simp] theorem State.modPort_snpRsps (s : State) (n : Nat) (f : CPort → CPort) : (s.modPort n f).snpRsps = s.snpRsps := rfl
@[simp] theorem State.modPort_grants (s : State) (n : Nat) (f : CPort → CPort) : (s.modPort n f).grants = s.grants := rfl
@[simp] theorem State.modPort_caccs (s : State) (n : Nat) (f : CPort → CPort) : (s.modPort n f).caccs = s.caccs := rfl
@[simp] theorem State.modPort_nacks (s : State) (n : Nat) (f : CPort → CPort) : (s.modPort n f).nacks = s.nacks := rfl
@[simp] theorem State.modPort_wbAcks (s : State) (n : Nat) (f : CPort → CPort) : (s.modPort n f).wbAcks = s.wbAcks := rfl
@[simp] theorem State.modPort_rsps (s : State) (n : Nat) (f : CPort → CPort) : (s.modPort n f).rsps = s.rsps := rfl
@[simp] theorem State.modPort_dbg (s : State) (n : Nat) (f : CPort → CPort) : (s.modPort n f).dbg = s.dbg := rfl
@[simp] theorem State.modPort_ceils (s : State) (n : Nat) (f : CPort → CPort) : (s.modPort n f).ceils = s.ceils := rfl
@[simp] theorem State.modPort_msis (s : State) (n : Nat) (f : CPort → CPort) : (s.modPort n f).msis = s.msis := rfl
@[simp] theorem State.modPort_plumb (s : State) (n : Nat) (f : CPort → CPort) : (s.modPort n f).plumb = s.plumb := rfl
@[simp] theorem State.modPort_cxl (s : State) (n : Nat) (f : CPort → CPort) : (s.modPort n f).cxl = s.cxl := rfl
@[simp] theorem State.modPort_perst (s : State) (n : Nat) (f : CPort → CPort) : (s.modPort n f).perst = s.perst := rfl
@[simp] theorem State.modPort_present (s : State) (n : Nat) (f : CPort → CPort) : (s.modPort n f).present = s.present := rfl
@[simp] theorem State.modPort_links (s : State) (n : Nat) (f : CPort → CPort) : (s.modPort n f).links = s.links := rfl
@[simp] theorem State.modPort_conns (s : State) (n : Nat) (f : CPort → CPort) : (s.modPort n f).conns = s.conns := rfl
@[simp] theorem State.modPort_courseTx (s : State) (n : Nat) (f : CPort → CPort) : (s.modPort n f).courseTx = s.courseTx := rfl
@[simp] theorem State.modPort_ethTx (s : State) (n : Nat) (f : CPort → CPort) : (s.modPort n f).ethTx = s.ethTx := rfl
@[simp] theorem State.modPort_aborts (s : State) (n : Nat) (f : CPort → CPort) : (s.modPort n f).aborts = s.aborts := rfl
@[simp] theorem State.modPort_hods (s : State) (n : Nat) (f : CPort → CPort) : (s.modPort n f).hods = s.hods := rfl
@[simp] theorem State.modPort_intakes (s : State) (n : Nat) (f : CPort → CPort) : (s.modPort n f).intakes = s.intakes := rfl
@[simp] theorem State.modPort_modId (s : State) (n : Nat) (f : CPort → CPort) : (s.modPort n f).modId = s.modId := rfl
@[simp] theorem State.modPort_midset (s : State) (n : Nat) (f : CPort → CPort) : (s.modPort n f).midset = s.midset := rfl
@[simp] theorem State.modPort_fw (s : State) (n : Nat) (f : CPort → CPort) : (s.modPort n f).fw = s.fw := rfl
@[simp] theorem State.modPort_strict (s : State) (n : Nat) (f : CPort → CPort) : (s.modPort n f).strict = s.strict := rfl
@[simp] theorem State.modPort_mgmt (s : State) (n : Nat) (f : CPort → CPort) : (s.modPort n f).mgmt = s.mgmt := rfl
@[simp] theorem State.modPort_power (s : State) (n : Nat) (f : CPort → CPort) : (s.modPort n f).power = s.power := rfl
@[simp] theorem State.modPort_boot (s : State) (n : Nat) (f : CPort → CPort) : (s.modPort n f).boot = s.boot := rfl
@[simp] theorem State.modPort_regRsp (s : State) (n : Nat) (f : CPort → CPort) : (s.modPort n f).regRsp = s.regRsp := rfl
@[simp] theorem State.modPort_wipeNext (s : State) (n : Nat) (f : CPort → CPort) : (s.modPort n f).wipeNext = s.wipeNext := rfl

/-! ### `State.setConn` leaves every field but `conns` -/

@[simp] theorem State.setConn_pending (s : State) (k : Nat) (c : Conn) : (s.setConn k c).pending = s.pending := rfl
@[simp] theorem State.setConn_free (s : State) (k : Nat) (c : Conn) : (s.setConn k c).free = s.free := rfl
@[simp] theorem State.setConn_now (s : State) (k : Nat) (c : Conn) : (s.setConn k c).now = s.now := rfl
@[simp] theorem State.setConn_time (s : State) (k : Nat) (c : Conn) : (s.setConn k c).time = s.time := rfl
@[simp] theorem State.setConn_mem (s : State) (k : Nat) (c : Conn) : (s.setConn k c).mem = s.mem := rfl
@[simp] theorem State.setConn_poison (s : State) (k : Nat) (c : Conn) : (s.setConn k c).poison = s.poison := rfl
@[simp] theorem State.setConn_linePoison (s : State) (k : Nat) (c : Conn) : (s.setConn k c).linePoison = s.linePoison := rfl
@[simp] theorem State.setConn_injPoison (s : State) (k : Nat) (c : Conn) : (s.setConn k c).injPoison = s.injPoison := rfl
@[simp] theorem State.setConn_inj (s : State) (k : Nat) (c : Conn) : (s.setConn k c).inj = s.inj := rfl
@[simp] theorem State.setConn_tiles (s : State) (k : Nat) (c : Conn) : (s.setConn k c).tiles = s.tiles := rfl
@[simp] theorem State.setConn_rings (s : State) (k : Nat) (c : Conn) : (s.setConn k c).rings = s.rings := rfl
@[simp] theorem State.setConn_evt (s : State) (k : Nat) (c : Conn) : (s.setConn k c).evt = s.evt := rfl
@[simp] theorem State.setConn_adds (s : State) (k : Nat) (c : Conn) : (s.setConn k c).adds = s.adds := rfl
@[simp] theorem State.setConn_addAcks (s : State) (k : Nat) (c : Conn) : (s.setConn k c).addAcks = s.addAcks := rfl
@[simp] theorem State.setConn_panels (s : State) (k : Nat) (c : Conn) : (s.setConn k c).panels = s.panels := rfl
@[simp] theorem State.setConn_hbmStks (s : State) (k : Nat) (c : Conn) : (s.setConn k c).hbmStks = s.hbmStks := rfl
@[simp] theorem State.setConn_wipes (s : State) (k : Nat) (c : Conn) : (s.setConn k c).wipes = s.wipes := rfl
@[simp] theorem State.setConn_keeps (s : State) (k : Nat) (c : Conn) : (s.setConn k c).keeps = s.keeps := rfl
@[simp] theorem State.setConn_pool (s : State) (k : Nat) (c : Conn) : (s.setConn k c).pool = s.pool := rfl
@[simp] theorem State.setConn_homes (s : State) (k : Nat) (c : Conn) : (s.setConn k c).homes = s.homes := rfl
@[simp] theorem State.setConn_hosts (s : State) (k : Nat) (c : Conn) : (s.setConn k c).hosts = s.hosts := rfl
@[simp] theorem State.setConn_cores (s : State) (k : Nat) (c : Conn) : (s.setConn k c).cores = s.cores := rfl
@[simp] theorem State.setConn_slices (s : State) (k : Nat) (c : Conn) : (s.setConn k c).slices = s.slices := rfl
@[simp] theorem State.setConn_snpRsps (s : State) (k : Nat) (c : Conn) : (s.setConn k c).snpRsps = s.snpRsps := rfl
@[simp] theorem State.setConn_grants (s : State) (k : Nat) (c : Conn) : (s.setConn k c).grants = s.grants := rfl
@[simp] theorem State.setConn_caccs (s : State) (k : Nat) (c : Conn) : (s.setConn k c).caccs = s.caccs := rfl
@[simp] theorem State.setConn_nacks (s : State) (k : Nat) (c : Conn) : (s.setConn k c).nacks = s.nacks := rfl
@[simp] theorem State.setConn_wbAcks (s : State) (k : Nat) (c : Conn) : (s.setConn k c).wbAcks = s.wbAcks := rfl
@[simp] theorem State.setConn_rsps (s : State) (k : Nat) (c : Conn) : (s.setConn k c).rsps = s.rsps := rfl
@[simp] theorem State.setConn_dbg (s : State) (k : Nat) (c : Conn) : (s.setConn k c).dbg = s.dbg := rfl
@[simp] theorem State.setConn_ceils (s : State) (k : Nat) (c : Conn) : (s.setConn k c).ceils = s.ceils := rfl
@[simp] theorem State.setConn_msis (s : State) (k : Nat) (c : Conn) : (s.setConn k c).msis = s.msis := rfl
@[simp] theorem State.setConn_plumb (s : State) (k : Nat) (c : Conn) : (s.setConn k c).plumb = s.plumb := rfl
@[simp] theorem State.setConn_cxl (s : State) (k : Nat) (c : Conn) : (s.setConn k c).cxl = s.cxl := rfl
@[simp] theorem State.setConn_perst (s : State) (k : Nat) (c : Conn) : (s.setConn k c).perst = s.perst := rfl
@[simp] theorem State.setConn_present (s : State) (k : Nat) (c : Conn) : (s.setConn k c).present = s.present := rfl
@[simp] theorem State.setConn_links (s : State) (k : Nat) (c : Conn) : (s.setConn k c).links = s.links := rfl
@[simp] theorem State.setConn_ports (s : State) (k : Nat) (c : Conn) : (s.setConn k c).ports = s.ports := rfl
@[simp] theorem State.setConn_courseTx (s : State) (k : Nat) (c : Conn) : (s.setConn k c).courseTx = s.courseTx := rfl
@[simp] theorem State.setConn_ethTx (s : State) (k : Nat) (c : Conn) : (s.setConn k c).ethTx = s.ethTx := rfl
@[simp] theorem State.setConn_aborts (s : State) (k : Nat) (c : Conn) : (s.setConn k c).aborts = s.aborts := rfl
@[simp] theorem State.setConn_hods (s : State) (k : Nat) (c : Conn) : (s.setConn k c).hods = s.hods := rfl
@[simp] theorem State.setConn_intakes (s : State) (k : Nat) (c : Conn) : (s.setConn k c).intakes = s.intakes := rfl
@[simp] theorem State.setConn_modId (s : State) (k : Nat) (c : Conn) : (s.setConn k c).modId = s.modId := rfl
@[simp] theorem State.setConn_midset (s : State) (k : Nat) (c : Conn) : (s.setConn k c).midset = s.midset := rfl
@[simp] theorem State.setConn_fw (s : State) (k : Nat) (c : Conn) : (s.setConn k c).fw = s.fw := rfl
@[simp] theorem State.setConn_strict (s : State) (k : Nat) (c : Conn) : (s.setConn k c).strict = s.strict := rfl
@[simp] theorem State.setConn_mgmt (s : State) (k : Nat) (c : Conn) : (s.setConn k c).mgmt = s.mgmt := rfl
@[simp] theorem State.setConn_power (s : State) (k : Nat) (c : Conn) : (s.setConn k c).power = s.power := rfl
@[simp] theorem State.setConn_boot (s : State) (k : Nat) (c : Conn) : (s.setConn k c).boot = s.boot := rfl
@[simp] theorem State.setConn_regRsp (s : State) (k : Nat) (c : Conn) : (s.setConn k c).regRsp = s.regRsp := rfl
@[simp] theorem State.setConn_wipeNext (s : State) (k : Nat) (c : Conn) : (s.setConn k c).wipeNext = s.wipeNext := rfl

/-! ### `State.modHod` leaves every field but `hods` -/

@[simp] theorem State.modHod_pending (s : State) (h : Nat) (f : HodS → HodS) : (s.modHod h f).pending = s.pending := rfl
@[simp] theorem State.modHod_free (s : State) (h : Nat) (f : HodS → HodS) : (s.modHod h f).free = s.free := rfl
@[simp] theorem State.modHod_now (s : State) (h : Nat) (f : HodS → HodS) : (s.modHod h f).now = s.now := rfl
@[simp] theorem State.modHod_time (s : State) (h : Nat) (f : HodS → HodS) : (s.modHod h f).time = s.time := rfl
@[simp] theorem State.modHod_mem (s : State) (h : Nat) (f : HodS → HodS) : (s.modHod h f).mem = s.mem := rfl
@[simp] theorem State.modHod_poison (s : State) (h : Nat) (f : HodS → HodS) : (s.modHod h f).poison = s.poison := rfl
@[simp] theorem State.modHod_linePoison (s : State) (h : Nat) (f : HodS → HodS) : (s.modHod h f).linePoison = s.linePoison := rfl
@[simp] theorem State.modHod_injPoison (s : State) (h : Nat) (f : HodS → HodS) : (s.modHod h f).injPoison = s.injPoison := rfl
@[simp] theorem State.modHod_inj (s : State) (h : Nat) (f : HodS → HodS) : (s.modHod h f).inj = s.inj := rfl
@[simp] theorem State.modHod_tiles (s : State) (h : Nat) (f : HodS → HodS) : (s.modHod h f).tiles = s.tiles := rfl
@[simp] theorem State.modHod_rings (s : State) (h : Nat) (f : HodS → HodS) : (s.modHod h f).rings = s.rings := rfl
@[simp] theorem State.modHod_evt (s : State) (h : Nat) (f : HodS → HodS) : (s.modHod h f).evt = s.evt := rfl
@[simp] theorem State.modHod_adds (s : State) (h : Nat) (f : HodS → HodS) : (s.modHod h f).adds = s.adds := rfl
@[simp] theorem State.modHod_addAcks (s : State) (h : Nat) (f : HodS → HodS) : (s.modHod h f).addAcks = s.addAcks := rfl
@[simp] theorem State.modHod_panels (s : State) (h : Nat) (f : HodS → HodS) : (s.modHod h f).panels = s.panels := rfl
@[simp] theorem State.modHod_hbmStks (s : State) (h : Nat) (f : HodS → HodS) : (s.modHod h f).hbmStks = s.hbmStks := rfl
@[simp] theorem State.modHod_wipes (s : State) (h : Nat) (f : HodS → HodS) : (s.modHod h f).wipes = s.wipes := rfl
@[simp] theorem State.modHod_keeps (s : State) (h : Nat) (f : HodS → HodS) : (s.modHod h f).keeps = s.keeps := rfl
@[simp] theorem State.modHod_pool (s : State) (h : Nat) (f : HodS → HodS) : (s.modHod h f).pool = s.pool := rfl
@[simp] theorem State.modHod_homes (s : State) (h : Nat) (f : HodS → HodS) : (s.modHod h f).homes = s.homes := rfl
@[simp] theorem State.modHod_hosts (s : State) (h : Nat) (f : HodS → HodS) : (s.modHod h f).hosts = s.hosts := rfl
@[simp] theorem State.modHod_cores (s : State) (h : Nat) (f : HodS → HodS) : (s.modHod h f).cores = s.cores := rfl
@[simp] theorem State.modHod_slices (s : State) (h : Nat) (f : HodS → HodS) : (s.modHod h f).slices = s.slices := rfl
@[simp] theorem State.modHod_snpRsps (s : State) (h : Nat) (f : HodS → HodS) : (s.modHod h f).snpRsps = s.snpRsps := rfl
@[simp] theorem State.modHod_grants (s : State) (h : Nat) (f : HodS → HodS) : (s.modHod h f).grants = s.grants := rfl
@[simp] theorem State.modHod_caccs (s : State) (h : Nat) (f : HodS → HodS) : (s.modHod h f).caccs = s.caccs := rfl
@[simp] theorem State.modHod_nacks (s : State) (h : Nat) (f : HodS → HodS) : (s.modHod h f).nacks = s.nacks := rfl
@[simp] theorem State.modHod_wbAcks (s : State) (h : Nat) (f : HodS → HodS) : (s.modHod h f).wbAcks = s.wbAcks := rfl
@[simp] theorem State.modHod_rsps (s : State) (h : Nat) (f : HodS → HodS) : (s.modHod h f).rsps = s.rsps := rfl
@[simp] theorem State.modHod_dbg (s : State) (h : Nat) (f : HodS → HodS) : (s.modHod h f).dbg = s.dbg := rfl
@[simp] theorem State.modHod_ceils (s : State) (h : Nat) (f : HodS → HodS) : (s.modHod h f).ceils = s.ceils := rfl
@[simp] theorem State.modHod_msis (s : State) (h : Nat) (f : HodS → HodS) : (s.modHod h f).msis = s.msis := rfl
@[simp] theorem State.modHod_plumb (s : State) (h : Nat) (f : HodS → HodS) : (s.modHod h f).plumb = s.plumb := rfl
@[simp] theorem State.modHod_cxl (s : State) (h : Nat) (f : HodS → HodS) : (s.modHod h f).cxl = s.cxl := rfl
@[simp] theorem State.modHod_perst (s : State) (h : Nat) (f : HodS → HodS) : (s.modHod h f).perst = s.perst := rfl
@[simp] theorem State.modHod_present (s : State) (h : Nat) (f : HodS → HodS) : (s.modHod h f).present = s.present := rfl
@[simp] theorem State.modHod_links (s : State) (h : Nat) (f : HodS → HodS) : (s.modHod h f).links = s.links := rfl
@[simp] theorem State.modHod_ports (s : State) (h : Nat) (f : HodS → HodS) : (s.modHod h f).ports = s.ports := rfl
@[simp] theorem State.modHod_conns (s : State) (h : Nat) (f : HodS → HodS) : (s.modHod h f).conns = s.conns := rfl
@[simp] theorem State.modHod_courseTx (s : State) (h : Nat) (f : HodS → HodS) : (s.modHod h f).courseTx = s.courseTx := rfl
@[simp] theorem State.modHod_ethTx (s : State) (h : Nat) (f : HodS → HodS) : (s.modHod h f).ethTx = s.ethTx := rfl
@[simp] theorem State.modHod_aborts (s : State) (h : Nat) (f : HodS → HodS) : (s.modHod h f).aborts = s.aborts := rfl
@[simp] theorem State.modHod_intakes (s : State) (h : Nat) (f : HodS → HodS) : (s.modHod h f).intakes = s.intakes := rfl
@[simp] theorem State.modHod_modId (s : State) (h : Nat) (f : HodS → HodS) : (s.modHod h f).modId = s.modId := rfl
@[simp] theorem State.modHod_midset (s : State) (h : Nat) (f : HodS → HodS) : (s.modHod h f).midset = s.midset := rfl
@[simp] theorem State.modHod_fw (s : State) (h : Nat) (f : HodS → HodS) : (s.modHod h f).fw = s.fw := rfl
@[simp] theorem State.modHod_strict (s : State) (h : Nat) (f : HodS → HodS) : (s.modHod h f).strict = s.strict := rfl
@[simp] theorem State.modHod_mgmt (s : State) (h : Nat) (f : HodS → HodS) : (s.modHod h f).mgmt = s.mgmt := rfl
@[simp] theorem State.modHod_power (s : State) (h : Nat) (f : HodS → HodS) : (s.modHod h f).power = s.power := rfl
@[simp] theorem State.modHod_boot (s : State) (h : Nat) (f : HodS → HodS) : (s.modHod h f).boot = s.boot := rfl
@[simp] theorem State.modHod_regRsp (s : State) (h : Nat) (f : HodS → HodS) : (s.modHod h f).regRsp = s.regRsp := rfl
@[simp] theorem State.modHod_wipeNext (s : State) (h : Nat) (f : HodS → HodS) : (s.modHod h f).wipeNext = s.wipeNext := rfl

/-! ### `State.modIntake` leaves every field but `intakes` -/

@[simp] theorem State.modIntake_pending (s : State) (n : Nat) (f : IntS → IntS) : (s.modIntake n f).pending = s.pending := rfl
@[simp] theorem State.modIntake_free (s : State) (n : Nat) (f : IntS → IntS) : (s.modIntake n f).free = s.free := rfl
@[simp] theorem State.modIntake_now (s : State) (n : Nat) (f : IntS → IntS) : (s.modIntake n f).now = s.now := rfl
@[simp] theorem State.modIntake_time (s : State) (n : Nat) (f : IntS → IntS) : (s.modIntake n f).time = s.time := rfl
@[simp] theorem State.modIntake_mem (s : State) (n : Nat) (f : IntS → IntS) : (s.modIntake n f).mem = s.mem := rfl
@[simp] theorem State.modIntake_poison (s : State) (n : Nat) (f : IntS → IntS) : (s.modIntake n f).poison = s.poison := rfl
@[simp] theorem State.modIntake_linePoison (s : State) (n : Nat) (f : IntS → IntS) : (s.modIntake n f).linePoison = s.linePoison := rfl
@[simp] theorem State.modIntake_injPoison (s : State) (n : Nat) (f : IntS → IntS) : (s.modIntake n f).injPoison = s.injPoison := rfl
@[simp] theorem State.modIntake_inj (s : State) (n : Nat) (f : IntS → IntS) : (s.modIntake n f).inj = s.inj := rfl
@[simp] theorem State.modIntake_tiles (s : State) (n : Nat) (f : IntS → IntS) : (s.modIntake n f).tiles = s.tiles := rfl
@[simp] theorem State.modIntake_rings (s : State) (n : Nat) (f : IntS → IntS) : (s.modIntake n f).rings = s.rings := rfl
@[simp] theorem State.modIntake_evt (s : State) (n : Nat) (f : IntS → IntS) : (s.modIntake n f).evt = s.evt := rfl
@[simp] theorem State.modIntake_adds (s : State) (n : Nat) (f : IntS → IntS) : (s.modIntake n f).adds = s.adds := rfl
@[simp] theorem State.modIntake_addAcks (s : State) (n : Nat) (f : IntS → IntS) : (s.modIntake n f).addAcks = s.addAcks := rfl
@[simp] theorem State.modIntake_panels (s : State) (n : Nat) (f : IntS → IntS) : (s.modIntake n f).panels = s.panels := rfl
@[simp] theorem State.modIntake_hbmStks (s : State) (n : Nat) (f : IntS → IntS) : (s.modIntake n f).hbmStks = s.hbmStks := rfl
@[simp] theorem State.modIntake_wipes (s : State) (n : Nat) (f : IntS → IntS) : (s.modIntake n f).wipes = s.wipes := rfl
@[simp] theorem State.modIntake_keeps (s : State) (n : Nat) (f : IntS → IntS) : (s.modIntake n f).keeps = s.keeps := rfl
@[simp] theorem State.modIntake_pool (s : State) (n : Nat) (f : IntS → IntS) : (s.modIntake n f).pool = s.pool := rfl
@[simp] theorem State.modIntake_homes (s : State) (n : Nat) (f : IntS → IntS) : (s.modIntake n f).homes = s.homes := rfl
@[simp] theorem State.modIntake_hosts (s : State) (n : Nat) (f : IntS → IntS) : (s.modIntake n f).hosts = s.hosts := rfl
@[simp] theorem State.modIntake_cores (s : State) (n : Nat) (f : IntS → IntS) : (s.modIntake n f).cores = s.cores := rfl
@[simp] theorem State.modIntake_slices (s : State) (n : Nat) (f : IntS → IntS) : (s.modIntake n f).slices = s.slices := rfl
@[simp] theorem State.modIntake_snpRsps (s : State) (n : Nat) (f : IntS → IntS) : (s.modIntake n f).snpRsps = s.snpRsps := rfl
@[simp] theorem State.modIntake_grants (s : State) (n : Nat) (f : IntS → IntS) : (s.modIntake n f).grants = s.grants := rfl
@[simp] theorem State.modIntake_caccs (s : State) (n : Nat) (f : IntS → IntS) : (s.modIntake n f).caccs = s.caccs := rfl
@[simp] theorem State.modIntake_nacks (s : State) (n : Nat) (f : IntS → IntS) : (s.modIntake n f).nacks = s.nacks := rfl
@[simp] theorem State.modIntake_wbAcks (s : State) (n : Nat) (f : IntS → IntS) : (s.modIntake n f).wbAcks = s.wbAcks := rfl
@[simp] theorem State.modIntake_rsps (s : State) (n : Nat) (f : IntS → IntS) : (s.modIntake n f).rsps = s.rsps := rfl
@[simp] theorem State.modIntake_dbg (s : State) (n : Nat) (f : IntS → IntS) : (s.modIntake n f).dbg = s.dbg := rfl
@[simp] theorem State.modIntake_ceils (s : State) (n : Nat) (f : IntS → IntS) : (s.modIntake n f).ceils = s.ceils := rfl
@[simp] theorem State.modIntake_msis (s : State) (n : Nat) (f : IntS → IntS) : (s.modIntake n f).msis = s.msis := rfl
@[simp] theorem State.modIntake_plumb (s : State) (n : Nat) (f : IntS → IntS) : (s.modIntake n f).plumb = s.plumb := rfl
@[simp] theorem State.modIntake_cxl (s : State) (n : Nat) (f : IntS → IntS) : (s.modIntake n f).cxl = s.cxl := rfl
@[simp] theorem State.modIntake_perst (s : State) (n : Nat) (f : IntS → IntS) : (s.modIntake n f).perst = s.perst := rfl
@[simp] theorem State.modIntake_present (s : State) (n : Nat) (f : IntS → IntS) : (s.modIntake n f).present = s.present := rfl
@[simp] theorem State.modIntake_links (s : State) (n : Nat) (f : IntS → IntS) : (s.modIntake n f).links = s.links := rfl
@[simp] theorem State.modIntake_ports (s : State) (n : Nat) (f : IntS → IntS) : (s.modIntake n f).ports = s.ports := rfl
@[simp] theorem State.modIntake_conns (s : State) (n : Nat) (f : IntS → IntS) : (s.modIntake n f).conns = s.conns := rfl
@[simp] theorem State.modIntake_courseTx (s : State) (n : Nat) (f : IntS → IntS) : (s.modIntake n f).courseTx = s.courseTx := rfl
@[simp] theorem State.modIntake_ethTx (s : State) (n : Nat) (f : IntS → IntS) : (s.modIntake n f).ethTx = s.ethTx := rfl
@[simp] theorem State.modIntake_aborts (s : State) (n : Nat) (f : IntS → IntS) : (s.modIntake n f).aborts = s.aborts := rfl
@[simp] theorem State.modIntake_hods (s : State) (n : Nat) (f : IntS → IntS) : (s.modIntake n f).hods = s.hods := rfl
@[simp] theorem State.modIntake_modId (s : State) (n : Nat) (f : IntS → IntS) : (s.modIntake n f).modId = s.modId := rfl
@[simp] theorem State.modIntake_midset (s : State) (n : Nat) (f : IntS → IntS) : (s.modIntake n f).midset = s.midset := rfl
@[simp] theorem State.modIntake_fw (s : State) (n : Nat) (f : IntS → IntS) : (s.modIntake n f).fw = s.fw := rfl
@[simp] theorem State.modIntake_strict (s : State) (n : Nat) (f : IntS → IntS) : (s.modIntake n f).strict = s.strict := rfl
@[simp] theorem State.modIntake_mgmt (s : State) (n : Nat) (f : IntS → IntS) : (s.modIntake n f).mgmt = s.mgmt := rfl
@[simp] theorem State.modIntake_power (s : State) (n : Nat) (f : IntS → IntS) : (s.modIntake n f).power = s.power := rfl
@[simp] theorem State.modIntake_boot (s : State) (n : Nat) (f : IntS → IntS) : (s.modIntake n f).boot = s.boot := rfl
@[simp] theorem State.modIntake_regRsp (s : State) (n : Nat) (f : IntS → IntS) : (s.modIntake n f).regRsp = s.regRsp := rfl
@[simp] theorem State.modIntake_wipeNext (s : State) (n : Nat) (f : IntS → IntS) : (s.modIntake n f).wipeNext = s.wipeNext := rfl

/-! ### `State.modLink` leaves every field but `links` -/

@[simp] theorem State.modLink_pending (s : State) (k : Nat) (f : Link → Link) : (s.modLink k f).pending = s.pending := rfl
@[simp] theorem State.modLink_free (s : State) (k : Nat) (f : Link → Link) : (s.modLink k f).free = s.free := rfl
@[simp] theorem State.modLink_now (s : State) (k : Nat) (f : Link → Link) : (s.modLink k f).now = s.now := rfl
@[simp] theorem State.modLink_time (s : State) (k : Nat) (f : Link → Link) : (s.modLink k f).time = s.time := rfl
@[simp] theorem State.modLink_mem (s : State) (k : Nat) (f : Link → Link) : (s.modLink k f).mem = s.mem := rfl
@[simp] theorem State.modLink_poison (s : State) (k : Nat) (f : Link → Link) : (s.modLink k f).poison = s.poison := rfl
@[simp] theorem State.modLink_linePoison (s : State) (k : Nat) (f : Link → Link) : (s.modLink k f).linePoison = s.linePoison := rfl
@[simp] theorem State.modLink_injPoison (s : State) (k : Nat) (f : Link → Link) : (s.modLink k f).injPoison = s.injPoison := rfl
@[simp] theorem State.modLink_inj (s : State) (k : Nat) (f : Link → Link) : (s.modLink k f).inj = s.inj := rfl
@[simp] theorem State.modLink_tiles (s : State) (k : Nat) (f : Link → Link) : (s.modLink k f).tiles = s.tiles := rfl
@[simp] theorem State.modLink_rings (s : State) (k : Nat) (f : Link → Link) : (s.modLink k f).rings = s.rings := rfl
@[simp] theorem State.modLink_evt (s : State) (k : Nat) (f : Link → Link) : (s.modLink k f).evt = s.evt := rfl
@[simp] theorem State.modLink_adds (s : State) (k : Nat) (f : Link → Link) : (s.modLink k f).adds = s.adds := rfl
@[simp] theorem State.modLink_addAcks (s : State) (k : Nat) (f : Link → Link) : (s.modLink k f).addAcks = s.addAcks := rfl
@[simp] theorem State.modLink_panels (s : State) (k : Nat) (f : Link → Link) : (s.modLink k f).panels = s.panels := rfl
@[simp] theorem State.modLink_hbmStks (s : State) (k : Nat) (f : Link → Link) : (s.modLink k f).hbmStks = s.hbmStks := rfl
@[simp] theorem State.modLink_wipes (s : State) (k : Nat) (f : Link → Link) : (s.modLink k f).wipes = s.wipes := rfl
@[simp] theorem State.modLink_keeps (s : State) (k : Nat) (f : Link → Link) : (s.modLink k f).keeps = s.keeps := rfl
@[simp] theorem State.modLink_pool (s : State) (k : Nat) (f : Link → Link) : (s.modLink k f).pool = s.pool := rfl
@[simp] theorem State.modLink_homes (s : State) (k : Nat) (f : Link → Link) : (s.modLink k f).homes = s.homes := rfl
@[simp] theorem State.modLink_hosts (s : State) (k : Nat) (f : Link → Link) : (s.modLink k f).hosts = s.hosts := rfl
@[simp] theorem State.modLink_cores (s : State) (k : Nat) (f : Link → Link) : (s.modLink k f).cores = s.cores := rfl
@[simp] theorem State.modLink_slices (s : State) (k : Nat) (f : Link → Link) : (s.modLink k f).slices = s.slices := rfl
@[simp] theorem State.modLink_snpRsps (s : State) (k : Nat) (f : Link → Link) : (s.modLink k f).snpRsps = s.snpRsps := rfl
@[simp] theorem State.modLink_grants (s : State) (k : Nat) (f : Link → Link) : (s.modLink k f).grants = s.grants := rfl
@[simp] theorem State.modLink_caccs (s : State) (k : Nat) (f : Link → Link) : (s.modLink k f).caccs = s.caccs := rfl
@[simp] theorem State.modLink_nacks (s : State) (k : Nat) (f : Link → Link) : (s.modLink k f).nacks = s.nacks := rfl
@[simp] theorem State.modLink_wbAcks (s : State) (k : Nat) (f : Link → Link) : (s.modLink k f).wbAcks = s.wbAcks := rfl
@[simp] theorem State.modLink_rsps (s : State) (k : Nat) (f : Link → Link) : (s.modLink k f).rsps = s.rsps := rfl
@[simp] theorem State.modLink_dbg (s : State) (k : Nat) (f : Link → Link) : (s.modLink k f).dbg = s.dbg := rfl
@[simp] theorem State.modLink_ceils (s : State) (k : Nat) (f : Link → Link) : (s.modLink k f).ceils = s.ceils := rfl
@[simp] theorem State.modLink_msis (s : State) (k : Nat) (f : Link → Link) : (s.modLink k f).msis = s.msis := rfl
@[simp] theorem State.modLink_plumb (s : State) (k : Nat) (f : Link → Link) : (s.modLink k f).plumb = s.plumb := rfl
@[simp] theorem State.modLink_cxl (s : State) (k : Nat) (f : Link → Link) : (s.modLink k f).cxl = s.cxl := rfl
@[simp] theorem State.modLink_perst (s : State) (k : Nat) (f : Link → Link) : (s.modLink k f).perst = s.perst := rfl
@[simp] theorem State.modLink_present (s : State) (k : Nat) (f : Link → Link) : (s.modLink k f).present = s.present := rfl
@[simp] theorem State.modLink_ports (s : State) (k : Nat) (f : Link → Link) : (s.modLink k f).ports = s.ports := rfl
@[simp] theorem State.modLink_conns (s : State) (k : Nat) (f : Link → Link) : (s.modLink k f).conns = s.conns := rfl
@[simp] theorem State.modLink_courseTx (s : State) (k : Nat) (f : Link → Link) : (s.modLink k f).courseTx = s.courseTx := rfl
@[simp] theorem State.modLink_ethTx (s : State) (k : Nat) (f : Link → Link) : (s.modLink k f).ethTx = s.ethTx := rfl
@[simp] theorem State.modLink_aborts (s : State) (k : Nat) (f : Link → Link) : (s.modLink k f).aborts = s.aborts := rfl
@[simp] theorem State.modLink_hods (s : State) (k : Nat) (f : Link → Link) : (s.modLink k f).hods = s.hods := rfl
@[simp] theorem State.modLink_intakes (s : State) (k : Nat) (f : Link → Link) : (s.modLink k f).intakes = s.intakes := rfl
@[simp] theorem State.modLink_modId (s : State) (k : Nat) (f : Link → Link) : (s.modLink k f).modId = s.modId := rfl
@[simp] theorem State.modLink_midset (s : State) (k : Nat) (f : Link → Link) : (s.modLink k f).midset = s.midset := rfl
@[simp] theorem State.modLink_fw (s : State) (k : Nat) (f : Link → Link) : (s.modLink k f).fw = s.fw := rfl
@[simp] theorem State.modLink_strict (s : State) (k : Nat) (f : Link → Link) : (s.modLink k f).strict = s.strict := rfl
@[simp] theorem State.modLink_mgmt (s : State) (k : Nat) (f : Link → Link) : (s.modLink k f).mgmt = s.mgmt := rfl
@[simp] theorem State.modLink_power (s : State) (k : Nat) (f : Link → Link) : (s.modLink k f).power = s.power := rfl
@[simp] theorem State.modLink_boot (s : State) (k : Nat) (f : Link → Link) : (s.modLink k f).boot = s.boot := rfl
@[simp] theorem State.modLink_regRsp (s : State) (k : Nat) (f : Link → Link) : (s.modLink k f).regRsp = s.regRsp := rfl
@[simp] theorem State.modLink_wipeNext (s : State) (k : Nat) (f : Link → Link) : (s.modLink k f).wipeNext = s.wipeNext := rfl

/-! ### `State.modSlice` leaves every field but `slices` -/

@[simp] theorem State.modSlice_pending (s : State) (k : SliceId) (f : Slice → Slice) : (s.modSlice k f).pending = s.pending := rfl
@[simp] theorem State.modSlice_free (s : State) (k : SliceId) (f : Slice → Slice) : (s.modSlice k f).free = s.free := rfl
@[simp] theorem State.modSlice_now (s : State) (k : SliceId) (f : Slice → Slice) : (s.modSlice k f).now = s.now := rfl
@[simp] theorem State.modSlice_time (s : State) (k : SliceId) (f : Slice → Slice) : (s.modSlice k f).time = s.time := rfl
@[simp] theorem State.modSlice_mem (s : State) (k : SliceId) (f : Slice → Slice) : (s.modSlice k f).mem = s.mem := rfl
@[simp] theorem State.modSlice_poison (s : State) (k : SliceId) (f : Slice → Slice) : (s.modSlice k f).poison = s.poison := rfl
@[simp] theorem State.modSlice_linePoison (s : State) (k : SliceId) (f : Slice → Slice) : (s.modSlice k f).linePoison = s.linePoison := rfl
@[simp] theorem State.modSlice_injPoison (s : State) (k : SliceId) (f : Slice → Slice) : (s.modSlice k f).injPoison = s.injPoison := rfl
@[simp] theorem State.modSlice_inj (s : State) (k : SliceId) (f : Slice → Slice) : (s.modSlice k f).inj = s.inj := rfl
@[simp] theorem State.modSlice_tiles (s : State) (k : SliceId) (f : Slice → Slice) : (s.modSlice k f).tiles = s.tiles := rfl
@[simp] theorem State.modSlice_rings (s : State) (k : SliceId) (f : Slice → Slice) : (s.modSlice k f).rings = s.rings := rfl
@[simp] theorem State.modSlice_evt (s : State) (k : SliceId) (f : Slice → Slice) : (s.modSlice k f).evt = s.evt := rfl
@[simp] theorem State.modSlice_adds (s : State) (k : SliceId) (f : Slice → Slice) : (s.modSlice k f).adds = s.adds := rfl
@[simp] theorem State.modSlice_addAcks (s : State) (k : SliceId) (f : Slice → Slice) : (s.modSlice k f).addAcks = s.addAcks := rfl
@[simp] theorem State.modSlice_panels (s : State) (k : SliceId) (f : Slice → Slice) : (s.modSlice k f).panels = s.panels := rfl
@[simp] theorem State.modSlice_hbmStks (s : State) (k : SliceId) (f : Slice → Slice) : (s.modSlice k f).hbmStks = s.hbmStks := rfl
@[simp] theorem State.modSlice_wipes (s : State) (k : SliceId) (f : Slice → Slice) : (s.modSlice k f).wipes = s.wipes := rfl
@[simp] theorem State.modSlice_keeps (s : State) (k : SliceId) (f : Slice → Slice) : (s.modSlice k f).keeps = s.keeps := rfl
@[simp] theorem State.modSlice_pool (s : State) (k : SliceId) (f : Slice → Slice) : (s.modSlice k f).pool = s.pool := rfl
@[simp] theorem State.modSlice_homes (s : State) (k : SliceId) (f : Slice → Slice) : (s.modSlice k f).homes = s.homes := rfl
@[simp] theorem State.modSlice_hosts (s : State) (k : SliceId) (f : Slice → Slice) : (s.modSlice k f).hosts = s.hosts := rfl
@[simp] theorem State.modSlice_cores (s : State) (k : SliceId) (f : Slice → Slice) : (s.modSlice k f).cores = s.cores := rfl
@[simp] theorem State.modSlice_snpRsps (s : State) (k : SliceId) (f : Slice → Slice) : (s.modSlice k f).snpRsps = s.snpRsps := rfl
@[simp] theorem State.modSlice_grants (s : State) (k : SliceId) (f : Slice → Slice) : (s.modSlice k f).grants = s.grants := rfl
@[simp] theorem State.modSlice_caccs (s : State) (k : SliceId) (f : Slice → Slice) : (s.modSlice k f).caccs = s.caccs := rfl
@[simp] theorem State.modSlice_nacks (s : State) (k : SliceId) (f : Slice → Slice) : (s.modSlice k f).nacks = s.nacks := rfl
@[simp] theorem State.modSlice_wbAcks (s : State) (k : SliceId) (f : Slice → Slice) : (s.modSlice k f).wbAcks = s.wbAcks := rfl
@[simp] theorem State.modSlice_rsps (s : State) (k : SliceId) (f : Slice → Slice) : (s.modSlice k f).rsps = s.rsps := rfl
@[simp] theorem State.modSlice_dbg (s : State) (k : SliceId) (f : Slice → Slice) : (s.modSlice k f).dbg = s.dbg := rfl
@[simp] theorem State.modSlice_ceils (s : State) (k : SliceId) (f : Slice → Slice) : (s.modSlice k f).ceils = s.ceils := rfl
@[simp] theorem State.modSlice_msis (s : State) (k : SliceId) (f : Slice → Slice) : (s.modSlice k f).msis = s.msis := rfl
@[simp] theorem State.modSlice_plumb (s : State) (k : SliceId) (f : Slice → Slice) : (s.modSlice k f).plumb = s.plumb := rfl
@[simp] theorem State.modSlice_cxl (s : State) (k : SliceId) (f : Slice → Slice) : (s.modSlice k f).cxl = s.cxl := rfl
@[simp] theorem State.modSlice_perst (s : State) (k : SliceId) (f : Slice → Slice) : (s.modSlice k f).perst = s.perst := rfl
@[simp] theorem State.modSlice_present (s : State) (k : SliceId) (f : Slice → Slice) : (s.modSlice k f).present = s.present := rfl
@[simp] theorem State.modSlice_links (s : State) (k : SliceId) (f : Slice → Slice) : (s.modSlice k f).links = s.links := rfl
@[simp] theorem State.modSlice_ports (s : State) (k : SliceId) (f : Slice → Slice) : (s.modSlice k f).ports = s.ports := rfl
@[simp] theorem State.modSlice_conns (s : State) (k : SliceId) (f : Slice → Slice) : (s.modSlice k f).conns = s.conns := rfl
@[simp] theorem State.modSlice_courseTx (s : State) (k : SliceId) (f : Slice → Slice) : (s.modSlice k f).courseTx = s.courseTx := rfl
@[simp] theorem State.modSlice_ethTx (s : State) (k : SliceId) (f : Slice → Slice) : (s.modSlice k f).ethTx = s.ethTx := rfl
@[simp] theorem State.modSlice_aborts (s : State) (k : SliceId) (f : Slice → Slice) : (s.modSlice k f).aborts = s.aborts := rfl
@[simp] theorem State.modSlice_hods (s : State) (k : SliceId) (f : Slice → Slice) : (s.modSlice k f).hods = s.hods := rfl
@[simp] theorem State.modSlice_intakes (s : State) (k : SliceId) (f : Slice → Slice) : (s.modSlice k f).intakes = s.intakes := rfl
@[simp] theorem State.modSlice_modId (s : State) (k : SliceId) (f : Slice → Slice) : (s.modSlice k f).modId = s.modId := rfl
@[simp] theorem State.modSlice_midset (s : State) (k : SliceId) (f : Slice → Slice) : (s.modSlice k f).midset = s.midset := rfl
@[simp] theorem State.modSlice_fw (s : State) (k : SliceId) (f : Slice → Slice) : (s.modSlice k f).fw = s.fw := rfl
@[simp] theorem State.modSlice_strict (s : State) (k : SliceId) (f : Slice → Slice) : (s.modSlice k f).strict = s.strict := rfl
@[simp] theorem State.modSlice_mgmt (s : State) (k : SliceId) (f : Slice → Slice) : (s.modSlice k f).mgmt = s.mgmt := rfl
@[simp] theorem State.modSlice_power (s : State) (k : SliceId) (f : Slice → Slice) : (s.modSlice k f).power = s.power := rfl
@[simp] theorem State.modSlice_boot (s : State) (k : SliceId) (f : Slice → Slice) : (s.modSlice k f).boot = s.boot := rfl
@[simp] theorem State.modSlice_regRsp (s : State) (k : SliceId) (f : Slice → Slice) : (s.modSlice k f).regRsp = s.regRsp := rfl
@[simp] theorem State.modSlice_wipeNext (s : State) (k : SliceId) (f : Slice → Slice) : (s.modSlice k f).wipeNext = s.wipeNext := rfl

/-! ### `State.modMgmt` leaves every field but `mgmt` -/

@[simp] theorem State.modMgmt_pending (s : State) (f : Mgmt → Mgmt) : (s.modMgmt f).pending = s.pending := rfl
@[simp] theorem State.modMgmt_free (s : State) (f : Mgmt → Mgmt) : (s.modMgmt f).free = s.free := rfl
@[simp] theorem State.modMgmt_now (s : State) (f : Mgmt → Mgmt) : (s.modMgmt f).now = s.now := rfl
@[simp] theorem State.modMgmt_time (s : State) (f : Mgmt → Mgmt) : (s.modMgmt f).time = s.time := rfl
@[simp] theorem State.modMgmt_mem (s : State) (f : Mgmt → Mgmt) : (s.modMgmt f).mem = s.mem := rfl
@[simp] theorem State.modMgmt_poison (s : State) (f : Mgmt → Mgmt) : (s.modMgmt f).poison = s.poison := rfl
@[simp] theorem State.modMgmt_linePoison (s : State) (f : Mgmt → Mgmt) : (s.modMgmt f).linePoison = s.linePoison := rfl
@[simp] theorem State.modMgmt_injPoison (s : State) (f : Mgmt → Mgmt) : (s.modMgmt f).injPoison = s.injPoison := rfl
@[simp] theorem State.modMgmt_inj (s : State) (f : Mgmt → Mgmt) : (s.modMgmt f).inj = s.inj := rfl
@[simp] theorem State.modMgmt_tiles (s : State) (f : Mgmt → Mgmt) : (s.modMgmt f).tiles = s.tiles := rfl
@[simp] theorem State.modMgmt_rings (s : State) (f : Mgmt → Mgmt) : (s.modMgmt f).rings = s.rings := rfl
@[simp] theorem State.modMgmt_evt (s : State) (f : Mgmt → Mgmt) : (s.modMgmt f).evt = s.evt := rfl
@[simp] theorem State.modMgmt_adds (s : State) (f : Mgmt → Mgmt) : (s.modMgmt f).adds = s.adds := rfl
@[simp] theorem State.modMgmt_addAcks (s : State) (f : Mgmt → Mgmt) : (s.modMgmt f).addAcks = s.addAcks := rfl
@[simp] theorem State.modMgmt_panels (s : State) (f : Mgmt → Mgmt) : (s.modMgmt f).panels = s.panels := rfl
@[simp] theorem State.modMgmt_hbmStks (s : State) (f : Mgmt → Mgmt) : (s.modMgmt f).hbmStks = s.hbmStks := rfl
@[simp] theorem State.modMgmt_wipes (s : State) (f : Mgmt → Mgmt) : (s.modMgmt f).wipes = s.wipes := rfl
@[simp] theorem State.modMgmt_keeps (s : State) (f : Mgmt → Mgmt) : (s.modMgmt f).keeps = s.keeps := rfl
@[simp] theorem State.modMgmt_pool (s : State) (f : Mgmt → Mgmt) : (s.modMgmt f).pool = s.pool := rfl
@[simp] theorem State.modMgmt_homes (s : State) (f : Mgmt → Mgmt) : (s.modMgmt f).homes = s.homes := rfl
@[simp] theorem State.modMgmt_hosts (s : State) (f : Mgmt → Mgmt) : (s.modMgmt f).hosts = s.hosts := rfl
@[simp] theorem State.modMgmt_cores (s : State) (f : Mgmt → Mgmt) : (s.modMgmt f).cores = s.cores := rfl
@[simp] theorem State.modMgmt_slices (s : State) (f : Mgmt → Mgmt) : (s.modMgmt f).slices = s.slices := rfl
@[simp] theorem State.modMgmt_snpRsps (s : State) (f : Mgmt → Mgmt) : (s.modMgmt f).snpRsps = s.snpRsps := rfl
@[simp] theorem State.modMgmt_grants (s : State) (f : Mgmt → Mgmt) : (s.modMgmt f).grants = s.grants := rfl
@[simp] theorem State.modMgmt_caccs (s : State) (f : Mgmt → Mgmt) : (s.modMgmt f).caccs = s.caccs := rfl
@[simp] theorem State.modMgmt_nacks (s : State) (f : Mgmt → Mgmt) : (s.modMgmt f).nacks = s.nacks := rfl
@[simp] theorem State.modMgmt_wbAcks (s : State) (f : Mgmt → Mgmt) : (s.modMgmt f).wbAcks = s.wbAcks := rfl
@[simp] theorem State.modMgmt_rsps (s : State) (f : Mgmt → Mgmt) : (s.modMgmt f).rsps = s.rsps := rfl
@[simp] theorem State.modMgmt_dbg (s : State) (f : Mgmt → Mgmt) : (s.modMgmt f).dbg = s.dbg := rfl
@[simp] theorem State.modMgmt_ceils (s : State) (f : Mgmt → Mgmt) : (s.modMgmt f).ceils = s.ceils := rfl
@[simp] theorem State.modMgmt_msis (s : State) (f : Mgmt → Mgmt) : (s.modMgmt f).msis = s.msis := rfl
@[simp] theorem State.modMgmt_plumb (s : State) (f : Mgmt → Mgmt) : (s.modMgmt f).plumb = s.plumb := rfl
@[simp] theorem State.modMgmt_cxl (s : State) (f : Mgmt → Mgmt) : (s.modMgmt f).cxl = s.cxl := rfl
@[simp] theorem State.modMgmt_perst (s : State) (f : Mgmt → Mgmt) : (s.modMgmt f).perst = s.perst := rfl
@[simp] theorem State.modMgmt_present (s : State) (f : Mgmt → Mgmt) : (s.modMgmt f).present = s.present := rfl
@[simp] theorem State.modMgmt_links (s : State) (f : Mgmt → Mgmt) : (s.modMgmt f).links = s.links := rfl
@[simp] theorem State.modMgmt_ports (s : State) (f : Mgmt → Mgmt) : (s.modMgmt f).ports = s.ports := rfl
@[simp] theorem State.modMgmt_conns (s : State) (f : Mgmt → Mgmt) : (s.modMgmt f).conns = s.conns := rfl
@[simp] theorem State.modMgmt_courseTx (s : State) (f : Mgmt → Mgmt) : (s.modMgmt f).courseTx = s.courseTx := rfl
@[simp] theorem State.modMgmt_ethTx (s : State) (f : Mgmt → Mgmt) : (s.modMgmt f).ethTx = s.ethTx := rfl
@[simp] theorem State.modMgmt_aborts (s : State) (f : Mgmt → Mgmt) : (s.modMgmt f).aborts = s.aborts := rfl
@[simp] theorem State.modMgmt_hods (s : State) (f : Mgmt → Mgmt) : (s.modMgmt f).hods = s.hods := rfl
@[simp] theorem State.modMgmt_intakes (s : State) (f : Mgmt → Mgmt) : (s.modMgmt f).intakes = s.intakes := rfl
@[simp] theorem State.modMgmt_modId (s : State) (f : Mgmt → Mgmt) : (s.modMgmt f).modId = s.modId := rfl
@[simp] theorem State.modMgmt_midset (s : State) (f : Mgmt → Mgmt) : (s.modMgmt f).midset = s.midset := rfl
@[simp] theorem State.modMgmt_fw (s : State) (f : Mgmt → Mgmt) : (s.modMgmt f).fw = s.fw := rfl
@[simp] theorem State.modMgmt_strict (s : State) (f : Mgmt → Mgmt) : (s.modMgmt f).strict = s.strict := rfl
@[simp] theorem State.modMgmt_power (s : State) (f : Mgmt → Mgmt) : (s.modMgmt f).power = s.power := rfl
@[simp] theorem State.modMgmt_boot (s : State) (f : Mgmt → Mgmt) : (s.modMgmt f).boot = s.boot := rfl
@[simp] theorem State.modMgmt_regRsp (s : State) (f : Mgmt → Mgmt) : (s.modMgmt f).regRsp = s.regRsp := rfl
@[simp] theorem State.modMgmt_wipeNext (s : State) (f : Mgmt → Mgmt) : (s.modMgmt f).wipeNext = s.wipeNext := rfl

/-! ### `State.modBoot` leaves every field but `boot` -/

@[simp] theorem State.modBoot_pending (s : State) (f : Boot → Boot) : (s.modBoot f).pending = s.pending := rfl
@[simp] theorem State.modBoot_free (s : State) (f : Boot → Boot) : (s.modBoot f).free = s.free := rfl
@[simp] theorem State.modBoot_now (s : State) (f : Boot → Boot) : (s.modBoot f).now = s.now := rfl
@[simp] theorem State.modBoot_time (s : State) (f : Boot → Boot) : (s.modBoot f).time = s.time := rfl
@[simp] theorem State.modBoot_mem (s : State) (f : Boot → Boot) : (s.modBoot f).mem = s.mem := rfl
@[simp] theorem State.modBoot_poison (s : State) (f : Boot → Boot) : (s.modBoot f).poison = s.poison := rfl
@[simp] theorem State.modBoot_linePoison (s : State) (f : Boot → Boot) : (s.modBoot f).linePoison = s.linePoison := rfl
@[simp] theorem State.modBoot_injPoison (s : State) (f : Boot → Boot) : (s.modBoot f).injPoison = s.injPoison := rfl
@[simp] theorem State.modBoot_inj (s : State) (f : Boot → Boot) : (s.modBoot f).inj = s.inj := rfl
@[simp] theorem State.modBoot_tiles (s : State) (f : Boot → Boot) : (s.modBoot f).tiles = s.tiles := rfl
@[simp] theorem State.modBoot_rings (s : State) (f : Boot → Boot) : (s.modBoot f).rings = s.rings := rfl
@[simp] theorem State.modBoot_evt (s : State) (f : Boot → Boot) : (s.modBoot f).evt = s.evt := rfl
@[simp] theorem State.modBoot_adds (s : State) (f : Boot → Boot) : (s.modBoot f).adds = s.adds := rfl
@[simp] theorem State.modBoot_addAcks (s : State) (f : Boot → Boot) : (s.modBoot f).addAcks = s.addAcks := rfl
@[simp] theorem State.modBoot_panels (s : State) (f : Boot → Boot) : (s.modBoot f).panels = s.panels := rfl
@[simp] theorem State.modBoot_hbmStks (s : State) (f : Boot → Boot) : (s.modBoot f).hbmStks = s.hbmStks := rfl
@[simp] theorem State.modBoot_wipes (s : State) (f : Boot → Boot) : (s.modBoot f).wipes = s.wipes := rfl
@[simp] theorem State.modBoot_keeps (s : State) (f : Boot → Boot) : (s.modBoot f).keeps = s.keeps := rfl
@[simp] theorem State.modBoot_pool (s : State) (f : Boot → Boot) : (s.modBoot f).pool = s.pool := rfl
@[simp] theorem State.modBoot_homes (s : State) (f : Boot → Boot) : (s.modBoot f).homes = s.homes := rfl
@[simp] theorem State.modBoot_hosts (s : State) (f : Boot → Boot) : (s.modBoot f).hosts = s.hosts := rfl
@[simp] theorem State.modBoot_cores (s : State) (f : Boot → Boot) : (s.modBoot f).cores = s.cores := rfl
@[simp] theorem State.modBoot_slices (s : State) (f : Boot → Boot) : (s.modBoot f).slices = s.slices := rfl
@[simp] theorem State.modBoot_snpRsps (s : State) (f : Boot → Boot) : (s.modBoot f).snpRsps = s.snpRsps := rfl
@[simp] theorem State.modBoot_grants (s : State) (f : Boot → Boot) : (s.modBoot f).grants = s.grants := rfl
@[simp] theorem State.modBoot_caccs (s : State) (f : Boot → Boot) : (s.modBoot f).caccs = s.caccs := rfl
@[simp] theorem State.modBoot_nacks (s : State) (f : Boot → Boot) : (s.modBoot f).nacks = s.nacks := rfl
@[simp] theorem State.modBoot_wbAcks (s : State) (f : Boot → Boot) : (s.modBoot f).wbAcks = s.wbAcks := rfl
@[simp] theorem State.modBoot_rsps (s : State) (f : Boot → Boot) : (s.modBoot f).rsps = s.rsps := rfl
@[simp] theorem State.modBoot_dbg (s : State) (f : Boot → Boot) : (s.modBoot f).dbg = s.dbg := rfl
@[simp] theorem State.modBoot_ceils (s : State) (f : Boot → Boot) : (s.modBoot f).ceils = s.ceils := rfl
@[simp] theorem State.modBoot_msis (s : State) (f : Boot → Boot) : (s.modBoot f).msis = s.msis := rfl
@[simp] theorem State.modBoot_plumb (s : State) (f : Boot → Boot) : (s.modBoot f).plumb = s.plumb := rfl
@[simp] theorem State.modBoot_cxl (s : State) (f : Boot → Boot) : (s.modBoot f).cxl = s.cxl := rfl
@[simp] theorem State.modBoot_perst (s : State) (f : Boot → Boot) : (s.modBoot f).perst = s.perst := rfl
@[simp] theorem State.modBoot_present (s : State) (f : Boot → Boot) : (s.modBoot f).present = s.present := rfl
@[simp] theorem State.modBoot_links (s : State) (f : Boot → Boot) : (s.modBoot f).links = s.links := rfl
@[simp] theorem State.modBoot_ports (s : State) (f : Boot → Boot) : (s.modBoot f).ports = s.ports := rfl
@[simp] theorem State.modBoot_conns (s : State) (f : Boot → Boot) : (s.modBoot f).conns = s.conns := rfl
@[simp] theorem State.modBoot_courseTx (s : State) (f : Boot → Boot) : (s.modBoot f).courseTx = s.courseTx := rfl
@[simp] theorem State.modBoot_ethTx (s : State) (f : Boot → Boot) : (s.modBoot f).ethTx = s.ethTx := rfl
@[simp] theorem State.modBoot_aborts (s : State) (f : Boot → Boot) : (s.modBoot f).aborts = s.aborts := rfl
@[simp] theorem State.modBoot_hods (s : State) (f : Boot → Boot) : (s.modBoot f).hods = s.hods := rfl
@[simp] theorem State.modBoot_intakes (s : State) (f : Boot → Boot) : (s.modBoot f).intakes = s.intakes := rfl
@[simp] theorem State.modBoot_modId (s : State) (f : Boot → Boot) : (s.modBoot f).modId = s.modId := rfl
@[simp] theorem State.modBoot_midset (s : State) (f : Boot → Boot) : (s.modBoot f).midset = s.midset := rfl
@[simp] theorem State.modBoot_fw (s : State) (f : Boot → Boot) : (s.modBoot f).fw = s.fw := rfl
@[simp] theorem State.modBoot_strict (s : State) (f : Boot → Boot) : (s.modBoot f).strict = s.strict := rfl
@[simp] theorem State.modBoot_mgmt (s : State) (f : Boot → Boot) : (s.modBoot f).mgmt = s.mgmt := rfl
@[simp] theorem State.modBoot_power (s : State) (f : Boot → Boot) : (s.modBoot f).power = s.power := rfl
@[simp] theorem State.modBoot_regRsp (s : State) (f : Boot → Boot) : (s.modBoot f).regRsp = s.regRsp := rfl
@[simp] theorem State.modBoot_wipeNext (s : State) (f : Boot → Boot) : (s.modBoot f).wipeNext = s.wipeNext := rfl

/-! ### `State.writeByte` leaves every field but `mem` -/

@[simp] theorem State.writeByte_pending (s : State) (a : Nat) (b : Byte) : (s.writeByte a b).pending = s.pending := rfl
@[simp] theorem State.writeByte_free (s : State) (a : Nat) (b : Byte) : (s.writeByte a b).free = s.free := rfl
@[simp] theorem State.writeByte_now (s : State) (a : Nat) (b : Byte) : (s.writeByte a b).now = s.now := rfl
@[simp] theorem State.writeByte_time (s : State) (a : Nat) (b : Byte) : (s.writeByte a b).time = s.time := rfl
@[simp] theorem State.writeByte_poison (s : State) (a : Nat) (b : Byte) : (s.writeByte a b).poison = s.poison := rfl
@[simp] theorem State.writeByte_linePoison (s : State) (a : Nat) (b : Byte) : (s.writeByte a b).linePoison = s.linePoison := rfl
@[simp] theorem State.writeByte_injPoison (s : State) (a : Nat) (b : Byte) : (s.writeByte a b).injPoison = s.injPoison := rfl
@[simp] theorem State.writeByte_inj (s : State) (a : Nat) (b : Byte) : (s.writeByte a b).inj = s.inj := rfl
@[simp] theorem State.writeByte_tiles (s : State) (a : Nat) (b : Byte) : (s.writeByte a b).tiles = s.tiles := rfl
@[simp] theorem State.writeByte_rings (s : State) (a : Nat) (b : Byte) : (s.writeByte a b).rings = s.rings := rfl
@[simp] theorem State.writeByte_evt (s : State) (a : Nat) (b : Byte) : (s.writeByte a b).evt = s.evt := rfl
@[simp] theorem State.writeByte_adds (s : State) (a : Nat) (b : Byte) : (s.writeByte a b).adds = s.adds := rfl
@[simp] theorem State.writeByte_addAcks (s : State) (a : Nat) (b : Byte) : (s.writeByte a b).addAcks = s.addAcks := rfl
@[simp] theorem State.writeByte_panels (s : State) (a : Nat) (b : Byte) : (s.writeByte a b).panels = s.panels := rfl
@[simp] theorem State.writeByte_hbmStks (s : State) (a : Nat) (b : Byte) : (s.writeByte a b).hbmStks = s.hbmStks := rfl
@[simp] theorem State.writeByte_wipes (s : State) (a : Nat) (b : Byte) : (s.writeByte a b).wipes = s.wipes := rfl
@[simp] theorem State.writeByte_keeps (s : State) (a : Nat) (b : Byte) : (s.writeByte a b).keeps = s.keeps := rfl
@[simp] theorem State.writeByte_pool (s : State) (a : Nat) (b : Byte) : (s.writeByte a b).pool = s.pool := rfl
@[simp] theorem State.writeByte_homes (s : State) (a : Nat) (b : Byte) : (s.writeByte a b).homes = s.homes := rfl
@[simp] theorem State.writeByte_hosts (s : State) (a : Nat) (b : Byte) : (s.writeByte a b).hosts = s.hosts := rfl
@[simp] theorem State.writeByte_cores (s : State) (a : Nat) (b : Byte) : (s.writeByte a b).cores = s.cores := rfl
@[simp] theorem State.writeByte_slices (s : State) (a : Nat) (b : Byte) : (s.writeByte a b).slices = s.slices := rfl
@[simp] theorem State.writeByte_snpRsps (s : State) (a : Nat) (b : Byte) : (s.writeByte a b).snpRsps = s.snpRsps := rfl
@[simp] theorem State.writeByte_grants (s : State) (a : Nat) (b : Byte) : (s.writeByte a b).grants = s.grants := rfl
@[simp] theorem State.writeByte_caccs (s : State) (a : Nat) (b : Byte) : (s.writeByte a b).caccs = s.caccs := rfl
@[simp] theorem State.writeByte_nacks (s : State) (a : Nat) (b : Byte) : (s.writeByte a b).nacks = s.nacks := rfl
@[simp] theorem State.writeByte_wbAcks (s : State) (a : Nat) (b : Byte) : (s.writeByte a b).wbAcks = s.wbAcks := rfl
@[simp] theorem State.writeByte_rsps (s : State) (a : Nat) (b : Byte) : (s.writeByte a b).rsps = s.rsps := rfl
@[simp] theorem State.writeByte_dbg (s : State) (a : Nat) (b : Byte) : (s.writeByte a b).dbg = s.dbg := rfl
@[simp] theorem State.writeByte_ceils (s : State) (a : Nat) (b : Byte) : (s.writeByte a b).ceils = s.ceils := rfl
@[simp] theorem State.writeByte_msis (s : State) (a : Nat) (b : Byte) : (s.writeByte a b).msis = s.msis := rfl
@[simp] theorem State.writeByte_plumb (s : State) (a : Nat) (b : Byte) : (s.writeByte a b).plumb = s.plumb := rfl
@[simp] theorem State.writeByte_cxl (s : State) (a : Nat) (b : Byte) : (s.writeByte a b).cxl = s.cxl := rfl
@[simp] theorem State.writeByte_perst (s : State) (a : Nat) (b : Byte) : (s.writeByte a b).perst = s.perst := rfl
@[simp] theorem State.writeByte_present (s : State) (a : Nat) (b : Byte) : (s.writeByte a b).present = s.present := rfl
@[simp] theorem State.writeByte_links (s : State) (a : Nat) (b : Byte) : (s.writeByte a b).links = s.links := rfl
@[simp] theorem State.writeByte_ports (s : State) (a : Nat) (b : Byte) : (s.writeByte a b).ports = s.ports := rfl
@[simp] theorem State.writeByte_conns (s : State) (a : Nat) (b : Byte) : (s.writeByte a b).conns = s.conns := rfl
@[simp] theorem State.writeByte_courseTx (s : State) (a : Nat) (b : Byte) : (s.writeByte a b).courseTx = s.courseTx := rfl
@[simp] theorem State.writeByte_ethTx (s : State) (a : Nat) (b : Byte) : (s.writeByte a b).ethTx = s.ethTx := rfl
@[simp] theorem State.writeByte_aborts (s : State) (a : Nat) (b : Byte) : (s.writeByte a b).aborts = s.aborts := rfl
@[simp] theorem State.writeByte_hods (s : State) (a : Nat) (b : Byte) : (s.writeByte a b).hods = s.hods := rfl
@[simp] theorem State.writeByte_intakes (s : State) (a : Nat) (b : Byte) : (s.writeByte a b).intakes = s.intakes := rfl
@[simp] theorem State.writeByte_modId (s : State) (a : Nat) (b : Byte) : (s.writeByte a b).modId = s.modId := rfl
@[simp] theorem State.writeByte_midset (s : State) (a : Nat) (b : Byte) : (s.writeByte a b).midset = s.midset := rfl
@[simp] theorem State.writeByte_fw (s : State) (a : Nat) (b : Byte) : (s.writeByte a b).fw = s.fw := rfl
@[simp] theorem State.writeByte_strict (s : State) (a : Nat) (b : Byte) : (s.writeByte a b).strict = s.strict := rfl
@[simp] theorem State.writeByte_mgmt (s : State) (a : Nat) (b : Byte) : (s.writeByte a b).mgmt = s.mgmt := rfl
@[simp] theorem State.writeByte_power (s : State) (a : Nat) (b : Byte) : (s.writeByte a b).power = s.power := rfl
@[simp] theorem State.writeByte_boot (s : State) (a : Nat) (b : Byte) : (s.writeByte a b).boot = s.boot := rfl
@[simp] theorem State.writeByte_regRsp (s : State) (a : Nat) (b : Byte) : (s.writeByte a b).regRsp = s.regRsp := rfl
@[simp] theorem State.writeByte_wipeNext (s : State) (a : Nat) (b : Byte) : (s.writeByte a b).wipeNext = s.wipeNext := rfl

/-! ### Two updates of one record -/

@[simp] theorem State.setTile_setTile (s : State) (t : Nat) (u v : TileS) : (s.setTile t u).setTile t v = s.setTile t v := by
  simp only [State.setTile, Table.set_set]
@[simp] theorem State.setRing_setRing (s : State) (t : Nat) (u v : Ring) : (s.setRing t u).setRing t v = s.setRing t v := by
  simp only [State.setRing, Table.set_set]
@[simp] theorem State.setPanel_setPanel (s : State) (t : Nat) (u v : Panel) : (s.setPanel t u).setPanel t v = s.setPanel t v := by
  simp only [State.setPanel, Table.set_set]
@[simp] theorem State.setConn_setConn (s : State) (t : Nat) (u v : Conn) : (s.setConn t u).setConn t v = s.setConn t v := by
  simp only [State.setConn, Table.set_set]

/-! ### What the named reads see of an update of another part -/

@[simp] theorem State.setTile_ringR (s : State) (t : Nat) (v : TileS) (x1 : Nat) : (s.setTile t v).ring x1 = s.ring x1 := rfl
@[simp] theorem State.setTile_panelR (s : State) (t : Nat) (v : TileS) (x1 : Nat) : (s.setTile t v).panel x1 = s.panel x1 := rfl
@[simp] theorem State.setTile_jobR (s : State) (t : Nat) (v : TileS) (x1 y1 : Nat) : (s.setTile t v).job x1 y1 = s.job x1 y1 := rfl
@[simp] theorem State.setTile_stackR (s : State) (t : Nat) (v : TileS) (x1 : Nat) : (s.setTile t v).stack x1 = s.stack x1 := rfl
@[simp] theorem State.setTile_keepR (s : State) (t : Nat) (v : TileS) (x1 : Nat) : (s.setTile t v).keep x1 = s.keep x1 := rfl
@[simp] theorem State.setTile_homeR (s : State) (t : Nat) (v : TileS) (x1 : Nat) : (s.setTile t v).home x1 = s.home x1 := rfl
@[simp] theorem State.setTile_hostR (s : State) (t : Nat) (v : TileS) (x1 : Nat) : (s.setTile t v).host x1 = s.host x1 := rfl
@[simp] theorem State.setTile_coreR (s : State) (t : Nat) (v : TileS) (x1 : Nat) : (s.setTile t v).core x1 = s.core x1 := rfl
@[simp] theorem State.setTile_portR (s : State) (t : Nat) (v : TileS) (x1 : Nat) : (s.setTile t v).port x1 = s.port x1 := rfl
@[simp] theorem State.setTile_connR (s : State) (t : Nat) (v : TileS) (x1 : Nat) : (s.setTile t v).conn x1 = s.conn x1 := rfl
@[simp] theorem State.setTile_hodR (s : State) (t : Nat) (v : TileS) (x1 : Nat) : (s.setTile t v).hod x1 = s.hod x1 := rfl
@[simp] theorem State.setTile_intakeR (s : State) (t : Nat) (v : TileS) (x1 : Nat) : (s.setTile t v).intake x1 = s.intake x1 := rfl
@[simp] theorem State.setTile_readByteR (s : State) (t : Nat) (v : TileS) (x1 : Nat) : (s.setTile t v).readByte x1 = s.readByte x1 := rfl
@[simp] theorem State.setTile_tilePanelR (s : State) (t : Nat) (v : TileS) (x1 : Nat) : (s.setTile t v).tilePanel x1 = s.tilePanel x1 := rfl
@[simp] theorem State.setTile_haltedR (s : State) (t : Nat) (v : TileS) : (s.setTile t v).halted = s.halted := rfl
@[simp] theorem State.setTile_frozenR (s : State) (t : Nat) (v : TileS) : (s.setTile t v).frozen = s.frozen := rfl
@[simp] theorem State.setRing_tileR (s : State) (g : Nat) (v : Ring) (x1 : Nat) : (s.setRing g v).tile x1 = s.tile x1 := rfl
@[simp] theorem State.setRing_engineR (s : State) (g : Nat) (v : Ring) (x1 c1 : Nat) : (s.setRing g v).engine x1 c1 = s.engine x1 c1 := rfl
@[simp] theorem State.setRing_panelR (s : State) (g : Nat) (v : Ring) (x1 : Nat) : (s.setRing g v).panel x1 = s.panel x1 := rfl
@[simp] theorem State.setRing_jobR (s : State) (g : Nat) (v : Ring) (x1 y1 : Nat) : (s.setRing g v).job x1 y1 = s.job x1 y1 := rfl
@[simp] theorem State.setRing_stackR (s : State) (g : Nat) (v : Ring) (x1 : Nat) : (s.setRing g v).stack x1 = s.stack x1 := rfl
@[simp] theorem State.setRing_keepR (s : State) (g : Nat) (v : Ring) (x1 : Nat) : (s.setRing g v).keep x1 = s.keep x1 := rfl
@[simp] theorem State.setRing_homeR (s : State) (g : Nat) (v : Ring) (x1 : Nat) : (s.setRing g v).home x1 = s.home x1 := rfl
@[simp] theorem State.setRing_hostR (s : State) (g : Nat) (v : Ring) (x1 : Nat) : (s.setRing g v).host x1 = s.host x1 := rfl
@[simp] theorem State.setRing_coreR (s : State) (g : Nat) (v : Ring) (x1 : Nat) : (s.setRing g v).core x1 = s.core x1 := rfl
@[simp] theorem State.setRing_portR (s : State) (g : Nat) (v : Ring) (x1 : Nat) : (s.setRing g v).port x1 = s.port x1 := rfl
@[simp] theorem State.setRing_connR (s : State) (g : Nat) (v : Ring) (x1 : Nat) : (s.setRing g v).conn x1 = s.conn x1 := rfl
@[simp] theorem State.setRing_hodR (s : State) (g : Nat) (v : Ring) (x1 : Nat) : (s.setRing g v).hod x1 = s.hod x1 := rfl
@[simp] theorem State.setRing_intakeR (s : State) (g : Nat) (v : Ring) (x1 : Nat) : (s.setRing g v).intake x1 = s.intake x1 := rfl
@[simp] theorem State.setRing_readByteR (s : State) (g : Nat) (v : Ring) (x1 : Nat) : (s.setRing g v).readByte x1 = s.readByte x1 := rfl
@[simp] theorem State.setRing_tilePanelR (s : State) (g : Nat) (v : Ring) (x1 : Nat) : (s.setRing g v).tilePanel x1 = s.tilePanel x1 := rfl
@[simp] theorem State.setRing_haltedR (s : State) (g : Nat) (v : Ring) : (s.setRing g v).halted = s.halted := rfl
@[simp] theorem State.setRing_frozenR (s : State) (g : Nat) (v : Ring) : (s.setRing g v).frozen = s.frozen := rfl
@[simp] theorem State.setPanel_tileR (s : State) (p : Nat) (v : Panel) (x1 : Nat) : (s.setPanel p v).tile x1 = s.tile x1 := rfl
@[simp] theorem State.setPanel_engineR (s : State) (p : Nat) (v : Panel) (x1 c1 : Nat) : (s.setPanel p v).engine x1 c1 = s.engine x1 c1 := rfl
@[simp] theorem State.setPanel_ringR (s : State) (p : Nat) (v : Panel) (x1 : Nat) : (s.setPanel p v).ring x1 = s.ring x1 := rfl
@[simp] theorem State.setPanel_stackR (s : State) (p : Nat) (v : Panel) (x1 : Nat) : (s.setPanel p v).stack x1 = s.stack x1 := rfl
@[simp] theorem State.setPanel_keepR (s : State) (p : Nat) (v : Panel) (x1 : Nat) : (s.setPanel p v).keep x1 = s.keep x1 := rfl
@[simp] theorem State.setPanel_homeR (s : State) (p : Nat) (v : Panel) (x1 : Nat) : (s.setPanel p v).home x1 = s.home x1 := rfl
@[simp] theorem State.setPanel_hostR (s : State) (p : Nat) (v : Panel) (x1 : Nat) : (s.setPanel p v).host x1 = s.host x1 := rfl
@[simp] theorem State.setPanel_coreR (s : State) (p : Nat) (v : Panel) (x1 : Nat) : (s.setPanel p v).core x1 = s.core x1 := rfl
@[simp] theorem State.setPanel_portR (s : State) (p : Nat) (v : Panel) (x1 : Nat) : (s.setPanel p v).port x1 = s.port x1 := rfl
@[simp] theorem State.setPanel_connR (s : State) (p : Nat) (v : Panel) (x1 : Nat) : (s.setPanel p v).conn x1 = s.conn x1 := rfl
@[simp] theorem State.setPanel_hodR (s : State) (p : Nat) (v : Panel) (x1 : Nat) : (s.setPanel p v).hod x1 = s.hod x1 := rfl
@[simp] theorem State.setPanel_intakeR (s : State) (p : Nat) (v : Panel) (x1 : Nat) : (s.setPanel p v).intake x1 = s.intake x1 := rfl
@[simp] theorem State.setPanel_readByteR (s : State) (p : Nat) (v : Panel) (x1 : Nat) : (s.setPanel p v).readByte x1 = s.readByte x1 := rfl
@[simp] theorem State.setPanel_haltedR (s : State) (p : Nat) (v : Panel) : (s.setPanel p v).halted = s.halted := rfl
@[simp] theorem State.setPanel_frozenR (s : State) (p : Nat) (v : Panel) : (s.setPanel p v).frozen = s.frozen := rfl
@[simp] theorem State.modStack_tileR (s : State) (k : Nat) (f : Stack → Stack) (x1 : Nat) : (s.modStack k f).tile x1 = s.tile x1 := rfl
@[simp] theorem State.modStack_engineR (s : State) (k : Nat) (f : Stack → Stack) (x1 c1 : Nat) : (s.modStack k f).engine x1 c1 = s.engine x1 c1 := rfl
@[simp] theorem State.modStack_ringR (s : State) (k : Nat) (f : Stack → Stack) (x1 : Nat) : (s.modStack k f).ring x1 = s.ring x1 := rfl
@[simp] theorem State.modStack_panelR (s : State) (k : Nat) (f : Stack → Stack) (x1 : Nat) : (s.modStack k f).panel x1 = s.panel x1 := rfl
@[simp] theorem State.modStack_jobR (s : State) (k : Nat) (f : Stack → Stack) (x1 y1 : Nat) : (s.modStack k f).job x1 y1 = s.job x1 y1 := rfl
@[simp] theorem State.modStack_keepR (s : State) (k : Nat) (f : Stack → Stack) (x1 : Nat) : (s.modStack k f).keep x1 = s.keep x1 := rfl
@[simp] theorem State.modStack_homeR (s : State) (k : Nat) (f : Stack → Stack) (x1 : Nat) : (s.modStack k f).home x1 = s.home x1 := rfl
@[simp] theorem State.modStack_hostR (s : State) (k : Nat) (f : Stack → Stack) (x1 : Nat) : (s.modStack k f).host x1 = s.host x1 := rfl
@[simp] theorem State.modStack_coreR (s : State) (k : Nat) (f : Stack → Stack) (x1 : Nat) : (s.modStack k f).core x1 = s.core x1 := rfl
@[simp] theorem State.modStack_portR (s : State) (k : Nat) (f : Stack → Stack) (x1 : Nat) : (s.modStack k f).port x1 = s.port x1 := rfl
@[simp] theorem State.modStack_connR (s : State) (k : Nat) (f : Stack → Stack) (x1 : Nat) : (s.modStack k f).conn x1 = s.conn x1 := rfl
@[simp] theorem State.modStack_hodR (s : State) (k : Nat) (f : Stack → Stack) (x1 : Nat) : (s.modStack k f).hod x1 = s.hod x1 := rfl
@[simp] theorem State.modStack_intakeR (s : State) (k : Nat) (f : Stack → Stack) (x1 : Nat) : (s.modStack k f).intake x1 = s.intake x1 := rfl
@[simp] theorem State.modStack_readByteR (s : State) (k : Nat) (f : Stack → Stack) (x1 : Nat) : (s.modStack k f).readByte x1 = s.readByte x1 := rfl
@[simp] theorem State.modStack_tilePanelR (s : State) (k : Nat) (f : Stack → Stack) (x1 : Nat) : (s.modStack k f).tilePanel x1 = s.tilePanel x1 := rfl
@[simp] theorem State.modStack_haltedR (s : State) (k : Nat) (f : Stack → Stack) : (s.modStack k f).halted = s.halted := rfl
@[simp] theorem State.modStack_frozenR (s : State) (k : Nat) (f : Stack → Stack) : (s.modStack k f).frozen = s.frozen := rfl
@[simp] theorem State.modKeep_tileR (s : State) (k : Nat) (f : Keep → Keep) (x1 : Nat) : (s.modKeep k f).tile x1 = s.tile x1 := rfl
@[simp] theorem State.modKeep_engineR (s : State) (k : Nat) (f : Keep → Keep) (x1 c1 : Nat) : (s.modKeep k f).engine x1 c1 = s.engine x1 c1 := rfl
@[simp] theorem State.modKeep_ringR (s : State) (k : Nat) (f : Keep → Keep) (x1 : Nat) : (s.modKeep k f).ring x1 = s.ring x1 := rfl
@[simp] theorem State.modKeep_panelR (s : State) (k : Nat) (f : Keep → Keep) (x1 : Nat) : (s.modKeep k f).panel x1 = s.panel x1 := rfl
@[simp] theorem State.modKeep_jobR (s : State) (k : Nat) (f : Keep → Keep) (x1 y1 : Nat) : (s.modKeep k f).job x1 y1 = s.job x1 y1 := rfl
@[simp] theorem State.modKeep_stackR (s : State) (k : Nat) (f : Keep → Keep) (x1 : Nat) : (s.modKeep k f).stack x1 = s.stack x1 := rfl
@[simp] theorem State.modKeep_homeR (s : State) (k : Nat) (f : Keep → Keep) (x1 : Nat) : (s.modKeep k f).home x1 = s.home x1 := rfl
@[simp] theorem State.modKeep_hostR (s : State) (k : Nat) (f : Keep → Keep) (x1 : Nat) : (s.modKeep k f).host x1 = s.host x1 := rfl
@[simp] theorem State.modKeep_coreR (s : State) (k : Nat) (f : Keep → Keep) (x1 : Nat) : (s.modKeep k f).core x1 = s.core x1 := rfl
@[simp] theorem State.modKeep_portR (s : State) (k : Nat) (f : Keep → Keep) (x1 : Nat) : (s.modKeep k f).port x1 = s.port x1 := rfl
@[simp] theorem State.modKeep_connR (s : State) (k : Nat) (f : Keep → Keep) (x1 : Nat) : (s.modKeep k f).conn x1 = s.conn x1 := rfl
@[simp] theorem State.modKeep_hodR (s : State) (k : Nat) (f : Keep → Keep) (x1 : Nat) : (s.modKeep k f).hod x1 = s.hod x1 := rfl
@[simp] theorem State.modKeep_intakeR (s : State) (k : Nat) (f : Keep → Keep) (x1 : Nat) : (s.modKeep k f).intake x1 = s.intake x1 := rfl
@[simp] theorem State.modKeep_readByteR (s : State) (k : Nat) (f : Keep → Keep) (x1 : Nat) : (s.modKeep k f).readByte x1 = s.readByte x1 := rfl
@[simp] theorem State.modKeep_tilePanelR (s : State) (k : Nat) (f : Keep → Keep) (x1 : Nat) : (s.modKeep k f).tilePanel x1 = s.tilePanel x1 := rfl
@[simp] theorem State.modKeep_haltedR (s : State) (k : Nat) (f : Keep → Keep) : (s.modKeep k f).halted = s.halted := rfl
@[simp] theorem State.modKeep_frozenR (s : State) (k : Nat) (f : Keep → Keep) : (s.modKeep k f).frozen = s.frozen := rfl
@[simp] theorem State.modHome_tileR (s : State) (h : Nat) (f : Home → Home) (x1 : Nat) : (s.modHome h f).tile x1 = s.tile x1 := rfl
@[simp] theorem State.modHome_engineR (s : State) (h : Nat) (f : Home → Home) (x1 c1 : Nat) : (s.modHome h f).engine x1 c1 = s.engine x1 c1 := rfl
@[simp] theorem State.modHome_ringR (s : State) (h : Nat) (f : Home → Home) (x1 : Nat) : (s.modHome h f).ring x1 = s.ring x1 := rfl
@[simp] theorem State.modHome_panelR (s : State) (h : Nat) (f : Home → Home) (x1 : Nat) : (s.modHome h f).panel x1 = s.panel x1 := rfl
@[simp] theorem State.modHome_jobR (s : State) (h : Nat) (f : Home → Home) (x1 y1 : Nat) : (s.modHome h f).job x1 y1 = s.job x1 y1 := rfl
@[simp] theorem State.modHome_stackR (s : State) (h : Nat) (f : Home → Home) (x1 : Nat) : (s.modHome h f).stack x1 = s.stack x1 := rfl
@[simp] theorem State.modHome_keepR (s : State) (h : Nat) (f : Home → Home) (x1 : Nat) : (s.modHome h f).keep x1 = s.keep x1 := rfl
@[simp] theorem State.modHome_hostR (s : State) (h : Nat) (f : Home → Home) (x1 : Nat) : (s.modHome h f).host x1 = s.host x1 := rfl
@[simp] theorem State.modHome_coreR (s : State) (h : Nat) (f : Home → Home) (x1 : Nat) : (s.modHome h f).core x1 = s.core x1 := rfl
@[simp] theorem State.modHome_portR (s : State) (h : Nat) (f : Home → Home) (x1 : Nat) : (s.modHome h f).port x1 = s.port x1 := rfl
@[simp] theorem State.modHome_connR (s : State) (h : Nat) (f : Home → Home) (x1 : Nat) : (s.modHome h f).conn x1 = s.conn x1 := rfl
@[simp] theorem State.modHome_hodR (s : State) (h : Nat) (f : Home → Home) (x1 : Nat) : (s.modHome h f).hod x1 = s.hod x1 := rfl
@[simp] theorem State.modHome_intakeR (s : State) (h : Nat) (f : Home → Home) (x1 : Nat) : (s.modHome h f).intake x1 = s.intake x1 := rfl
@[simp] theorem State.modHome_readByteR (s : State) (h : Nat) (f : Home → Home) (x1 : Nat) : (s.modHome h f).readByte x1 = s.readByte x1 := rfl
@[simp] theorem State.modHome_tilePanelR (s : State) (h : Nat) (f : Home → Home) (x1 : Nat) : (s.modHome h f).tilePanel x1 = s.tilePanel x1 := rfl
@[simp] theorem State.modHome_haltedR (s : State) (h : Nat) (f : Home → Home) : (s.modHome h f).halted = s.halted := rfl
@[simp] theorem State.modHome_frozenR (s : State) (h : Nat) (f : Home → Home) : (s.modHome h f).frozen = s.frozen := rfl
@[simp] theorem State.modHost_tileR (s : State) (h : Nat) (f : HostS → HostS) (x1 : Nat) : (s.modHost h f).tile x1 = s.tile x1 := rfl
@[simp] theorem State.modHost_engineR (s : State) (h : Nat) (f : HostS → HostS) (x1 c1 : Nat) : (s.modHost h f).engine x1 c1 = s.engine x1 c1 := rfl
@[simp] theorem State.modHost_ringR (s : State) (h : Nat) (f : HostS → HostS) (x1 : Nat) : (s.modHost h f).ring x1 = s.ring x1 := rfl
@[simp] theorem State.modHost_panelR (s : State) (h : Nat) (f : HostS → HostS) (x1 : Nat) : (s.modHost h f).panel x1 = s.panel x1 := rfl
@[simp] theorem State.modHost_jobR (s : State) (h : Nat) (f : HostS → HostS) (x1 y1 : Nat) : (s.modHost h f).job x1 y1 = s.job x1 y1 := rfl
@[simp] theorem State.modHost_stackR (s : State) (h : Nat) (f : HostS → HostS) (x1 : Nat) : (s.modHost h f).stack x1 = s.stack x1 := rfl
@[simp] theorem State.modHost_keepR (s : State) (h : Nat) (f : HostS → HostS) (x1 : Nat) : (s.modHost h f).keep x1 = s.keep x1 := rfl
@[simp] theorem State.modHost_homeR (s : State) (h : Nat) (f : HostS → HostS) (x1 : Nat) : (s.modHost h f).home x1 = s.home x1 := rfl
@[simp] theorem State.modHost_coreR (s : State) (h : Nat) (f : HostS → HostS) (x1 : Nat) : (s.modHost h f).core x1 = s.core x1 := rfl
@[simp] theorem State.modHost_portR (s : State) (h : Nat) (f : HostS → HostS) (x1 : Nat) : (s.modHost h f).port x1 = s.port x1 := rfl
@[simp] theorem State.modHost_connR (s : State) (h : Nat) (f : HostS → HostS) (x1 : Nat) : (s.modHost h f).conn x1 = s.conn x1 := rfl
@[simp] theorem State.modHost_hodR (s : State) (h : Nat) (f : HostS → HostS) (x1 : Nat) : (s.modHost h f).hod x1 = s.hod x1 := rfl
@[simp] theorem State.modHost_intakeR (s : State) (h : Nat) (f : HostS → HostS) (x1 : Nat) : (s.modHost h f).intake x1 = s.intake x1 := rfl
@[simp] theorem State.modHost_readByteR (s : State) (h : Nat) (f : HostS → HostS) (x1 : Nat) : (s.modHost h f).readByte x1 = s.readByte x1 := rfl
@[simp] theorem State.modHost_tilePanelR (s : State) (h : Nat) (f : HostS → HostS) (x1 : Nat) : (s.modHost h f).tilePanel x1 = s.tilePanel x1 := rfl
@[simp] theorem State.modHost_haltedR (s : State) (h : Nat) (f : HostS → HostS) : (s.modHost h f).halted = s.halted := rfl
@[simp] theorem State.modHost_frozenR (s : State) (h : Nat) (f : HostS → HostS) : (s.modHost h f).frozen = s.frozen := rfl
@[simp] theorem State.modCore_tileR (s : State) (c : Nat) (f : HostCore → HostCore) (x1 : Nat) : (s.modCore c f).tile x1 = s.tile x1 := rfl
@[simp] theorem State.modCore_engineR (s : State) (c : Nat) (f : HostCore → HostCore) (x1 c1 : Nat) : (s.modCore c f).engine x1 c1 = s.engine x1 c1 := rfl
@[simp] theorem State.modCore_ringR (s : State) (c : Nat) (f : HostCore → HostCore) (x1 : Nat) : (s.modCore c f).ring x1 = s.ring x1 := rfl
@[simp] theorem State.modCore_panelR (s : State) (c : Nat) (f : HostCore → HostCore) (x1 : Nat) : (s.modCore c f).panel x1 = s.panel x1 := rfl
@[simp] theorem State.modCore_jobR (s : State) (c : Nat) (f : HostCore → HostCore) (x1 y1 : Nat) : (s.modCore c f).job x1 y1 = s.job x1 y1 := rfl
@[simp] theorem State.modCore_stackR (s : State) (c : Nat) (f : HostCore → HostCore) (x1 : Nat) : (s.modCore c f).stack x1 = s.stack x1 := rfl
@[simp] theorem State.modCore_keepR (s : State) (c : Nat) (f : HostCore → HostCore) (x1 : Nat) : (s.modCore c f).keep x1 = s.keep x1 := rfl
@[simp] theorem State.modCore_homeR (s : State) (c : Nat) (f : HostCore → HostCore) (x1 : Nat) : (s.modCore c f).home x1 = s.home x1 := rfl
@[simp] theorem State.modCore_hostR (s : State) (c : Nat) (f : HostCore → HostCore) (x1 : Nat) : (s.modCore c f).host x1 = s.host x1 := rfl
@[simp] theorem State.modCore_portR (s : State) (c : Nat) (f : HostCore → HostCore) (x1 : Nat) : (s.modCore c f).port x1 = s.port x1 := rfl
@[simp] theorem State.modCore_connR (s : State) (c : Nat) (f : HostCore → HostCore) (x1 : Nat) : (s.modCore c f).conn x1 = s.conn x1 := rfl
@[simp] theorem State.modCore_hodR (s : State) (c : Nat) (f : HostCore → HostCore) (x1 : Nat) : (s.modCore c f).hod x1 = s.hod x1 := rfl
@[simp] theorem State.modCore_intakeR (s : State) (c : Nat) (f : HostCore → HostCore) (x1 : Nat) : (s.modCore c f).intake x1 = s.intake x1 := rfl
@[simp] theorem State.modCore_readByteR (s : State) (c : Nat) (f : HostCore → HostCore) (x1 : Nat) : (s.modCore c f).readByte x1 = s.readByte x1 := rfl
@[simp] theorem State.modCore_tilePanelR (s : State) (c : Nat) (f : HostCore → HostCore) (x1 : Nat) : (s.modCore c f).tilePanel x1 = s.tilePanel x1 := rfl
@[simp] theorem State.modCore_haltedR (s : State) (c : Nat) (f : HostCore → HostCore) : (s.modCore c f).halted = s.halted := rfl
@[simp] theorem State.modCore_frozenR (s : State) (c : Nat) (f : HostCore → HostCore) : (s.modCore c f).frozen = s.frozen := rfl
@[simp] theorem State.modPort_tileR (s : State) (n : Nat) (f : CPort → CPort) (x1 : Nat) : (s.modPort n f).tile x1 = s.tile x1 := rfl
@[simp] theorem State.modPort_engineR (s : State) (n : Nat) (f : CPort → CPort) (x1 c1 : Nat) : (s.modPort n f).engine x1 c1 = s.engine x1 c1 := rfl
@[simp] theorem State.modPort_ringR (s : State) (n : Nat) (f : CPort → CPort) (x1 : Nat) : (s.modPort n f).ring x1 = s.ring x1 := rfl
@[simp] theorem State.modPort_panelR (s : State) (n : Nat) (f : CPort → CPort) (x1 : Nat) : (s.modPort n f).panel x1 = s.panel x1 := rfl
@[simp] theorem State.modPort_jobR (s : State) (n : Nat) (f : CPort → CPort) (x1 y1 : Nat) : (s.modPort n f).job x1 y1 = s.job x1 y1 := rfl
@[simp] theorem State.modPort_stackR (s : State) (n : Nat) (f : CPort → CPort) (x1 : Nat) : (s.modPort n f).stack x1 = s.stack x1 := rfl
@[simp] theorem State.modPort_keepR (s : State) (n : Nat) (f : CPort → CPort) (x1 : Nat) : (s.modPort n f).keep x1 = s.keep x1 := rfl
@[simp] theorem State.modPort_homeR (s : State) (n : Nat) (f : CPort → CPort) (x1 : Nat) : (s.modPort n f).home x1 = s.home x1 := rfl
@[simp] theorem State.modPort_hostR (s : State) (n : Nat) (f : CPort → CPort) (x1 : Nat) : (s.modPort n f).host x1 = s.host x1 := rfl
@[simp] theorem State.modPort_coreR (s : State) (n : Nat) (f : CPort → CPort) (x1 : Nat) : (s.modPort n f).core x1 = s.core x1 := rfl
@[simp] theorem State.modPort_connR (s : State) (n : Nat) (f : CPort → CPort) (x1 : Nat) : (s.modPort n f).conn x1 = s.conn x1 := rfl
@[simp] theorem State.modPort_hodR (s : State) (n : Nat) (f : CPort → CPort) (x1 : Nat) : (s.modPort n f).hod x1 = s.hod x1 := rfl
@[simp] theorem State.modPort_intakeR (s : State) (n : Nat) (f : CPort → CPort) (x1 : Nat) : (s.modPort n f).intake x1 = s.intake x1 := rfl
@[simp] theorem State.modPort_readByteR (s : State) (n : Nat) (f : CPort → CPort) (x1 : Nat) : (s.modPort n f).readByte x1 = s.readByte x1 := rfl
@[simp] theorem State.modPort_tilePanelR (s : State) (n : Nat) (f : CPort → CPort) (x1 : Nat) : (s.modPort n f).tilePanel x1 = s.tilePanel x1 := rfl
@[simp] theorem State.modPort_haltedR (s : State) (n : Nat) (f : CPort → CPort) : (s.modPort n f).halted = s.halted := rfl
@[simp] theorem State.modPort_frozenR (s : State) (n : Nat) (f : CPort → CPort) : (s.modPort n f).frozen = s.frozen := rfl
@[simp] theorem State.setConn_tileR (s : State) (k : Nat) (c : Conn) (x1 : Nat) : (s.setConn k c).tile x1 = s.tile x1 := rfl
@[simp] theorem State.setConn_engineR (s : State) (k : Nat) (c : Conn) (x1 c1 : Nat) : (s.setConn k c).engine x1 c1 = s.engine x1 c1 := rfl
@[simp] theorem State.setConn_ringR (s : State) (k : Nat) (c : Conn) (x1 : Nat) : (s.setConn k c).ring x1 = s.ring x1 := rfl
@[simp] theorem State.setConn_panelR (s : State) (k : Nat) (c : Conn) (x1 : Nat) : (s.setConn k c).panel x1 = s.panel x1 := rfl
@[simp] theorem State.setConn_jobR (s : State) (k : Nat) (c : Conn) (x1 y1 : Nat) : (s.setConn k c).job x1 y1 = s.job x1 y1 := rfl
@[simp] theorem State.setConn_stackR (s : State) (k : Nat) (c : Conn) (x1 : Nat) : (s.setConn k c).stack x1 = s.stack x1 := rfl
@[simp] theorem State.setConn_keepR (s : State) (k : Nat) (c : Conn) (x1 : Nat) : (s.setConn k c).keep x1 = s.keep x1 := rfl
@[simp] theorem State.setConn_homeR (s : State) (k : Nat) (c : Conn) (x1 : Nat) : (s.setConn k c).home x1 = s.home x1 := rfl
@[simp] theorem State.setConn_hostR (s : State) (k : Nat) (c : Conn) (x1 : Nat) : (s.setConn k c).host x1 = s.host x1 := rfl
@[simp] theorem State.setConn_coreR (s : State) (k : Nat) (c : Conn) (x1 : Nat) : (s.setConn k c).core x1 = s.core x1 := rfl
@[simp] theorem State.setConn_portR (s : State) (k : Nat) (c : Conn) (x1 : Nat) : (s.setConn k c).port x1 = s.port x1 := rfl
@[simp] theorem State.setConn_hodR (s : State) (k : Nat) (c : Conn) (x1 : Nat) : (s.setConn k c).hod x1 = s.hod x1 := rfl
@[simp] theorem State.setConn_intakeR (s : State) (k : Nat) (c : Conn) (x1 : Nat) : (s.setConn k c).intake x1 = s.intake x1 := rfl
@[simp] theorem State.setConn_readByteR (s : State) (k : Nat) (c : Conn) (x1 : Nat) : (s.setConn k c).readByte x1 = s.readByte x1 := rfl
@[simp] theorem State.setConn_tilePanelR (s : State) (k : Nat) (c : Conn) (x1 : Nat) : (s.setConn k c).tilePanel x1 = s.tilePanel x1 := rfl
@[simp] theorem State.setConn_haltedR (s : State) (k : Nat) (c : Conn) : (s.setConn k c).halted = s.halted := rfl
@[simp] theorem State.setConn_frozenR (s : State) (k : Nat) (c : Conn) : (s.setConn k c).frozen = s.frozen := rfl
@[simp] theorem State.modHod_tileR (s : State) (h : Nat) (f : HodS → HodS) (x1 : Nat) : (s.modHod h f).tile x1 = s.tile x1 := rfl
@[simp] theorem State.modHod_engineR (s : State) (h : Nat) (f : HodS → HodS) (x1 c1 : Nat) : (s.modHod h f).engine x1 c1 = s.engine x1 c1 := rfl
@[simp] theorem State.modHod_ringR (s : State) (h : Nat) (f : HodS → HodS) (x1 : Nat) : (s.modHod h f).ring x1 = s.ring x1 := rfl
@[simp] theorem State.modHod_panelR (s : State) (h : Nat) (f : HodS → HodS) (x1 : Nat) : (s.modHod h f).panel x1 = s.panel x1 := rfl
@[simp] theorem State.modHod_jobR (s : State) (h : Nat) (f : HodS → HodS) (x1 y1 : Nat) : (s.modHod h f).job x1 y1 = s.job x1 y1 := rfl
@[simp] theorem State.modHod_stackR (s : State) (h : Nat) (f : HodS → HodS) (x1 : Nat) : (s.modHod h f).stack x1 = s.stack x1 := rfl
@[simp] theorem State.modHod_keepR (s : State) (h : Nat) (f : HodS → HodS) (x1 : Nat) : (s.modHod h f).keep x1 = s.keep x1 := rfl
@[simp] theorem State.modHod_homeR (s : State) (h : Nat) (f : HodS → HodS) (x1 : Nat) : (s.modHod h f).home x1 = s.home x1 := rfl
@[simp] theorem State.modHod_hostR (s : State) (h : Nat) (f : HodS → HodS) (x1 : Nat) : (s.modHod h f).host x1 = s.host x1 := rfl
@[simp] theorem State.modHod_coreR (s : State) (h : Nat) (f : HodS → HodS) (x1 : Nat) : (s.modHod h f).core x1 = s.core x1 := rfl
@[simp] theorem State.modHod_portR (s : State) (h : Nat) (f : HodS → HodS) (x1 : Nat) : (s.modHod h f).port x1 = s.port x1 := rfl
@[simp] theorem State.modHod_connR (s : State) (h : Nat) (f : HodS → HodS) (x1 : Nat) : (s.modHod h f).conn x1 = s.conn x1 := rfl
@[simp] theorem State.modHod_intakeR (s : State) (h : Nat) (f : HodS → HodS) (x1 : Nat) : (s.modHod h f).intake x1 = s.intake x1 := rfl
@[simp] theorem State.modHod_readByteR (s : State) (h : Nat) (f : HodS → HodS) (x1 : Nat) : (s.modHod h f).readByte x1 = s.readByte x1 := rfl
@[simp] theorem State.modHod_tilePanelR (s : State) (h : Nat) (f : HodS → HodS) (x1 : Nat) : (s.modHod h f).tilePanel x1 = s.tilePanel x1 := rfl
@[simp] theorem State.modHod_haltedR (s : State) (h : Nat) (f : HodS → HodS) : (s.modHod h f).halted = s.halted := rfl
@[simp] theorem State.modHod_frozenR (s : State) (h : Nat) (f : HodS → HodS) : (s.modHod h f).frozen = s.frozen := rfl
@[simp] theorem State.modIntake_tileR (s : State) (n : Nat) (f : IntS → IntS) (x1 : Nat) : (s.modIntake n f).tile x1 = s.tile x1 := rfl
@[simp] theorem State.modIntake_engineR (s : State) (n : Nat) (f : IntS → IntS) (x1 c1 : Nat) : (s.modIntake n f).engine x1 c1 = s.engine x1 c1 := rfl
@[simp] theorem State.modIntake_ringR (s : State) (n : Nat) (f : IntS → IntS) (x1 : Nat) : (s.modIntake n f).ring x1 = s.ring x1 := rfl
@[simp] theorem State.modIntake_panelR (s : State) (n : Nat) (f : IntS → IntS) (x1 : Nat) : (s.modIntake n f).panel x1 = s.panel x1 := rfl
@[simp] theorem State.modIntake_jobR (s : State) (n : Nat) (f : IntS → IntS) (x1 y1 : Nat) : (s.modIntake n f).job x1 y1 = s.job x1 y1 := rfl
@[simp] theorem State.modIntake_stackR (s : State) (n : Nat) (f : IntS → IntS) (x1 : Nat) : (s.modIntake n f).stack x1 = s.stack x1 := rfl
@[simp] theorem State.modIntake_keepR (s : State) (n : Nat) (f : IntS → IntS) (x1 : Nat) : (s.modIntake n f).keep x1 = s.keep x1 := rfl
@[simp] theorem State.modIntake_homeR (s : State) (n : Nat) (f : IntS → IntS) (x1 : Nat) : (s.modIntake n f).home x1 = s.home x1 := rfl
@[simp] theorem State.modIntake_hostR (s : State) (n : Nat) (f : IntS → IntS) (x1 : Nat) : (s.modIntake n f).host x1 = s.host x1 := rfl
@[simp] theorem State.modIntake_coreR (s : State) (n : Nat) (f : IntS → IntS) (x1 : Nat) : (s.modIntake n f).core x1 = s.core x1 := rfl
@[simp] theorem State.modIntake_portR (s : State) (n : Nat) (f : IntS → IntS) (x1 : Nat) : (s.modIntake n f).port x1 = s.port x1 := rfl
@[simp] theorem State.modIntake_connR (s : State) (n : Nat) (f : IntS → IntS) (x1 : Nat) : (s.modIntake n f).conn x1 = s.conn x1 := rfl
@[simp] theorem State.modIntake_hodR (s : State) (n : Nat) (f : IntS → IntS) (x1 : Nat) : (s.modIntake n f).hod x1 = s.hod x1 := rfl
@[simp] theorem State.modIntake_readByteR (s : State) (n : Nat) (f : IntS → IntS) (x1 : Nat) : (s.modIntake n f).readByte x1 = s.readByte x1 := rfl
@[simp] theorem State.modIntake_tilePanelR (s : State) (n : Nat) (f : IntS → IntS) (x1 : Nat) : (s.modIntake n f).tilePanel x1 = s.tilePanel x1 := rfl
@[simp] theorem State.modIntake_haltedR (s : State) (n : Nat) (f : IntS → IntS) : (s.modIntake n f).halted = s.halted := rfl
@[simp] theorem State.modIntake_frozenR (s : State) (n : Nat) (f : IntS → IntS) : (s.modIntake n f).frozen = s.frozen := rfl
@[simp] theorem State.modLink_tileR (s : State) (k : Nat) (f : Link → Link) (x1 : Nat) : (s.modLink k f).tile x1 = s.tile x1 := rfl
@[simp] theorem State.modLink_engineR (s : State) (k : Nat) (f : Link → Link) (x1 c1 : Nat) : (s.modLink k f).engine x1 c1 = s.engine x1 c1 := rfl
@[simp] theorem State.modLink_ringR (s : State) (k : Nat) (f : Link → Link) (x1 : Nat) : (s.modLink k f).ring x1 = s.ring x1 := rfl
@[simp] theorem State.modLink_panelR (s : State) (k : Nat) (f : Link → Link) (x1 : Nat) : (s.modLink k f).panel x1 = s.panel x1 := rfl
@[simp] theorem State.modLink_jobR (s : State) (k : Nat) (f : Link → Link) (x1 y1 : Nat) : (s.modLink k f).job x1 y1 = s.job x1 y1 := rfl
@[simp] theorem State.modLink_stackR (s : State) (k : Nat) (f : Link → Link) (x1 : Nat) : (s.modLink k f).stack x1 = s.stack x1 := rfl
@[simp] theorem State.modLink_keepR (s : State) (k : Nat) (f : Link → Link) (x1 : Nat) : (s.modLink k f).keep x1 = s.keep x1 := rfl
@[simp] theorem State.modLink_homeR (s : State) (k : Nat) (f : Link → Link) (x1 : Nat) : (s.modLink k f).home x1 = s.home x1 := rfl
@[simp] theorem State.modLink_hostR (s : State) (k : Nat) (f : Link → Link) (x1 : Nat) : (s.modLink k f).host x1 = s.host x1 := rfl
@[simp] theorem State.modLink_coreR (s : State) (k : Nat) (f : Link → Link) (x1 : Nat) : (s.modLink k f).core x1 = s.core x1 := rfl
@[simp] theorem State.modLink_portR (s : State) (k : Nat) (f : Link → Link) (x1 : Nat) : (s.modLink k f).port x1 = s.port x1 := rfl
@[simp] theorem State.modLink_connR (s : State) (k : Nat) (f : Link → Link) (x1 : Nat) : (s.modLink k f).conn x1 = s.conn x1 := rfl
@[simp] theorem State.modLink_hodR (s : State) (k : Nat) (f : Link → Link) (x1 : Nat) : (s.modLink k f).hod x1 = s.hod x1 := rfl
@[simp] theorem State.modLink_intakeR (s : State) (k : Nat) (f : Link → Link) (x1 : Nat) : (s.modLink k f).intake x1 = s.intake x1 := rfl
@[simp] theorem State.modLink_readByteR (s : State) (k : Nat) (f : Link → Link) (x1 : Nat) : (s.modLink k f).readByte x1 = s.readByte x1 := rfl
@[simp] theorem State.modLink_tilePanelR (s : State) (k : Nat) (f : Link → Link) (x1 : Nat) : (s.modLink k f).tilePanel x1 = s.tilePanel x1 := rfl
@[simp] theorem State.modLink_haltedR (s : State) (k : Nat) (f : Link → Link) : (s.modLink k f).halted = s.halted := rfl
@[simp] theorem State.modLink_frozenR (s : State) (k : Nat) (f : Link → Link) : (s.modLink k f).frozen = s.frozen := rfl
@[simp] theorem State.modSlice_tileR (s : State) (k : SliceId) (f : Slice → Slice) (x1 : Nat) : (s.modSlice k f).tile x1 = s.tile x1 := rfl
@[simp] theorem State.modSlice_engineR (s : State) (k : SliceId) (f : Slice → Slice) (x1 c1 : Nat) : (s.modSlice k f).engine x1 c1 = s.engine x1 c1 := rfl
@[simp] theorem State.modSlice_ringR (s : State) (k : SliceId) (f : Slice → Slice) (x1 : Nat) : (s.modSlice k f).ring x1 = s.ring x1 := rfl
@[simp] theorem State.modSlice_panelR (s : State) (k : SliceId) (f : Slice → Slice) (x1 : Nat) : (s.modSlice k f).panel x1 = s.panel x1 := rfl
@[simp] theorem State.modSlice_jobR (s : State) (k : SliceId) (f : Slice → Slice) (x1 y1 : Nat) : (s.modSlice k f).job x1 y1 = s.job x1 y1 := rfl
@[simp] theorem State.modSlice_stackR (s : State) (k : SliceId) (f : Slice → Slice) (x1 : Nat) : (s.modSlice k f).stack x1 = s.stack x1 := rfl
@[simp] theorem State.modSlice_keepR (s : State) (k : SliceId) (f : Slice → Slice) (x1 : Nat) : (s.modSlice k f).keep x1 = s.keep x1 := rfl
@[simp] theorem State.modSlice_homeR (s : State) (k : SliceId) (f : Slice → Slice) (x1 : Nat) : (s.modSlice k f).home x1 = s.home x1 := rfl
@[simp] theorem State.modSlice_hostR (s : State) (k : SliceId) (f : Slice → Slice) (x1 : Nat) : (s.modSlice k f).host x1 = s.host x1 := rfl
@[simp] theorem State.modSlice_coreR (s : State) (k : SliceId) (f : Slice → Slice) (x1 : Nat) : (s.modSlice k f).core x1 = s.core x1 := rfl
@[simp] theorem State.modSlice_portR (s : State) (k : SliceId) (f : Slice → Slice) (x1 : Nat) : (s.modSlice k f).port x1 = s.port x1 := rfl
@[simp] theorem State.modSlice_connR (s : State) (k : SliceId) (f : Slice → Slice) (x1 : Nat) : (s.modSlice k f).conn x1 = s.conn x1 := rfl
@[simp] theorem State.modSlice_hodR (s : State) (k : SliceId) (f : Slice → Slice) (x1 : Nat) : (s.modSlice k f).hod x1 = s.hod x1 := rfl
@[simp] theorem State.modSlice_intakeR (s : State) (k : SliceId) (f : Slice → Slice) (x1 : Nat) : (s.modSlice k f).intake x1 = s.intake x1 := rfl
@[simp] theorem State.modSlice_readByteR (s : State) (k : SliceId) (f : Slice → Slice) (x1 : Nat) : (s.modSlice k f).readByte x1 = s.readByte x1 := rfl
@[simp] theorem State.modSlice_tilePanelR (s : State) (k : SliceId) (f : Slice → Slice) (x1 : Nat) : (s.modSlice k f).tilePanel x1 = s.tilePanel x1 := rfl
@[simp] theorem State.modSlice_haltedR (s : State) (k : SliceId) (f : Slice → Slice) : (s.modSlice k f).halted = s.halted := rfl
@[simp] theorem State.modSlice_frozenR (s : State) (k : SliceId) (f : Slice → Slice) : (s.modSlice k f).frozen = s.frozen := rfl
@[simp] theorem State.modMgmt_tileR (s : State) (f : Mgmt → Mgmt) (x1 : Nat) : (s.modMgmt f).tile x1 = s.tile x1 := rfl
@[simp] theorem State.modMgmt_engineR (s : State) (f : Mgmt → Mgmt) (x1 c1 : Nat) : (s.modMgmt f).engine x1 c1 = s.engine x1 c1 := rfl
@[simp] theorem State.modMgmt_ringR (s : State) (f : Mgmt → Mgmt) (x1 : Nat) : (s.modMgmt f).ring x1 = s.ring x1 := rfl
@[simp] theorem State.modMgmt_panelR (s : State) (f : Mgmt → Mgmt) (x1 : Nat) : (s.modMgmt f).panel x1 = s.panel x1 := rfl
@[simp] theorem State.modMgmt_jobR (s : State) (f : Mgmt → Mgmt) (x1 y1 : Nat) : (s.modMgmt f).job x1 y1 = s.job x1 y1 := rfl
@[simp] theorem State.modMgmt_stackR (s : State) (f : Mgmt → Mgmt) (x1 : Nat) : (s.modMgmt f).stack x1 = s.stack x1 := rfl
@[simp] theorem State.modMgmt_keepR (s : State) (f : Mgmt → Mgmt) (x1 : Nat) : (s.modMgmt f).keep x1 = s.keep x1 := rfl
@[simp] theorem State.modMgmt_homeR (s : State) (f : Mgmt → Mgmt) (x1 : Nat) : (s.modMgmt f).home x1 = s.home x1 := rfl
@[simp] theorem State.modMgmt_hostR (s : State) (f : Mgmt → Mgmt) (x1 : Nat) : (s.modMgmt f).host x1 = s.host x1 := rfl
@[simp] theorem State.modMgmt_coreR (s : State) (f : Mgmt → Mgmt) (x1 : Nat) : (s.modMgmt f).core x1 = s.core x1 := rfl
@[simp] theorem State.modMgmt_portR (s : State) (f : Mgmt → Mgmt) (x1 : Nat) : (s.modMgmt f).port x1 = s.port x1 := rfl
@[simp] theorem State.modMgmt_connR (s : State) (f : Mgmt → Mgmt) (x1 : Nat) : (s.modMgmt f).conn x1 = s.conn x1 := rfl
@[simp] theorem State.modMgmt_hodR (s : State) (f : Mgmt → Mgmt) (x1 : Nat) : (s.modMgmt f).hod x1 = s.hod x1 := rfl
@[simp] theorem State.modMgmt_intakeR (s : State) (f : Mgmt → Mgmt) (x1 : Nat) : (s.modMgmt f).intake x1 = s.intake x1 := rfl
@[simp] theorem State.modMgmt_readByteR (s : State) (f : Mgmt → Mgmt) (x1 : Nat) : (s.modMgmt f).readByte x1 = s.readByte x1 := rfl
@[simp] theorem State.modMgmt_tilePanelR (s : State) (f : Mgmt → Mgmt) (x1 : Nat) : (s.modMgmt f).tilePanel x1 = s.tilePanel x1 := rfl
@[simp] theorem State.modMgmt_haltedR (s : State) (f : Mgmt → Mgmt) : (s.modMgmt f).halted = s.halted := rfl
@[simp] theorem State.modMgmt_frozenR (s : State) (f : Mgmt → Mgmt) : (s.modMgmt f).frozen = s.frozen := rfl
@[simp] theorem State.modBoot_tileR (s : State) (f : Boot → Boot) (x1 : Nat) : (s.modBoot f).tile x1 = s.tile x1 := rfl
@[simp] theorem State.modBoot_engineR (s : State) (f : Boot → Boot) (x1 c1 : Nat) : (s.modBoot f).engine x1 c1 = s.engine x1 c1 := rfl
@[simp] theorem State.modBoot_ringR (s : State) (f : Boot → Boot) (x1 : Nat) : (s.modBoot f).ring x1 = s.ring x1 := rfl
@[simp] theorem State.modBoot_panelR (s : State) (f : Boot → Boot) (x1 : Nat) : (s.modBoot f).panel x1 = s.panel x1 := rfl
@[simp] theorem State.modBoot_jobR (s : State) (f : Boot → Boot) (x1 y1 : Nat) : (s.modBoot f).job x1 y1 = s.job x1 y1 := rfl
@[simp] theorem State.modBoot_stackR (s : State) (f : Boot → Boot) (x1 : Nat) : (s.modBoot f).stack x1 = s.stack x1 := rfl
@[simp] theorem State.modBoot_keepR (s : State) (f : Boot → Boot) (x1 : Nat) : (s.modBoot f).keep x1 = s.keep x1 := rfl
@[simp] theorem State.modBoot_homeR (s : State) (f : Boot → Boot) (x1 : Nat) : (s.modBoot f).home x1 = s.home x1 := rfl
@[simp] theorem State.modBoot_hostR (s : State) (f : Boot → Boot) (x1 : Nat) : (s.modBoot f).host x1 = s.host x1 := rfl
@[simp] theorem State.modBoot_coreR (s : State) (f : Boot → Boot) (x1 : Nat) : (s.modBoot f).core x1 = s.core x1 := rfl
@[simp] theorem State.modBoot_portR (s : State) (f : Boot → Boot) (x1 : Nat) : (s.modBoot f).port x1 = s.port x1 := rfl
@[simp] theorem State.modBoot_connR (s : State) (f : Boot → Boot) (x1 : Nat) : (s.modBoot f).conn x1 = s.conn x1 := rfl
@[simp] theorem State.modBoot_hodR (s : State) (f : Boot → Boot) (x1 : Nat) : (s.modBoot f).hod x1 = s.hod x1 := rfl
@[simp] theorem State.modBoot_intakeR (s : State) (f : Boot → Boot) (x1 : Nat) : (s.modBoot f).intake x1 = s.intake x1 := rfl
@[simp] theorem State.modBoot_readByteR (s : State) (f : Boot → Boot) (x1 : Nat) : (s.modBoot f).readByte x1 = s.readByte x1 := rfl
@[simp] theorem State.modBoot_tilePanelR (s : State) (f : Boot → Boot) (x1 : Nat) : (s.modBoot f).tilePanel x1 = s.tilePanel x1 := rfl
@[simp] theorem State.modBoot_haltedR (s : State) (f : Boot → Boot) : (s.modBoot f).halted = s.halted := rfl
@[simp] theorem State.modBoot_frozenR (s : State) (f : Boot → Boot) : (s.modBoot f).frozen = s.frozen := rfl
@[simp] theorem State.writeByte_tileR (s : State) (a : Nat) (b : Byte) (x1 : Nat) : (s.writeByte a b).tile x1 = s.tile x1 := rfl
@[simp] theorem State.writeByte_engineR (s : State) (a : Nat) (b : Byte) (x1 c1 : Nat) : (s.writeByte a b).engine x1 c1 = s.engine x1 c1 := rfl
@[simp] theorem State.writeByte_ringR (s : State) (a : Nat) (b : Byte) (x1 : Nat) : (s.writeByte a b).ring x1 = s.ring x1 := rfl
@[simp] theorem State.writeByte_panelR (s : State) (a : Nat) (b : Byte) (x1 : Nat) : (s.writeByte a b).panel x1 = s.panel x1 := rfl
@[simp] theorem State.writeByte_jobR (s : State) (a : Nat) (b : Byte) (x1 y1 : Nat) : (s.writeByte a b).job x1 y1 = s.job x1 y1 := rfl
@[simp] theorem State.writeByte_stackR (s : State) (a : Nat) (b : Byte) (x1 : Nat) : (s.writeByte a b).stack x1 = s.stack x1 := rfl
@[simp] theorem State.writeByte_keepR (s : State) (a : Nat) (b : Byte) (x1 : Nat) : (s.writeByte a b).keep x1 = s.keep x1 := rfl
@[simp] theorem State.writeByte_homeR (s : State) (a : Nat) (b : Byte) (x1 : Nat) : (s.writeByte a b).home x1 = s.home x1 := rfl
@[simp] theorem State.writeByte_hostR (s : State) (a : Nat) (b : Byte) (x1 : Nat) : (s.writeByte a b).host x1 = s.host x1 := rfl
@[simp] theorem State.writeByte_coreR (s : State) (a : Nat) (b : Byte) (x1 : Nat) : (s.writeByte a b).core x1 = s.core x1 := rfl
@[simp] theorem State.writeByte_portR (s : State) (a : Nat) (b : Byte) (x1 : Nat) : (s.writeByte a b).port x1 = s.port x1 := rfl
@[simp] theorem State.writeByte_connR (s : State) (a : Nat) (b : Byte) (x1 : Nat) : (s.writeByte a b).conn x1 = s.conn x1 := rfl
@[simp] theorem State.writeByte_hodR (s : State) (a : Nat) (b : Byte) (x1 : Nat) : (s.writeByte a b).hod x1 = s.hod x1 := rfl
@[simp] theorem State.writeByte_intakeR (s : State) (a : Nat) (b : Byte) (x1 : Nat) : (s.writeByte a b).intake x1 = s.intake x1 := rfl
@[simp] theorem State.writeByte_tilePanelR (s : State) (a : Nat) (b : Byte) (x1 : Nat) : (s.writeByte a b).tilePanel x1 = s.tilePanel x1 := rfl
@[simp] theorem State.writeByte_haltedR (s : State) (a : Nat) (b : Byte) : (s.writeByte a b).halted = s.halted := rfl
@[simp] theorem State.writeByte_frozenR (s : State) (a : Nat) (b : Byte) : (s.writeByte a b).frozen = s.frozen := rfl

/-! ### Writes of bytes -/

@[simp] theorem State.writeBytes_tileR (s : State) (a : Nat) (bs : List Byte) (x1 : Nat) : (s.writeBytes a bs).tile x1 = s.tile x1 := rfl
@[simp] theorem State.writeBytes_engineR (s : State) (a : Nat) (bs : List Byte) (x1 c1 : Nat) : (s.writeBytes a bs).engine x1 c1 = s.engine x1 c1 := rfl
@[simp] theorem State.writeBytes_ringR (s : State) (a : Nat) (bs : List Byte) (x1 : Nat) : (s.writeBytes a bs).ring x1 = s.ring x1 := rfl
@[simp] theorem State.writeBytes_panelR (s : State) (a : Nat) (bs : List Byte) (x1 : Nat) : (s.writeBytes a bs).panel x1 = s.panel x1 := rfl
@[simp] theorem State.writeBytes_jobR (s : State) (a : Nat) (bs : List Byte) (x1 y1 : Nat) : (s.writeBytes a bs).job x1 y1 = s.job x1 y1 := rfl
@[simp] theorem State.writeBytes_stackR (s : State) (a : Nat) (bs : List Byte) (x1 : Nat) : (s.writeBytes a bs).stack x1 = s.stack x1 := rfl
@[simp] theorem State.writeBytes_keepR (s : State) (a : Nat) (bs : List Byte) (x1 : Nat) : (s.writeBytes a bs).keep x1 = s.keep x1 := rfl
@[simp] theorem State.writeBytes_homeR (s : State) (a : Nat) (bs : List Byte) (x1 : Nat) : (s.writeBytes a bs).home x1 = s.home x1 := rfl
@[simp] theorem State.writeBytes_hostR (s : State) (a : Nat) (bs : List Byte) (x1 : Nat) : (s.writeBytes a bs).host x1 = s.host x1 := rfl
@[simp] theorem State.writeBytes_coreR (s : State) (a : Nat) (bs : List Byte) (x1 : Nat) : (s.writeBytes a bs).core x1 = s.core x1 := rfl
@[simp] theorem State.writeBytes_portR (s : State) (a : Nat) (bs : List Byte) (x1 : Nat) : (s.writeBytes a bs).port x1 = s.port x1 := rfl
@[simp] theorem State.writeBytes_connR (s : State) (a : Nat) (bs : List Byte) (x1 : Nat) : (s.writeBytes a bs).conn x1 = s.conn x1 := rfl
@[simp] theorem State.writeBytes_hodR (s : State) (a : Nat) (bs : List Byte) (x1 : Nat) : (s.writeBytes a bs).hod x1 = s.hod x1 := rfl
@[simp] theorem State.writeBytes_intakeR (s : State) (a : Nat) (bs : List Byte) (x1 : Nat) : (s.writeBytes a bs).intake x1 = s.intake x1 := rfl
@[simp] theorem State.writeBytes_tilePanelR (s : State) (a : Nat) (bs : List Byte) (x1 : Nat) : (s.writeBytes a bs).tilePanel x1 = s.tilePanel x1 := rfl
@[simp] theorem State.writeBytes_haltedR (s : State) (a : Nat) (bs : List Byte)  : (s.writeBytes a bs).halted = s.halted := rfl
@[simp] theorem State.writeBytes_frozenR (s : State) (a : Nat) (bs : List Byte)  : (s.writeBytes a bs).frozen = s.frozen := rfl
@[simp] theorem State.writeBytes_pending (s : State) (a : Nat) (bs : List Byte) : (s.writeBytes a bs).pending = s.pending := rfl
@[simp] theorem State.writeBytes_free (s : State) (a : Nat) (bs : List Byte) : (s.writeBytes a bs).free = s.free := rfl
@[simp] theorem State.writeBytes_now (s : State) (a : Nat) (bs : List Byte) : (s.writeBytes a bs).now = s.now := rfl
@[simp] theorem State.writeBytes_time (s : State) (a : Nat) (bs : List Byte) : (s.writeBytes a bs).time = s.time := rfl
@[simp] theorem State.writeBytes_inj (s : State) (a : Nat) (bs : List Byte) : (s.writeBytes a bs).inj = s.inj := rfl
@[simp] theorem State.writeBytes_tiles (s : State) (a : Nat) (bs : List Byte) : (s.writeBytes a bs).tiles = s.tiles := rfl
@[simp] theorem State.writeBytes_rings (s : State) (a : Nat) (bs : List Byte) : (s.writeBytes a bs).rings = s.rings := rfl
@[simp] theorem State.writeBytes_evt (s : State) (a : Nat) (bs : List Byte) : (s.writeBytes a bs).evt = s.evt := rfl
@[simp] theorem State.writeBytes_adds (s : State) (a : Nat) (bs : List Byte) : (s.writeBytes a bs).adds = s.adds := rfl
@[simp] theorem State.writeBytes_addAcks (s : State) (a : Nat) (bs : List Byte) : (s.writeBytes a bs).addAcks = s.addAcks := rfl
@[simp] theorem State.writeBytes_panels (s : State) (a : Nat) (bs : List Byte) : (s.writeBytes a bs).panels = s.panels := rfl
@[simp] theorem State.writeBytes_hbmStks (s : State) (a : Nat) (bs : List Byte) : (s.writeBytes a bs).hbmStks = s.hbmStks := rfl
@[simp] theorem State.writeBytes_wipes (s : State) (a : Nat) (bs : List Byte) : (s.writeBytes a bs).wipes = s.wipes := rfl
@[simp] theorem State.writeBytes_keeps (s : State) (a : Nat) (bs : List Byte) : (s.writeBytes a bs).keeps = s.keeps := rfl
@[simp] theorem State.writeBytes_pool (s : State) (a : Nat) (bs : List Byte) : (s.writeBytes a bs).pool = s.pool := rfl
@[simp] theorem State.writeBytes_homes (s : State) (a : Nat) (bs : List Byte) : (s.writeBytes a bs).homes = s.homes := rfl
@[simp] theorem State.writeBytes_hosts (s : State) (a : Nat) (bs : List Byte) : (s.writeBytes a bs).hosts = s.hosts := rfl
@[simp] theorem State.writeBytes_cores (s : State) (a : Nat) (bs : List Byte) : (s.writeBytes a bs).cores = s.cores := rfl
@[simp] theorem State.writeBytes_slices (s : State) (a : Nat) (bs : List Byte) : (s.writeBytes a bs).slices = s.slices := rfl
@[simp] theorem State.writeBytes_snpRsps (s : State) (a : Nat) (bs : List Byte) : (s.writeBytes a bs).snpRsps = s.snpRsps := rfl
@[simp] theorem State.writeBytes_grants (s : State) (a : Nat) (bs : List Byte) : (s.writeBytes a bs).grants = s.grants := rfl
@[simp] theorem State.writeBytes_caccs (s : State) (a : Nat) (bs : List Byte) : (s.writeBytes a bs).caccs = s.caccs := rfl
@[simp] theorem State.writeBytes_nacks (s : State) (a : Nat) (bs : List Byte) : (s.writeBytes a bs).nacks = s.nacks := rfl
@[simp] theorem State.writeBytes_wbAcks (s : State) (a : Nat) (bs : List Byte) : (s.writeBytes a bs).wbAcks = s.wbAcks := rfl
@[simp] theorem State.writeBytes_rsps (s : State) (a : Nat) (bs : List Byte) : (s.writeBytes a bs).rsps = s.rsps := rfl
@[simp] theorem State.writeBytes_dbg (s : State) (a : Nat) (bs : List Byte) : (s.writeBytes a bs).dbg = s.dbg := rfl
@[simp] theorem State.writeBytes_ceils (s : State) (a : Nat) (bs : List Byte) : (s.writeBytes a bs).ceils = s.ceils := rfl
@[simp] theorem State.writeBytes_msis (s : State) (a : Nat) (bs : List Byte) : (s.writeBytes a bs).msis = s.msis := rfl
@[simp] theorem State.writeBytes_plumb (s : State) (a : Nat) (bs : List Byte) : (s.writeBytes a bs).plumb = s.plumb := rfl
@[simp] theorem State.writeBytes_cxl (s : State) (a : Nat) (bs : List Byte) : (s.writeBytes a bs).cxl = s.cxl := rfl
@[simp] theorem State.writeBytes_perst (s : State) (a : Nat) (bs : List Byte) : (s.writeBytes a bs).perst = s.perst := rfl
@[simp] theorem State.writeBytes_present (s : State) (a : Nat) (bs : List Byte) : (s.writeBytes a bs).present = s.present := rfl
@[simp] theorem State.writeBytes_links (s : State) (a : Nat) (bs : List Byte) : (s.writeBytes a bs).links = s.links := rfl
@[simp] theorem State.writeBytes_ports (s : State) (a : Nat) (bs : List Byte) : (s.writeBytes a bs).ports = s.ports := rfl
@[simp] theorem State.writeBytes_conns (s : State) (a : Nat) (bs : List Byte) : (s.writeBytes a bs).conns = s.conns := rfl
@[simp] theorem State.writeBytes_courseTx (s : State) (a : Nat) (bs : List Byte) : (s.writeBytes a bs).courseTx = s.courseTx := rfl
@[simp] theorem State.writeBytes_ethTx (s : State) (a : Nat) (bs : List Byte) : (s.writeBytes a bs).ethTx = s.ethTx := rfl
@[simp] theorem State.writeBytes_aborts (s : State) (a : Nat) (bs : List Byte) : (s.writeBytes a bs).aborts = s.aborts := rfl
@[simp] theorem State.writeBytes_hods (s : State) (a : Nat) (bs : List Byte) : (s.writeBytes a bs).hods = s.hods := rfl
@[simp] theorem State.writeBytes_intakes (s : State) (a : Nat) (bs : List Byte) : (s.writeBytes a bs).intakes = s.intakes := rfl
@[simp] theorem State.writeBytes_modId (s : State) (a : Nat) (bs : List Byte) : (s.writeBytes a bs).modId = s.modId := rfl
@[simp] theorem State.writeBytes_midset (s : State) (a : Nat) (bs : List Byte) : (s.writeBytes a bs).midset = s.midset := rfl
@[simp] theorem State.writeBytes_fw (s : State) (a : Nat) (bs : List Byte) : (s.writeBytes a bs).fw = s.fw := rfl
@[simp] theorem State.writeBytes_strict (s : State) (a : Nat) (bs : List Byte) : (s.writeBytes a bs).strict = s.strict := rfl
@[simp] theorem State.writeBytes_mgmt (s : State) (a : Nat) (bs : List Byte) : (s.writeBytes a bs).mgmt = s.mgmt := rfl
@[simp] theorem State.writeBytes_power (s : State) (a : Nat) (bs : List Byte) : (s.writeBytes a bs).power = s.power := rfl
@[simp] theorem State.writeBytes_boot (s : State) (a : Nat) (bs : List Byte) : (s.writeBytes a bs).boot = s.boot := rfl
@[simp] theorem State.writeBytes_regRsp (s : State) (a : Nat) (bs : List Byte) : (s.writeBytes a bs).regRsp = s.regRsp := rfl
@[simp] theorem State.writeBytes_wipeNext (s : State) (a : Nat) (bs : List Byte) : (s.writeBytes a bs).wipeNext = s.wipeNext := rfl
@[simp] theorem State.writeNat_tileR (s : State) (n a v : Nat) (x1 : Nat) : (s.writeNat n a v).tile x1 = s.tile x1 := rfl
@[simp] theorem State.writeNat_engineR (s : State) (n a v : Nat) (x1 c1 : Nat) : (s.writeNat n a v).engine x1 c1 = s.engine x1 c1 := rfl
@[simp] theorem State.writeNat_ringR (s : State) (n a v : Nat) (x1 : Nat) : (s.writeNat n a v).ring x1 = s.ring x1 := rfl
@[simp] theorem State.writeNat_panelR (s : State) (n a v : Nat) (x1 : Nat) : (s.writeNat n a v).panel x1 = s.panel x1 := rfl
@[simp] theorem State.writeNat_jobR (s : State) (n a v : Nat) (x1 y1 : Nat) : (s.writeNat n a v).job x1 y1 = s.job x1 y1 := rfl
@[simp] theorem State.writeNat_stackR (s : State) (n a v : Nat) (x1 : Nat) : (s.writeNat n a v).stack x1 = s.stack x1 := rfl
@[simp] theorem State.writeNat_keepR (s : State) (n a v : Nat) (x1 : Nat) : (s.writeNat n a v).keep x1 = s.keep x1 := rfl
@[simp] theorem State.writeNat_homeR (s : State) (n a v : Nat) (x1 : Nat) : (s.writeNat n a v).home x1 = s.home x1 := rfl
@[simp] theorem State.writeNat_hostR (s : State) (n a v : Nat) (x1 : Nat) : (s.writeNat n a v).host x1 = s.host x1 := rfl
@[simp] theorem State.writeNat_coreR (s : State) (n a v : Nat) (x1 : Nat) : (s.writeNat n a v).core x1 = s.core x1 := rfl
@[simp] theorem State.writeNat_portR (s : State) (n a v : Nat) (x1 : Nat) : (s.writeNat n a v).port x1 = s.port x1 := rfl
@[simp] theorem State.writeNat_connR (s : State) (n a v : Nat) (x1 : Nat) : (s.writeNat n a v).conn x1 = s.conn x1 := rfl
@[simp] theorem State.writeNat_hodR (s : State) (n a v : Nat) (x1 : Nat) : (s.writeNat n a v).hod x1 = s.hod x1 := rfl
@[simp] theorem State.writeNat_intakeR (s : State) (n a v : Nat) (x1 : Nat) : (s.writeNat n a v).intake x1 = s.intake x1 := rfl
@[simp] theorem State.writeNat_tilePanelR (s : State) (n a v : Nat) (x1 : Nat) : (s.writeNat n a v).tilePanel x1 = s.tilePanel x1 := rfl
@[simp] theorem State.writeNat_haltedR (s : State) (n a v : Nat)  : (s.writeNat n a v).halted = s.halted := rfl
@[simp] theorem State.writeNat_frozenR (s : State) (n a v : Nat)  : (s.writeNat n a v).frozen = s.frozen := rfl
@[simp] theorem State.writeNat_pending (s : State) (n a v : Nat) : (s.writeNat n a v).pending = s.pending := rfl
@[simp] theorem State.writeNat_free (s : State) (n a v : Nat) : (s.writeNat n a v).free = s.free := rfl
@[simp] theorem State.writeNat_now (s : State) (n a v : Nat) : (s.writeNat n a v).now = s.now := rfl
@[simp] theorem State.writeNat_time (s : State) (n a v : Nat) : (s.writeNat n a v).time = s.time := rfl
@[simp] theorem State.writeNat_inj (s : State) (n a v : Nat) : (s.writeNat n a v).inj = s.inj := rfl
@[simp] theorem State.writeNat_tiles (s : State) (n a v : Nat) : (s.writeNat n a v).tiles = s.tiles := rfl
@[simp] theorem State.writeNat_rings (s : State) (n a v : Nat) : (s.writeNat n a v).rings = s.rings := rfl
@[simp] theorem State.writeNat_evt (s : State) (n a v : Nat) : (s.writeNat n a v).evt = s.evt := rfl
@[simp] theorem State.writeNat_adds (s : State) (n a v : Nat) : (s.writeNat n a v).adds = s.adds := rfl
@[simp] theorem State.writeNat_addAcks (s : State) (n a v : Nat) : (s.writeNat n a v).addAcks = s.addAcks := rfl
@[simp] theorem State.writeNat_panels (s : State) (n a v : Nat) : (s.writeNat n a v).panels = s.panels := rfl
@[simp] theorem State.writeNat_hbmStks (s : State) (n a v : Nat) : (s.writeNat n a v).hbmStks = s.hbmStks := rfl
@[simp] theorem State.writeNat_wipes (s : State) (n a v : Nat) : (s.writeNat n a v).wipes = s.wipes := rfl
@[simp] theorem State.writeNat_keeps (s : State) (n a v : Nat) : (s.writeNat n a v).keeps = s.keeps := rfl
@[simp] theorem State.writeNat_pool (s : State) (n a v : Nat) : (s.writeNat n a v).pool = s.pool := rfl
@[simp] theorem State.writeNat_homes (s : State) (n a v : Nat) : (s.writeNat n a v).homes = s.homes := rfl
@[simp] theorem State.writeNat_hosts (s : State) (n a v : Nat) : (s.writeNat n a v).hosts = s.hosts := rfl
@[simp] theorem State.writeNat_cores (s : State) (n a v : Nat) : (s.writeNat n a v).cores = s.cores := rfl
@[simp] theorem State.writeNat_slices (s : State) (n a v : Nat) : (s.writeNat n a v).slices = s.slices := rfl
@[simp] theorem State.writeNat_snpRsps (s : State) (n a v : Nat) : (s.writeNat n a v).snpRsps = s.snpRsps := rfl
@[simp] theorem State.writeNat_grants (s : State) (n a v : Nat) : (s.writeNat n a v).grants = s.grants := rfl
@[simp] theorem State.writeNat_caccs (s : State) (n a v : Nat) : (s.writeNat n a v).caccs = s.caccs := rfl
@[simp] theorem State.writeNat_nacks (s : State) (n a v : Nat) : (s.writeNat n a v).nacks = s.nacks := rfl
@[simp] theorem State.writeNat_wbAcks (s : State) (n a v : Nat) : (s.writeNat n a v).wbAcks = s.wbAcks := rfl
@[simp] theorem State.writeNat_rsps (s : State) (n a v : Nat) : (s.writeNat n a v).rsps = s.rsps := rfl
@[simp] theorem State.writeNat_dbg (s : State) (n a v : Nat) : (s.writeNat n a v).dbg = s.dbg := rfl
@[simp] theorem State.writeNat_ceils (s : State) (n a v : Nat) : (s.writeNat n a v).ceils = s.ceils := rfl
@[simp] theorem State.writeNat_msis (s : State) (n a v : Nat) : (s.writeNat n a v).msis = s.msis := rfl
@[simp] theorem State.writeNat_plumb (s : State) (n a v : Nat) : (s.writeNat n a v).plumb = s.plumb := rfl
@[simp] theorem State.writeNat_cxl (s : State) (n a v : Nat) : (s.writeNat n a v).cxl = s.cxl := rfl
@[simp] theorem State.writeNat_perst (s : State) (n a v : Nat) : (s.writeNat n a v).perst = s.perst := rfl
@[simp] theorem State.writeNat_present (s : State) (n a v : Nat) : (s.writeNat n a v).present = s.present := rfl
@[simp] theorem State.writeNat_links (s : State) (n a v : Nat) : (s.writeNat n a v).links = s.links := rfl
@[simp] theorem State.writeNat_ports (s : State) (n a v : Nat) : (s.writeNat n a v).ports = s.ports := rfl
@[simp] theorem State.writeNat_conns (s : State) (n a v : Nat) : (s.writeNat n a v).conns = s.conns := rfl
@[simp] theorem State.writeNat_courseTx (s : State) (n a v : Nat) : (s.writeNat n a v).courseTx = s.courseTx := rfl
@[simp] theorem State.writeNat_ethTx (s : State) (n a v : Nat) : (s.writeNat n a v).ethTx = s.ethTx := rfl
@[simp] theorem State.writeNat_aborts (s : State) (n a v : Nat) : (s.writeNat n a v).aborts = s.aborts := rfl
@[simp] theorem State.writeNat_hods (s : State) (n a v : Nat) : (s.writeNat n a v).hods = s.hods := rfl
@[simp] theorem State.writeNat_intakes (s : State) (n a v : Nat) : (s.writeNat n a v).intakes = s.intakes := rfl
@[simp] theorem State.writeNat_modId (s : State) (n a v : Nat) : (s.writeNat n a v).modId = s.modId := rfl
@[simp] theorem State.writeNat_midset (s : State) (n a v : Nat) : (s.writeNat n a v).midset = s.midset := rfl
@[simp] theorem State.writeNat_fw (s : State) (n a v : Nat) : (s.writeNat n a v).fw = s.fw := rfl
@[simp] theorem State.writeNat_strict (s : State) (n a v : Nat) : (s.writeNat n a v).strict = s.strict := rfl
@[simp] theorem State.writeNat_mgmt (s : State) (n a v : Nat) : (s.writeNat n a v).mgmt = s.mgmt := rfl
@[simp] theorem State.writeNat_power (s : State) (n a v : Nat) : (s.writeNat n a v).power = s.power := rfl
@[simp] theorem State.writeNat_boot (s : State) (n a v : Nat) : (s.writeNat n a v).boot = s.boot := rfl
@[simp] theorem State.writeNat_regRsp (s : State) (n a v : Nat) : (s.writeNat n a v).regRsp = s.regRsp := rfl
@[simp] theorem State.writeNat_wipeNext (s : State) (n a v : Nat) : (s.writeNat n a v).wipeNext = s.wipeNext := rfl

end Sys2Proof.Machine
end

