-- ==== Sys2Proof/Laws/Ops.lean ====
section
/-!
SUPPORT. What the shared operations over memory, records and jobs do, said once for the proofs that cite them.
-/
namespace Sys2Proof.Machine
open Sys2Proof

/-! ### Bytes -/

@[simp] theorem toBytes_length (n v : Nat) : (toBytes n v).length = n := by
  induction n generalizing v with
  | zero => rfl
  | succ n ih => simp [toBytes, ih]

@[simp] theorem ofBytes_toBytes (n v : Nat) : ofBytes (toBytes n v) = v % 256 ^ n := by
  induction n generalizing v with
  | zero => simp [toBytes, ofBytes, Nat.mod_one]
  | succ n ih =>
    simp only [toBytes, ofBytes, ih, BitVec.toNat_ofNat]
    rw [show (256 : Nat) ^ (n + 1) = 256 * 256 ^ n by rw [Nat.pow_succ, Nat.mul_comm], Nat.mod_mul]

theorem State.readByte_writeBytes (s : State) (a : Nat) (bs : List Byte) (k : Nat) :
    (s.writeBytes a bs).readByte k = if a ≤ k ∧ k < a + bs.length then bs.getD (k - a) 0 else s.readByte k :=
  writeMem_get _ _ _ _

/-- A write changes no byte outside its range. -/
theorem State.writeBytes_outside (s : State) (a : Nat) (bs : List Byte) :
    s.bytesOutside (s.writeBytes a bs) a bs.length := by
  intro k hk
  rw [State.readByte_writeBytes, if_neg (by omega)]

/-- A read of the range just written returns what was written. -/
@[simp] theorem State.readBytes_writeBytes (s : State) (a : Nat) (bs : List Byte) :
    (s.writeBytes a bs).readBytes bs.length a = bs := by
  apply List.ext_getElem (by simp [State.readBytes])
  intro i h1 h2
  simp only [State.readBytes, List.getElem_map, List.getElem_range, State.readByte_writeBytes]
  rw [if_pos (by omega), show a + i - a = i by omega]
  simp [List.getD, h2]

@[simp] theorem State.readNat_writeNat (s : State) (n a v : Nat) : (s.writeNat n a v).readNat n a = v % 256 ^ n := by
  have h := State.readBytes_writeBytes s a (toBytes n v)
  rw [toBytes_length] at h
  rw [State.readNat, State.writeNat, h, ofBytes_toBytes]

@[simp] theorem State.readBytes_writeNat (s : State) (n a v : Nat) : (s.writeNat n a v).readBytes n a = toBytes n v := by
  have h := State.readBytes_writeBytes s a (toBytes n v)
  rwa [toBytes_length] at h

/-- A write of a number changes its `n` bytes alone. -/
theorem State.writeNat_onlyBytes (s : State) (n a v : Nat) : s.onlyBytes (s.writeNat n a v) a n :=
  ⟨rfl, by have h := State.writeBytes_outside s a (toBytes n v); rwa [toBytes_length] at h⟩

/-- Outside the coherence domain a write reaches memory alone. -/
theorem State.cohWrite_plain (s : State) (a : Nat) (bs : List Byte) (h : isCoherent a = false) :
    s.cohWrite a bs = s.writeBytes a bs := by simp [State.cohWrite, h]

/-- With nothing tracked there is no line to take. -/
theorem State.takeLines_untracked (s : State) (inv : Bool) (h : s.untracked) (ls : List Nat) : s.takeLines inv ls = s := by
  obtain ⟨hh, ho, hg⟩ := h
  have fix : ∀ (f : State → Nat → State), (∀ l, f s l = s) → ls.foldl f s = s := by
    intro f hf
    induction ls with
    | nil => rfl
    | cons l ls ih => rw [List.foldl_cons, hf, ih]
  refine fix _ (fun l => ?_)
  dsimp only
  rw [hh l]
  rw [show (List.foldl (takeLine inv l) s []) = s from rfl]
  refine (if_neg (by rw [hg]; simp)).trans ?_
  unfold State.modHome State.home
  rw [ho]
  cases s; cases ho; cases inv <;> rfl

/-- A read that reaches memory alone. -/
theorem State.cohRead_of_plain (s : State) (n a : Nat) (h : s.plain a) : s.cohRead n a = (s.readBytes n a, s) := by
  unfold State.cohRead
  split
  · rename_i hc
    rw [State.takeLines_untracked s false (h.resolve_left (by rw [hc]; decide))]
  · rfl

/-- A write that reaches memory alone. -/
theorem State.cohWrite_of_plain (s : State) (a : Nat) (bs : List Byte) (h : s.plain a) : s.cohWrite a bs = s.writeBytes a bs := by
  unfold State.cohWrite State.freshGrants
  dsimp only
  split
  · rename_i hc
    have hu := h.resolve_left (by rw [hc]; decide)
    rw [State.takeLines_untracked s true hu]
    have hg : (s.writeBytes a bs).grants = [] := hu.2.2
    rw [hg, List.map_nil, ← hg]
  · rfl

/-- An entry of a table after one is set is that one or an old one. -/
theorem Table.of_mem_set {α} [DecidableEq α] {t : Table α} {d v : α} {k : Nat} {p : Nat × α} (h : p ∈ t.set d k v) :
    p ∈ t ∨ p = (k, v) := by
  have ins : ∀ (l : Table α), p ∈ Table.ins k v l → p ∈ l ∨ p = (k, v) := by
    intro l
    induction l with
    | nil => intro h; exact .inr (by simpa [Table.ins] using h)
    | cons q l ih =>
      intro h
      unfold Table.ins at h
      split at h
      · exact (List.mem_cons.mp h).elim .inr .inl
      · exact (List.mem_cons.mp h).elim (fun e => .inl (e ▸ List.mem_cons_self)) (fun h => (ih h).imp_left (List.mem_cons_of_mem _))
  unfold Table.set at h
  dsimp only at h
  split at h
  · exact .inl (List.mem_filter.mp h).1
  · exact (ins _ h).imp_left (fun h => (List.mem_filter.mp h).1)

/-- A tile whose host-window cache stays as it was leaves nothing tracked. -/
theorem State.untracked_setTile {s : State} {t : Nat} {x : TileS} (h : s.untracked) (hx : x.hwc = (s.tile t).hwc) :
    (s.setTile t x).untracked := by
  refine ⟨fun l => ?_, h.2⟩
  have hl := List.append_eq_nil_iff.mp (h.1 l)
  have hold : ∀ p ∈ s.tiles, ¬ ((p.2.hwc.get {} l).st ≠ .I ∨ (p.2.hwc.get {} l).wb = true) := by
    intro p hp hq
    have := List.filterMap_eq_nil_iff.mp hl.1 p hp
    dsimp only at this
    rw [if_pos hq] at this
    cases this
  have hget : ∀ (ts : Table TileS), (∀ p ∈ ts, ¬ ((p.2.hwc.get {} l).st ≠ .I ∨ (p.2.hwc.get {} l).wb = true)) →
      ¬ (((ts.get {} t).hwc.get {} l).st ≠ .I ∨ ((ts.get {} t).hwc.get {} l).wb = true) := by
    intro ts
    induction ts with
    | nil => intro _ h; exact h.elim (fun h => h rfl) (fun h => by cases h)
    | cons q ts ih =>
      intro hq
      rw [show Table.get (q :: ts) {} t = if q.1 = t then q.2 else Table.get ts {} t from rfl]
      by_cases hqt : q.1 = t
      · rw [if_pos hqt]; exact hq q List.mem_cons_self
      · rw [if_neg hqt]; exact ih (fun p hp => hq p (List.mem_cons_of_mem _ hp))
  refine List.append_eq_nil_iff.mpr ⟨List.filterMap_eq_nil_iff.mpr (fun p hp => ?_), hl.2⟩
  have hn : ¬ ((p.2.hwc.get {} l).st ≠ .I ∨ (p.2.hwc.get {} l).wb = true) := by
    rcases Table.of_mem_set hp with h | h
    · exact hold p h
    · rw [h]
      show ¬ ((x.hwc.get {} l).st ≠ .I ∨ (x.hwc.get {} l).wb = true)
      rw [hx]
      exact hget s.tiles hold
  dsimp only
  rw [if_neg hn]

theorem State.plain_setTile {s : State} {a t : Nat} {x : TileS} (h : s.plain a) (hx : x.hwc = (s.tile t).hwc) :
    (s.setTile t x).plain a := h.imp_right (fun h => State.untracked_setTile h hx)

/-- What reaches memory alone still does after a write. -/
theorem State.plain_writeBytes {s : State} {a : Nat} (h : s.plain a) (b : Nat) (bs : List Byte) : (s.writeBytes b bs).plain a := h

/-! ### Engines -/

/-- Replacing a started command's record touches that engine of that tile alone. -/
theorem State.putActive_only (s : State) (t c : Nat) (a : Active) :
    (s.putActive t c a).engine t c = (s.engine t c).putActive a ∧ s.onlyTile (s.putActive t c a) t ∧
    (s.tile t).onlyEngine ((s.putActive t c a).tile t) c := by
  refine ⟨?_, ⟨rfl, fun v hv => State.tile_setTile_ne _ _ _ _ hv⟩, ?_, fun d hd => ?_⟩ <;>
  simp [State.putActive_eq, State.modEngine_eq, State.setEngine_eq, State.engine]
  all_goals simp [Table.get_set_ne _ _ _ hd]

/-! ### Trace records -/

/-- A trace ring with room that owes no loss record takes one record at its tail. -/
theorem State.traceTo_room (s : State) (p g : Nat) (rec : Trace) (he : (s.ring g).en = true)
    (hf : (s.ring g).full = false) (hl : (s.ring g).lost = 0) : s.traceTo p g rec =
    (s.cohWriteNat 64 ((s.ring g).entryAddr (s.ring g).tail) (rec.code s.now s.time.lock)).setRing g
      { s.ring g with tail := (s.ring g).tail + 1 } := by
  simp [State.traceTo, he, hf, hl]

/-- A number stored and a ring replaced: what each read sees. -/
theorem State.writeNat_setRing (s : State) (g n x v : Nat) (r : Ring) :
    ((s.writeNat n x v).setRing g r).readBytes n x = toBytes n v ∧ s.bytesOutside ((s.writeNat n x v).setRing g r) x n ∧
    ((s.writeNat n x v).setRing g r).ring g = r ∧ (∀ w, w ≠ g → ((s.writeNat n x v).setRing g r).ring w = s.ring w) ∧
    ((s.writeNat n x v).setRing g r).tiles = s.tiles ∧ ((s.writeNat n x v).setRing g r).panels = s.panels := by
  refine ⟨State.readBytes_writeNat s n x v, (State.writeNat_onlyBytes s n x v).2, by simp, fun w hw => ?_, rfl, rfl⟩
  rw [State.ring_setRing_ne _ _ _ _ hw]; rfl

end Sys2Proof.Machine
end

