-- ==== Sys2Proof/Laws/Jobs.lean ====
section
/-!
SUPPORT. What a coherent access, a record, and the end of a job leave alone.
-/
namespace Sys2Proof.Machine
open Sys2Proof

/-! ### Coherent accesses -/

/-- From `s` to `u` only memory, its poison, caches, host dies, home agents and grants on their way may differ. -/
def State.CohOnly (s u : State) : Prop :=
  ∃ a b c d e f g h, u = { s with mem := a, poison := b, injPoison := c, linePoison := d, tiles := e, hosts := f,
                                  homes := g, grants := h }

theorem State.CohOnly.refl (s : State) : s.CohOnly s := ⟨_, _, _, _, _, _, _, _, rfl⟩

theorem State.CohOnly.trans {s u v : State} (h : s.CohOnly u) (k : u.CohOnly v) : s.CohOnly v := by
  obtain ⟨_, _, _, _, _, _, _, _, rfl⟩ := h
  obtain ⟨_, _, _, _, _, _, _, _, rfl⟩ := k
  exact ⟨_, _, _, _, _, _, _, _, rfl⟩

theorem CohOnly.foldl {α} (f : State → α → State) (hf : ∀ (s : State) a, s.CohOnly (f s a)) (l : List α) (s : State) :
    s.CohOnly (l.foldl f s) := by
  induction l generalizing s with
  | nil => exact .refl s
  | cons a l ih => exact (hf s a).trans (ih _)

theorem State.writeBytes_cohOnly (s : State) (a : Nat) (bs : List Byte) : s.CohOnly (s.writeBytes a bs) :=
  ⟨_, _, _, _, _, _, _, _, rfl⟩

theorem State.setCacheLine_cohOnly (s : State) (w : Holder) (l : Nat) (v : Line) : s.CohOnly (s.setCacheLine w l v) := by
  cases w <;> exact ⟨_, _, _, _, _, _, _, _, rfl⟩

theorem State.writeLine_cohOnly (s : State) (l d : Nat) (pz : Bool) : s.CohOnly (s.writeLine l d pz) := by
  unfold State.writeLine
  cases pz
  · exact State.writeBytes_cohOnly ..
  · exact ⟨_, _, _, _, _, _, _, _, rfl⟩

theorem takeLine_cohOnly (inv : Bool) (l : Nat) (s : State) (w : Holder) : s.CohOnly (takeLine inv l s w) := by
  unfold takeLine
  dsimp only
  split
  · exact (State.writeLine_cohOnly ..).trans (State.setCacheLine_cohOnly ..)
  · exact State.setCacheLine_cohOnly ..

theorem State.takeLines_cohOnly (s : State) (inv : Bool) (ls : List Nat) : s.CohOnly (s.takeLines inv ls) := by
  refine CohOnly.foldl _ (fun s l => ?_) ls s
  dsimp only
  have h := CohOnly.foldl (takeLine inv l) (takeLine_cohOnly inv l) (s.holders l) s
  split
  · exact h
  · exact h.trans ⟨_, _, _, _, _, _, _, _, rfl⟩

theorem State.cohWrite_cohOnly (s : State) (a : Nat) (bs : List Byte) : s.CohOnly (s.cohWrite a bs) := by
  unfold State.cohWrite
  dsimp only
  split
  · exact ((State.takeLines_cohOnly ..).trans (State.writeBytes_cohOnly ..)).trans ⟨_, _, _, _, _, _, _, _, rfl⟩
  · exact State.writeBytes_cohOnly ..

/-! ### Records (R587, R588, R600) -/

/-- From `s` to `u` also logs and debug registers may differ. -/
def State.RecOnly (s u : State) : Prop :=
  ∃ a b c d e f g h i j k l, u = { s with mem := a, poison := b, injPoison := c, linePoison := d, tiles := e, hosts := f,
                                          homes := g, grants := h, rings := i, evt := j, panels := k, dbg := l }

theorem State.CohOnly.rec {s u : State} (h : s.CohOnly u) : s.RecOnly u := by
  obtain ⟨_, _, _, _, _, _, _, _, rfl⟩ := h
  exact ⟨_, _, _, _, _, _, _, _, _, _, _, _, rfl⟩

theorem State.RecOnly.trans {s u v : State} (h : s.RecOnly u) (k : u.RecOnly v) : s.RecOnly v := by
  obtain ⟨_, _, _, _, _, _, _, _, _, _, _, _, rfl⟩ := h
  obtain ⟨_, _, _, _, _, _, _, _, _, _, _, _, rfl⟩ := k
  exact ⟨_, _, _, _, _, _, _, _, _, _, _, _, rfl⟩

/-- Offering a record writes the log entry or nothing. -/
theorem State.logTo_cohOnly (s : State) (e : Event) (r : Ring) : s.CohOnly (s.logTo e r).1 := by
  unfold State.logTo
  split
  · exact State.cohWrite_cohOnly ..
  · exact .refl s

theorem State.assertHalt_rec (s : State) : s.RecOnly s.assertHalt := by
  unfold State.assertHalt; split <;> exact ⟨_, _, _, _, _, _, _, _, _, _, _, _, rfl⟩

theorem State.haltOn_rec (s : State) (c : Nat) : s.RecOnly (s.haltOn c) := by
  unfold State.haltOn; split
  · exact State.RecOnly.trans ⟨_, _, _, _, _, _, _, _, _, _, _, _, rfl⟩ (State.assertHalt_rec _)
  · exact ⟨_, _, _, _, _, _, _, _, _, _, _, _, rfl⟩

/-- The panel-log part of `emit`. -/
def State.emitPanel (s : State) (e : Event) : State :=
  match e.job with
  | some (p, _) =>
    let (s, r, ok) := s.logTo e (s.ring (panelLog p))
    let s := s.setRing (panelLog p) r
    if ok then s else s.modPanel p (fun x => { x with edrop := satAdd 0xFFFF x.edrop 1 })
  | none => s

theorem State.emit_eq (s : State) (e : Event) : s.emit e =
    let u := s.emitPanel e
    let r := u.logTo e u.evt
    (if r.2.2 then { r.1 with evt := r.2.1 }
      else { r.1 with evt := r.2.1, dbg := { r.1.dbg with edrop := satAdd 0xFFFF r.1.dbg.edrop 1 } }).haltOn e.cls := by
  rfl

theorem State.emitPanel_rec (s : State) (e : Event) : s.RecOnly (s.emitPanel e) := by
  unfold State.emitPanel
  split
  · next p j _ =>
    have h := (State.logTo_cohOnly s e (s.ring (panelLog p))).rec
    dsimp only
    split
    · exact h.trans ⟨_, _, _, _, _, _, _, _, _, _, _, _, rfl⟩
    · exact h.trans ⟨_, _, _, _, _, _, _, _, _, _, _, _, rfl⟩
  · exact ⟨_, _, _, _, _, _, _, _, _, _, _, _, rfl⟩

/-- A record touches memory, caches, logs, drop counters and the halt alone. -/
theorem State.emit_rec (s : State) (e : Event) : s.RecOnly (s.emit e) := by
  rw [State.emit_eq]
  dsimp only
  have h := (State.emitPanel_rec s e).trans (State.logTo_cohOnly (s.emitPanel e) e (s.emitPanel e).evt).rec
  split
  · exact (h.trans ⟨_, _, _, _, _, _, _, _, _, _, _, _, rfl⟩).trans (State.haltOn_rec ..)
  · exact (h.trans ⟨_, _, _, _, _, _, _, _, _, _, _, _, rfl⟩).trans (State.haltOn_rec ..)

theorem State.CohOnly.rings {s u : State} (h : s.CohOnly u) : u.rings = s.rings := by
  obtain ⟨_, _, _, _, _, _, _, _, rfl⟩ := h; rfl
theorem State.CohOnly.panels {s u : State} (h : s.CohOnly u) : u.panels = s.panels := by
  obtain ⟨_, _, _, _, _, _, _, _, rfl⟩ := h; rfl

@[simp] theorem State.haltOn_rings (s : State) (c : Nat) : (s.haltOn c).rings = s.rings := by
  unfold State.haltOn State.assertHalt; split
  · split <;> rfl
  · rfl
@[simp] theorem State.haltOn_panels (s : State) (c : Nat) : (s.haltOn c).panels = s.panels := by
  unfold State.haltOn State.assertHalt; split
  · split <;> rfl
  · rfl

theorem State.emit_rings (s : State) (e : Event) : (s.emit e).rings = (s.emitPanel e).rings := by
  rw [State.emit_eq]; dsimp only
  rw [State.haltOn_rings]
  have h := (State.logTo_cohOnly (s.emitPanel e) e (s.emitPanel e).evt).rings
  split <;> exact h

theorem State.emit_panels (s : State) (e : Event) : (s.emit e).panels = (s.emitPanel e).panels := by
  rw [State.emit_eq]; dsimp only
  rw [State.haltOn_panels]
  have h := (State.logTo_cohOnly (s.emitPanel e) e (s.emitPanel e).evt).panels
  split <;> exact h

/-- A record leaves every ring but its job's panel log. -/
theorem State.emit_ring (s : State) (e : Event) (g : Nat) (hg : ∀ p j, e.job = some (p, j) → g ≠ panelLog p) :
    (s.emit e).ring g = s.ring g := by
  rw [State.ring, State.emit_rings]
  unfold State.emitPanel
  split
  · next p j h =>
    have h1 := (State.logTo_cohOnly s e (s.ring (panelLog p))).rings
    dsimp only
    split
    · show State.ring _ g = _; rw [State.ring_setRing_ne _ _ _ _ (hg _ _ h), State.ring, h1]; rfl
    · show State.ring (State.setRing _ _ _) g = _; rw [State.ring_setRing_ne _ _ _ _ (hg _ _ h), State.ring, h1]; rfl
  · rfl

/-- A record leaves every panel but for the drop counter of its job's panel. -/
theorem State.emit_panel (s : State) (e : Event) (p : Nat) :
    ∃ n, (s.emit e).panel p = { s.panel p with edrop := n } := by
  rw [State.panel, State.emit_panels]
  unfold State.emitPanel
  split
  · next q j h =>
    have h1 := (State.logTo_cohOnly s e (s.ring (panelLog q))).panels
    dsimp only
    split
    · refine ⟨(s.panel p).edrop, ?_⟩
      show Table.get (State.panels (State.setRing _ _ _)) _ _ = _
      rw [State.setRing_panels, h1]; rfl
    · show ∃ n, State.panel _ p = _
      rw [State.modPanel_eq]
      by_cases hp : p = q
      · subst hp
        rw [State.panel_setPanel]
        refine ⟨satAdd 0xFFFF (s.panel p).edrop 1, ?_⟩
        rw [State.setRing_panelR, State.panel, h1]; rfl
      · rw [State.panel_setPanel_ne _ _ _ _ hp]
        refine ⟨(s.panel p).edrop, ?_⟩
        rw [State.setRing_panelR, State.panel, h1]; rfl
  · exact ⟨_, rfl⟩

@[simp] theorem State.emit_job (s : State) (e : Event) (p j : Nat) : (s.emit e).job p j = s.job p j := by
  obtain ⟨n, h⟩ := State.emit_panel s e p
  rw [State.job, h]; rfl

/-! ### The end of a job (R441, R506 to R508, R590) -/

@[simp] theorem State.job_setJob (s : State) (p j : Nat) (v : Job) : (s.setJob p j v).job p j = v := by
  rw [State.setJob_eq, State.job, State.panel_setPanel]; exact Table.get_set_self _ _ _ _

@[simp] theorem State.setJob_ring (s : State) (p j : Nat) (v : Job) (g : Nat) : (s.setJob p j v).ring g = s.ring g := rfl

/-- From `s` to `u` only what the ports send may differ. -/
def State.SendOnly (s u : State) : Prop := ∃ a b c, u = { s with courseTx := a, ports := b, aborts := c }

theorem State.sendAbort_send (s : State) (p j a b c : Nat) : s.SendOnly (s.sendAbort p j a b c) := by
  unfold State.sendAbort
  dsimp only
  split
  · exact ⟨_, _, _, rfl⟩
  · have h : ∀ (l : List ((Nat × Nat) × CHdr)) (bs : List Byte) (s : State),
        s.SendOnly (l.foldl (fun s f => s.sendFrame f.1.1 f.1.2 f.2 bs) s) := by
      intro l bs
      induction l with
      | nil => intro s; exact ⟨_, _, _, rfl⟩
      | cons f l ih =>
        intro s
        obtain ⟨_, _, _, h⟩ := ih (s.sendFrame f.1.1 f.1.2 f.2 bs)
        rw [List.foldl_cons, h]
        exact ⟨_, _, _, rfl⟩
    obtain ⟨_, _, _, h⟩ := h _ _ s
    rw [h]
    exact ⟨_, _, _, rfl⟩

@[simp] theorem State.sendAbort_ring (s : State) (p j a b c g : Nat) : (s.sendAbort p j a b c).ring g = s.ring g := by
  obtain ⟨_, _, _, h⟩ := State.sendAbort_send s p j a b c; rw [h]; rfl
@[simp] theorem State.sendAbort_panel (s : State) (p j a b c g : Nat) : (s.sendAbort p j a b c).panel g = s.panel g := by
  obtain ⟨_, _, _, h⟩ := State.sendAbort_send s p j a b c; rw [h]; rfl
@[simp] theorem State.sendAbort_job (s : State) (p j a b c g k : Nat) : (s.sendAbort p j a b c).job g k = s.job g k := by
  obtain ⟨_, _, _, h⟩ := State.sendAbort_send s p j a b c; rw [h]; rfl

theorem goneAdds_tiles (l : List RemoteAdd) (s : State) : ∃ a, l.foldl (fun s a => match a.src with
    | .tile t => s.modTile t.val (fun x => { x with unacked := x.unacked - 1 })
    | _ => s) s = { s with tiles := a } := by
  induction l generalizing s with
  | nil => exact ⟨_, rfl⟩
  | cons a l ih =>
    rw [List.foldl_cons]
    obtain ⟨x, h⟩ := ih (match a.src with
    | .tile t => s.modTile t.val (fun x => { x with unacked := x.unacked - 1 })
    | _ => s)
    rw [h]
    split
    · exact ⟨_, rfl⟩
    · exact ⟨_, rfl⟩

theorem goneAdds_keep (l : List RemoteAdd) (s u : State) (hu : u = l.foldl (fun s a => match a.src with
    | .tile t => s.modTile t.val (fun x => { x with unacked := x.unacked - 1 })
    | _ => s) s) : u.panels = s.panels ∧ u.rings = s.rings ∧ u.mem = s.mem ∧ u.dbg = s.dbg ∧ u.evt = s.evt ∧ u.now = s.now := by
  obtain ⟨_, h⟩ := goneAdds_tiles l s
  rw [hu, h]
  exact ⟨rfl, rfl, rfl, rfl, rfl, rfl⟩

/-- Stopping a slot leaves panels, memory, logs and debug registers; of a ring it changes only how many commands it skips. -/
theorem State.stopSlot_keep (s : State) (p j : Nat) : (s.stopSlot p j).panels = s.panels ∧
    (s.stopSlot p j).rings = s.rings.update {} (fun g r =>
      if g < 245760 ∧ g % 24 / 3 = j ∧ (s.panel p).holdsTile (g / 24) then { r with cskip := 0 } else r) ∧
    (s.stopSlot p j).mem = s.mem ∧ (s.stopSlot p j).dbg = s.dbg ∧ (s.stopSlot p j).evt = s.evt ∧
    (s.stopSlot p j).now = s.now := by
  have h := goneAdds_keep (s.adds.filter fun a => a.panel = p && a.slot = j)
    { s with tiles := s.tiles.update {} (fun t x => if (s.panel p).holdsTile t then x.stopSlot j else x),
             adds := s.adds.filter (fun a => !(a.panel = p && a.slot = j)) } _ rfl
  obtain ⟨h1, h2, h3, h4, h5, h6⟩ := h
  refine ⟨h1, ?_, h3, h4, h5, h6⟩
  exact congrArg (fun x => Table.update x {} (fun g r =>
    if g < 245760 ∧ g % 24 / 3 = j ∧ (s.panel p).holdsTile (g / 24) then { r with cskip := 0 } else r)) h2

@[simp] theorem State.stopSlot_panel (s : State) (p j q : Nat) : (s.stopSlot p j).panel q = s.panel q := by
  rw [State.panel, (State.stopSlot_keep s p j).1]; rfl
@[simp] theorem State.stopSlot_job (s : State) (p j q k : Nat) : (s.stopSlot p j).job q k = s.job q k := by
  rw [State.job, State.stopSlot_panel]; rfl

/-- Of a ring the end of a job changes only how many commands it skips. -/
theorem State.stopSlot_ring (s : State) (p j g : Nat) : ∃ n, (s.stopSlot p j).ring g = { s.ring g with cskip := n } := by
  rw [State.ring, (State.stopSlot_keep s p j).2.1, Table.get_update]
  · split
    · exact ⟨0, rfl⟩
    · exact ⟨_, rfl⟩
  · intro k; split <;> rfl

theorem State.endJob_ring (s : State) (p j c g : Nat) : ∃ n, (s.endJob p j c).ring g = { s.ring g with cskip := n } := by
  unfold State.endJob
  dsimp only
  split
  · obtain ⟨n, h⟩ := State.stopSlot_ring (s.setJob p j { s.job p j with jstate := 2, ecause := c, causeTs := s.now, vtimer := false }) p j g
    exact ⟨n, h⟩
  · split
    · exact ⟨_, rfl⟩
    · exact ⟨_, rfl⟩

/-- A running job that a cause ends: JSTATE 2 and the cause. -/
theorem State.endJob_job (s : State) (p j c : Nat) (h : (s.job p j).jstate = 1) :
    (s.endJob p j c).job p j = { s.job p j with jstate := 2, ecause := c, causeTs := s.now, vtimer := false } := by
  simp only [State.endJob, h, if_true, State.stopSlot_job, State.job_setJob]

/-- The first fault of a running job ends it with ECAUSE 2. -/
theorem State.faultJob_job (s : State) (p j : Nat) (e : Event) (h : (s.job p j).jstate = 1)
    (hf : (s.job p j).faulted = false) :
    ((s.faultJob p j e).job p j).jstate = 2 ∧ ((s.faultJob p j e).job p j).ecause = 2 ∧
    ((s.faultJob p j e).job p j).faulted = true := by
  have h0 : ¬ (s.job p j).jstate = 0 := by omega
  simp only [State.faultJob, if_neg h0, hf, Bool.false_eq_true, if_false]
  rw [if_pos h, State.endJob_job _ _ _ _ (by simp [h])]
  simp

/-- A fault leaves every ring but the panel's log, skip counts apart. -/
theorem State.faultJob_ring (s : State) (p j g : Nat) (e : Event) (hg : g ≠ panelLog p) :
    ∃ n, (s.faultJob p j e).ring g = { s.ring g with cskip := n } := by
  unfold State.faultJob
  dsimp only
  split
  · exact ⟨_, rfl⟩
  · split
    · exact ⟨_, rfl⟩
    · refine (State.endJob_ring _ p j 2 g).imp fun n h => h.trans ?_
      have : ∀ e' : Event, e'.job = some (p, j) →
          ((s.setJob p j { s.job p j with faulted := true }).emit e').ring g = s.ring g := by
        intro e' he
        rw [State.emit_ring _ _ _ (fun q k h => by rw [he] at h; cases h; exact hg), State.setJob_ring]
      split
      · rw [State.sendAbort_ring, this _ rfl]
      · rw [this _ rfl]

/-! ### Tile registers through a record and a job's end -/

/-- The registers of a tile that neither a record nor the end of a job touches. -/
def TileS.kept (x : TileS) : BitVec 8 × Bool × BitVec 8 × Table Nat × Table SyncCtr :=
  (x.slotFault, x.thermal, x.pause, x.nflag, x.sync)

def State.TilesKept (s u : State) : Prop := ∀ t, (u.tile t).kept = (s.tile t).kept

theorem State.TilesKept.trans {s u v : State} (h : s.TilesKept u) (k : u.TilesKept v) : s.TilesKept v :=
  fun t => (k t).trans (h t)

theorem State.TilesKept.mod (s : State) (t : Nat) (f : TileS → TileS) (hf : ∀ x, (f x).kept = x.kept) :
    s.TilesKept (s.modTile t f) := by
  intro v
  rw [State.modTile_eq]
  by_cases h : v = t
  · subst h; rw [State.tile_setTile, hf]
  · rw [State.tile_setTile_ne _ _ _ _ h]

theorem TilesKept.foldl {α} (f : State → α → State) (hf : ∀ (s : State) a, s.TilesKept (f s a)) (l : List α) (s : State) :
    s.TilesKept (l.foldl f s) := by
  induction l generalizing s with
  | nil => exact fun _ => rfl
  | cons a l ih => exact (hf s a).trans (ih _)

theorem State.setCacheLine_tilesKept (s : State) (w : Holder) (l : Nat) (v : Line) : s.TilesKept (s.setCacheLine w l v) := by
  cases w
  · exact State.TilesKept.mod _ _ _ (fun _ => rfl)
  · exact fun _ => rfl

theorem State.writeLine_tilesKept (s : State) (l d : Nat) (pz : Bool) : s.TilesKept (s.writeLine l d pz) := by
  unfold State.writeLine; cases pz <;> exact fun _ => rfl

theorem takeLine_tilesKept (inv : Bool) (l : Nat) (s : State) (w : Holder) : s.TilesKept (takeLine inv l s w) := by
  unfold takeLine
  dsimp only
  split
  · exact (State.writeLine_tilesKept s _ _ _).trans (State.setCacheLine_tilesKept _ _ _ _)
  · exact State.setCacheLine_tilesKept _ _ _ _

theorem State.takeLines_tilesKept (s : State) (inv : Bool) (ls : List Nat) : s.TilesKept (s.takeLines inv ls) := by
  refine TilesKept.foldl _ (fun s l => ?_) ls s
  dsimp only
  have h := TilesKept.foldl (takeLine inv l) (takeLine_tilesKept inv l) (s.holders l) s
  split
  · exact h
  · exact h.trans fun _ => rfl

theorem State.cohWrite_tilesKept (s : State) (a : Nat) (bs : List Byte) : s.TilesKept (s.cohWrite a bs) := by
  unfold State.cohWrite
  dsimp only
  split
  · exact (State.takeLines_tilesKept s true _).trans fun _ => rfl
  · exact fun _ => rfl

theorem State.logTo_tilesKept (s : State) (e : Event) (r : Ring) : s.TilesKept (s.logTo e r).1 := by
  unfold State.logTo
  split
  · exact State.cohWrite_tilesKept _ _ _
  · exact fun _ => rfl

theorem State.TilesKept.update (s : State) (f : Nat → TileS → TileS) (hd : ∀ t, f t {} = {})
    (hf : ∀ t x, (f t x).kept = x.kept) : s.TilesKept { s with tiles := s.tiles.update {} f } := by
  intro t
  show (Table.get (s.tiles.update {} f) {} t).kept = _
  rw [Table.get_update _ _ _ hd, hf]; rfl

theorem State.haltOn_tilesKept (s : State) (c : Nat) : s.TilesKept (s.haltOn c) := by
  unfold State.haltOn State.assertHalt
  split
  · split
    · exact fun _ => rfl
    · exact State.TilesKept.update
        { s with dbg := { s.dbg with haltSeen := s.dbg.haltSeen + 2 ^ c, halt := true, thawed := false } } _ (fun _ => rfl) (fun _ _ => rfl)
  · exact fun _ => rfl

theorem State.emit_tilesKept (s : State) (e : Event) : s.TilesKept (s.emit e) := by
  rw [State.emit_eq]
  dsimp only
  have h1 : s.TilesKept (s.emitPanel e) := by
    unfold State.emitPanel
    split
    · next p j _ =>
      have h := State.logTo_tilesKept s e (s.ring (panelLog p))
      dsimp only
      split
      · exact h.trans fun _ => rfl
      · exact h.trans fun _ => rfl
    · exact fun _ => rfl
  have h2 := h1.trans (State.logTo_tilesKept (s.emitPanel e) e (s.emitPanel e).evt)
  split
  · refine State.TilesKept.trans ?_ (State.haltOn_tilesKept _ _); exact h2
  · refine State.TilesKept.trans ?_ (State.haltOn_tilesKept _ _); exact h2

theorem goneAdds_tilesKept (l : List RemoteAdd) (s u : State) (hu : u = l.foldl (fun s a => match a.src with
    | .tile t => s.modTile t.val (fun x => { x with unacked := x.unacked - 1 })
    | _ => s) s) : s.TilesKept u := by
  subst hu
  refine TilesKept.foldl _ (fun s a => ?_) l s
  split
  · exact State.TilesKept.mod _ _ _ (fun _ => rfl)
  · exact fun _ => rfl

theorem State.stopSlot_tilesKept (s : State) (p j : Nat) : s.TilesKept (s.stopSlot p j) := by
  have h0 := State.TilesKept.update s (fun t x => if (s.panel p).holdsTile t then x.stopSlot j else x)
    (fun t => by split <;> rfl) (fun t x => by split <;> rfl)
  have h := goneAdds_tilesKept (s.adds.filter fun a => a.panel = p && a.slot = j)
    { s with tiles := s.tiles.update {} (fun t x => if (s.panel p).holdsTile t then x.stopSlot j else x),
             adds := s.adds.filter (fun a => !(a.panel = p && a.slot = j)) } _ rfl
  exact fun t => (h t).trans (h0 t)

theorem State.faultJob_tilesKept (s : State) (p j : Nat) (e : Event) : s.TilesKept (s.faultJob p j e) := by
  unfold State.faultJob
  dsimp only
  split
  · exact fun _ => rfl
  · split
    · exact fun _ => rfl
    · have h1 := State.emit_tilesKept (s.setJob p j { s.job p j with faulted := true })
        { e with job := some (p, j), jend := decide ((s.job p j).jstate = 1) }
      have h2 : ∀ u : State, s.TilesKept u → s.TilesKept (u.endJob p j 2) := by
        intro u h
        unfold State.endJob
        dsimp only
        split
        · exact h.trans (State.stopSlot_tilesKept (u.setJob p j _) p j)
        · split <;> exact h
      apply h2
      split
      · obtain ⟨_, _, _, h3⟩ := State.sendAbort_send ((s.setJob p j { s.job p j with faulted := true }).emit
          { e with job := some (p, j), jend := decide ((s.job p j).jstate = 1) }) p j (s.job p j).voteStep 6 (s.job p j).rank
        rw [h3]; exact h1
      · exact h1

/-- A fault on a tile sets the slot's bit of SLOT_FAULT. -/
theorem State.faultTile_bit (s : State) (t j : Nat) (e : Event) (hj : j < 8) :
    ((s.faultTile t j e).tile t).slotFault.getLsbD j = true := by
  have h : (((s.modTile t (fun x => { x with slotFault := x.slotFault ||| BitVec.ofNat 8 (2 ^ j) })).tile t)).slotFault.getLsbD j = true := by
    rw [State.modTile_eq, State.tile_setTile]
    have : ∀ k, k < 8 → (BitVec.ofNat 8 (2 ^ k)).getLsbD k = true := by decide
    rw [BitVec.getLsbD_or, this j hj, Bool.or_true]
  unfold State.faultTile
  dsimp only
  split
  · next p _ =>
    have k := congrArg Prod.fst (State.faultJob_tilesKept
      (s.modTile t (fun x => { x with slotFault := x.slotFault ||| BitVec.ofNat 8 (2 ^ j) })) p j
      { e with unit := tileAgent t } t)
    exact (congrArg (fun b : BitVec 8 => b.getLsbD j) k).trans h
  · exact h

/-- The first fault of a running job found on its tile ends the job with ECAUSE 2. -/
theorem State.faultTile_job (s : State) (t p j : Nat) (e : Event) (hp : s.tilePanel t = some p)
    (hs : (s.job p j).jstate = 1) (hf : (s.job p j).faulted = false) :
    ((s.faultTile t j e).job p j).jstate = 2 ∧ ((s.faultTile t j e).job p j).ecause = 2 := by
  unfold State.faultTile
  dsimp only
  rw [State.modTile_eq, State.setTile_tilePanelR, hp]
  have h7 : (s.setTile t { s.tile t with slotFault := (s.tile t).slotFault ||| BitVec.ofNat 8 (2 ^ j) }).job p j = s.job p j := rfl
  have h := State.faultJob_job _ p j { e with unit := tileAgent t } (by rw [h7]; exact hs) (by rw [h7]; exact hf)
  exact ⟨h.1, h.2.1⟩

theorem State.faultTile_ring (s : State) (t j g : Nat) (e : Event) (hg : ∀ p, g ≠ panelLog p) :
    ∃ n, (s.faultTile t j e).ring g = { s.ring g with cskip := n } := by
  unfold State.faultTile
  dsimp only
  rw [State.modTile_eq, State.setTile_tilePanelR]
  split
  · obtain ⟨n, h⟩ := State.faultJob_ring (s.setTile t { s.tile t with slotFault := (s.tile t).slotFault ||| BitVec.ofNat 8 (2 ^ j) }) _ j g { e with unit := tileAgent t } (hg _)
    exact ⟨n, h⟩
  · exact ⟨_, rfl⟩

end Sys2Proof.Machine
end

