-- ==== Sys2Proof/Laws/Kept.lean ====
section
/-!
SUPPORT. What every operation of the machine keeps: the canonical form of memory, the queue, MINSVN and MEPOCH not lowered, at most
64 raises of MINSVN, legal MSTATE and LCS codes, Decommissioned for good. `State.Kept` says it of a state.
-/
namespace Sys2Proof.Machine
open Sys2Proof

/-- What the laws of this folder follow through every operation: whether the memory's canonical form is asked, the queue,
floors for MINSVN and MEPOCH, whether the bound of MINSVN's raises, the legal boot and life-cycle codes, and the end of
Decommissioned are asked. -/
structure Watch where
  queue : List Instr
  svn : Nat
  epoch : Nat
  mem : Prop
  fuse : Prop
  legal : Prop
  gone : Prop

/-- The watched facts, of the parts of a state they are about. -/
def Watched (w : Watch) (m : Table Byte) (q : List Instr) (svn ep raises lcs ms : Nat) (target : Option Nat) : Prop :=
  (w.mem → Memory.wf m = true) ∧ q = w.queue ∧ w.svn ≤ svn ∧ w.epoch ≤ ep ∧ (w.fuse → raises ≤ 64) ∧
    (w.legal → lcs ≤ 4 ∧ ms ≤ 2 ∧ ∀ x, target = some x → x ≤ 4) ∧ (w.gone → lcs = 4 ∧ target = none)

def State.Kept (w : Watch) (s : State) : Prop :=
  Watched w s.mem s.pending s.boot.minsvn s.boot.mepoch s.boot.raises s.boot.lcs s.boot.mstate s.boot.target

variable {ww : Watch}

@[simp] theorem State.kept_parts (s : State) (h : s.Kept ww) :
    Watched ww s.mem s.pending s.boot.minsvn s.boot.mepoch s.boot.raises s.boot.lcs s.boot.mstate s.boot.target := h

@[simp] theorem State.kept_mk {x0 : List Instr} {x1 : Nat} {x2 : Nat} {x3 : TimeS} {x4 : Table Byte} {x5 : Table Bool} {x6 : Table Bool} {x7 : Table Bool} {x8 : Table (Option (Nat × Bool))} {x9 : Table TileS} {x10 : Table Ring} {x11 : Ring} {x12 : List RemoteAdd} {x13 : Table Nat} {x14 : Table Panel} {x15 : Table Stack} {x16 : List Wipe} {x17 : Table Keep} {x18 : List (Nat × Nat × Nat × Nat × Nat)} {x19 : Table Home} {x20 : Table HostS} {x21 : Table HostCore} {x22 : Table Slice} {x23 : List ((Holder ⊕ SliceId) × Nat × SnoopRsp)} {x24 : List (Holder × Nat × Grant)} {x25 : List CaccPacket} {x26 : List (Holder × Nat × Nat)} {x27 : List (Holder × Nat)} {x28 : List MemRsp} {x29 : Dbg} {x30 : Table Nat} {x31 : List (Nat × Nat)} {x32 : Table (Option Nat)} {x33 : Nat} {x34 : Nat} {x35 : Nat} {x36 : Table Link} {x37 : Table CPort} {x38 : Table Conn} {x39 : List TxFrame} {x40 : List (Nat × List Byte)} {x41 : List AbortOut} {x42 : Table HodS} {x43 : Table IntS} {x44 : Nat} {x45 : Bool} {x46 : Nat} {x47 : Bool} {x48 : Mgmt} {x49 : PowerS} {x50 : Boot} {x51 : Nat} {x52 : Nat} :
    State.Kept ww ⟨x0, x1, x2, x3, x4, x5, x6, x7, x8, x9, x10, x11, x12, x13, x14, x15, x16, x17, x18, x19, x20, x21, x22, x23, x24, x25, x26, x27, x28, x29, x30, x31, x32, x33, x34, x35, x36, x37, x38, x39, x40, x41, x42, x43, x44, x45, x46, x47, x48, x49, x50, x51, x52⟩ =
      Watched ww x4 x0 x50.minsvn x50.mepoch x50.raises x50.lcs x50.mstate x50.target := propext Iff.rfl

theorem keep_mem (m m' : Table Byte) (q : List Instr) (a b c d e : Nat) (x : Option Nat) (h : Watched ww m q a b c d e x)
    (hm : Memory.wf m = true → Memory.wf m' = true) : Watched ww m' q a b c d e x := ⟨fun hw => hm (h.1 hw), h.2⟩

@[simp] theorem keep_set (m : Table Byte) (k : Nat) (v : Byte) (q : List Instr) (a b c d e : Nat) (x : Option Nat)
    (h : Watched ww m q a b c d e x) : Watched ww (Table.set m (0#8) k v) q a b c d e x := keep_mem _ _ _ _ _ _ _ _ _ h (Table.wf_set _ _ _ _)

@[simp] theorem keep_writeMem (m : Table Byte) (k : Nat) (bs : List Byte) (q : List Instr) (a b c d e : Nat) (x : Option Nat)
    (h : Watched ww m q a b c d e x) : Watched ww (writeMem m k bs) q a b c d e x := keep_mem _ _ _ _ _ _ _ _ _ h (writeMem_wf _ _ _)

@[simp] theorem keep_keep (m : Table Byte) (f : Nat → Byte → Bool) (q : List Instr) (a b c d e : Nat) (x : Option Nat)
    (h : Watched ww m q a b c d e x) : Watched ww (Table.keep m f) q a b c d e x := keep_mem _ _ _ _ _ _ _ _ _ h (Table.wf_keep _ _ _)

theorem watched_ms {m : Table Byte} {q : List Instr} {a b c d e : Nat} {x : Option Nat} (n : Nat) (h : Watched ww m q a b c d e x)
    (hn : n ≤ 2 ∨ n = e) : Watched ww m q a b c d n x := by
  obtain ⟨h1, h2, h3, h4, h5, h6, h7⟩ := h
  exact ⟨h1, h2, h3, h4, h5, fun hl => ⟨(h6 hl).1, by have := (h6 hl).2.1; omega, (h6 hl).2.2⟩, h7⟩

theorem watched_none {m : Table Byte} {q : List Instr} {a b c d e : Nat} {x : Option Nat} (h : Watched ww m q a b c d e x) :
    Watched ww m q a b c d e none := by
  obtain ⟨h1, h2, h3, h4, h5, h6, h7⟩ := h
  exact ⟨h1, h2, h3, h4, h5, fun hl => ⟨(h6 hl).1, (h6 hl).2.1, by simp⟩, fun hg => ⟨(h7 hg).1, rfl⟩⟩

theorem watched_epoch {m : Table Byte} {q : List Instr} {a b c d e : Nat} {x : Option Nat} (h : Watched ww m q a b c d e x) :
    Watched ww m q a (b + 1) c d e x := by
  obtain ⟨h1, h2, h3, h4, h5, h6, h7⟩ := h
  exact ⟨h1, h2, h3, Nat.le_succ_of_le h4, h5, h6, h7⟩

/-- The life-cycle state a module reset ends a transition in. -/
theorem watched_life {m : Table Byte} {q : List Instr} {a b c d e : Nat} {x : Option Nat} (h : Watched ww m q a b c d e x) :
    Watched ww m q a b c (x.getD d) e none := by
  obtain ⟨h1, h2, h3, h4, h5, h6, h7⟩ := h
  refine ⟨h1, h2, h3, h4, h5, fun hl => ⟨?_, (h6 hl).2.1, by simp⟩, fun hg => ?_⟩
  · cases x with
    | none => exact (h6 hl).1
    | some v => exact (h6 hl).2.2 v rfl
  · obtain ⟨hd, rfl⟩ := h7 hg
    exact ⟨hd, rfl⟩

/-- A transition the table of TARGET lets through. -/
theorem watched_move {m : Table Byte} {q : List Instr} {a b c d e : Nat} {x : Option Nat} (n : Nat) (h : Watched ww m q a b c d e x)
    (hn : moveOk d n = true) : Watched ww m q a b c d e (some n) := by
  obtain ⟨h1, h2, h3, h4, h5, h6, h7⟩ := h
  have h8 : d ≠ 4 ∧ n ≤ 4 := by
    unfold moveOk at hn
    split at hn <;> simp at hn <;> omega
  exact ⟨h1, h2, h3, h4, h5, fun hl => ⟨(h6 hl).1, (h6 hl).2.1, fun v hv => by cases hv; exact h8.2⟩,
    fun hg => absurd (h7 hg).1 h8.1⟩

@[simp] theorem State.modBoot_eq (s : State) (f : Boot → Boot) : s.modBoot f = { s with boot := f s.boot } := rfl

theorem fst_kept {β : Type} {p : State × β} {s : State} {x : β} (e : p = (s, x)) (h : p.1.Kept ww) :
    s.Kept ww := by rw [e] at h; exact h

@[simp] theorem ite_kept (c : Prop) [Decidable c] (a b : State) (ha : a.Kept ww)
    (hb : b.Kept ww) : (if c then a else b).Kept ww := by split <;> assumption

@[simp] theorem ite_fst_kept {β : Type} (c : Prop) [Decidable c] (a b : State × β) (ha : a.1.Kept ww)
    (hb : b.1.Kept ww) : (if c then a else b).1.Kept ww := by split <;> assumption

@[simp] theorem foldl_kept {β : Type} (l : List β) (g : State → β → State) (s : State) (hm : s.Kept ww)
    (hg : ∀ s x, s.Kept ww → (g s x).Kept ww) : (l.foldl g s).Kept ww := by
  induction l generalizing s with
  | nil => exact hm
  | cons x l ih => exact ih _ (hg _ _ hm)

@[simp] theorem foldl_fst_kept {β γ : Type} (l : List β) (g : State × γ → β → State × γ) (s : State × γ)
    (hm : s.1.Kept ww) (hg : ∀ s x, s.1.Kept ww → (g s x).1.Kept ww) :
    (l.foldl g s).1.Kept ww := by
  induction l generalizing s with
  | nil => exact hm
  | cons x l ih => exact ih _ (hg _ _ hm)

end Sys2Proof.Machine
end

