-- ==== Sys2Proof/Laws/KeptOps.lean ====
section
/-!
SUPPORT. `State.Kept` through the shared operations.
-/
namespace Sys2Proof.Machine
open Sys2Proof
variable {ww : Watch}

@[simp] theorem State.setTile_kept (s : State) (t : Nat) (v : TileS) (hm : s.Kept ww) :
    (State.setTile s t v).Kept ww := by
  unfold State.setTile
  simp [*]

@[simp] theorem State.modTile_kept (s : State) (t : Nat) (f : TileS → TileS) (hm : s.Kept ww) :
    (State.modTile s t f).Kept ww := by
  unfold State.modTile
  simp [*]

@[simp] theorem State.setEngine_kept (s : State) (t : Nat) (c : Nat) (e : Engine) (hm : s.Kept ww) :
    (State.setEngine s t c e).Kept ww := by
  unfold State.setEngine
  simp [*]

@[simp] theorem State.modEngine_kept (s : State) (t : Nat) (c : Nat) (f : Engine → Engine) (hm : s.Kept ww) :
    (State.modEngine s t c f).Kept ww := by
  unfold State.modEngine
  simp [*]

@[simp] theorem State.modArr_kept (s : State) (t : Nat) (f : ArrayS → ArrayS) (hm : s.Kept ww) :
    (State.modArr s t f).Kept ww := by
  unfold State.modArr
  simp [*]

@[simp] theorem State.setRing_kept (s : State) (g : Nat) (r : Ring) (hm : s.Kept ww) :
    (State.setRing s g r).Kept ww := by
  unfold State.setRing
  simp [*]

@[simp] theorem State.modRing_kept (s : State) (g : Nat) (f : Ring → Ring) (hm : s.Kept ww) :
    (State.modRing s g f).Kept ww := by
  unfold State.modRing
  simp [*]

@[simp] theorem State.setPanel_kept (s : State) (p : Nat) (v : Panel) (hm : s.Kept ww) :
    (State.setPanel s p v).Kept ww := by
  unfold State.setPanel
  simp [*]

@[simp] theorem State.modPanel_kept (s : State) (p : Nat) (f : Panel → Panel) (hm : s.Kept ww) :
    (State.modPanel s p f).Kept ww := by
  unfold State.modPanel
  simp [*]

@[simp] theorem State.setJob_kept (s : State) (p : Nat) (j : Nat) (v : Job) (hm : s.Kept ww) :
    (State.setJob s p j v).Kept ww := by
  unfold State.setJob
  simp [*]

@[simp] theorem State.modJob_kept (s : State) (p : Nat) (j : Nat) (f : Job → Job) (hm : s.Kept ww) :
    (State.modJob s p j f).Kept ww := by
  unfold State.modJob
  simp [*]

@[simp] theorem State.modStack_kept (s : State) (k : Nat) (f : Stack → Stack) (hm : s.Kept ww) :
    (State.modStack s k f).Kept ww := by
  unfold State.modStack
  simp [*]

@[simp] theorem State.modKeep_kept (s : State) (k : Nat) (f : Keep → Keep) (hm : s.Kept ww) :
    (State.modKeep s k f).Kept ww := by
  unfold State.modKeep
  simp [*]

@[simp] theorem State.modHome_kept (s : State) (h : Nat) (f : Home → Home) (hm : s.Kept ww) :
    (State.modHome s h f).Kept ww := by
  unfold State.modHome
  simp [*]

@[simp] theorem State.modHost_kept (s : State) (h : Nat) (f : HostS → HostS) (hm : s.Kept ww) :
    (State.modHost s h f).Kept ww := by
  unfold State.modHost
  simp [*]

@[simp] theorem State.modCore_kept (s : State) (c : Nat) (f : HostCore → HostCore) (hm : s.Kept ww) :
    (State.modCore s c f).Kept ww := by
  unfold State.modCore
  simp [*]

@[simp] theorem State.modPort_kept (s : State) (n : Nat) (f : CPort → CPort) (hm : s.Kept ww) :
    (State.modPort s n f).Kept ww := by
  unfold State.modPort
  simp [*]

@[simp] theorem State.modHod_kept (s : State) (h : Nat) (f : HodS → HodS) (hm : s.Kept ww) :
    (State.modHod s h f).Kept ww := by
  unfold State.modHod
  simp [*]

@[simp] theorem State.modIntake_kept (s : State) (n : Nat) (f : IntS → IntS) (hm : s.Kept ww) :
    (State.modIntake s n f).Kept ww := by
  unfold State.modIntake
  simp [*]

@[simp] theorem State.setConn_kept (s : State) (k : Nat) (c : Conn) (hm : s.Kept ww) :
    (State.setConn s k c).Kept ww := by
  unfold State.setConn
  simp [*]

@[simp] theorem State.modConn_kept (s : State) (k : Nat) (f : Conn → Conn) (hm : s.Kept ww) :
    (State.modConn s k f).Kept ww := by
  unfold State.modConn
  simp [*]

@[simp] theorem State.draw_kept (s : State) (hm : s.Kept ww) :
    (State.draw s).2.Kept ww := by
  unfold State.draw
  simp [*]

@[simp] theorem State.writeByte_kept (s : State) (a : Nat) (b : Byte) (hm : s.Kept ww) :
    (State.writeByte s a b).Kept ww := by
  unfold State.writeByte
  simp (maxDischargeDepth := 40) [*]

@[simp] theorem State.writeBytes_kept (s : State) (a : Nat) (bs : List Byte) (hm : s.Kept ww) :
    (State.writeBytes s a bs).Kept ww := by
  unfold State.writeBytes
  simp [*]

@[simp] theorem State.writeNat_kept (s : State) (n : Nat) (a : Nat) (v : Nat) (hm : s.Kept ww) :
    (State.writeNat s n a v).Kept ww := by
  unfold State.writeNat
  simp [*]

@[simp] theorem State.setPoison_kept (s : State) (u : Nat) (hm : s.Kept ww) :
    (State.setPoison s u).Kept ww := by
  unfold State.setPoison
  simp [*]

@[simp] theorem State.wipeRange_kept (s : State) (a : Nat) (n : Nat) (hm : s.Kept ww) :
    (State.wipeRange s a n).Kept ww := by
  unfold State.wipeRange
  simp [*]

@[simp] theorem State.setCacheLine_kept (s : State) (w : Holder) (l : Nat) (v : Line) (hm : s.Kept ww) :
    (State.setCacheLine s w l v).Kept ww := by
  unfold State.setCacheLine
  split <;> simp [*]

@[simp] theorem State.writeLine_kept (s : State) (l : Nat) (data : Nat) (pz : Bool) (hm : s.Kept ww) :
    (State.writeLine s l data pz).Kept ww := by
  unfold State.writeLine
  simp (maxDischargeDepth := 40) (contextual := true) [*]

@[simp] theorem takeLine_kept (inv : Bool) (l : Nat) (s : State) (w : Holder) (hm : s.Kept ww) :
    (takeLine inv l s w).Kept ww := by
  unfold takeLine
  dsimp only
  repeat' split
  all_goals simp [*]

@[simp] theorem State.takeLines_kept (s : State) (inv : Bool) (ls : List Nat) (hm : s.Kept ww) :
    (State.takeLines s inv ls).Kept ww := by
  unfold State.takeLines
  simp (maxDischargeDepth := 40) (contextual := true) [*]

@[simp] theorem State.cohRead_kept (s : State) (n : Nat) (a : Nat) (hm : s.Kept ww) :
    (State.cohRead s n a).2.Kept ww := by
  unfold State.cohRead
  split <;> simp [*]

@[simp] theorem State.freshGrants_kept (s : State) (ls : List Nat) (hm : s.Kept ww) :
    (State.freshGrants s ls).Kept ww := by
  unfold State.freshGrants
  simp [*]

@[simp] theorem State.cohWrite_kept (s : State) (a : Nat) (bs : List Byte) (hm : s.Kept ww) :
    (State.cohWrite s a bs).Kept ww := by
  unfold State.cohWrite
  simp (maxDischargeDepth := 40) (contextual := true) [*]

@[simp] theorem State.cohWriteNat_kept (s : State) (n : Nat) (a : Nat) (v : Nat) (hm : s.Kept ww) :
    (State.cohWriteNat s n a v).Kept ww := by
  unfold State.cohWriteNat
  simp [*]

@[simp] theorem State.logTo_kept (s : State) (e : Event) (r : Ring) (hm : s.Kept ww) :
    (State.logTo s e r).1.Kept ww := by
  unfold State.logTo
  split <;> simp [*]

@[simp] theorem State.assertHalt_kept (s : State) (hm : s.Kept ww) :
    (State.assertHalt s).Kept ww := by
  unfold State.assertHalt
  simp [*]

@[simp] theorem State.haltOn_kept (s : State) (cls : Nat) (hm : s.Kept ww) :
    (State.haltOn s cls).Kept ww := by
  unfold State.haltOn
  split <;> simp [*]

@[simp] theorem State.emit_kept (s : State) (e : Event) (hm : s.Kept ww) :
    (State.emit s e).Kept ww := by
  unfold State.emit
  dsimp only
  repeat' split
  all_goals simp (maxDischargeDepth := 40) (contextual := true) [*]

@[simp] theorem State.disarm_kept (s : State) (det : Nat) (target : Nat) (hm : s.Kept ww) :
    (State.disarm s det target).Kept ww := by
  unfold State.disarm
  simp [*]

@[simp] theorem State.fireSram_kept (s : State) (t : Nat) (a : Nat) (job : Option (Nat × Nat)) (hm : s.Kept ww) :
    (State.fireSram s t a job).Kept ww := by
  unfold State.fireSram
  dsimp only
  repeat' split
  all_goals simp (maxDischargeDepth := 40) (contextual := true) [*]

@[simp] theorem State.fireMem_kept (s : State) (det : Nat) (target : Nat) (a : Nat) (job : Option (Nat × Nat)) (hm : s.Kept ww) :
    (State.fireMem s det target a job).1.Kept ww := by
  unfold State.fireMem
  dsimp only
  repeat' split
  all_goals simp [*]

@[simp] theorem State.traceTo_kept (s : State) (p : Nat) (g : Nat) (rec : Trace) (hm : s.Kept ww) :
    (State.traceTo s p g rec).Kept ww := by
  unfold State.traceTo
  simp (maxDischargeDepth := 40) (contextual := true) [*]

@[simp] theorem State.traceTile_kept (s : State) (t : Nat) (rec : Trace) (hm : s.Kept ww) :
    (State.traceTile s t rec).Kept ww := by
  unfold State.traceTile
  split <;> simp [*]

@[simp] theorem State.traceUnit_kept (s : State) (p : Nat) (q : Option Nat) (rec : Trace) (hm : s.Kept ww) :
    (State.traceUnit s p q rec).Kept ww := by
  unfold State.traceUnit
  simp [*]

@[simp] theorem State.sendFrame_kept (s : State) (port : Nat) (remote : Nat) (h : CHdr) (payload : List Byte) (hm : s.Kept ww) :
    (State.sendFrame s port remote h payload).Kept ww := by
  unfold State.sendFrame
  simp [*]

@[simp] theorem State.sendAbort_kept (s : State) (p : Nat) (j : Nat) (step : Nat) (outcome : Nat) (peer : Nat) (hm : s.Kept ww) :
    (State.sendAbort s p j step outcome peer).Kept ww := by
  unfold State.sendAbort
  simp (maxDischargeDepth := 40) (contextual := true) [*]

@[simp] theorem State.stopSlot_kept (s : State) (p : Nat) (j : Nat) (hm : s.Kept ww) :
    (State.stopSlot s p j).Kept ww := by
  unfold State.stopSlot
  (try dsimp only)
  repeat' (first
    | (simp (maxDischargeDepth := 40) (contextual := true) [*]; done)
    | (refine foldl_kept _ _ _ ?_ ?_) | (refine foldl_fst_kept _ _ _ ?_ ?_)
    | (intro _ _ _; try dsimp only)
    | (split <;> (try rename_i heq) <;>
        (try have hx := fst_kept (ww := ww) heq (by simp (maxDischargeDepth := 40) (contextual := true) [*, -heq]; done)) <;>
        (try dsimp only)))

@[simp] theorem State.endJob_kept (s : State) (p : Nat) (j : Nat) (ecause : Nat) (hm : s.Kept ww) :
    (State.endJob s p j ecause).Kept ww := by
  unfold State.endJob
  dsimp only
  repeat' split
  all_goals simp [*]

@[simp] theorem State.faultJob_kept (s : State) (p : Nat) (j : Nat) (e : Event) (hm : s.Kept ww) :
    (State.faultJob s p j e).Kept ww := by
  unfold State.faultJob
  simp (maxDischargeDepth := 40) (contextual := true) [*]

@[simp] theorem State.faultTile_kept (s : State) (t : Nat) (j : Nat) (e : Event) (hm : s.Kept ww) :
    (State.faultTile s t j e).Kept ww := by
  unfold State.faultTile
  dsimp only
  repeat' split
  all_goals simp [*]

@[simp] theorem State.setCtr_kept (s : State) (t : Nat) (slot : Nat) (c : Nat) (v : BitVec 16) (byTile : Nat) (byEng : Nat) (rem : Bool) (hm : s.Kept ww) :
    (State.setCtr s t slot c v byTile byEng rem).Kept ww := by
  unfold State.setCtr
  simp [*]

@[simp] theorem State.sendAdd_kept (s : State) (src : Agent) (panel : Nat) (dst : Nat) (slot : Nat) (ctr : Nat) (val : Nat) (hm : s.Kept ww) :
    (State.sendAdd s src panel dst slot ctr val).Kept ww := by
  unfold State.sendAdd
  simp [*]

@[simp] theorem State.msi_kept (s : State) (addr : Nat) (data : Nat) (hm : s.Kept ww) :
    (State.msi s addr data).Kept ww := by
  unfold State.msi
  simp [*]

end Sys2Proof.Machine
end

