-- ==== Sys2Proof/Laws/KeptSequencer.lean ====
section
/-!
SUPPORT. `State.Kept` through the operations of Machine/Sequencer.lean.
-/
namespace Sys2Proof.Machine
open Sys2Proof
variable {ww : Watch}

@[simp] theorem State.outOfReach_kept (s : State) (auth : Auth) (addr : Nat) (hm : s.Kept ww) :
    (State.outOfReach s auth addr).Kept ww := by
  unfold State.outOfReach
  dsimp only
  repeat' split
  all_goals simp (maxDischargeDepth := 40) (contextual := true) [*]

@[simp] theorem State.countStale_kept (s : State) (g : Nat) (p : Option Nat) (hm : s.Kept ww) :
    (State.countStale s g p).Kept ww := by
  unfold State.countStale
  split <;> simp [*]

@[simp] theorem State.bellDisabled_kept (s : State) (g : Nat) (t : Count) (hm : s.Kept ww) :
    (State.bellDisabled s g t).Kept ww := by
  unfold State.bellDisabled
  simp [*]

@[simp] theorem State.bellOverflow_kept (s : State) (g : Nat) (t : Count) (hm : s.Kept ww) :
    (State.bellOverflow s g t).Kept ww := by
  unfold State.bellOverflow
  dsimp only
  repeat' split
  all_goals simp [*]

@[simp] theorem State.doorbell_kept (s : State) (g : Nat) (t : Count) (auth : Auth) (hm : s.Kept ww) :
    (State.doorbell s g t auth).Kept ww := by
  unfold State.doorbell
  dsimp only
  repeat' split
  all_goals simp [*]

@[simp] theorem State.readEntries_kept (s : State) (r : Ring) (pos : Count) (y6 : Nat) (hm : s.Kept ww) :
    (State.readEntries s r pos y6).2.Kept ww := by
  induction y6 generalizing s r pos <;> simp only [State.readEntries] <;> (try dsimp only)
  all_goals repeat' (first
    | (simp (maxDischargeDepth := 40) (contextual := true) [*]; done)
    | (refine foldl_kept _ _ _ ?_ ?_) | (refine foldl_fst_kept _ _ _ ?_ ?_)
    | (intro _ _ _; try dsimp only)
    | (split <;> (try rename_i heq) <;>
        (try have hx := fst_kept (ww := ww) heq (by simp (maxDischargeDepth := 40) (contextual := true) [*, -heq]; done)) <;>
        (try dsimp only)))

@[simp] theorem State.takeEntries_kept (s : State) (g : Nat) (y4 : Count) (y6 : List Nat) (hm : s.Kept ww) :
    (State.takeEntries s g y4 y6).Kept ww := by
  induction y6 generalizing s g y4 <;> simp only [State.takeEntries] <;> (try dsimp only)
  all_goals repeat' (first
    | (simp (maxDischargeDepth := 40) (contextual := true) [*]; done)
    | (refine foldl_kept _ _ _ ?_ ?_) | (refine foldl_fst_kept _ _ _ ?_ ?_)
    | (intro _ _ _; try dsimp only)
    | (split <;> (try rename_i heq) <;>
        (try have hx := fst_kept (ww := ww) heq (by simp (maxDischargeDepth := 40) (contextual := true) [*, -heq]; done)) <;>
        (try dsimp only)))

@[simp] theorem State.fetchEntry_kept (s : State) (g : Nat) (hm : s.Kept ww) :
    (State.fetchEntry s g).Kept ww := by
  unfold State.fetchEntry
  dsimp only
  repeat' split
  all_goals simp [*]

@[simp] theorem State.noteWait_kept (s : State) (t : Nat) (c : Nat) (j : Nat) (hm : s.Kept ww) :
    (State.noteWait s t c j).Kept ww := by
  unfold State.noteWait
  dsimp only
  repeat' split
  all_goals simp [*]

@[simp] theorem State.noteWaits_kept (s : State) (t : Nat) (c : Nat) (hm : s.Kept ww) :
    (State.noteWaits s t c).Kept ww := by
  unfold State.noteWaits
  simp (maxDischargeDepth := 40) (contextual := true) [*]

@[simp] theorem State.select_kept (s : State) (t : Nat) (c : Nat) (hm : s.Kept ww) :
    (State.select s t c).Kept ww := by
  unfold State.select
  dsimp only
  repeat' split
  all_goals simp [*]

@[simp] theorem State.translated_kept (s : State) (t : Nat) (c : Nat) (hm : s.Kept ww) :
    (State.translated s t c).Kept ww := by
  unfold State.translated
  dsimp only
  repeat' split
  all_goals simp (maxDischargeDepth := 40) (contextual := true) [*]

@[simp] theorem State.putActive_kept (s : State) (t : Nat) (c : Nat) (a : Active) (hm : s.Kept ww) :
    (State.putActive s t c a).Kept ww := by
  unfold State.putActive
  simp [*]

@[simp] theorem State.faultCmd_kept (s : State) (t : Nat) (c : Nat) (x : Cmd) (e : Event) (hm : s.Kept ww) :
    (State.faultCmd s t c x e).Kept ww := by
  unfold State.faultCmd
  simp [*]

@[simp] theorem State.localSignal_kept (s : State) (t : Nat) (c : Nat) (w : WorkCmd) (pos : Count) (hm : s.Kept ww) :
    (State.localSignal s t c w pos).Kept ww := by
  unfold State.localSignal
  simp [*]

@[simp] theorem State.signal_kept (s : State) (t : Nat) (c : Nat) (a : Active) (hm : s.Kept ww) :
    (State.signal s t c a).Kept ww := by
  unfold State.signal
  dsimp only
  repeat' split
  all_goals simp (maxDischargeDepth := 40) (contextual := true) [*]

@[simp] theorem State.complete_kept (s : State) (t : Nat) (c : Nat) (j : Nat) (hm : s.Kept ww) :
    (State.complete s t c j).Kept ww := by
  unfold State.complete
  dsimp only
  repeat' split
  all_goals simp (maxDischargeDepth := 40) (contextual := true) [*]

@[simp] theorem State.applyAdd_kept (s : State) (x : RemoteAdd) (hm : s.Kept ww) :
    (State.applyAdd s x).Kept ww := by
  unfold State.applyAdd
  split <;> simp [*]

@[simp] theorem State.remoteAdd_kept (s : State) (src : Agent) (dst : Nat) (hm : s.Kept ww) :
    (State.remoteAdd s src dst).Kept ww := by
  unfold State.remoteAdd
  dsimp only
  repeat' split
  all_goals simp (maxDischargeDepth := 40) (contextual := true) [*]

end Sys2Proof.Machine
end

