-- ==== Sys2Proof/Laws/KeptDpu.lean ====
section
/-!
SUPPORT. `State.Kept` through the operations of Machine/Dpu.lean.
-/
namespace Sys2Proof.Machine
open Sys2Proof
variable {ww : Watch}

@[simp] theorem State.writeRow_kept (s : State) (w : WorkCmd) (base : Nat) (m : Nat) (nb : Nat) (vals : List Nat) (hm : s.Kept ww) :
    (State.writeRow s w base m nb vals).1.Kept ww := by
  unfold State.writeRow
  dsimp only
  repeat' split
  all_goals simp [*]

end Sys2Proof.Machine
end

