-- ==== Sys2Proof/Laws/KeptArray.lean ====
section
/-!
SUPPORT. `State.Kept` through the operations of Machine/Array.lean.
-/
namespace Sys2Proof.Machine
open Sys2Proof
variable {ww : Watch}

@[simp] theorem State.fireIndex_kept (s : State) (t : Nat) (job : Option (Nat × Nat)) (e : FeedEntry) (sparse : Bool) (hm : s.Kept ww) :
    (State.fireIndex s t job e sparse).1.Kept ww := by
  unfold State.fireIndex
  dsimp only
  repeat' split
  all_goals simp [*]

@[simp] theorem State.feederFill_kept (s : State) (t : Nat) (col : Bool) (f : Nat) (hm : s.Kept ww) :
    (State.feederFill s t col f).Kept ww := by
  unfold State.feederFill
  dsimp only
  repeat' split
  all_goals simp (maxDischargeDepth := 40) (contextual := true) [*]

@[simp] theorem State.afterGroup_kept (s : State) (t : Nat) (a : Active) (i : Nat) (hm : s.Kept ww) :
    (State.afterGroup s t a i).Kept ww := by
  unfold State.afterGroup
  dsimp only
  repeat' split
  all_goals simp [*]

@[simp] theorem State.issueStep_kept (s : State) (t : Nat) (a : Active) (i : Nat) (st : Nat) (rows : List FeedEntry) (cols : List FeedEntry) (hm : s.Kept ww) :
    (State.issueStep s t a i st rows cols).Kept ww := by
  unfold State.issueStep
  dsimp only
  repeat' split
  all_goals simp (maxDischargeDepth := 40) (contextual := true) [*]

@[simp] theorem State.ensureGroup_kept (s : State) (t : Nat) (a : Active) (hm : s.Kept ww) :
    (State.ensureGroup s t a).Kept ww := by
  unfold State.ensureGroup
  simp [*]

@[simp] theorem State.stepRows_kept (s : State) (t : Nat) (a : Active) (i : Nat) (st : Nat) (fill : Bool) (held : Option (List FeedEntry)) (hm : s.Kept ww) :
    (State.stepRows s t a i st fill held).1.Kept ww := by
  unfold State.stepRows
  dsimp only
  repeat' split
  all_goals simp [*]

@[simp] theorem State.stepCols_kept (s : State) (t : Nat) (a : Active) (i : Nat) (st : Nat) (fill : Bool) (held : Option (List FeedEntry)) (hm : s.Kept ww) :
    (State.stepCols s t a i st fill held).1.Kept ww := by
  unfold State.stepCols
  split <;> simp [*]

@[simp] theorem State.squareStep_kept (s : State) (t : Nat) (a : Active) (fill : Bool) (hm : s.Kept ww) :
    (State.squareStep s t a fill).Kept ww := by
  unfold State.squareStep
  dsimp only
  repeat' split
  all_goals simp (maxDischargeDepth := 40) (contextual := true) [*]

@[simp] theorem State.weightLoad_kept (s : State) (t : Nat) (hm : s.Kept ww) :
    (State.weightLoad s t).Kept ww := by
  unfold State.weightLoad
  dsimp only
  repeat' split
  all_goals simp (maxDischargeDepth := 40) (contextual := true) [*]

@[simp] theorem State.wsAdvance_kept (s : State) (t : Nat) (a : Active) (p : Nat) (hm : s.Kept ww) :
    (State.wsAdvance s t a p).Kept ww := by
  unfold State.wsAdvance
  simp (maxDischargeDepth := 40) (contextual := true) [*]

@[simp] theorem State.wsStep_kept (s : State) (t : Nat) (a : Active) (hm : s.Kept ww) :
    (State.wsStep s t a).Kept ww := by
  unfold State.wsStep
  dsimp only
  repeat' split
  all_goals simp (maxDischargeDepth := 40) (contextual := true) [*]

@[simp] theorem State.fireArray_kept (s : State) (t : Nat) (d : Drain) (k : Nat) (hm : s.Kept ww) :
    (State.fireArray s t d k).1.Kept ww := by
  unfold State.fireArray
  dsimp only
  repeat' split
  all_goals simp [*]

@[simp] theorem State.suspicion_kept (s : State) (t : Nat) (hm : s.Kept ww) :
    (State.suspicion s t).Kept ww := by
  unfold State.suspicion
  dsimp only
  repeat' split
  all_goals simp [*]

@[simp] theorem State.actChecks_kept (s : State) (t : Nat) (a : Active) (d : Drain) (sub : Nat) (hm : s.Kept ww) :
    (State.actChecks s t a d sub).1.Kept ww := by
  unfold State.actChecks
  dsimp only
  repeat' split
  all_goals simp [*]

@[simp] theorem State.putDrain_kept (s : State) (t : Nat) (d : Drain) (hm : s.Kept ww) :
    (State.putDrain s t d).Kept ww := by
  unfold State.putDrain
  simp [*]

@[simp] theorem State.drainRows_kept (s : State) (t : Nat) (a : Active) (rows : List (Nat × Nat × List Nat)) (hm : s.Kept ww) :
    (State.drainRows s t a rows).Kept ww := by
  unfold State.drainRows
  simp (maxDischargeDepth := 40) (contextual := true) [*]

@[simp] theorem State.endDrain_kept (s : State) (t : Nat) (a : Active) (hm : s.Kept ww) :
    (State.endDrain s t a).Kept ww := by
  unfold State.endDrain
  simp [*]

@[simp] theorem State.drainBegin_kept (s : State) (t : Nat) (d : Drain) (k : Nat) (hm : s.Kept ww) :
    (State.drainBegin s t d k).1.Kept ww := by
  unfold State.drainBegin
  simp [*]

@[simp] theorem State.drainWrite_kept (s : State) (t : Nat) (a : Active) (d : Drain) (rows : List (Nat × Nat × List Nat)) (last : Bool) (hm : s.Kept ww) :
    (State.drainWrite s t a d rows last).Kept ww := by
  unfold State.drainWrite
  (try dsimp only)
  repeat' (first
    | (simp (maxDischargeDepth := 40) (contextual := true) [*]; done)
    | (refine foldl_kept _ _ _ ?_ ?_) | (refine foldl_fst_kept _ _ _ ?_ ?_)
    | (intro _ _ _; try dsimp only)
    | (split <;> (try rename_i heq) <;>
        (try have hx := fst_kept (ww := ww) heq (by simp (maxDischargeDepth := 40) (contextual := true) [*, -heq]; done)) <;>
        (try dsimp only)))

@[simp] theorem State.squareDrain_kept (s : State) (t : Nat) (a : Active) (d : Drain) (hm : s.Kept ww) :
    (State.squareDrain s t a d).Kept ww := by
  unfold State.squareDrain
  simp (maxDischargeDepth := 40) (contextual := true) [*]

@[simp] theorem State.wsDrainTc_kept (s : State) (t : Nat) (a : Active) (d : Drain) (hm : s.Kept ww) :
    (State.wsDrainTc s t a d).Kept ww := by
  unfold State.wsDrainTc
  simp (maxDischargeDepth := 40) (contextual := true) [*]

@[simp] theorem State.drainTc_kept (s : State) (t : Nat) (hm : s.Kept ww) :
    (State.drainTc s t).Kept ww := by
  unfold State.drainTc
  (try dsimp only)
  repeat' (first
    | (simp (maxDischargeDepth := 40) (contextual := true) [*]; done)
    | (refine foldl_kept _ _ _ ?_ ?_) | (refine foldl_fst_kept _ _ _ ?_ ?_)
    | (intro _ _ _; try dsimp only)
    | (split <;> (try rename_i heq) <;>
        (try have hx := fst_kept (ww := ww) heq (by simp (maxDischargeDepth := 40) (contextual := true) [*, -heq]; done)) <;>
        (try dsimp only)))

@[simp] theorem drainAll_kept (y0 : Nat) (y2 : Nat) (y4 : State) (hm : y4.Kept ww) :
    (drainAll y0 y2 y4).Kept ww := by
  induction y0 generalizing y2 y4 <;> simp only [drainAll] <;> (try dsimp only)
  all_goals repeat' (first
    | (simp (maxDischargeDepth := 40) (contextual := true) [*]; done)
    | (refine foldl_kept _ _ _ ?_ ?_) | (refine foldl_fst_kept _ _ _ ?_ ?_)
    | (intro _ _ _; try dsimp only)
    | (split <;> (try rename_i heq) <;>
        (try have hx := fst_kept (ww := ww) heq (by simp (maxDischargeDepth := 40) (contextual := true) [*, -heq]; done)) <;>
        (try dsimp only)))

@[simp] theorem State.squareMove_kept (s : State) (t : Nat) (a : Active) (hm : s.Kept ww) :
    (State.squareMove s t a).Kept ww := by
  unfold State.squareMove
  split <;> simp [*]

@[simp] theorem squareRun_kept (y0 : Nat) (y2 : Nat) (y4 : State) (hm : y4.Kept ww) :
    (squareRun y0 y2 y4).Kept ww := by
  induction y0 generalizing y2 y4 <;> simp only [squareRun] <;> (try dsimp only)
  all_goals repeat' (first
    | (simp (maxDischargeDepth := 40) (contextual := true) [*]; done)
    | (refine foldl_kept _ _ _ ?_ ?_) | (refine foldl_fst_kept _ _ _ ?_ ?_)
    | (intro _ _ _; try dsimp only)
    | (split <;> (try rename_i heq) <;>
        (try have hx := fst_kept (ww := ww) heq (by simp (maxDischargeDepth := 40) (contextual := true) [*, -heq]; done)) <;>
        (try dsimp only)))

@[simp] theorem State.lastDrains_kept (s : State) (t : Nat) (a : Active) (hm : s.Kept ww) :
    (State.lastDrains s t a).Kept ww := by
  unfold State.lastDrains
  simp [*]

@[simp] theorem State.runSquare_kept (s : State) (t : Nat) (op : Nat) (hm : s.Kept ww) :
    (State.runSquare s t op).Kept ww := by
  unfold State.runSquare
  (try dsimp only)
  repeat' (first
    | (simp (maxDischargeDepth := 40) (contextual := true) [*]; done)
    | (refine foldl_kept _ _ _ ?_ ?_) | (refine foldl_fst_kept _ _ _ ?_ ?_)
    | (intro _ _ _; try dsimp only)
    | (split <;> (try rename_i heq) <;>
        (try have hx := fst_kept (ww := ww) heq (by simp (maxDischargeDepth := 40) (contextual := true) [*, -heq]; done)) <;>
        (try dsimp only)))

@[simp] theorem State.wsMove_kept (s : State) (t : Nat) (a : Active) (hm : s.Kept ww) :
    (State.wsMove s t a).Kept ww := by
  unfold State.wsMove
  dsimp only
  repeat' split
  all_goals simp [*]

@[simp] theorem wsRun_kept (y0 : Nat) (y2 : Nat) (y4 : State) (hm : y4.Kept ww) :
    (wsRun y0 y2 y4).Kept ww := by
  induction y0 generalizing y2 y4 <;> simp only [wsRun] <;> (try dsimp only)
  all_goals repeat' (first
    | (simp (maxDischargeDepth := 40) (contextual := true) [*]; done)
    | (refine foldl_kept _ _ _ ?_ ?_) | (refine foldl_fst_kept _ _ _ ?_ ?_)
    | (intro _ _ _; try dsimp only)
    | (split <;> (try rename_i heq) <;>
        (try have hx := fst_kept (ww := ww) heq (by simp (maxDischargeDepth := 40) (contextual := true) [*, -heq]; done)) <;>
        (try dsimp only)))

@[simp] theorem State.runWs_kept (s : State) (t : Nat) (op : Nat) (hm : s.Kept ww) :
    (State.runWs s t op).Kept ww := by
  unfold State.runWs
  (try dsimp only)
  repeat' (first
    | (simp (maxDischargeDepth := 40) (contextual := true) [*]; done)
    | (refine foldl_kept _ _ _ ?_ ?_) | (refine foldl_fst_kept _ _ _ ?_ ?_)
    | (intro _ _ _; try dsimp only)
    | (split <;> (try rename_i heq) <;>
        (try have hx := fst_kept (ww := ww) heq (by simp (maxDischargeDepth := 40) (contextual := true) [*, -heq]; done)) <;>
        (try dsimp only)))

end Sys2Proof.Machine
end

