-- ==== Sys2Proof/Laws/KeptVector.lean ====
section
/-!
SUPPORT. `State.Kept` through the operations of Machine/Vector.lean.
-/
namespace Sys2Proof.Machine
open Sys2Proof
variable {ww : Watch}

@[simp] theorem State.putCode_kept (s : State) (d : Nat) (base : Nat) (r : Nat) (j : Nat) (c : Nat) (hm : s.Kept ww) :
    (State.putCode s d base r j c).Kept ww := by
  unfold State.putCode
  simp [*]

@[simp] theorem State.putBlock_kept (s : State) (w : WorkCmd) (base : Nat) (cells : List Cell) (hm : s.Kept ww) :
    (State.putBlock s w base cells).1.Kept ww := by
  unfold State.putBlock
  dsimp only
  repeat' split
  all_goals simp (maxDischargeDepth := 40) (contextual := true) [*]

@[simp] theorem State.putElem_kept (s : State) (w : WorkCmd) (base : Nat) (own : Nat) (c : Cell) (hm : s.Kept ww) :
    (State.putElem s w base own c).1.Kept ww := by
  unfold State.putElem
  simp [*]

@[simp] theorem State.putSparse_kept (s : State) (w : WorkCmd) (base : Nat) (r : Nat) (p : Nat) (vs : List Val) (hm : s.Kept ww) :
    (State.putSparse s w base r p vs).1.Kept ww := by
  unfold State.putSparse
  simp (maxDischargeDepth := 40) (contextual := true) [*]

@[simp] theorem State.putBlocks_kept (s : State) (w : WorkCmd) (base : Nat) (bs : List (List Cell)) (hm : s.Kept ww) :
    (State.putBlocks s w base bs).1.Kept ww := by
  unfold State.putBlocks
  simp (maxDischargeDepth := 40) (contextual := true) [*]

@[simp] theorem State.putElems_kept (s : State) (w : WorkCmd) (base : Nat) (cs : List Cell) (hm : s.Kept ww) :
    (State.putElems s w base cs).1.Kept ww := by
  unfold State.putElems
  simp (maxDischargeDepth := 40) (contextual := true) [*]

@[simp] theorem State.putRows_kept (s : State) (w : WorkCmd) (base : Nat) (rows : List (Nat × Nat × List Val)) (hm : s.Kept ww) :
    (State.putRows s w base rows).1.Kept ww := by
  unfold State.putRows
  dsimp only
  repeat' split
  all_goals simp [*]

@[simp] theorem State.zmapUnit_kept (s : State) (a : Active) (u : Nat) (hm : s.Kept ww) :
    (State.zmapUnit s a u).Kept ww := by
  unfold State.zmapUnit
  simp (maxDischargeDepth := 40) (contextual := true) [*]

@[simp] theorem State.vecUnit_kept (s : State) (a : Active) (u : Nat) (hm : s.Kept ww) :
    (State.vecUnit s a u).1.Kept ww := by
  unfold State.vecUnit
  simp (maxDischargeDepth := 40) (contextual := true) [*]

@[simp] theorem State.vecFault_kept (s : State) (t : Nat) (a : Active) (ad : Nat) (hm : s.Kept ww) :
    (State.vecFault s t a ad).Kept ww := by
  unfold State.vecFault
  simp [*]

@[simp] theorem vecRun_kept (y0 : Nat) (y2 : Nat) (y4 : State) (hm : y4.Kept ww) :
    (vecRun y0 y2 y4).Kept ww := by
  induction y0 generalizing y2 y4 <;> simp only [vecRun] <;> (try dsimp only)
  all_goals repeat' (first
    | (simp (maxDischargeDepth := 40) (contextual := true) [*]; done)
    | (refine foldl_kept _ _ _ ?_ ?_) | (refine foldl_fst_kept _ _ _ ?_ ?_)
    | (intro _ _ _; try dsimp only)
    | (split <;> (try rename_i heq) <;>
        (try have hx := fst_kept (ww := ww) heq (by simp (maxDischargeDepth := 40) (contextual := true) [*, -heq]; done)) <;>
        (try dsimp only)))

@[simp] theorem State.runVec_kept (s : State) (t : Nat) (op : Nat) (hm : s.Kept ww) :
    (State.runVec s t op).Kept ww := by
  unfold State.runVec
  (try dsimp only)
  repeat' (first
    | (simp (maxDischargeDepth := 40) (contextual := true) [*]; done)
    | (refine foldl_kept _ _ _ ?_ ?_) | (refine foldl_fst_kept _ _ _ ?_ ?_)
    | (intro _ _ _; try dsimp only)
    | (split <;> (try rename_i heq) <;>
        (try have hx := fst_kept (ww := ww) heq (by simp (maxDischargeDepth := 40) (contextual := true) [*, -heq]; done)) <;>
        (try dsimp only)))

@[simp] theorem State.moeCount_kept (s : State) (a : Active) (hm : s.Kept ww) :
    (State.moeCount s a).Kept ww := by
  unfold State.moeCount
  simp (maxDischargeDepth := 40) (contextual := true) [*]

@[simp] theorem State.moeScan_kept (s : State) (a : Active) (hm : s.Kept ww) :
    (State.moeScan s a).Kept ww := by
  unfold State.moeScan
  simp (maxDischargeDepth := 40) (contextual := true) [*]

@[simp] theorem State.moeSum_kept (s : State) (t : Nat) (a : Active) (hm : s.Kept ww) :
    (State.moeSum s t a).1.Kept ww := by
  unfold State.moeSum
  simp (maxDischargeDepth := 40) (contextual := true) [*]

@[simp] theorem State.runMoe_kept (s : State) (t : Nat) (op : Nat) (hm : s.Kept ww) :
    (State.runMoe s t op).Kept ww := by
  unfold State.runMoe
  dsimp only
  repeat' split
  all_goals simp (maxDischargeDepth := 40) (contextual := true) [*]

end Sys2Proof.Machine
end

