-- ==== Sys2Proof/Laws/KeptTake.lean ====
section
/-!
SUPPORT. `State.Kept` through the operations of Machine/Take.lean.
-/
namespace Sys2Proof.Machine
open Sys2Proof
variable {ww : Watch}

@[simp] theorem State.addActive_kept (s : State) (t : Nat) (c : Nat) (a : Active) (run : Bool) (hm : s.Kept ww) :
    (State.addActive s t c a run).Kept ww := by
  unfold State.addActive
  simp [*]

@[simp] theorem State.start_kept (s : State) (t : Nat) (c : Nat) (x : Cmd) (hm : s.Kept ww) :
    (State.start s t c x).Kept ww := by
  unfold State.start
  dsimp only
  repeat' split
  all_goals simp (maxDischargeDepth := 40) (contextual := true) [*]

@[simp] theorem State.takeCand_kept (s : State) (t : Nat) (c : Nat) (j : Nat) (y8 : Cand) (hm : s.Kept ww) :
    (State.takeCand s t c j y8).Kept ww := by
  unfold State.takeCand
  dsimp only
  repeat' split
  all_goals simp (maxDischargeDepth := 40) (contextual := true) [*]

@[simp] theorem State.takeReady_kept (s : State) (t : Nat) (c : Nat) (hm : s.Kept ww) :
    (State.takeReady s t c).Kept ww := by
  unfold State.takeReady
  split <;> simp [*]

@[simp] theorem State.take_kept (s : State) (t : Nat) (c : Nat) (hm : s.Kept ww) :
    (State.take s t c).Kept ww := by
  unfold State.take
  split <;> simp [*]

end Sys2Proof.Machine
end

