-- ==== Sys2Proof/Laws/KeptCoherence.lean ====
section
/-!
SUPPORT. `State.Kept` through the operations of Machine/Coherence.lean.
-/
namespace Sys2Proof.Machine
open Sys2Proof
variable {ww : Watch}

@[simp] theorem State.modLine_kept (s : State) (w : Holder) (l : Nat) (f : Line → Line) (hm : s.Kept ww) :
    (State.modLine s w l f).Kept ww := by
  unfold State.modLine
  simp [*]

@[simp] theorem State.evictWay_kept (s : State) (t : Nat) (l : Nat) (hm : s.Kept ww) :
    (State.evictWay s t l).Kept ww := by
  unfold State.evictWay
  split <;> simp [*]

@[simp] theorem State.missLine_kept (s : State) (t : Nat) (l : Nat) (write : Bool) (hm : s.Kept ww) :
    (State.missLine s t l write).Kept ww := by
  unfold State.missLine
  dsimp only
  repeat' split
  all_goals simp [*]

@[simp] theorem State.modSlice_kept (s : State) (k : SliceId) (f : Slice → Slice) (hm : s.Kept ww) :
    (State.modSlice s k f).Kept ww := by
  unfold State.modSlice
  simp [*]

@[simp] theorem State.sliceAdd_kept (s : State) (t : Nat) (l : Nat) (hm : s.Kept ww) :
    (State.sliceAdd s t l).Kept ww := by
  unfold State.sliceAdd
  simp [*]

@[simp] theorem State.sliceDrop_kept (s : State) (t : Nat) (l : Nat) (hm : s.Kept ww) :
    (State.sliceDrop s t l).Kept ww := by
  unfold State.sliceDrop
  simp [*]

@[simp] theorem State.modDir_kept (s : State) (h : Nat) (l : Nat) (f : DirEnt → DirEnt) (hm : s.Kept ww) :
    (State.modDir s h l f).Kept ww := by
  unfold State.modDir
  simp [*]

@[simp] theorem State.setTrans_kept (s : State) (h : Nat) (l : Nat) (t : Option Trans) (hm : s.Kept ww) :
    (State.setTrans s h l t).Kept ww := by
  unfold State.setTrans
  simp [*]

@[simp] theorem State.nack_kept (s : State) (h : Nat) (l : Nat) (reason : Nat) (who : Holder) (hm : s.Kept ww) :
    (State.nack s h l reason who).Kept ww := by
  unfold State.nack
  simp [*]

@[simp] theorem State.keepRes_kept (s : State) (h : Nat) (l : Nat) (reason : Nat) (age : Nat) (code : Nat) (hm : s.Kept ww) :
    (State.keepRes s h l reason age code).Kept ww := by
  unfold State.keepRes
  simp [*]

@[simp] theorem State.dropRes_kept (s : State) (h : Nat) (l : Nat) (code : Nat) (hm : s.Kept ww) :
    (State.dropRes s h l code).Kept ww := by
  unfold State.dropRes
  simp [*]

@[simp] theorem State.touch_kept (s : State) (h : Nat) (l : Nat) (hm : s.Kept ww) :
    (State.touch s h l).Kept ww := by
  unfold State.touch
  simp [*]

@[simp] theorem State.makeWay_kept (s : State) (h : Nat) (l : Nat) (hm : s.Kept ww) :
    (State.makeWay s h l).Kept ww := by
  unfold State.makeWay
  dsimp only
  repeat' split
  all_goals simp [*]

@[simp] theorem State.respond_kept (s : State) (rq : MemReq) (r : Resp) (data : List Byte) (hm : s.Kept ww) :
    (State.respond s rq r data).Kept ww := by
  unfold State.respond
  simp [*]

@[simp] theorem State.perform_kept (s : State) (rq : MemReq) (hm : s.Kept ww) :
    (State.perform s rq).Kept ww := by
  unfold State.perform
  dsimp only
  repeat' split
  all_goals simp [*]

@[simp] theorem State.recordUnmapped_kept (s : State) (u : Agent) (a : Nat) (write : Bool) (hm : s.Kept ww) :
    (State.recordUnmapped s u a write).Kept ww := by
  unfold State.recordUnmapped
  simp [*]

@[simp] theorem State.sendGrant_kept (s : State) (h : Nat) (l : Nat) (who : Holder) (cmd : CohCmd) (kept : Bool) (hm : s.Kept ww) :
    (State.sendGrant s h l who cmd kept).Kept ww := by
  unfold State.sendGrant
  dsimp only
  repeat' split
  all_goals simp (maxDischargeDepth := 40) (contextual := true) [*]

@[simp] theorem State.finish_kept (s : State) (h : Nat) (l : Nat) (t : Trans) (hm : s.Kept ww) :
    (State.finish s h l t).Kept ww := by
  unfold State.finish
  dsimp only
  repeat' split
  all_goals simp (maxDischargeDepth := 40) (contextual := true) [*]

@[simp] theorem State.settle_kept (s : State) (h : Nat) (l : Nat) (hm : s.Kept ww) :
    (State.settle s h l).Kept ww := by
  unfold State.settle
  dsimp only
  repeat' split
  all_goals simp [*]

@[simp] theorem State.evictNotice_kept (s : State) (h : Nat) (l : Nat) (who : Holder) (hm : s.Kept ww) :
    (State.evictNotice s h l who).Kept ww := by
  unfold State.evictNotice
  dsimp only
  repeat' split
  all_goals simp (maxDischargeDepth := 40) (contextual := true) [*]

@[simp] theorem State.hostAsks_kept (s : State) (l : Nat) (cmd : CohCmd) (age : Nat) (who : Holder) (hm : s.Kept ww) :
    (State.hostAsks s l cmd age who).Kept ww := by
  unfold State.hostAsks
  split <;> simp [*]

@[simp] theorem State.openGrant_kept (s : State) (h : Nat) (l : Nat) (cmd : CohCmd) (who : Holder) (hm : s.Kept ww) :
    (State.openGrant s h l cmd who).Kept ww := by
  unfold State.openGrant
  simp [*]

@[simp] theorem State.cohReq_kept (s : State) (h : Nat) (l : Nat) (cmd : CohCmd) (age : Nat) (who : Holder) (hm : s.Kept ww) :
    (State.cohReq s h l cmd age who).Kept ww := by
  unfold State.cohReq
  dsimp only
  repeat' split
  all_goals simp (maxDischargeDepth := 40) (contextual := true) [*]

@[simp] theorem State.memRead_kept (s : State) (h : Nat) (l : Nat) (hm : s.Kept ww) :
    (State.memRead s h l).Kept ww := by
  unfold State.memRead
  split <;> simp [*]

@[simp] theorem State.pushRsp_kept (s : State) (src : Holder ⊕ SliceId) (l : Nat) (r : SnoopRsp) (hm : s.Kept ww) :
    (State.pushRsp s src l r).Kept ww := by
  unfold State.pushRsp
  simp [*]

@[simp] theorem State.popRsp_kept (s : State) (src : Holder ⊕ SliceId) (l : Nat) (r : SnoopRsp) (hm : s.Kept ww) :
    (State.popRsp s src l r).Kept ww := by
  unfold State.popRsp
  simp [*]

@[simp] theorem State.sliceSnoop_kept (s : State) (sl : SliceId) (l : Nat) (k : SnoopKind) (hm : s.Kept ww) :
    (State.sliceSnoop s sl l k).Kept ww := by
  unfold State.sliceSnoop
  dsimp only
  repeat' split
  all_goals simp [*]

@[simp] theorem State.cacheSnoop_kept (s : State) (who : Holder) (l : Nat) (k : SnoopKind) (hm : s.Kept ww) :
    (State.cacheSnoop s who l k).Kept ww := by
  unfold State.cacheSnoop
  dsimp only
  repeat' split
  all_goals simp [*]

@[simp] theorem State.sliceSnoopRsp_kept (s : State) (sl : SliceId) (l : Nat) (t : Nat) (r : SnoopRsp) (hm : s.Kept ww) :
    (State.sliceSnoopRsp s sl l t r).Kept ww := by
  unfold State.sliceSnoopRsp
  dsimp only
  repeat' split
  all_goals simp (maxDischargeDepth := 40) (contextual := true) [*]

@[simp] theorem State.homeSnoopRsp_kept (s : State) (h : Nat) (l : Nat) (src : Holder ⊕ SliceId) (r : SnoopRsp) (hm : s.Kept ww) :
    (State.homeSnoopRsp s h l src r).Kept ww := by
  unfold State.homeSnoopRsp
  dsimp only
  repeat' split
  all_goals simp (maxDischargeDepth := 40) (contextual := true) [*]

@[simp] theorem State.resend_kept (s : State) (h : Nat) (l : Nat) (dst : Holder ⊕ SliceId) (hm : s.Kept ww) :
    (State.resend s h l dst).Kept ww := by
  unfold State.resend
  split <;> simp [*]

@[simp] theorem State.grantReceive_kept (s : State) (who : Holder) (l : Nat) (g : Grant) (hm : s.Kept ww) :
    (State.grantReceive s who l g).Kept ww := by
  unfold State.grantReceive
  split <;> simp [*]

@[simp] theorem State.nackReceive_kept (s : State) (who : Holder) (l : Nat) (reason : Nat) (hm : s.Kept ww) :
    (State.nackReceive s who l reason).Kept ww := by
  unfold State.nackReceive
  split <;> simp [*]

@[simp] theorem State.writeback_kept (s : State) (h : Nat) (l : Nat) (who : Holder) (data : Nat) (hm : s.Kept ww) :
    (State.writeback s h l who data).Kept ww := by
  unfold State.writeback
  dsimp only
  repeat' split
  all_goals simp (maxDischargeDepth := 40) (contextual := true) [*]

@[simp] theorem State.wbAck_kept (s : State) (who : Holder) (l : Nat) (hm : s.Kept ww) :
    (State.wbAck s who l).Kept ww := by
  unfold State.wbAck
  split <;> simp [*]

@[simp] theorem State.modPkg_kept (s : State) (k : Nat) (f : Pkg → Pkg) (hm : s.Kept ww) :
    (State.modPkg s k f).Kept ww := by
  unfold State.modPkg
  simp [*]

@[simp] theorem State.countUe_kept (s : State) (k : Nat) (hm : s.Kept ww) :
    (State.countUe s k).Kept ww := by
  unfold State.countUe
  simp [*]

@[simp] theorem State.packageFails_kept (s : State) (k : Nat) (hm : s.Kept ww) :
    (State.packageFails s k).Kept ww := by
  unfold State.packageFails
  split <;> simp [*]

@[simp] theorem State.lpddrCode_kept (s : State) (a : Nat) (e : CodeErr) (hm : s.Kept ww) :
    (State.lpddrCode s a e).Kept ww := by
  unfold State.lpddrCode
  (try dsimp only)
  repeat' (first
    | (simp (maxDischargeDepth := 40) (contextual := true) [*]; done)
    | (refine foldl_kept _ _ _ ?_ ?_) | (refine foldl_fst_kept _ _ _ ?_ ?_)
    | (intro _ _ _; try dsimp only)
    | (split <;> (try rename_i heq) <;>
        (try have hx := fst_kept (ww := ww) heq (by simp (maxDischargeDepth := 40) (contextual := true) [*, -heq]; done)) <;>
        (try dsimp only)))

@[simp] theorem State.fireLpddr_kept (s : State) (a : Nat) (job : Option (Nat × Nat)) (hm : s.Kept ww) :
    (State.fireLpddr s a job).Kept ww := by
  unfold State.fireLpddr
  dsimp only
  repeat' split
  all_goals simp [*]

@[simp] theorem State.homeAccess_kept (s : State) (h : Nat) (rq : MemReq) (e : CodeErr) (hm : s.Kept ww) :
    (State.homeAccess s h rq e).Kept ww := by
  unfold State.homeAccess
  dsimp only
  repeat' split
  all_goals simp (maxDischargeDepth := 40) (contextual := true) [*]

end Sys2Proof.Machine
end

