-- ==== Sys2Proof/Laws/KeptMemory.lean ====
section
/-!
SUPPORT. `State.Kept` through the operations of Machine/Memory.lean.
-/
namespace Sys2Proof.Machine
open Sys2Proof
variable {ww : Watch}

@[simp] theorem State.faultJobs_kept (s : State) (js : List (Nat × Nat)) (e : Event) (hm : s.Kept ww) :
    (State.faultJobs s js e).Kept ww := by
  unfold State.faultJobs
  simp (maxDischargeDepth := 40) (contextual := true) [*]

@[simp] theorem State.channelFails_kept (s : State) (k : Nat) (c : Nat) (hm : s.Kept ww) :
    (State.channelFails s k c).Kept ww := by
  unfold State.channelFails
  dsimp only
  repeat' split
  all_goals simp [*]

@[simp] theorem State.hbmCorrected_kept (s : State) (k : Nat) (c : Nat) (inj : Bool) (hm : s.Kept ww) :
    (State.hbmCorrected s k c inj).Kept ww := by
  unfold State.hbmCorrected
  dsimp only
  repeat' split
  all_goals simp [*]

@[simp] theorem State.hbmCode_kept (s : State) (a : Nat) (e : CodeErr) (hm : s.Kept ww) :
    (State.hbmCode s a e).Kept ww := by
  unfold State.hbmCode
  dsimp only
  repeat' split
  all_goals simp [*]

@[simp] theorem State.fireRead_kept (s : State) (a : Nat) (job : Option (Nat × Nat)) (hm : s.Kept ww) :
    (State.fireRead s a job).Kept ww := by
  unfold State.fireRead
  dsimp only
  repeat' split
  all_goals simp [*]

@[simp] theorem State.sramCode_kept (s : State) (t : Nat) (a : Nat) (e : CodeErr) (hm : s.Kept ww) :
    (State.sramCode s t a e).Kept ww := by
  unfold State.sramCode
  split <;> simp [*]

@[simp] theorem State.remoteAgent_kept (s : State) (t : Nat) (rq : MemReq) (e : CodeErr) (hm : s.Kept ww) :
    (State.remoteAgent s t rq e).Kept ww := by
  unfold State.remoteAgent
  dsimp only
  repeat' split
  all_goals simp (maxDischargeDepth := 40) (contextual := true) [*]

@[simp] theorem State.sillRequest_kept (s : State) (k : Nat) (rq : MemReq) (e : CodeErr) (hm : s.Kept ww) :
    (State.sillRequest s k rq e).Kept ww := by
  unfold State.sillRequest
  dsimp only
  repeat' split
  all_goals simp (maxDischargeDepth := 40) (contextual := true) [*]

@[simp] theorem State.addElem_kept (s : State) (a : Nat) (v : Int) (hm : s.Kept ww) :
    (State.addElem s a v).Kept ww := by
  unfold State.addElem
  simp [*]

@[simp] theorem State.fireReduction_kept (s : State) (p : Nat) (rtid : Nat) (j : Nat) (hm : s.Kept ww) :
    (State.fireReduction s p rtid j).1.Kept ww := by
  unfold State.fireReduction
  dsimp only
  repeat' split
  all_goals simp [*]

@[simp] theorem State.caccFault_kept (s : State) (p : CaccPacket) (cause : Nat) (hm : s.Kept ww) :
    (State.caccFault s p cause).Kept ww := by
  unfold State.caccFault
  split <;> simp [*]

@[simp] theorem State.caccApply_kept (s : State) (p : CaccPacket) (hm : s.Kept ww) :
    (State.caccApply s p).Kept ww := by
  unfold State.caccApply
  simp (maxDischargeDepth := 40) (contextual := true) [*]

@[simp] theorem State.caccReceive_kept (s : State) (p : CaccPacket) (hm : s.Kept ww) :
    (State.caccReceive s p).Kept ww := by
  unfold State.caccReceive
  dsimp only
  repeat' split
  all_goals simp [*]

@[simp] theorem State.modStage_kept (s : State) (p : Nat) (q : Nat) (f : StageWin → StageWin) (hm : s.Kept ww) :
    (State.modStage s p q f).Kept ww := by
  unfold State.modStage
  simp [*]

@[simp] theorem State.serveStaged_kept (s : State) (q : Nat) (wl : Nat) (x : StagedWait) (hm : s.Kept ww) :
    (State.serveStaged s q wl x).Kept ww := by
  unfold State.serveStaged
  simp [*]

@[simp] theorem State.stagedArrive_kept (s : State) (p : Nat) (q : Nat) (rd : StagedWait) (hm : s.Kept ww) :
    (State.stagedArrive s p q rd).Kept ww := by
  unfold State.stagedArrive
  simp [*]

@[simp] theorem State.stagedRead_kept (s : State) (t : Nat) (slot : Nat) (addr : Nat) (len : Nat) (tag : Nat) (hm : s.Kept ww) :
    (State.stagedRead s t slot addr len tag).Kept ww := by
  unfold State.stagedRead
  split <;> simp [*]

@[simp] theorem State.fillLine_kept (s : State) (q : Nat) (wl : Nat) (n : Nat) (hm : s.Kept ww) :
    (State.fillLine s q wl n).Kept ww := by
  unfold State.fillLine
  simp (maxDischargeDepth := 40) (contextual := true) [*]

@[simp] theorem State.fillDone_kept (s : State) (q : Nat) (n : Nat) (hm : s.Kept ww) :
    (State.fillDone s q n).Kept ww := by
  unfold State.fillDone
  dsimp only
  repeat' split
  all_goals simp (maxDischargeDepth := 40) (contextual := true) [*]

end Sys2Proof.Machine
end

