-- ==== Sys2Proof/Laws/KeptMover.lean ====
section
/-!
SUPPORT. `State.Kept` through the operations of Machine/Mover.lean.
-/
namespace Sys2Proof.Machine
open Sys2Proof
variable {ww : Watch}

@[simp] theorem State.nextSlot_kept (s : State) (t : Nat) (w : WorkCmd) (p : Place) (e : Nat) (given : Table Nat) (hm : s.Kept ww) :
    (State.nextSlot s t w p e given).2.1.Kept ww := by
  unfold State.nextSlot
  split <;> simp [*]

@[simp] theorem State.assign_kept (s : State) (t : Nat) (a : Active) (rts : List (Bool × Nat × Nat))
    (hm : s.Kept ww) : (State.assign s t a rts).2.Kept ww := by
  have key : ∀ (l : List (Bool × Nat × Nat)) (p : List Nat × State × Table Nat), p.2.1.Kept ww →
      (l.foldl (s.assignOne t a) p).2.1.Kept ww := by
    intro l
    induction l with
    | nil => exact fun _ h => h
    | cons x l ih =>
      intro p h
      refine ih _ ?_
      unfold State.assignOne
      split <;> simp [h]
  exact key _ _ hm

@[simp] theorem State.noteUnmapped_kept (s : State) (a : Nat) (write : Bool) (r : Resp) (hm : s.Kept ww) :
    (State.noteUnmapped s a write r).Kept ww := by
  unfold State.noteUnmapped
  simp [*]

@[simp] theorem State.putBrick_kept (s : State) (t : Nat) (a : Active) (n : Nat) (bs : List Byte) (b : BrickRec) (hm : s.Kept ww) :
    (State.putBrick s t a n bs b).Kept ww := by
  unfold State.putBrick
  simp (maxDischargeDepth := 40) (contextual := true) [*]

@[simp] theorem State.putRecords_kept (s : State) (t : Nat) (a : Active) (y6 : Nat) (y8 : Nat) (y10 : List Byte) (hm : s.Kept ww) :
    (State.putRecords s t a y6 y8 y10).1.Kept ww := by
  induction y6 generalizing s t a y8 y10 <;> simp only [State.putRecords] <;> (try dsimp only)
  all_goals repeat' (first
    | (simp (maxDischargeDepth := 40) (contextual := true) [*]; done)
    | (refine foldl_kept _ _ _ ?_ ?_) | (refine foldl_fst_kept _ _ _ ?_ ?_)
    | (intro _ _ _; try dsimp only)
    | (split <;> (try rename_i heq) <;>
        (try have hx := fst_kept (ww := ww) heq (by simp (maxDischargeDepth := 40) (contextual := true) [*, -heq]; done)) <;>
        (try dsimp only)))

@[simp] theorem State.fireFrame_kept (s : State) (t : Nat) (job : Option (Nat × Nat)) (frame : Nat) (brick : Nat) (hm : s.Kept ww) :
    (State.fireFrame s t job frame brick).1.Kept ww := by
  unfold State.fireFrame
  dsimp only
  repeat' split
  all_goals simp [*]

@[simp] theorem State.expandFrame_kept (s : State) (t : Nat) (a : Active) (bs : List Byte) (hm : s.Kept ww) :
    (State.expandFrame s t a bs).1.Kept ww := by
  unfold State.expandFrame
  dsimp only
  repeat' split
  all_goals simp [*]

@[simp] theorem State.expandReady_kept (s : State) (t : Nat) (y4 : Nat) (y6 : Active) (hm : s.Kept ww) :
    (State.expandReady s t y4 y6).1.Kept ww := by
  induction y4 generalizing s t y6 <;> simp only [State.expandReady] <;> (try dsimp only)
  all_goals repeat' (first
    | (simp (maxDischargeDepth := 40) (contextual := true) [*]; done)
    | (refine foldl_kept _ _ _ ?_ ?_) | (refine foldl_fst_kept _ _ _ ?_ ?_)
    | (intro _ _ _; try dsimp only)
    | (split <;> (try rename_i heq) <;>
        (try have hx := fst_kept (ww := ww) heq (by simp (maxDischargeDepth := 40) (contextual := true) [*, -heq]; done)) <;>
        (try dsimp only)))

@[simp] theorem State.moverRead_kept (s : State) (t : Nat) (a : Active) (ad : Nat) (n : Nat) (cached : Bool) (hm : s.Kept ww) :
    (State.moverRead s t a ad n cached).1.Kept ww := by
  unfold State.moverRead
  dsimp only
  repeat' split
  all_goals simp [*]

@[simp] theorem State.moverWrite_kept (s : State) (t : Nat) (ad : Nat) (bs : List Byte) (cached : Bool) (hm : s.Kept ww) :
    (State.moverWrite s t ad bs cached).1.Kept ww := by
  unfold State.moverWrite
  dsimp only
  repeat' split
  all_goals simp [*]

@[simp] theorem State.moverElems_kept (s : State) (t : Nat) (a : Active) (i0 : Nat) (n : Nat) (ad : Nat) (hm : s.Kept ww) :
    (State.moverElems s t a i0 n ad).1.Kept ww := by
  unfold State.moverElems
  (try dsimp only)
  repeat' (first
    | (simp (maxDischargeDepth := 40) (contextual := true) [*]; done)
    | (refine foldl_kept _ _ _ ?_ ?_) | (refine foldl_fst_kept _ _ _ ?_ ?_)
    | (intro _ _ _; try dsimp only)
    | (split <;> (try rename_i heq) <;>
        (try have hx := fst_kept (ww := ww) heq (by simp (maxDischargeDepth := 40) (contextual := true) [*, -heq]; done)) <;>
        (try dsimp only)))

@[simp] theorem State.workBytes_kept (s : State) (t : Nat) (a : Active) (given : Option (List Byte)) (ad : Nat) (n : Nat) (cached : Bool) (hm : s.Kept ww) :
    (State.workBytes s t a given ad n cached).1.Kept ww := by
  unfold State.workBytes
  split <;> simp [*]

@[simp] theorem State.doWork_kept (s : State) (t : Nat) (a : Active) (w : Work) (given : Option (List Byte)) (cached : Bool) (hm : s.Kept ww) :
    (State.doWork s t a w given cached).1.Kept ww := by
  unfold State.doWork
  (try dsimp only)
  repeat' (first
    | (simp (maxDischargeDepth := 40) (contextual := true) [*]; done)
    | (refine foldl_kept _ _ _ ?_ ?_) | (refine foldl_fst_kept _ _ _ ?_ ?_)
    | (intro _ _ _; try dsimp only)
    | (split <;> (try rename_i heq) <;>
        (try have hx := fst_kept (ww := ww) heq (by simp (maxDischargeDepth := 40) (contextual := true) [*, -heq]; done)) <;>
        (try dsimp only)))

@[simp] theorem State.rbFinish_kept (s : State) (t : Nat) (a : Active) (hm : s.Kept ww) :
    (State.rbFinish s t a).1.Kept ww := by
  unfold State.rbFinish
  dsimp only
  repeat' split
  all_goals simp (maxDischargeDepth := 40) (contextual := true) [*]

@[simp] theorem State.finishMove_kept (s : State) (t : Nat) (j : Nat) (pos : Count) (hm : s.Kept ww) :
    (State.finishMove s t j pos).Kept ww := by
  unfold State.finishMove
  dsimp only
  repeat' split
  all_goals simp [*]

@[simp] theorem State.sendTxn_kept (s : State) (t : Nat) (a : Active) (w : Work) (r : Reach) (hm : s.Kept ww) :
    (State.sendTxn s t a w r).1.Kept ww := by
  unfold State.sendTxn
  (try dsimp only)
  repeat' (first
    | (simp (maxDischargeDepth := 40) (contextual := true) [*]; done)
    | (refine foldl_kept _ _ _ ?_ ?_) | (refine foldl_fst_kept _ _ _ ?_ ?_)
    | (intro _ _ _; try dsimp only)
    | (split <;> (try rename_i heq) <;>
        (try have hx := fst_kept (ww := ww) heq (by simp (maxDischargeDepth := 40) (contextual := true) [*, -heq]; done)) <;>
        (try dsimp only)))

@[simp] theorem State.stopMover_kept (s : State) (t : Nat) (j : Nat) (hm : s.Kept ww) :
    (State.stopMover s t j).Kept ww := by
  unfold State.stopMover
  simp [*]

@[simp] theorem State.issueWork_kept (s : State) (t : Nat) (a : Active) (hm : s.Kept ww) :
    (State.issueWork s t a).Kept ww := by
  unfold State.issueWork
  (try dsimp only)
  repeat' (first
    | (simp (maxDischargeDepth := 40) (contextual := true) [*]; done)
    | (refine foldl_kept _ _ _ ?_ ?_) | (refine foldl_fst_kept _ _ _ ?_ ?_)
    | (intro _ _ _; try dsimp only)
    | (split <;> (try rename_i heq) <;>
        (try have hx := fst_kept (ww := ww) heq (by simp (maxDischargeDepth := 40) (contextual := true) [*, -heq]; done)) <;>
        (try dsimp only)))

@[simp] theorem issueRun_kept (y0 : Nat) (y2 : Nat) (y4 : State) (hm : y4.Kept ww) :
    (issueRun y0 y2 y4).Kept ww := by
  induction y0 generalizing y2 y4 <;> simp only [issueRun] <;> (try dsimp only)
  all_goals repeat' (first
    | (simp (maxDischargeDepth := 40) (contextual := true) [*]; done)
    | (refine foldl_kept _ _ _ ?_ ?_) | (refine foldl_fst_kept _ _ _ ?_ ?_)
    | (intro _ _ _; try dsimp only)
    | (split <;> (try rename_i heq) <;>
        (try have hx := fst_kept (ww := ww) heq (by simp (maxDischargeDepth := 40) (contextual := true) [*, -heq]; done)) <;>
        (try dsimp only)))

@[simp] theorem State.runStamp_kept (s : State) (t : Nat) (a : Active) (hm : s.Kept ww) :
    (State.runStamp s t a).Kept ww := by
  unfold State.runStamp
  (try dsimp only)
  repeat' (first
    | (simp (maxDischargeDepth := 40) (contextual := true) [*]; done)
    | (refine foldl_kept _ _ _ ?_ ?_) | (refine foldl_fst_kept _ _ _ ?_ ?_)
    | (intro _ _ _; try dsimp only)
    | (split <;> (try rename_i heq) <;>
        (try have hx := fst_kept (ww := ww) heq (by simp (maxDischargeDepth := 40) (contextual := true) [*, -heq]; done)) <;>
        (try dsimp only)))

@[simp] theorem State.passTurn_kept (s : State) (t : Nat) (w : WorkCmd) (hm : s.Kept ww) :
    (State.passTurn s t w).Kept ww := by
  unfold State.passTurn
  simp [*]

@[simp] theorem State.planMove_kept (s : State) (t : Nat) (a : Active) (hm : s.Kept ww) :
    (State.planMove s t a).1.Kept ww := by
  unfold State.planMove
  dsimp only
  repeat' split
  all_goals simp [*]

@[simp] theorem State.runMove_kept (s : State) (t : Nat) (op : Nat) (hm : s.Kept ww) :
    (State.runMove s t op).Kept ww := by
  unfold State.runMove
  (try dsimp only)
  repeat' (first
    | (simp (maxDischargeDepth := 40) (contextual := true) [*]; done)
    | (refine foldl_kept _ _ _ ?_ ?_) | (refine foldl_fst_kept _ _ _ ?_ ?_)
    | (intro _ _ _; try dsimp only)
    | (split <;> (try rename_i heq) <;>
        (try have hx := fst_kept (ww := ww) heq (by simp (maxDischargeDepth := 40) (contextual := true) [*, -heq]; done)) <;>
        (try dsimp only)))

@[simp] theorem State.lateResponse_kept (s : State) (t : Nat) (w : Work) (hm : s.Kept ww) :
    (State.lateResponse s t w).Kept ww := by
  unfold State.lateResponse
  split <;> simp [*]

@[simp] theorem State.txnResponse_kept (s : State) (t : Nat) (tag : Nat) (r : Resp) (hm : s.Kept ww) :
    (State.txnResponse s t tag r).Kept ww := by
  unfold State.txnResponse
  (try dsimp only)
  repeat' (first
    | (simp (maxDischargeDepth := 40) (contextual := true) [*]; done)
    | (refine foldl_kept _ _ _ ?_ ?_) | (refine foldl_fst_kept _ _ _ ?_ ?_)
    | (intro _ _ _; try dsimp only)
    | (split <;> (try rename_i heq) <;>
        (try have hx := fst_kept (ww := ww) heq (by simp (maxDischargeDepth := 40) (contextual := true) [*, -heq]; done)) <;>
        (try dsimp only)))

end Sys2Proof.Machine
end

