-- ==== Sys2Proof/Laws/KeptMgmt.lean ====
section
/-!
SUPPORT. `State.Kept` through the operations of Machine/Mgmt.lean.
-/
namespace Sys2Proof.Machine
open Sys2Proof
variable {ww : Watch}

@[simp] theorem State.modMgmt_kept (s : State) (f : Mgmt → Mgmt) (hm : s.Kept ww) :
    (State.modMgmt s f).Kept ww := by
  unfold State.modMgmt
  simp [*]

@[simp] theorem State.setSession_kept (s : State) (k : SessKey) (v : Session) (hm : s.Kept ww) :
    (State.setSession s k v).Kept ww := by
  unfold State.setSession
  simp [*]

@[simp] theorem State.dropSession_kept (s : State) (k : SessKey) (hm : s.Kept ww) :
    (State.dropSession s k).Kept ww := by
  unfold State.dropSession
  simp [*]

@[simp] theorem State.mailboxDone_kept (s : State) (g : Nat) (pos : Count) (msi : Bool) (status : Nat) (dup : Bool) (hm : s.Kept ww) :
    (State.mailboxDone s g pos msi status dup).Kept ww := by
  unfold State.mailboxDone
  simp (maxDischargeDepth := 40) (contextual := true) [*]

@[simp] theorem State.deliver_kept (s : State) (a : Accepted) (reply : List Byte) (dup : Bool) (hm : s.Kept ww) :
    (State.deliver s a reply dup).Kept ww := by
  unfold State.deliver
  dsimp only
  repeat' split
  all_goals simp [*]

@[simp] theorem State.replyOnly_kept (s : State) (a : Accepted) (status : Nat) (hm : s.Kept ww) :
    (State.replyOnly s a status).Kept ww := by
  unfold State.replyOnly
  simp [*]

@[simp] theorem State.answer_kept (s : State) (a : Accepted) (status : Nat) (detail : Nat) (rp : List Byte) (clamps : List Nat) (hm : s.Kept ww) :
    (State.answer s a status detail rp clamps).Kept ww := by
  unfold State.answer
  simp (maxDischargeDepth := 40) (contextual := true) [*]

@[simp] theorem State.release_kept (s : State) (w : Wait) (rp : State → IcralReq → List Byte) (hm : s.Kept ww) :
    (State.release s w rp).Kept ww := by
  unfold State.release
  simp (maxDischargeDepth := 40) (contextual := true) [*]

@[simp] theorem State.refuseWait_kept (s : State) (w : Wait) (status : Nat) (detail : Nat) (hm : s.Kept ww) :
    (State.refuseWait s w status detail).Kept ww := by
  unfold State.refuseWait
  simp (maxDischargeDepth := 40) (contextual := true) [*]

/-- Every effect of an opcode keeps memory's canonical form. -/
def Done.Kept (ww : Watch) : Done → Prop
  | .refuse .. => True
  | .ok s => s.Kept ww
  | .wait s _ => s.Kept ww

theorem need_ok (c : Bool) (st d : Nat) (k : Done) (hk : c = true → k.Kept ww) : (need c st d k).Kept ww := by
  unfold need; split
  · exact hk ‹_›
  · trivial

theorem doneRefuse_ok (a b : Nat) : (Done.refuse a b).Kept ww := trivial
theorem doneOk_ok (s : State) (hm : s.Kept ww) : (Done.ok s).Kept ww := hm
theorem doneWait_ok (s : State) (w : Wait) (hm : s.Kept ww) : (Done.wait s w).Kept ww := hm

@[simp] theorem State.performReq_kept (s : State) (q : IcralReq) (here : Bool) (o : OpSpec) (hm : s.Kept ww)
    (ho : ∀ w, (o.run s q w).Kept ww) : (State.performReq s q here o).Kept ww := by
  unfold State.performReq
  dsimp only
  split
  · exact hm
  · split
    · simp [hm]
    · split
      · simp [hm]
      · split
        · simp [hm]
        · split
          · simp [hm]
          · rename_i w cl hj h1 h2
            have h3 := ho w
            split
            · simp [hm]
            · rename_i s' heq
              rw [heq] at h3
              split
              · simp [hm]
              · simp [show s'.Kept ww from h3]
            · rename_i s' wt heq
              rw [heq] at h3
              split
              · simp [hm]
              · simp [show s'.Kept ww from h3]

end Sys2Proof.Machine
end

