-- ==== Sys2Proof/Laws/KeptHostCore.lean ====
section
/-!
SUPPORT. `State.Kept` through the operations of Machine/HostCore.lean.
-/
namespace Sys2Proof.Machine
open Sys2Proof
variable {ww : Watch}

@[simp] theorem State.trap_kept (s : State) (c : Nat) (cause : Nat) (tval : Nat) (hm : s.Kept ww) :
    (State.trap s c cause tval).Kept ww := by
  unfold State.trap
  simp [*]

@[simp] theorem State.runMx_kept (s : State) (c : Nat) (legal : Bool) (f : State → State) (hm : s.Kept ww) (hf : ∀ s, s.Kept ww → (f s).Kept ww) :
    (State.runMx s c legal f).Kept ww := by
  unfold State.runMx
  split <;> simp [*]

@[simp] theorem State.mxLd_kept (s : State) (c : Nat) (acc : Nat) (base : Nat) (stride : Nat) (hm : s.Kept ww) :
    (State.mxLd s c acc base stride).Kept ww := by
  unfold State.mxLd
  dsimp only
  repeat' split
  all_goals simp (maxDischargeDepth := 40) (contextual := true) [*]

@[simp] theorem State.storeRows_kept (s : State) (c : Nat) (acc : Nat) (base : Nat) (stride : Nat) (n : Nat) (conv : Nat → List Byte) (y14 : List Nat) (hm : s.Kept ww) :
    (State.storeRows s c acc base stride n conv y14).Kept ww := by
  induction y14 generalizing s c acc base stride n conv <;> simp only [State.storeRows] <;> (try dsimp only)
  all_goals repeat' (first
    | (simp (maxDischargeDepth := 40) (contextual := true) [*]; done)
    | (refine foldl_kept _ _ _ ?_ ?_) | (refine foldl_fst_kept _ _ _ ?_ ?_)
    | (intro _ _ _; try dsimp only)
    | (split <;> (try rename_i heq) <;>
        (try have hx := fst_kept (ww := ww) heq (by simp (maxDischargeDepth := 40) (contextual := true) [*, -heq]; done)) <;>
        (try dsimp only)))

@[simp] theorem State.mxStore_kept (s : State) (c : Nat) (acc : Nat) (base : Nat) (stride : Nat) (n : Nat) (conv : Nat → List Byte) (hm : s.Kept ww) :
    (State.mxStore s c acc base stride n conv).Kept ww := by
  unfold State.mxStore
  split <;> simp [*]

@[simp] theorem State.setTurn_kept (s : State) (h : Nat) (g : Nat) (c : Option Nat) (hm : s.Kept ww) :
    (State.setTurn s h g c).Kept ww := by
  unfold State.setTurn
  simp [*]

@[simp] theorem State.writeTvplumb_kept (s : State) (c : Nat) (v : Nat) (mode : HartMode) (hm : s.Kept ww) :
    (State.writeTvplumb s c v mode).Kept ww := by
  unfold State.writeTvplumb
  dsimp only
  repeat' split
  all_goals simp (maxDischargeDepth := 40) (contextual := true) [*]

@[simp] theorem State.turnEnd_kept (s : State) (h : Nat) (g : Nat) (hm : s.Kept ww) :
    (State.turnEnd s h g).Kept ww := by
  unfold State.turnEnd
  split <;> simp [*]

@[simp] theorem State.refuseIo_kept (s : State) (h : Nat) (cause : Nat) (rid : Nat) (a : Nat) (op : MemOp) (hm : s.Kept ww) :
    (State.refuseIo s h cause rid a op).Kept ww := by
  unfold State.refuseIo
  split <;> simp [*]

@[simp] theorem State.inbound_kept (s : State) (rp : Nat) (rid : Nat) (op : MemOp) (ans : IommuAnswer) (hm : s.Kept ww) :
    (State.inbound s rp rid op ans).Kept ww := by
  unfold State.inbound
  dsimp only
  repeat' split
  all_goals simp (maxDischargeDepth := 40) (contextual := true) [*]

@[simp] theorem State.platformMsi_kept (s : State) (hm : s.Kept ww) :
    (State.platformMsi s).Kept ww := by
  unfold State.platformMsi
  simp (maxDischargeDepth := 40) (contextual := true) [*]

@[simp] theorem State.presence_kept (s : State) (rp : Nat) (there : Bool) (hm : s.Kept ww) :
    (State.presence s rp there).Kept ww := by
  unfold State.presence
  dsimp only
  repeat' split
  all_goals simp [*]

end Sys2Proof.Machine
end

