-- ==== Sys2Proof/Laws/KeptCourse.lean ====
section
/-!
SUPPORT. `State.Kept` through the operations of Machine/Course.lean.
-/
namespace Sys2Proof.Machine
open Sys2Proof
variable {ww : Watch}

@[simp] theorem State.unitRead_kept (s : State) (job : Option (Nat × Nat)) (n : Nat) (a : Nat) (hm : s.Kept ww) :
    (State.unitRead s job n a).1.Kept ww := by
  unfold State.unitRead
  dsimp only
  repeat' split
  all_goals simp (maxDischargeDepth := 40) (contextual := true) [*]

@[simp] theorem State.unitWrite_kept (s : State) (a : Nat) (bs : List Byte) (hm : s.Kept ww) :
    (State.unitWrite s a bs).1.Kept ww := by
  unfold State.unitWrite
  split <;> simp [*]

@[simp] theorem State.faultUnit_kept (s : State) (g : Nat) (p : Nat) (j : Nat) (pos : Count) (unit : Agent) (e : Event) (hm : s.Kept ww) :
    (State.faultUnit s g p j pos unit e).Kept ww := by
  unfold State.faultUnit
  simp [*]

@[simp] theorem State.putRecord_kept (s : State) (g : Nat) (p : Nat) (j : Nat) (pos : Count) (outcome : Nat) (flags : Nat) (hm : s.Kept ww) :
    (State.putRecord s g p j pos outcome flags).1.Kept ww := by
  unfold State.putRecord
  simp [*]

@[simp] theorem State.unitDone_kept (s : State) (unit : Agent) (q : Option Nat) (g : Nat) (p : Nat) (j : Nat) (pos : Count) (crec : Bool) (sigen : Bool) (tile : Nat) (ctr : Nat) (val : Nat) (outcome : Nat) (flags : Nat) (hm : s.Kept ww) :
    (State.unitDone s unit q g p j pos crec sigen tile ctr val outcome flags).Kept ww := by
  unfold State.unitDone
  dsimp only
  repeat' split
  all_goals simp (maxDischargeDepth := 40) (contextual := true) [*]

@[simp] theorem State.unitStarts_kept (s : State) (unit : Agent) (q : Option Nat) (p : Nat) (j : Nat) (pos : Count) (op : Nat) (hm : s.Kept ww) :
    (State.unitStarts s unit q p j pos op).Kept ww := by
  unfold State.unitStarts
  simp [*]

@[simp] theorem State.waitWord_kept (s : State) (p : Nat) (j : Nat) (a : Nat) (v : Nat) (hm : s.Kept ww) :
    (State.waitWord s p j a v).1.Kept ww := by
  unfold State.waitWord
  (try dsimp only)
  repeat' (first
    | (simp (maxDischargeDepth := 40) (contextual := true) [*]; done)
    | (refine foldl_kept _ _ _ ?_ ?_) | (refine foldl_fst_kept _ _ _ ?_ ?_)
    | (intro _ _ _; try dsimp only)
    | (split <;> (try rename_i heq) <;>
        (try have hx := fst_kept (ww := ww) heq (by simp (maxDischargeDepth := 40) (contextual := true) [*, -heq]; done)) <;>
        (try dsimp only)))

@[simp] theorem State.transmit_kept (s : State) (k : Nat) (f : SentFrame) (hm : s.Kept ww) :
    (State.transmit s k f).1.Kept ww := by
  unfold State.transmit
  dsimp only
  repeat' split
  all_goals simp [*]

@[simp] theorem State.sendNew_kept (s : State) (k : Nat) (f : SentFrame) (hm : s.Kept ww) :
    (State.sendNew s k f).1.Kept ww := by
  unfold State.sendNew
  (try dsimp only)
  repeat' (first
    | (simp (maxDischargeDepth := 40) (contextual := true) [*]; done)
    | (refine foldl_kept _ _ _ ?_ ?_) | (refine foldl_fst_kept _ _ _ ?_ ?_)
    | (intro _ _ _; try dsimp only)
    | (split <;> (try rename_i heq) <;>
        (try have hx := fst_kept (ww := ww) heq (by simp (maxDischargeDepth := 40) (contextual := true) [*, -heq]; done)) <;>
        (try dsimp only)))

@[simp] theorem State.sendList_kept (s : State) (y2 : List (Nat × SentFrame)) (y4 : Nat) (hm : s.Kept ww) :
    (State.sendList s y2 y4).1.Kept ww := by
  induction y2 generalizing s y4 <;> simp only [State.sendList] <;> (try dsimp only)
  all_goals repeat' (first
    | (simp (maxDischargeDepth := 40) (contextual := true) [*]; done)
    | (refine foldl_kept _ _ _ ?_ ?_) | (refine foldl_fst_kept _ _ _ ?_ ?_)
    | (intro _ _ _; try dsimp only)
    | (split <;> (try rename_i heq) <;>
        (try have hx := fst_kept (ww := ww) heq (by simp (maxDischargeDepth := 40) (contextual := true) [*, -heq]; done)) <;>
        (try dsimp only)))

@[simp] theorem State.resendFrame_kept (s : State) (k : Nat) (f : SentFrame) (i : Nat) (hm : s.Kept ww) :
    (State.resendFrame s k f i).Kept ww := by
  unfold State.resendFrame
  (try dsimp only)
  repeat' (first
    | (simp (maxDischargeDepth := 40) (contextual := true) [*]; done)
    | (refine foldl_kept _ _ _ ?_ ?_) | (refine foldl_fst_kept _ _ _ ?_ ?_)
    | (intro _ _ _; try dsimp only)
    | (split <;> (try rename_i heq) <;>
        (try have hx := fst_kept (ww := ww) heq (by simp (maxDischargeDepth := 40) (contextual := true) [*, -heq]; done)) <;>
        (try dsimp only)))

@[simp] theorem State.modCmd_kept (s : State) (n : Nat) (i : Nat) (pos : Count) (f : CourseCmd → CourseCmd) (hm : s.Kept ww) :
    (State.modCmd s n i pos f).Kept ww := by
  unfold State.modCmd
  simp [*]

@[simp] theorem State.courseSend_kept (s : State) (n : Nat) (i : Nat) (x : CourseCmd) (hm : s.Kept ww) :
    (State.courseSend s n i x).Kept ww := by
  unfold State.courseSend
  dsimp only
  repeat' split
  all_goals simp [*]

@[simp] theorem State.putOutcome_kept (s : State) (p : Nat) (j : Nat) (step : Nat) (outcome : Nat) (peer : Nat) (hm : s.Kept ww) :
    (State.putOutcome s p j step outcome peer).Kept ww := by
  unfold State.putOutcome
  simp [*]

@[simp] theorem State.voteAbort_kept (s : State) (p : Nat) (j : Nat) (step : Nat) (outcome : Nat) (peer : Nat) (hm : s.Kept ww) :
    (State.voteAbort s p j step outcome peer).Kept ww := by
  unfold State.voteAbort
  simp (maxDischargeDepth := 40) (contextual := true) [*]

@[simp] theorem State.commit_kept (s : State) (p : Nat) (j : Nat) (step : Nat) (hm : s.Kept ww) :
    (State.commit s p j step).Kept ww := by
  unfold State.commit
  simp (maxDischargeDepth := 40) (contextual := true) [*]

@[simp] theorem State.voteCheck_kept (s : State) (p : Nat) (j : Nat) (hm : s.Kept ww) :
    (State.voteCheck s p j).Kept ww := by
  unfold State.voteCheck
  dsimp only
  repeat' split
  all_goals simp [*]

@[simp] theorem State.holdReady_kept (s : State) (p : Nat) (j : Nat) (r : Nat) (bs : List Byte) (hm : s.Kept ww) :
    (State.holdReady s p j r bs).Kept ww := by
  unfold State.holdReady
  simp [*]

@[simp] theorem State.submitVote_kept (s : State) (n : Nat) (i : Nat) (x : CourseCmd) (hm : s.Kept ww) :
    (State.submitVote s n i x).Kept ww := by
  unfold State.submitVote
  (try dsimp only)
  repeat' (first
    | (simp (maxDischargeDepth := 40) (contextual := true) [*]; done)
    | (refine foldl_kept _ _ _ ?_ ?_) | (refine foldl_fst_kept _ _ _ ?_ ?_)
    | (intro _ _ _; try dsimp only)
    | (split <;> (try rename_i heq) <;>
        (try have hx := fst_kept (ww := ww) heq (by simp (maxDischargeDepth := 40) (contextual := true) [*, -heq]; done)) <;>
        (try dsimp only)))

@[simp] theorem State.courseBegin_kept (s : State) (n : Nat) (i : Nat) (w : Nat) (hm : s.Kept ww) :
    (State.courseBegin s n i w).Kept ww := by
  unfold State.courseBegin
  simp (maxDischargeDepth := 40) (contextual := true) [*]

@[simp] theorem State.courseStart_kept (s : State) (n : Nat) (i : Nat) (w : Nat) (hm : s.Kept ww) :
    (State.courseStart s n i w).Kept ww := by
  unfold State.courseStart
  (try dsimp only)
  repeat' (first
    | (simp (maxDischargeDepth := 40) (contextual := true) [*]; done)
    | (refine foldl_kept _ _ _ ?_ ?_) | (refine foldl_fst_kept _ _ _ ?_ ?_)
    | (intro _ _ _; try dsimp only)
    | (split <;> (try rename_i heq) <;>
        (try have hx := fst_kept (ww := ww) heq (by simp (maxDischargeDepth := 40) (contextual := true) [*, -heq]; done)) <;>
        (try dsimp only)))

@[simp] theorem State.courseRow_kept (s : State) (n : Nat) (i : Nat) (op : Nat) (hm : s.Kept ww) :
    (State.courseRow s n i op).Kept ww := by
  unfold State.courseRow
  dsimp only
  repeat' split
  all_goals simp [*]

@[simp] theorem State.phaseAdvance_kept (s : State) (n : Nat) (i : Nat) (hm : s.Kept ww) :
    (State.phaseAdvance s n i).Kept ww := by
  unfold State.phaseAdvance
  (try dsimp only)
  repeat' (first
    | (simp (maxDischargeDepth := 40) (contextual := true) [*]; done)
    | (refine foldl_kept _ _ _ ?_ ?_) | (refine foldl_fst_kept _ _ _ ?_ ?_)
    | (intro _ _ _; try dsimp only)
    | (split <;> (try rename_i heq) <;>
        (try have hx := fst_kept (ww := ww) heq (by simp (maxDischargeDepth := 40) (contextual := true) [*, -heq]; done)) <;>
        (try dsimp only)))

@[simp] theorem State.courseComplete_kept (s : State) (n : Nat) (i : Nat) (hm : s.Kept ww) :
    (State.courseComplete s n i).Kept ww := by
  unfold State.courseComplete
  dsimp only
  repeat' split
  all_goals simp [*]

@[simp] theorem State.badFrame_kept (s : State) (n : Nat) (hm : s.Kept ww) :
    (State.badFrame s n).Kept ww := by
  unfold State.badFrame
  simp [*]

@[simp] theorem State.fireCourse_kept (s : State) (n : Nat) (hm : s.Kept ww) :
    (State.fireCourse s n).1.Kept ww := by
  unfold State.fireCourse
  dsimp only
  repeat' split
  all_goals simp [*]

@[simp] theorem State.receive_kept (s : State) (n : Nat) (f : CourseFrame) (hm : s.Kept ww) :
    (State.receive s n f).1.Kept ww := by
  unfold State.receive
  dsimp only
  repeat' split
  all_goals simp (maxDischargeDepth := 40) (contextual := true) [*]

@[simp] theorem State.sendAck_kept (s : State) (k : Nat) (n : Nat) (type : Nat) (hm : s.Kept ww) :
    (State.sendAck s k n type).Kept ww := by
  unfold State.sendAck
  dsimp only
  repeat' split
  all_goals simp [*]

@[simp] theorem State.ackIfDue_kept (s : State) (k : Nat) (n : Nat) (hm : s.Kept ww) :
    (State.ackIfDue s k n).Kept ww := by
  unfold State.ackIfDue
  simp [*]

@[simp] theorem State.classify_kept (s : State) (n : Nat) (k : Nat) (f : CourseFrame) (hm : s.Kept ww) :
    (State.classify s n k f).1.Kept ww := by
  unfold State.classify
  simp (maxDischargeDepth := 40) (contextual := true) [*]

@[simp] theorem State.dataHeld_kept (s : State) (n : Nat) (k : Nat) (f : CourseFrame) (hm : s.Kept ww) :
    (State.dataHeld s n k f).Kept ww := by
  unfold State.dataHeld
  split <;> simp [*]

@[simp] theorem State.dataSorted_kept (s : State) (n : Nat) (k : Nat) (f : CourseFrame) (hm : s.Kept ww) :
    (State.dataSorted s n k f).Kept ww := by
  unfold State.dataSorted
  split <;> simp [*]

@[simp] theorem State.dataReceive_kept (s : State) (n : Nat) (f : CourseFrame) (hm : s.Kept ww) :
    (State.dataReceive s n f).Kept ww := by
  unfold State.dataReceive
  (try dsimp only)
  repeat' (first
    | (simp (maxDischargeDepth := 40) (contextual := true) [*]; done)
    | (refine foldl_kept _ _ _ ?_ ?_) | (refine foldl_fst_kept _ _ _ ?_ ?_)
    | (intro _ _ _; try dsimp only)
    | (split <;> (try rename_i heq) <;>
        (try have hx := fst_kept (ww := ww) heq (by simp (maxDischargeDepth := 40) (contextual := true) [*, -heq]; done)) <;>
        (try dsimp only)))

@[simp] theorem State.applyData_kept (s : State) (k : Nat) (f : RxFrame) (hm : s.Kept ww) :
    (State.applyData s k f).1.Kept ww := by
  unfold State.applyData
  dsimp only
  repeat' split
  all_goals simp [*]

@[simp] theorem State.notifyMsg_kept (s : State) (p : Nat) (n : Nat) (h : Nat) (hm : s.Kept ww) :
    (State.notifyMsg s p n h).Kept ww := by
  unfold State.notifyMsg
  dsimp only
  repeat' split
  all_goals simp [*]

@[simp] theorem State.advanceA_kept (k : Nat) (y2 : Nat) (y4 : State) (hm : y4.Kept ww) :
    (State.advanceA k y2 y4).Kept ww := by
  induction y2 generalizing k y4 <;> simp only [State.advanceA] <;> (try dsimp only)
  all_goals repeat' (first
    | (simp (maxDischargeDepth := 40) (contextual := true) [*]; done)
    | (refine foldl_kept _ _ _ ?_ ?_) | (refine foldl_fst_kept _ _ _ ?_ ?_)
    | (intro _ _ _; try dsimp only)
    | (split <;> (try rename_i heq) <;>
        (try have hx := fst_kept (ww := ww) heq (by simp (maxDischargeDepth := 40) (contextual := true) [*, -heq]; done)) <;>
        (try dsimp only)))

@[simp] theorem State.applyVote_kept (s : State) (k : Nat) (f : RxFrame) (hm : s.Kept ww) :
    (State.applyVote s k f).Kept ww := by
  unfold State.applyVote
  simp [*]

@[simp] theorem State.frameApplied_kept (s : State) (k : Nat) (q : Nat) (hm : s.Kept ww) :
    (State.frameApplied s k q).Kept ww := by
  unfold State.frameApplied
  dsimp only
  repeat' split
  all_goals simp (maxDischargeDepth := 40) (contextual := true) [*]

@[simp] theorem State.voteSorted_kept (s : State) (n : Nat) (k : Nat) (f : CourseFrame) (hm : s.Kept ww) :
    (State.voteSorted s n k f).Kept ww := by
  unfold State.voteSorted
  simp (maxDischargeDepth := 40) (contextual := true) [*]

@[simp] theorem State.voteReceive_kept (s : State) (n : Nat) (f : CourseFrame) (hm : s.Kept ww) :
    (State.voteReceive s n f).Kept ww := by
  unfold State.voteReceive
  (try dsimp only)
  repeat' (first
    | (simp (maxDischargeDepth := 40) (contextual := true) [*]; done)
    | (refine foldl_kept _ _ _ ?_ ?_) | (refine foldl_fst_kept _ _ _ ?_ ?_)
    | (intro _ _ _; try dsimp only)
    | (split <;> (try rename_i heq) <;>
        (try have hx := fst_kept (ww := ww) heq (by simp (maxDischargeDepth := 40) (contextual := true) [*, -heq]; done)) <;>
        (try dsimp only)))

@[simp] theorem State.ackReceive_kept (s : State) (n : Nat) (f : CourseFrame) (hm : s.Kept ww) :
    (State.ackReceive s n f).Kept ww := by
  unfold State.ackReceive
  (try dsimp only)
  repeat' (first
    | (simp (maxDischargeDepth := 40) (contextual := true) [*]; done)
    | (refine foldl_kept _ _ _ ?_ ?_) | (refine foldl_fst_kept _ _ _ ?_ ?_)
    | (intro _ _ _; try dsimp only)
    | (split <;> (try rename_i heq) <;>
        (try have hx := fst_kept (ww := ww) heq (by simp (maxDischargeDepth := 40) (contextual := true) [*, -heq]; done)) <;>
        (try dsimp only)))

@[simp] theorem State.ackTimer_kept (s : State) (k : Nat) (hm : s.Kept ww) :
    (State.ackTimer s k).Kept ww := by
  unfold State.ackTimer
  simp [*]

@[simp] theorem State.retxTimer_kept (s : State) (k : Nat) (q : Nat) (hm : s.Kept ww) :
    (State.retxTimer s k q).Kept ww := by
  unfold State.retxTimer
  dsimp only
  repeat' split
  all_goals simp [*]

@[simp] theorem State.connFails_kept (s : State) (k : Nat) (f : SentFrame) (hm : s.Kept ww) :
    (State.connFails s k f).Kept ww := by
  unfold State.connFails
  simp [*]

@[simp] theorem State.connTimer_kept (s : State) (k : Nat) (q : Nat) (hm : s.Kept ww) :
    (State.connTimer s k q).Kept ww := by
  unfold State.connTimer
  dsimp only
  repeat' split
  all_goals simp [*]

@[simp] theorem State.voteTimeout_kept (s : State) (p : Nat) (j : Nat) (hm : s.Kept ww) :
    (State.voteTimeout s p j).Kept ww := by
  unfold State.voteTimeout
  dsimp only
  repeat' split
  all_goals simp [*]

@[simp] theorem State.abortReceive_kept (s : State) (n : Nat) (f : CourseFrame) (hm : s.Kept ww) :
    (State.abortReceive s n f).Kept ww := by
  unfold State.abortReceive
  (try dsimp only)
  repeat' (first
    | (simp (maxDischargeDepth := 40) (contextual := true) [*]; done)
    | (refine foldl_kept _ _ _ ?_ ?_) | (refine foldl_fst_kept _ _ _ ?_ ?_)
    | (intro _ _ _; try dsimp only)
    | (split <;> (try rename_i heq) <;>
        (try have hx := fst_kept (ww := ww) heq (by simp (maxDischargeDepth := 40) (contextual := true) [*, -heq]; done)) <;>
        (try dsimp only)))

@[simp] theorem State.abortResend_kept (s : State) (p : Nat) (j : Nat) (hm : s.Kept ww) :
    (State.abortResend s p j).Kept ww := by
  unfold State.abortResend
  dsimp only
  repeat' split
  all_goals simp (maxDischargeDepth := 40) (contextual := true) [*]

@[simp] theorem State.portEvent_kept (s : State) (n : Nat) (cause : Nat) (hm : s.Kept ww) :
    (State.portEvent s n cause).Kept ww := by
  unfold State.portEvent
  simp [*]

@[simp] theorem State.portModeDone_kept (s : State) (n : Nat) (hm : s.Kept ww) :
    (State.portModeDone s n).Kept ww := by
  unfold State.portModeDone
  split <;> simp [*]

@[simp] theorem State.portFails_kept (s : State) (n : Nat) (hm : s.Kept ww) :
    (State.portFails s n).Kept ww := by
  unfold State.portFails
  simp (maxDischargeDepth := 40) (contextual := true) [*]

@[simp] theorem State.retrainPort_kept (s : State) (n : Nat) (v : Nat) (auth : Auth) (hm : s.Kept ww) :
    (State.retrainPort s n v auth).Kept ww := by
  unfold State.retrainPort
  simp (maxDischargeDepth := 40) (contextual := true) [*]

@[simp] theorem State.portUp_kept (s : State) (n : Nat) (half : Bool) (hm : s.Kept ww) :
    (State.portUp s n half).Kept ww := by
  unfold State.portUp
  simp (maxDischargeDepth := 40) (contextual := true) [*]

@[simp] theorem State.ethEntry_kept (s : State) (g : Nat) (hm : s.Kept ww) :
    (State.ethEntry s g).1.Kept ww := by
  unfold State.ethEntry
  (try dsimp only)
  repeat' (first
    | (simp (maxDischargeDepth := 40) (contextual := true) [*]; done)
    | (refine foldl_kept _ _ _ ?_ ?_) | (refine foldl_fst_kept _ _ _ ?_ ?_)
    | (intro _ _ _; try dsimp only)
    | (split <;> (try rename_i heq) <;>
        (try have hx := fst_kept (ww := ww) heq (by simp (maxDischargeDepth := 40) (contextual := true) [*, -heq]; done)) <;>
        (try dsimp only)))

@[simp] theorem State.ethWriteBack_kept (s : State) (g : Nat) (len : Nat) (code : Nat) (stamp : Bool) (hm : s.Kept ww) :
    (State.ethWriteBack s g len code stamp).Kept ww := by
  unfold State.ethWriteBack
  simp [*]

@[simp] theorem State.drawBytes_kept (s : State) (y2 : Nat) (hm : s.Kept ww) :
    (State.drawBytes s y2).1.Kept ww := by
  induction y2 generalizing s <;> simp only [State.drawBytes] <;> (try dsimp only)
  all_goals repeat' (first
    | (simp (maxDischargeDepth := 40) (contextual := true) [*]; done)
    | (refine foldl_kept _ _ _ ?_ ?_) | (refine foldl_fst_kept _ _ _ ?_ ?_)
    | (intro _ _ _; try dsimp only)
    | (split <;> (try rename_i heq) <;>
        (try have hx := fst_kept (ww := ww) heq (by simp (maxDischargeDepth := 40) (contextual := true) [*, -heq]; done)) <;>
        (try dsimp only)))

@[simp] theorem State.ethReceive_kept (s : State) (n : Nat) (f : EthFrame) (hm : s.Kept ww) :
    (State.ethReceive s n f).Kept ww := by
  unfold State.ethReceive
  (try dsimp only)
  repeat' (first
    | (simp (maxDischargeDepth := 40) (contextual := true) [*]; done)
    | (refine foldl_kept _ _ _ ?_ ?_) | (refine foldl_fst_kept _ _ _ ?_ ?_)
    | (intro _ _ _; try dsimp only)
    | (split <;> (try rename_i heq) <;>
        (try have hx := fst_kept (ww := ww) heq (by simp (maxDischargeDepth := 40) (contextual := true) [*, -heq]; done)) <;>
        (try dsimp only)))

@[simp] theorem State.ethTransmit_kept (s : State) (n : Nat) (q : Nat) (hm : s.Kept ww) :
    (State.ethTransmit s n q).Kept ww := by
  unfold State.ethTransmit
  (try dsimp only)
  repeat' (first
    | (simp (maxDischargeDepth := 40) (contextual := true) [*]; done)
    | (refine foldl_kept _ _ _ ?_ ?_) | (refine foldl_fst_kept _ _ _ ?_ ?_)
    | (intro _ _ _; try dsimp only)
    | (split <;> (try rename_i heq) <;>
        (try have hx := fst_kept (ww := ww) heq (by simp (maxDischargeDepth := 40) (contextual := true) [*, -heq]; done)) <;>
        (try dsimp only)))

end Sys2Proof.Machine
end

