-- ==== Sys2Proof/Laws/KeptHod.lean ====
section
/-!
SUPPORT. `State.Kept` through the hod engines.
-/
namespace Sys2Proof.Machine
open Sys2Proof
variable {ww : Watch}

/-- Every result of the run keeps memory's canonical form. -/
structure HodM.Kept (ww : Watch) {α : Type} (m : HodM α) : Prop where
  keep : ∀ s : State, s.Kept ww → (m s).1.Kept ww

theorem hodPure_ok {α : Type} (x : α) : HodM.Kept ww (hodPure x) := ⟨fun _ h => h⟩
theorem hodFail_ok {α : Type} (c : Nat) : HodM.Kept ww (hodFail c : HodM α) := ⟨fun _ h => h⟩
theorem hodState_ok {α : Type} (f : State → α) : HodM.Kept ww (hodState f) := ⟨fun _ h => h⟩
theorem hodBind_ok {α β : Type} {m : HodM α} {f : α → HodM β} (hm : HodM.Kept ww m) (hf : ∀ x, HodM.Kept ww (f x)) :
    HodM.Kept ww (hodBind m f) := by
  refine ⟨fun s h => ?_⟩
  unfold hodBind
  split
  · exact hm.keep s h
  · exact (hf _).keep _ (hm.keep s h)
theorem hodEach_ok {α β : Type} {f : α → HodM β} (hf : ∀ x, HodM.Kept ww (f x)) (l : List α) : HodM.Kept ww (hodEach f l) := by
  induction l with
  | nil => exact hodPure_ok _
  | cons x l ih => exact hodBind_ok (hf x) (fun _ => hodBind_ok ih (fun _ => hodPure_ok _))
theorem hodDo_modHod_ok (h : Nat) (f : HodS → HodS) : HodM.Kept ww (hodDo (fun s => s.modHod h f)) := ⟨fun _ hm => hm⟩
theorem hodDraw_ok (n : Nat) : HodM.Kept ww (hodDraw n) := ⟨fun s hm => by simp [hodDraw, hm]⟩
theorem hodRead_ok (p j n a : Nat) : HodM.Kept ww (hodRead p j n a) := ⟨fun s hm => by simp [hodRead, hm]⟩
theorem hodNat_ok (p j n a : Nat) : HodM.Kept ww (hodNat p j n a) := hodBind_ok (hodRead_ok ..) (fun _ => hodPure_ok _)
theorem hodIf_ok {α : Type} (c : Prop) [Decidable c] {m n : HodM α} (hm : HodM.Kept ww m) (hn : HodM.Kept ww n) :
    HodM.Kept ww (if c then m else n) := by split <;> assumption

theorem hodMapEntry_ok (p j : Nat) (x : HodCmd) (u : Nat) : HodM.Kept ww (hodMapEntry p j x u) := by
  unfold hodMapEntry
  repeat' (with_reducible first | exact hodDraw_ok .. | exact hodNat_ok .. | exact hodRead_ok .. | exact hodDo_modHod_ok .. | exact hodState_ok .. | exact hodFail_ok .. | exact hodPure_ok .. | refine hodBind_ok ?_ ?_ | refine hodEach_ok ?_ _ | intro _ | split | dsimp only)

theorem hodRow_ok (h p j : Nat) (x : HodCmd) (u : Nat) : HodM.Kept ww (hodRow h p j x u) := by
  unfold hodRow
  repeat' (with_reducible first | exact hodMapEntry_ok .. | exact hodDraw_ok .. | exact hodNat_ok .. | exact hodRead_ok .. | exact hodDo_modHod_ok .. | exact hodState_ok .. | exact hodFail_ok .. | exact hodPure_ok .. | refine hodBind_ok ?_ ?_ | refine hodEach_ok ?_ _ | intro _ | split | dsimp only)

theorem hodWeights_ok (p j : Nat) (x : HodCmd) : HodM.Kept ww (hodWeights p j x) := by
  unfold hodWeights
  repeat' (with_reducible first | exact hodRow_ok .. | exact hodMapEntry_ok .. | exact hodDraw_ok .. | exact hodNat_ok .. | exact hodRead_ok .. | exact hodDo_modHod_ok .. | exact hodState_ok .. | exact hodFail_ok .. | exact hodPure_ok .. | refine hodBind_ok ?_ ?_ | refine hodEach_ok ?_ _ | intro _ | split | dsimp only)

theorem hodIndices_ok (p j : Nat) (x : HodCmd) : HodM.Kept ww (hodIndices p j x) := by
  unfold hodIndices
  repeat' (with_reducible first | exact hodWeights_ok .. | exact hodRow_ok .. | exact hodMapEntry_ok .. | exact hodDraw_ok .. | exact hodNat_ok .. | exact hodRead_ok .. | exact hodDo_modHod_ok .. | exact hodState_ok .. | exact hodFail_ok .. | exact hodPure_ok .. | refine hodBind_ok ?_ ?_ | refine hodEach_ok ?_ _ | intro _ | split | dsimp only)

theorem hodBags_ok (p j : Nat) (x : HodCmd) : HodM.Kept ww (hodBags p j x) := by
  unfold hodBags
  repeat' (with_reducible first | exact hodIndices_ok .. | exact hodWeights_ok .. | exact hodRow_ok .. | exact hodMapEntry_ok .. | exact hodDraw_ok .. | exact hodNat_ok .. | exact hodRead_ok .. | exact hodDo_modHod_ok .. | exact hodState_ok .. | exact hodFail_ok .. | exact hodPure_ok .. | refine hodBind_ok ?_ ?_ | refine hodEach_ok ?_ _ | intro _ | split | dsimp only)

theorem runGather_ok (h p j : Nat) (x : HodCmd) : HodM.Kept ww (runGather h p j x) := by
  unfold runGather
  repeat' (with_reducible first | exact hodBags_ok .. | exact hodIndices_ok .. | exact hodWeights_ok .. | exact hodRow_ok .. | exact hodMapEntry_ok .. | exact hodDraw_ok .. | exact hodNat_ok .. | exact hodRead_ok .. | exact hodDo_modHod_ok .. | exact hodState_ok .. | exact hodFail_ok .. | exact hodPure_ok .. | refine hodBind_ok ?_ ?_ | refine hodEach_ok ?_ _ | intro _ | split | dsimp only)

theorem runMerge_ok (p j : Nat) (x : HodCmd) : HodM.Kept ww (runMerge p j x) := by
  unfold runMerge
  repeat' (with_reducible first | exact runGather_ok .. | exact hodBags_ok .. | exact hodIndices_ok .. | exact hodWeights_ok .. | exact hodRow_ok .. | exact hodMapEntry_ok .. | exact hodDraw_ok .. | exact hodNat_ok .. | exact hodRead_ok .. | exact hodDo_modHod_ok .. | exact hodState_ok .. | exact hodFail_ok .. | exact hodPure_ok .. | refine hodBind_ok ?_ ?_ | refine hodEach_ok ?_ _ | intro _ | split | dsimp only)

theorem updateRow_ok (h p j : Nat) (x : HodCmd) (c32 : Option Nat) (k u : Nat) : HodM.Kept ww (updateRow h p j x c32 k u) := by
  unfold updateRow
  repeat' (with_reducible first | exact runMerge_ok .. | exact runGather_ok .. | exact hodBags_ok .. | exact hodIndices_ok .. | exact hodWeights_ok .. | exact hodRow_ok .. | exact hodMapEntry_ok .. | exact hodDraw_ok .. | exact hodNat_ok .. | exact hodRead_ok .. | exact hodDo_modHod_ok .. | exact hodState_ok .. | exact hodFail_ok .. | exact hodPure_ok .. | refine hodBind_ok ?_ ?_ | refine hodEach_ok ?_ _ | intro _ | split | dsimp only)

theorem runUpdate_ok (h p j : Nat) (x : HodCmd) : HodM.Kept ww (runUpdate h p j x) := by
  unfold runUpdate
  repeat' (with_reducible first | exact updateRow_ok .. | exact runMerge_ok .. | exact runGather_ok .. | exact hodBags_ok .. | exact hodIndices_ok .. | exact hodWeights_ok .. | exact hodRow_ok .. | exact hodMapEntry_ok .. | exact hodDraw_ok .. | exact hodNat_ok .. | exact hodRead_ok .. | exact hodDo_modHod_ok .. | exact hodState_ok .. | exact hodFail_ok .. | exact hodPure_ok .. | refine hodBind_ok ?_ ?_ | refine hodEach_ok ?_ _ | intro _ | split | dsimp only)

theorem hodPrepare_ok (p j : Nat) (b : HodCmd) : HodM.Kept ww (hodPrepare p j b) := by
  unfold hodPrepare
  repeat' (with_reducible first | exact runUpdate_ok .. | exact updateRow_ok .. | exact runMerge_ok .. | exact runGather_ok .. | exact hodBags_ok .. | exact hodIndices_ok .. | exact hodWeights_ok .. | exact hodRow_ok .. | exact hodMapEntry_ok .. | exact hodDraw_ok .. | exact hodNat_ok .. | exact hodRead_ok .. | exact hodDo_modHod_ok .. | exact hodState_ok .. | exact hodFail_ok .. | exact hodPure_ok .. | refine hodBind_ok ?_ ?_ | refine hodEach_ok ?_ _ | intro _ | split | dsimp only)

theorem hodRun_ok (h p j : Nat) (x : HodCmd) : HodM.Kept ww (hodRun h p j x) := by
  unfold hodRun
  repeat' (with_reducible first | exact hodPrepare_ok .. | exact runUpdate_ok .. | exact updateRow_ok .. | exact runMerge_ok .. | exact runGather_ok .. | exact hodBags_ok .. | exact hodIndices_ok .. | exact hodWeights_ok .. | exact hodRow_ok .. | exact hodMapEntry_ok .. | exact hodDraw_ok .. | exact hodNat_ok .. | exact hodRead_ok .. | exact hodDo_modHod_ok .. | exact hodState_ok .. | exact hodFail_ok .. | exact hodPure_ok .. | refine hodBind_ok ?_ ?_ | refine hodEach_ok ?_ _ | intro _ | split | dsimp only)

@[simp] theorem State.hodFault_kept (s : State) (h : Nat) (p : Nat) (j : Nat) (i : Nat) (pos : Count) (cause : Nat) (hm : s.Kept ww) :
    (State.hodFault s h p j i pos cause).Kept ww := by
  unfold State.hodFault
  simp (maxDischargeDepth := 40) (contextual := true) [*]

@[simp] theorem State.modHodCmd_kept (s : State) (h : Nat) (i : Nat) (pos : Count) (f : HodCmd → HodCmd) (hm : s.Kept ww) :
    (State.modHodCmd s h i pos f).Kept ww := by
  unfold State.modHodCmd
  simp [*]

@[simp] theorem State.hodBegin_kept (s : State) (h p i w : Nat) (hm : s.Kept ww) :
    (State.hodBegin s h p i w).Kept ww := by
  unfold State.hodBegin
  dsimp only
  split <;> rename_i heq <;> have hx := fst_kept (ww := ww) heq ((hodPrepare_ok (ww := ww) ..).keep _ (by simp (maxDischargeDepth := 40) [hm])) <;> first | (simp [hx]; done) | exact hx

@[simp] theorem State.hodWrites_kept (s : State) (y2 : List (Nat × List Byte)) (hm : s.Kept ww) :
    (State.hodWrites s y2).1.Kept ww := by
  induction y2 generalizing s <;> simp only [State.hodWrites] <;> (try dsimp only)
  all_goals repeat' (first
    | (simp (maxDischargeDepth := 40) (contextual := true) [*]; done)
    | (refine foldl_kept _ _ _ ?_ ?_) | (refine foldl_fst_kept _ _ _ ?_ ?_)
    | (intro _ _ _; try dsimp only)
    | (split <;> (try rename_i heq) <;>
        (try have hx := fst_kept (ww := ww) heq (by simp (maxDischargeDepth := 40) (contextual := true) [*, -heq]; done)) <;>
        (try dsimp only)))

@[simp] theorem State.hodFinish_kept (s : State) (h p : Nat) (x : HodCmd) (hm : s.Kept ww) :
    (State.hodFinish s h p x).Kept ww := by
  unfold State.hodFinish
  dsimp only
  split
  · exact hm
  · split <;> rename_i heq <;> have hx := fst_kept (ww := ww) heq ((hodRun_ok ..).keep _ hm)
    · simp [hx]
    · split <;> rename_i heq2 <;> have hy := fst_kept (ww := ww) heq2 (by simp [hx]) <;> simp [hy]

@[simp] theorem State.hodRow_kept (s : State) (h : Nat) (i : Nat) (mine : Nat → Bool) (hm : s.Kept ww) :
    (State.hodRow s h i mine).Kept ww := by
  unfold State.hodRow
  (try dsimp only)
  repeat' (first
    | (simp (maxDischargeDepth := 40) (contextual := true) [*]; done)
    | (refine foldl_kept _ _ _ ?_ ?_) | (refine foldl_fst_kept _ _ _ ?_ ?_)
    | (intro _ _ _; try dsimp only)
    | (split <;> (try rename_i heq) <;>
        (try have hx := fst_kept (ww := ww) heq (by simp (maxDischargeDepth := 40) (contextual := true) [*, -heq]; done)) <;>
        (try dsimp only)))

@[simp] theorem State.hodResponse_kept (s : State) (h : Nat) (write : Bool) (r : Resp) (hm : s.Kept ww) :
    (State.hodResponse s h write r).Kept ww := by
  unfold State.hodResponse
  (try dsimp only)
  repeat' (first
    | (simp (maxDischargeDepth := 40) (contextual := true) [*]; done)
    | (refine foldl_kept _ _ _ ?_ ?_) | (refine foldl_fst_kept _ _ _ ?_ ?_)
    | (intro _ _ _; try dsimp only)
    | (split <;> (try rename_i heq) <;>
        (try have hx := fst_kept (ww := ww) heq (by simp (maxDischargeDepth := 40) (contextual := true) [*, -heq]; done)) <;>
        (try dsimp only)))

@[simp] theorem State.hodComplete_kept (s : State) (h : Nat) (i : Nat) (hm : s.Kept ww) :
    (State.hodComplete s h i).Kept ww := by
  unfold State.hodComplete
  dsimp only
  repeat' split
  all_goals simp [*]

end Sys2Proof.Machine
end

