-- ==== Sys2Proof/Laws/KeptIntake.lean ====
section
/-!
SUPPORT. `State.Kept` through the operations of Machine/Intake.lean.
-/
namespace Sys2Proof.Machine
open Sys2Proof
variable {ww : Watch}

theorem intRead_ok (p j n a : Nat) : HodM.Kept ww (intRead p j n a) := ⟨fun s hm => by simp [intRead, hm]⟩

theorem intNat_ok (p j n a : Nat) : HodM.Kept ww (intNat p j n a) := by
  unfold intNat
  repeat' (with_reducible first | exact intRead_ok .. | exact hodRun_ok .. | exact hodPrepare_ok .. | exact runUpdate_ok .. | exact updateRow_ok .. | exact runMerge_ok .. | exact runGather_ok .. | exact hodBags_ok .. | exact hodIndices_ok .. | exact hodWeights_ok .. | exact hodRow_ok .. | exact hodMapEntry_ok .. | exact hodDraw_ok .. | exact hodNat_ok .. | exact hodRead_ok .. | exact hodDo_modHod_ok .. | exact hodState_ok .. | exact hodFail_ok .. | exact hodPure_ok .. | refine hodBind_ok ?_ ?_ | refine hodEach_ok ?_ _ | intro _ | split | dsimp only)

theorem runNorm_ok (p j : Nat) (x : IntCmd) : HodM.Kept ww (runNorm p j x) := by
  unfold runNorm
  repeat' (with_reducible first | exact intNat_ok .. | exact intRead_ok .. | exact hodRun_ok .. | exact hodPrepare_ok .. | exact runUpdate_ok .. | exact updateRow_ok .. | exact runMerge_ok .. | exact runGather_ok .. | exact hodBags_ok .. | exact hodIndices_ok .. | exact hodWeights_ok .. | exact hodRow_ok .. | exact hodMapEntry_ok .. | exact hodDraw_ok .. | exact hodNat_ok .. | exact hodRead_ok .. | exact hodDo_modHod_ok .. | exact hodState_ok .. | exact hodFail_ok .. | exact hodPure_ok .. | refine hodBind_ok ?_ ?_ | refine hodEach_ok ?_ _ | intro _ | split | dsimp only)

theorem workOut_ok (x : IntCmd) (n : Nat) : HodM.Kept ww (workOut x n) := by
  unfold workOut
  repeat' (with_reducible first | exact runNorm_ok .. | exact intNat_ok .. | exact intRead_ok .. | exact hodRun_ok .. | exact hodPrepare_ok .. | exact runUpdate_ok .. | exact updateRow_ok .. | exact runMerge_ok .. | exact runGather_ok .. | exact hodBags_ok .. | exact hodIndices_ok .. | exact hodWeights_ok .. | exact hodRow_ok .. | exact hodMapEntry_ok .. | exact hodDraw_ok .. | exact hodNat_ok .. | exact hodRead_ok .. | exact hodDo_modHod_ok .. | exact hodState_ok .. | exact hodFail_ok .. | exact hodPure_ok .. | refine hodBind_ok ?_ ?_ | refine hodEach_ok ?_ _ | intro _ | split | dsimp only)

theorem runImage_ok (p j : Nat) (x : IntCmd) : HodM.Kept ww (runImage p j x) := by
  unfold runImage
  repeat' (with_reducible first | exact workOut_ok .. | exact runNorm_ok .. | exact intNat_ok .. | exact intRead_ok .. | exact hodRun_ok .. | exact hodPrepare_ok .. | exact runUpdate_ok .. | exact updateRow_ok .. | exact runMerge_ok .. | exact runGather_ok .. | exact hodBags_ok .. | exact hodIndices_ok .. | exact hodWeights_ok .. | exact hodRow_ok .. | exact hodMapEntry_ok .. | exact hodDraw_ok .. | exact hodNat_ok .. | exact hodRead_ok .. | exact hodDo_modHod_ok .. | exact hodState_ok .. | exact hodFail_ok .. | exact hodPure_ok .. | refine hodBind_ok ?_ ?_ | refine hodEach_ok ?_ _ | intro _ | split | dsimp only)

theorem runVideo_ok (p j : Nat) (x : IntCmd) : HodM.Kept ww (runVideo p j x) := by
  unfold runVideo
  repeat' (with_reducible first | exact runImage_ok .. | exact workOut_ok .. | exact runNorm_ok .. | exact intNat_ok .. | exact intRead_ok .. | exact hodRun_ok .. | exact hodPrepare_ok .. | exact runUpdate_ok .. | exact updateRow_ok .. | exact runMerge_ok .. | exact runGather_ok .. | exact hodBags_ok .. | exact hodIndices_ok .. | exact hodWeights_ok .. | exact hodRow_ok .. | exact hodMapEntry_ok .. | exact hodDraw_ok .. | exact hodNat_ok .. | exact hodRead_ok .. | exact hodDo_modHod_ok .. | exact hodState_ok .. | exact hodFail_ok .. | exact hodPure_ok .. | refine hodBind_ok ?_ ?_ | refine hodEach_ok ?_ _ | intro _ | split | dsimp only)

theorem runAlign_ok (p j : Nat) (x : IntCmd) : HodM.Kept ww (runAlign p j x) := by
  unfold runAlign
  repeat' (with_reducible first | exact runVideo_ok .. | exact runImage_ok .. | exact workOut_ok .. | exact runNorm_ok .. | exact intNat_ok .. | exact intRead_ok .. | exact hodRun_ok .. | exact hodPrepare_ok .. | exact runUpdate_ok .. | exact updateRow_ok .. | exact runMerge_ok .. | exact runGather_ok .. | exact hodBags_ok .. | exact hodIndices_ok .. | exact hodWeights_ok .. | exact hodRow_ok .. | exact hodMapEntry_ok .. | exact hodDraw_ok .. | exact hodNat_ok .. | exact hodRead_ok .. | exact hodDo_modHod_ok .. | exact hodState_ok .. | exact hodFail_ok .. | exact hodPure_ok .. | refine hodBind_ok ?_ ?_ | refine hodEach_ok ?_ _ | intro _ | split | dsimp only)

theorem runShuffle_ok (x : IntCmd) : HodM.Kept ww (runShuffle x) := by
  unfold runShuffle
  repeat' (with_reducible first | exact runAlign_ok .. | exact runVideo_ok .. | exact runImage_ok .. | exact workOut_ok .. | exact runNorm_ok .. | exact intNat_ok .. | exact intRead_ok .. | exact hodRun_ok .. | exact hodPrepare_ok .. | exact runUpdate_ok .. | exact updateRow_ok .. | exact runMerge_ok .. | exact runGather_ok .. | exact hodBags_ok .. | exact hodIndices_ok .. | exact hodWeights_ok .. | exact hodRow_ok .. | exact hodMapEntry_ok .. | exact hodDraw_ok .. | exact hodNat_ok .. | exact hodRead_ok .. | exact hodDo_modHod_ok .. | exact hodState_ok .. | exact hodFail_ok .. | exact hodPure_ok .. | refine hodBind_ok ?_ ?_ | refine hodEach_ok ?_ _ | intro _ | split | dsimp only)

theorem intRun_ok (p j : Nat) (x : IntCmd) : HodM.Kept ww (intRun p j x) := by
  unfold intRun
  repeat' (with_reducible first | exact runShuffle_ok .. | exact runAlign_ok .. | exact runVideo_ok .. | exact runImage_ok .. | exact workOut_ok .. | exact runNorm_ok .. | exact intNat_ok .. | exact intRead_ok .. | exact hodRun_ok .. | exact hodPrepare_ok .. | exact runUpdate_ok .. | exact updateRow_ok .. | exact runMerge_ok .. | exact runGather_ok .. | exact hodBags_ok .. | exact hodIndices_ok .. | exact hodWeights_ok .. | exact hodRow_ok .. | exact hodMapEntry_ok .. | exact hodDraw_ok .. | exact hodNat_ok .. | exact hodRead_ok .. | exact hodDo_modHod_ok .. | exact hodState_ok .. | exact hodFail_ok .. | exact hodPure_ok .. | refine hodBind_ok ?_ ?_ | refine hodEach_ok ?_ _ | intro _ | split | dsimp only)

theorem alignArrays_ok (p j : Nat) (x : IntCmd) : HodM.Kept ww (alignArrays p j x) := by
  unfold alignArrays
  repeat' (with_reducible first | exact intRun_ok .. | exact runShuffle_ok .. | exact runAlign_ok .. | exact runVideo_ok .. | exact runImage_ok .. | exact workOut_ok .. | exact runNorm_ok .. | exact intNat_ok .. | exact intRead_ok .. | exact hodRun_ok .. | exact hodPrepare_ok .. | exact runUpdate_ok .. | exact updateRow_ok .. | exact runMerge_ok .. | exact runGather_ok .. | exact hodBags_ok .. | exact hodIndices_ok .. | exact hodWeights_ok .. | exact hodRow_ok .. | exact hodMapEntry_ok .. | exact hodDraw_ok .. | exact hodNat_ok .. | exact hodRead_ok .. | exact hodDo_modHod_ok .. | exact hodState_ok .. | exact hodFail_ok .. | exact hodPure_ok .. | refine hodBind_ok ?_ ?_ | refine hodEach_ok ?_ _ | intro _ | split | dsimp only)

theorem intPrepare_ok (p j : Nat) (b : IntCmd) : HodM.Kept ww (intPrepare p j b) := by
  unfold intPrepare
  repeat' (with_reducible first | exact alignArrays_ok .. | exact intRun_ok .. | exact runShuffle_ok .. | exact runAlign_ok .. | exact runVideo_ok .. | exact runImage_ok .. | exact workOut_ok .. | exact runNorm_ok .. | exact intNat_ok .. | exact intRead_ok .. | exact hodRun_ok .. | exact hodPrepare_ok .. | exact runUpdate_ok .. | exact updateRow_ok .. | exact runMerge_ok .. | exact runGather_ok .. | exact hodBags_ok .. | exact hodIndices_ok .. | exact hodWeights_ok .. | exact hodRow_ok .. | exact hodMapEntry_ok .. | exact hodDraw_ok .. | exact hodNat_ok .. | exact hodRead_ok .. | exact hodDo_modHod_ok .. | exact hodState_ok .. | exact hodFail_ok .. | exact hodPure_ok .. | refine hodBind_ok ?_ ?_ | refine hodEach_ok ?_ _ | intro _ | split | dsimp only)

@[simp] theorem State.intFault_kept (s : State) (n : Nat) (i : Nat) (pos : Count) (cause : Nat) (hm : s.Kept ww) :
    (State.intFault s n i pos cause).Kept ww := by
  unfold State.intFault
  simp (maxDischargeDepth := 40) (contextual := true) [*]

@[simp] theorem State.modIntCmd_kept (s : State) (n : Nat) (i : Nat) (pos : Count) (f : IntCmd → IntCmd) (hm : s.Kept ww) :
    (State.modIntCmd s n i pos f).Kept ww := by
  unfold State.modIntCmd
  simp [*]

@[simp] theorem State.intBegin_kept (s : State) (n i w : Nat) (hm : s.Kept ww) :
    (State.intBegin s n i w).Kept ww := by
  unfold State.intBegin
  dsimp only
  split <;> rename_i heq <;> have hx := fst_kept (ww := ww) heq ((intPrepare_ok ..).keep _ (by simp (maxDischargeDepth := 40) [hm])) <;> first | (simp [hx]; done) | exact hx

@[simp] theorem State.intWrites_kept (s : State) (y2 : List (Nat × List Byte)) (hm : s.Kept ww) :
    (State.intWrites s y2).1.Kept ww := by
  induction y2 generalizing s <;> simp only [State.intWrites] <;> (try dsimp only)
  all_goals repeat' (first
    | (simp (maxDischargeDepth := 40) (contextual := true) [*]; done)
    | (refine foldl_kept _ _ _ ?_ ?_) | (refine foldl_fst_kept _ _ _ ?_ ?_)
    | (intro _ _ _; try dsimp only)
    | (split <;> (try rename_i heq) <;>
        (try have hx := fst_kept (ww := ww) heq (by simp (maxDischargeDepth := 40) (contextual := true) [*, -heq]; done)) <;>
        (try dsimp only)))

@[simp] theorem State.intFinish_kept (s : State) (n : Nat) (x : IntCmd) (hm : s.Kept ww) :
    (State.intFinish s n x).Kept ww := by
  unfold State.intFinish
  dsimp only
  split
  · exact hm
  · split <;> rename_i heq <;> have hx := fst_kept (ww := ww) heq ((intRun_ok ..).keep _ hm)
    · simp [hx]
    · split <;> rename_i heq2 <;> have hy := fst_kept (ww := ww) heq2 (by simp [hx]) <;> simp [hy]

@[simp] theorem State.intRow_kept (s : State) (n : Nat) (i : Nat) (mine : Nat → Bool) (hm : s.Kept ww) :
    (State.intRow s n i mine).Kept ww := by
  unfold State.intRow
  (try dsimp only)
  repeat' (first
    | (simp (maxDischargeDepth := 40) (contextual := true) [*]; done)
    | (refine foldl_kept _ _ _ ?_ ?_) | (refine foldl_fst_kept _ _ _ ?_ ?_)
    | (intro _ _ _; try dsimp only)
    | (split <;> (try rename_i heq) <;>
        (try have hx := fst_kept (ww := ww) heq (by simp (maxDischargeDepth := 40) (contextual := true) [*, -heq]; done)) <;>
        (try dsimp only)))

@[simp] theorem State.intResponse_kept (s : State) (n : Nat) (write : Bool) (r : Resp) (hm : s.Kept ww) :
    (State.intResponse s n write r).Kept ww := by
  unfold State.intResponse
  (try dsimp only)
  repeat' (first
    | (simp (maxDischargeDepth := 40) (contextual := true) [*]; done)
    | (refine foldl_kept _ _ _ ?_ ?_) | (refine foldl_fst_kept _ _ _ ?_ ?_)
    | (intro _ _ _; try dsimp only)
    | (split <;> (try rename_i heq) <;>
        (try have hx := fst_kept (ww := ww) heq (by simp (maxDischargeDepth := 40) (contextual := true) [*, -heq]; done)) <;>
        (try dsimp only)))

@[simp] theorem State.intComplete_kept (s : State) (n : Nat) (i : Nat) (hm : s.Kept ww) :
    (State.intComplete s n i).Kept ww := by
  unfold State.intComplete
  dsimp only
  repeat' split
  all_goals simp (maxDischargeDepth := 40) (contextual := true) [*]

@[simp] theorem State.waitPoll_kept (s : State) (g : Nat) (hm : s.Kept ww) :
    (State.waitPoll s g).Kept ww := by
  unfold State.waitPoll
  dsimp only
  repeat' split
  all_goals simp [*]

end Sys2Proof.Machine
end

