-- ==== Sys2Proof/Laws/KeptRegs.lean ====
section
/-!
SUPPORT. `State.Kept` through the operations of Machine/Regs.lean.
-/
namespace Sys2Proof.Machine
open Sys2Proof
variable {ww : Watch}

@[simp] theorem State.modLink_kept (s : State) (k : Nat) (f : Link → Link) (hm : s.Kept ww) :
    (State.modLink s k f).Kept ww := by
  unfold State.modLink
  simp [*]

@[simp] theorem State.clearRead_kept (s : State) (b : Block) (off : Nat) (lo : Bool) (hi : Bool) (hm : s.Kept ww) :
    (State.clearRead s b off lo hi).Kept ww := by
  unfold State.clearRead
  dsimp only
  repeat' split
  all_goals simp [*]

end Sys2Proof.Machine
end

