-- ==== Sys2Proof/Laws/KeptIcral.lean ====
section
/-!
SUPPORT. `State.Kept` through the operations of Machine/Icral.lean.
-/
namespace Sys2Proof.Machine
open Sys2Proof
variable {ww : Watch}

@[simp] theorem State.judgeOpcode_kept (s : State) (a : Accepted) (hm : s.Kept ww) :
    (State.judgeOpcode s a).Kept ww := by
  unfold State.judgeOpcode
  (try dsimp only)
  repeat' (first
    | (simp (maxDischargeDepth := 40) (contextual := true) [*]; done)
    | (refine foldl_kept _ _ _ ?_ ?_) | (refine foldl_fst_kept _ _ _ ?_ ?_)
    | (intro _ _ _; try dsimp only)
    | (split <;> (try rename_i heq) <;>
        (try have hx := fst_kept (ww := ww) heq (by simp (maxDischargeDepth := 40) (contextual := true) [*, -heq]; done)) <;>
        (try dsimp only)))

@[simp] theorem State.judgePacket_kept (s : State) (k : SessKey) (auth : Auth) (bytes : List Byte) (mk : IcralReq → Accepted) (hm : s.Kept ww) :
    (State.judgePacket s k auth bytes mk).Kept ww := by
  unfold State.judgePacket
  dsimp only
  repeat' split
  all_goals simp (maxDischargeDepth := 40) (contextual := true) [*]

@[simp] theorem State.touchSession_kept (s : State) (k : SessKey) (hm : s.Kept ww) :
    (State.touchSession s k).Kept ww := by
  unfold State.touchSession
  simp [*]

@[simp] theorem State.mailboxFetch_kept (s : State) (p : PanelId) (i : Fin 64) (hm : s.Kept ww) :
    (State.mailboxFetch s p i).Kept ww := by
  unfold State.mailboxFetch
  dsimp only
  repeat' split
  all_goals simp (maxDischargeDepth := 40) (contextual := true) [*]

@[simp] theorem State.datagram_kept (s : State) (d : Datagram) (hm : s.Kept ww) :
    (State.datagram s d).Kept ww := by
  unfold State.datagram
  dsimp only
  repeat' split
  all_goals simp (maxDischargeDepth := 40) (contextual := true) [*]

@[simp] theorem State.sessionIdle_kept (s : State) (ip : BitVec 32) (port : BitVec 16) (hm : s.Kept ww) :
    (State.sessionIdle s ip port).Kept ww := by
  unfold State.sessionIdle
  dsimp only
  repeat' split
  all_goals simp [*]

@[simp] theorem State.i3cWrite_kept (s : State) (bytes : List Byte) (hm : s.Kept ww) :
    (State.i3cWrite s bytes).Kept ww := by
  unfold State.i3cWrite
  dsimp only
  repeat' split
  all_goals simp (maxDischargeDepth := 40) (contextual := true) [*]

@[simp] theorem specIdQuery_ok (s : State) (q : IcralReq) (w : Nat) (hm : s.Kept ww) :
    (specIdQuery.run s q w).Kept ww := by
  unfold specIdQuery
  dsimp only
  repeat' (first | (with_reducible exact doneRefuse_ok _ _) | (with_reducible refine need_ok _ _ _ _ (fun _ => ?_)) | (with_reducible refine inService_ok _ _ _ ?_) | (with_reducible refine doneOk_ok _ ?_) | (with_reducible refine doneWait_ok _ _ ?_) | (simp (maxDischargeDepth := 40) (contextual := true) [*]; done) | (split <;> (try dsimp only)))

@[simp] theorem specSetModuleId_ok (s : State) (q : IcralReq) (w : Nat) (hm : s.Kept ww) :
    (specSetModuleId.run s q w).Kept ww := by
  unfold specSetModuleId
  dsimp only
  repeat' (first | (with_reducible exact doneRefuse_ok _ _) | (with_reducible refine need_ok _ _ _ _ (fun _ => ?_)) | (with_reducible refine inService_ok _ _ _ ?_) | (with_reducible refine doneOk_ok _ ?_) | (with_reducible refine doneWait_ok _ _ ?_) | (simp (maxDischargeDepth := 40) (contextual := true) [*]; done) | (split <;> (try dsimp only)))

@[simp] theorem specStatusQuery_ok (s : State) (q : IcralReq) (w : Nat) (hm : s.Kept ww) :
    (specStatusQuery.run s q w).Kept ww := by
  unfold specStatusQuery
  dsimp only
  repeat' (first | (with_reducible exact doneRefuse_ok _ _) | (with_reducible refine need_ok _ _ _ _ (fun _ => ?_)) | (with_reducible refine inService_ok _ _ _ ?_) | (with_reducible refine doneOk_ok _ ?_) | (with_reducible refine doneWait_ok _ _ ?_) | (simp (maxDischargeDepth := 40) (contextual := true) [*]; done) | (split <;> (try dsimp only)))

@[simp] theorem State.telemetryTaken_kept (s : State) (hm : s.Kept ww) :
    (State.telemetryTaken s).Kept ww := by
  unfold State.telemetryTaken
  simp [*]

@[simp] theorem specTelemetry_ok (s : State) (q : IcralReq) (w : Nat) (hm : s.Kept ww) :
    (specTelemetry.run s q w).Kept ww := by
  unfold specTelemetry
  dsimp only
  repeat' (first | (with_reducible exact doneRefuse_ok _ _) | (with_reducible refine need_ok _ _ _ _ (fun _ => ?_)) | (with_reducible refine inService_ok _ _ _ ?_) | (with_reducible refine doneOk_ok _ ?_) | (with_reducible refine doneWait_ok _ _ ?_) | (simp (maxDischargeDepth := 40) (contextual := true) [*]; done) | (split <;> (try dsimp only)))

@[simp] theorem State.telemetry_kept (s : State) (q : IcralReq) (hm : s.Kept ww) :
    (State.telemetry s q).Kept ww := by
  have h := State.performReq_kept s q (decide (q.opcode.toNat = 0x04)) specTelemetry hm (fun w => specTelemetry_ok s q w hm)
  unfold State.telemetry
  dsimp only
  split
  · split
    · exact h
    · exact State.telemetryTaken_kept _ h
  · exact h

@[simp] theorem specSetPowerLimit_ok (s : State) (q : IcralReq) (w : Nat) (hm : s.Kept ww) :
    (specSetPowerLimit.run s q w).Kept ww := by
  unfold specSetPowerLimit
  dsimp only
  repeat' (first | (with_reducible exact doneRefuse_ok _ _) | (with_reducible refine need_ok _ _ _ _ (fun _ => ?_)) | (with_reducible refine inService_ok _ _ _ ?_) | (with_reducible refine doneOk_ok _ ?_) | (with_reducible refine doneWait_ok _ _ ?_) | (simp (maxDischargeDepth := 40) (contextual := true) [*]; done) | (split <;> (try dsimp only)))

@[simp] theorem specSetFabric_ok (s : State) (q : IcralReq) (w : Nat) (hm : s.Kept ww) :
    (specSetFabric.run s q w).Kept ww := by
  unfold specSetFabric
  dsimp only
  repeat' (first | (with_reducible exact doneRefuse_ok _ _) | (with_reducible refine need_ok _ _ _ _ (fun _ => ?_)) | (with_reducible refine inService_ok _ _ _ ?_) | (with_reducible refine doneOk_ok _ ?_) | (with_reducible refine doneWait_ok _ _ ?_) | (simp (maxDischargeDepth := 40) (contextual := true) [*]; done) | (split <;> (try dsimp only)))

@[simp] theorem specMgmtNet_ok (s : State) (q : IcralReq) (w : Nat) (hm : s.Kept ww) :
    (specMgmtNet.run s q w).Kept ww := by
  unfold specMgmtNet
  dsimp only
  repeat' (first | (with_reducible exact doneRefuse_ok _ _) | (with_reducible refine need_ok _ _ _ _ (fun _ => ?_)) | (with_reducible refine inService_ok _ _ _ ?_) | (with_reducible refine doneOk_ok _ ?_) | (with_reducible refine doneWait_ok _ _ ?_) | (simp (maxDischargeDepth := 40) (contextual := true) [*]; done) | (split <;> (try dsimp only)))

end Sys2Proof.Machine
end

