-- ==== Sys2Proof/Laws/KeptPanels.lean ====
section
/-!
SUPPORT. `State.Kept` through the operations of Machine/Panels.lean.
-/
namespace Sys2Proof.Machine
open Sys2Proof
variable {ww : Watch}

@[simp] theorem State.beginWipe_kept (s : State) (tier : Nat) (ranges : List (Nat × Nat)) (panel : Option Nat) (keep : Option Nat) (hm : s.Kept ww) :
    (State.beginWipe s tier ranges panel keep).1.Kept ww := by
  unfold State.beginWipe
  simp [*]

@[simp] theorem State.wipeDone_kept (s : State) (id : Nat) (hm : s.Kept ww) :
    (State.wipeDone s id).Kept ww := by
  unfold State.wipeDone
  dsimp only
  repeat' split
  all_goals simp (maxDischargeDepth := 40) (contextual := true) [*]

@[simp] theorem State.flushTile_kept (s : State) (t : Nat) (hm : s.Kept ww) :
    (State.flushTile s t).Kept ww := by
  unfold State.flushTile
  simp (maxDischargeDepth := 40) (contextual := true) [*]

@[simp] theorem State.clearNetwork_kept (s : State) (p : Nat) (hm : s.Kept ww) :
    (State.clearNetwork s p).Kept ww := by
  unfold State.clearNetwork
  simp [*]

@[simp] theorem State.mapOut_kept (s : State) (q : Nat) (hm : s.Kept ww) :
    (State.mapOut s q).Kept ww := by
  unfold State.mapOut
  simp (maxDischargeDepth := 40) (contextual := true) [*]

@[simp] theorem State.panelAdvance_kept (s : State) (p : Nat) (hm : s.Kept ww) :
    (State.panelAdvance s p).Kept ww := by
  unfold State.panelAdvance
  simp (maxDischargeDepth := 40) (contextual := true) [*]

@[simp] theorem State.panelResetBegin_kept (s : State) (p : Nat) (after : Nat) (hm : s.Kept ww) :
    (State.panelResetBegin s p after).Kept ww := by
  unfold State.panelResetBegin
  simp (maxDischargeDepth := 40) (contextual := true) [*]

@[simp] theorem State.retireTile_kept (s : State) (t : Nat) (hm : s.Kept ww) :
    (State.retireTile s t).Kept ww := by
  unfold State.retireTile
  split <;> simp [*]

@[simp] theorem State.panelRegs_kept (s : State) (p : Nat) (hm : s.Kept ww) :
    (State.panelRegs s p).Kept ww := by
  unfold State.panelRegs
  simp [*]

@[simp] theorem State.panelGone_kept (s : State) (p : Nat) (hm : s.Kept ww) :
    (State.panelGone s p).Kept ww := by
  unfold State.panelGone
  simp (maxDischargeDepth := 40) (contextual := true) [*]

@[simp] theorem State.panelResetDone_kept (s : State) (p : Nat) (hm : s.Kept ww) :
    (State.panelResetDone s p).Kept ww := by
  unfold State.panelResetDone
  simp (maxDischargeDepth := 40) (contextual := true) [*]

@[simp] theorem specPanelCreate_ok (s : State) (q : IcralReq) (w : Nat) (hm : s.Kept ww) :
    (specPanelCreate.run s q w).Kept ww := by
  unfold specPanelCreate
  dsimp only
  repeat' (first | (with_reducible exact doneRefuse_ok _ _) | (with_reducible refine need_ok _ _ _ _ (fun _ => ?_)) | (with_reducible refine inService_ok _ _ _ ?_) | (with_reducible refine doneOk_ok _ ?_) | (with_reducible refine doneWait_ok _ _ ?_) | (simp (maxDischargeDepth := 40) (contextual := true) [*]; done) | (split <;> (try dsimp only)))

@[simp] theorem specPanelDestroy_ok (s : State) (q : IcralReq) (w : Nat) (hm : s.Kept ww) :
    (specPanelDestroy.run s q w).Kept ww := by
  unfold specPanelDestroy
  dsimp only
  repeat' (first | (with_reducible exact doneRefuse_ok _ _) | (with_reducible refine need_ok _ _ _ _ (fun _ => ?_)) | (with_reducible refine inService_ok _ _ _ ?_) | (with_reducible refine doneOk_ok _ ?_) | (with_reducible refine doneWait_ok _ _ ?_) | (simp (maxDischargeDepth := 40) (contextual := true) [*]; done) | (split <;> (try dsimp only)))

@[simp] theorem specPanelReset_ok (s : State) (q : IcralReq) (w : Nat) (hm : s.Kept ww) :
    (specPanelReset.run s q w).Kept ww := by
  unfold specPanelReset
  dsimp only
  repeat' (first | (with_reducible exact doneRefuse_ok _ _) | (with_reducible refine need_ok _ _ _ _ (fun _ => ?_)) | (with_reducible refine inService_ok _ _ _ ?_) | (with_reducible refine doneOk_ok _ ?_) | (with_reducible refine doneWait_ok _ _ ?_) | (simp (maxDischargeDepth := 40) (contextual := true) [*]; done) | (split <;> (try dsimp only)))

@[simp] theorem specGrant_ok (s : State) (q : IcralReq) (w : Nat) (hm : s.Kept ww) :
    (specGrant.run s q w).Kept ww := by
  unfold specGrant
  dsimp only
  repeat' (first | (with_reducible exact doneRefuse_ok _ _) | (with_reducible refine need_ok _ _ _ _ (fun _ => ?_)) | (with_reducible refine inService_ok _ _ _ ?_) | (with_reducible refine doneOk_ok _ ?_) | (with_reducible refine doneWait_ok _ _ ?_) | (simp (maxDischargeDepth := 40) (contextual := true) [*]; done) | (split <;> (try dsimp only)))

@[simp] theorem specGrantRevoke_ok (s : State) (q : IcralReq) (w : Nat) (hm : s.Kept ww) :
    (specGrantRevoke.run s q w).Kept ww := by
  unfold specGrantRevoke
  dsimp only
  repeat' (first | (with_reducible exact doneRefuse_ok _ _) | (with_reducible refine need_ok _ _ _ _ (fun _ => ?_)) | (with_reducible refine inService_ok _ _ _ ?_) | (with_reducible refine doneOk_ok _ ?_) | (with_reducible refine doneWait_ok _ _ ?_) | (simp (maxDischargeDepth := 40) (contextual := true) [*]; done) | (split <;> (try dsimp only)))

@[simp] theorem specKeepDefine_ok (s : State) (q : IcralReq) (w : Nat) (hm : s.Kept ww) :
    (specKeepDefine.run s q w).Kept ww := by
  unfold specKeepDefine
  dsimp only
  repeat' (first | (with_reducible exact doneRefuse_ok _ _) | (with_reducible refine need_ok _ _ _ _ (fun _ => ?_)) | (with_reducible refine inService_ok _ _ _ ?_) | (with_reducible refine doneOk_ok _ ?_) | (with_reducible refine doneWait_ok _ _ ?_) | (simp (maxDischargeDepth := 40) (contextual := true) [*]; done) | (split <;> (try dsimp only)))

@[simp] theorem specKeepRelease_ok (s : State) (q : IcralReq) (w : Nat) (hm : s.Kept ww) :
    (specKeepRelease.run s q w).Kept ww := by
  unfold specKeepRelease
  dsimp only
  repeat' (first | (with_reducible exact doneRefuse_ok _ _) | (with_reducible refine need_ok _ _ _ _ (fun _ => ?_)) | (with_reducible refine inService_ok _ _ _ ?_) | (with_reducible refine doneOk_ok _ ?_) | (with_reducible refine doneWait_ok _ _ ?_) | (simp (maxDischargeDepth := 40) (contextual := true) [*]; done) | (split <;> (try dsimp only)))

@[simp] theorem specKeepAssign_ok (s : State) (q : IcralReq) (w : Nat) (hm : s.Kept ww) :
    (specKeepAssign.run s q w).Kept ww := by
  unfold specKeepAssign
  dsimp only
  repeat' (first | (with_reducible exact doneRefuse_ok _ _) | (with_reducible refine need_ok _ _ _ _ (fun _ => ?_)) | (with_reducible refine inService_ok _ _ _ ?_) | (with_reducible refine doneOk_ok _ ?_) | (with_reducible refine doneWait_ok _ _ ?_) | (simp (maxDischargeDepth := 40) (contextual := true) [*]; done) | (split <;> (try dsimp only)))

@[simp] theorem specKeepUnassign_ok (s : State) (q : IcralReq) (w : Nat) (hm : s.Kept ww) :
    (specKeepUnassign.run s q w).Kept ww := by
  unfold specKeepUnassign
  dsimp only
  repeat' (first | (with_reducible exact doneRefuse_ok _ _) | (with_reducible refine need_ok _ _ _ _ (fun _ => ?_)) | (with_reducible refine inService_ok _ _ _ ?_) | (with_reducible refine doneOk_ok _ ?_) | (with_reducible refine doneWait_ok _ _ ?_) | (simp (maxDischargeDepth := 40) (contextual := true) [*]; done) | (split <;> (try dsimp only)))

@[simp] theorem specPoolMap_ok (s : State) (q : IcralReq) (w : Nat) (hm : s.Kept ww) :
    (specPoolMap.run s q w).Kept ww := by
  unfold specPoolMap
  dsimp only
  repeat' (first | (with_reducible exact doneRefuse_ok _ _) | (with_reducible refine need_ok _ _ _ _ (fun _ => ?_)) | (with_reducible refine inService_ok _ _ _ ?_) | (with_reducible refine doneOk_ok _ ?_) | (with_reducible refine doneWait_ok _ _ ?_) | (simp (maxDischargeDepth := 40) (contextual := true) [*]; done) | (split <;> (try dsimp only)))

@[simp] theorem specPoolUnmap_ok (s : State) (q : IcralReq) (w : Nat) (hm : s.Kept ww) :
    (specPoolUnmap.run s q w).Kept ww := by
  unfold specPoolUnmap
  dsimp only
  repeat' (first | (with_reducible exact doneRefuse_ok _ _) | (with_reducible refine need_ok _ _ _ _ (fun _ => ?_)) | (with_reducible refine inService_ok _ _ _ ?_) | (with_reducible refine doneOk_ok _ ?_) | (with_reducible refine doneWait_ok _ _ ?_) | (simp (maxDischargeDepth := 40) (contextual := true) [*]; done) | (split <;> (try dsimp only)))

@[simp] theorem specStaging_ok (s : State) (q : IcralReq) (w : Nat) (hm : s.Kept ww) :
    (specStaging.run s q w).Kept ww := by
  unfold specStaging
  dsimp only
  repeat' (first | (with_reducible exact doneRefuse_ok _ _) | (with_reducible refine need_ok _ _ _ _ (fun _ => ?_)) | (with_reducible refine inService_ok _ _ _ ?_) | (with_reducible refine doneOk_ok _ ?_) | (with_reducible refine doneWait_ok _ _ ?_) | (simp (maxDischargeDepth := 40) (contextual := true) [*]; done) | (split <;> (try dsimp only)))

@[simp] theorem State.stageInvalidate_kept (s : State) (p : Nat) (v : Nat) (auth : Auth) (hm : s.Kept ww) :
    (State.stageInvalidate s p v auth).Kept ww := by
  unfold State.stageInvalidate
  split <;> simp [*]

end Sys2Proof.Machine
end

