-- ==== Sys2Proof/Laws/KeptTables.lean ====
section
/-!
SUPPORT. `State.Kept` through the operations of Machine/Tables.lean.
-/
namespace Sys2Proof.Machine
open Sys2Proof
variable {ww : Watch}

theorem inService_ok (s : State) (p : Nat) (k : Done) (hk : k.Kept ww) : (s.inService p k).Kept ww := need_ok _ _ _ _ (fun _ => hk)

@[simp] theorem specRingConfig_ok (s : State) (q : IcralReq) (w : Nat) (hm : s.Kept ww) :
    (specRingConfig.run s q w).Kept ww := by
  unfold specRingConfig
  dsimp only
  repeat' (first | (with_reducible exact doneRefuse_ok _ _) | (with_reducible refine need_ok _ _ _ _ (fun _ => ?_)) | (with_reducible refine inService_ok _ _ _ ?_) | (with_reducible refine doneOk_ok _ ?_) | (with_reducible refine doneWait_ok _ _ ?_) | (simp (maxDischargeDepth := 40) (contextual := true) [*]; done) | (split <;> (try dsimp only)))

@[simp] theorem specSegment_ok (s : State) (q : IcralReq) (w : Nat) (hm : s.Kept ww) :
    (specSegment.run s q w).Kept ww := by
  unfold specSegment
  dsimp only
  repeat' (first | (with_reducible exact doneRefuse_ok _ _) | (with_reducible refine need_ok _ _ _ _ (fun _ => ?_)) | (with_reducible refine inService_ok _ _ _ ?_) | (with_reducible refine doneOk_ok _ ?_) | (with_reducible refine doneWait_ok _ _ ?_) | (simp (maxDischargeDepth := 40) (contextual := true) [*]; done) | (split <;> (try dsimp only)))

@[simp] theorem specSegmentRead_ok (s : State) (q : IcralReq) (w : Nat) (hm : s.Kept ww) :
    (specSegmentRead.run s q w).Kept ww := by
  unfold specSegmentRead
  dsimp only
  repeat' (first | (with_reducible exact doneRefuse_ok _ _) | (with_reducible refine need_ok _ _ _ _ (fun _ => ?_)) | (with_reducible refine inService_ok _ _ _ ?_) | (with_reducible refine doneOk_ok _ ?_) | (with_reducible refine doneWait_ok _ _ ?_) | (simp (maxDischargeDepth := 40) (contextual := true) [*]; done) | (split <;> (try dsimp only)))

@[simp] theorem specWindow_ok (s : State) (q : IcralReq) (w : Nat) (hm : s.Kept ww) :
    (specWindow.run s q w).Kept ww := by
  unfold specWindow
  dsimp only
  repeat' (first | (with_reducible exact doneRefuse_ok _ _) | (with_reducible refine need_ok _ _ _ _ (fun _ => ?_)) | (with_reducible refine inService_ok _ _ _ ?_) | (with_reducible refine doneOk_ok _ ?_) | (with_reducible refine doneWait_ok _ _ ?_) | (simp (maxDischargeDepth := 40) (contextual := true) [*]; done) | (split <;> (try dsimp only)))

@[simp] theorem specWindowRead_ok (s : State) (q : IcralReq) (w : Nat) (hm : s.Kept ww) :
    (specWindowRead.run s q w).Kept ww := by
  unfold specWindowRead
  dsimp only
  repeat' (first | (with_reducible exact doneRefuse_ok _ _) | (with_reducible refine need_ok _ _ _ _ (fun _ => ?_)) | (with_reducible refine inService_ok _ _ _ ?_) | (with_reducible refine doneOk_ok _ ?_) | (with_reducible refine doneWait_ok _ _ ?_) | (simp (maxDischargeDepth := 40) (contextual := true) [*]; done) | (split <;> (try dsimp only)))

@[simp] theorem specRtableWrite_ok (s : State) (q : IcralReq) (w : Nat) (hm : s.Kept ww) :
    (specRtableWrite.run s q w).Kept ww := by
  unfold specRtableWrite
  dsimp only
  repeat' (first | (with_reducible exact doneRefuse_ok _ _) | (with_reducible refine need_ok _ _ _ _ (fun _ => ?_)) | (with_reducible refine inService_ok _ _ _ ?_) | (with_reducible refine doneOk_ok _ ?_) | (with_reducible refine doneWait_ok _ _ ?_) | (simp (maxDischargeDepth := 40) (contextual := true) [*]; done) | (split <;> (try dsimp only)))

@[simp] theorem specRtableRead_ok (s : State) (q : IcralReq) (w : Nat) (hm : s.Kept ww) :
    (specRtableRead.run s q w).Kept ww := by
  unfold specRtableRead
  dsimp only
  repeat' (first | (with_reducible exact doneRefuse_ok _ _) | (with_reducible refine need_ok _ _ _ _ (fun _ => ?_)) | (with_reducible refine inService_ok _ _ _ ?_) | (with_reducible refine doneOk_ok _ ?_) | (with_reducible refine doneWait_ok _ _ ?_) | (simp (maxDischargeDepth := 40) (contextual := true) [*]; done) | (split <;> (try dsimp only)))

@[simp] theorem specRtableArm_ok (s : State) (q : IcralReq) (w : Nat) (hm : s.Kept ww) :
    (specRtableArm.run s q w).Kept ww := by
  unfold specRtableArm
  dsimp only
  repeat' (first | (with_reducible exact doneRefuse_ok _ _) | (with_reducible refine need_ok _ _ _ _ (fun _ => ?_)) | (with_reducible refine inService_ok _ _ _ ?_) | (with_reducible refine doneOk_ok _ ?_) | (with_reducible refine doneWait_ok _ _ ?_) | (simp (maxDischargeDepth := 40) (contextual := true) [*]; done) | (split <;> (try dsimp only)))

@[simp] theorem specCoursePort_ok (s : State) (q : IcralReq) (w : Nat) (hm : s.Kept ww) :
    (specCoursePort.run s q w).Kept ww := by
  unfold specCoursePort
  dsimp only
  repeat' (first | (with_reducible exact doneRefuse_ok _ _) | (with_reducible refine need_ok _ _ _ _ (fun _ => ?_)) | (with_reducible refine inService_ok _ _ _ ?_) | (with_reducible refine doneOk_ok _ ?_) | (with_reducible refine doneWait_ok _ _ ?_) | (simp (maxDischargeDepth := 40) (contextual := true) [*]; done) | (split <;> (try dsimp only)))

end Sys2Proof.Machine
end

