-- ==== Sys2Proof/Laws/KeptJobs.lean ====
section
/-!
SUPPORT. `State.Kept` through the operations of Machine/Jobs.lean.
-/
namespace Sys2Proof.Machine
open Sys2Proof
variable {ww : Watch}

@[simp] theorem State.unstopSlot_kept (s : State) (p : Nat) (j : Nat) (hm : s.Kept ww) :
    (State.unstopSlot s p j).Kept ww := by
  unfold State.unstopSlot
  simp [*]

@[simp] theorem State.jobBegins_kept (s : State) (p : Nat) (j : Nat) (w : Nat) (cs : List (Nat × Conn)) (hm : s.Kept ww) :
    (State.jobBegins s p j w cs).Kept ww := by
  unfold State.jobBegins
  simp (maxDischargeDepth := 40) (contextual := true) [*]

@[simp] theorem specJobStart_ok (s : State) (q : IcralReq) (w : Nat) (hm : s.Kept ww) :
    (specJobStart.run s q w).Kept ww := by
  unfold specJobStart
  dsimp only
  repeat' (first | (with_reducible exact doneRefuse_ok _ _) | (with_reducible refine need_ok _ _ _ _ (fun _ => ?_)) | (with_reducible refine inService_ok _ _ _ ?_) | (with_reducible refine doneOk_ok _ ?_) | (with_reducible refine doneWait_ok _ _ ?_) | (simp (maxDischargeDepth := 40) (contextual := true) [*]; done) | (split <;> (try dsimp only)))

@[simp] theorem State.jobStart_kept (s : State) (q : IcralReq) (hm : s.Kept ww) :
    (State.jobStart s q).Kept ww := by
  have h := fun b => State.performReq_kept s q b specJobStart hm (fun w => specJobStart_ok s q w hm)
  unfold State.jobStart
  dsimp only
  split <;> exact h _

@[simp] theorem State.resumeTimeout_kept (s : State) (p : Nat) (j : Nat) (hm : s.Kept ww) :
    (State.resumeTimeout s p j).Kept ww := by
  unfold State.resumeTimeout
  split <;> simp [*]

@[simp] theorem specJobEnd_ok (s : State) (q : IcralReq) (w : Nat) (hm : s.Kept ww) :
    (specJobEnd.run s q w).Kept ww := by
  unfold specJobEnd
  dsimp only
  repeat' (first | (with_reducible exact doneRefuse_ok _ _) | (with_reducible refine need_ok _ _ _ _ (fun _ => ?_)) | (with_reducible refine inService_ok _ _ _ ?_) | (with_reducible refine doneOk_ok _ ?_) | (with_reducible refine doneWait_ok _ _ ?_) | (simp (maxDischargeDepth := 40) (contextual := true) [*]; done) | (split <;> (try dsimp only)))

@[simp] theorem State.clearSlot_kept (s : State) (p : Nat) (j : Nat) (hm : s.Kept ww) :
    (State.clearSlot s p j).Kept ww := by
  unfold State.clearSlot
  simp [*]

@[simp] theorem State.slotIdle_kept (s : State) (p : Nat) (j : Nat) (hm : s.Kept ww) :
    (State.slotIdle s p j).Kept ww := by
  unfold State.slotIdle
  simp (maxDischargeDepth := 40) (contextual := true) [*]

@[simp] theorem State.watchdogEnds_kept (s : State) (p : Nat) (j : Nat) (inj : Bool) (hm : s.Kept ww) :
    (State.watchdogEnds s p j inj).Kept ww := by
  unfold State.watchdogEnds
  simp (maxDischargeDepth := 40) (contextual := true) [*]

@[simp] theorem State.dropStaged_kept (s : State) (t : Nat) (tag : Nat) (hm : s.Kept ww) :
    (State.dropStaged s t tag).Kept ww := by
  unfold State.dropStaged
  split <;> simp [*]

@[simp] theorem State.txnTimeout_kept (s : State) (t : Nat) (x : Txn) (ev : Event) (hm : s.Kept ww) :
    (State.txnTimeout s t x ev).Kept ww := by
  unfold State.txnTimeout
  dsimp only
  split <;> simp (maxDischargeDepth := 40) [hm]

@[simp] theorem State.lineTimeout_kept (s : State) (t : Nat) (l : Nat) (hm : s.Kept ww) :
    (State.lineTimeout s t l).Kept ww := by
  unfold State.lineTimeout
  dsimp only
  repeat' split
  all_goals simp [*]

@[simp] theorem State.addTimeout_kept (s : State) (t : Nat) (hm : s.Kept ww) :
    (State.addTimeout s t).Kept ww := by
  unfold State.addTimeout
  split <;> simp [*]

@[simp] theorem State.hodTimeout_kept (s : State) (h : Nat) (hm : s.Kept ww) :
    (State.hodTimeout s h).Kept ww := by
  unfold State.hodTimeout
  split <;> simp [*]

@[simp] theorem State.intTimeout_kept (s : State) (n : Nat) (hm : s.Kept ww) :
    (State.intTimeout s n).Kept ww := by
  unfold State.intTimeout
  split <;> simp [*]

@[simp] theorem State.portTimeout_kept (s : State) (n : Nat) (hm : s.Kept ww) :
    (State.portTimeout s n).Kept ww := by
  unfold State.portTimeout
  split <;> simp [*]

@[simp] theorem State.fillTimeout_kept (s : State) (q : Nat) (hm : s.Kept ww) :
    (State.fillTimeout s q).Kept ww := by
  unfold State.fillTimeout
  dsimp only
  repeat' split
  all_goals simp (maxDischargeDepth := 40) (contextual := true) [*]

@[simp] theorem State.transactionTimeout_kept (s : State) (a : Agent) (tag : Nat) (hm : s.Kept ww) :
    (State.transactionTimeout s a tag).Kept ww := by
  unfold State.transactionTimeout
  (try dsimp only)
  repeat' (first
    | (simp (maxDischargeDepth := 40) (contextual := true) [*]; done)
    | (refine foldl_kept _ _ _ ?_ ?_) | (refine foldl_fst_kept _ _ _ ?_ ?_)
    | (intro _ _ _; try dsimp only)
    | (split <;> (try rename_i heq) <;>
        (try have hx := fst_kept (ww := ww) heq (by simp (maxDischargeDepth := 40) (contextual := true) [*, -heq]; done)) <;>
        (try dsimp only)))

@[simp] theorem State.t3Timeout_kept (s : State) (a : Agent) (tag : Nat) (hm : s.Kept ww) :
    (State.t3Timeout s a tag).Kept ww := by
  unfold State.t3Timeout
  (try dsimp only)
  repeat' (first
    | (simp (maxDischargeDepth := 40) (contextual := true) [*]; done)
    | (refine foldl_kept _ _ _ ?_ ?_) | (refine foldl_fst_kept _ _ _ ?_ ?_)
    | (intro _ _ _; try dsimp only)
    | (split <;> (try rename_i heq) <;>
        (try have hx := fst_kept (ww := ww) heq (by simp (maxDischargeDepth := 40) (contextual := true) [*, -heq]; done)) <;>
        (try dsimp only)))

end Sys2Proof.Machine
end

