-- ==== Sys2Proof/Laws/KeptSkim.lean ====
section
/-!
SUPPORT. `State.Kept` through the operations of Machine/Skim.lean.
-/
namespace Sys2Proof.Machine
open Sys2Proof
variable {ww : Watch}

@[simp] theorem State.skimTo_kept (s : State) (base : Nat) (bands : Nat) (hm : s.Kept ww) :
    (State.skimTo s base bands).Kept ww := by
  unfold State.skimTo
  simp (maxDischargeDepth := 40) (contextual := true) [*]

@[simp] theorem State.scanOut_kept (s : State) (a : Nat) (hm : s.Kept ww) :
    (State.scanOut s a).1.Kept ww := by
  unfold State.scanOut
  simp (maxDischargeDepth := 40) (contextual := true) [*]

@[simp] theorem State.dump_kept (s : State) (cause : Nat) (ts : Nat) (hm : s.Kept ww) :
    (State.dump s cause ts).Kept ww := by
  unfold State.dump
  simp (maxDischargeDepth := 40) (contextual := true) [*]

@[simp] theorem State.endJobs_kept (s : State) (js : List (Nat × Nat)) (ecause : Nat) (hm : s.Kept ww) :
    (State.endJobs s js ecause).Kept ww := by
  unfold State.endJobs
  simp (maxDischargeDepth := 40) (contextual := true) [*]

@[simp] theorem State.endAllJobs_kept (s : State) (ecause : Nat) (hm : s.Kept ww) :
    (State.endAllJobs s ecause).Kept ww := by
  unfold State.endAllJobs
  simp [*]

@[simp] theorem State.recordFatal_kept (s : State) (e : Event) (hm : s.Kept ww) :
    (State.recordFatal s e).Kept ww := by
  unfold State.recordFatal
  simp [*]

@[simp] theorem State.fatalError_kept (s : State) (cause : Nat) (unit : Agent) (hm : s.Kept ww) :
    (State.fatalError s cause unit).Kept ww := by
  unfold State.fatalError
  simp (maxDischargeDepth := 40) (contextual := true) [*]

end Sys2Proof.Machine
end

