-- ==== Sys2Proof/Laws/KeptReset.lean ====
section
/-!
SUPPORT. `State.Kept` through the operations of Machine/Reset.lean.
-/
namespace Sys2Proof.Machine
open Sys2Proof
variable {ww : Watch}

@[simp] theorem State.selectImage_kept (s : State) (sill0Ok : Bool) (hm : s.Kept ww) :
    (State.selectImage s sill0Ok).Kept ww := by
  unfold State.selectImage
  dsimp only
  split
  · exact hm
  · exact hm
  · exact watched_ms 2 hm (.inl (Nat.le_refl _))

@[simp] theorem State.domainReset_kept (s : State) (hm : s.Kept ww) : (State.domainReset s).Kept ww := by
  refine watched_ms (if s.boot.recovery then s.boot.mstate else 0) hm ?_
  split
  · exact .inr rfl
  · exact .inl (Nat.zero_le _)

@[simp] theorem State.jobEnds_kept (s : State) (hm : s.Kept ww) :
    (State.jobEnds s).Kept ww := by
  unfold State.jobEnds
  simp (maxDischargeDepth := 40) (contextual := true) [*]

theorem State.lifeChange_kept (s : State) (hm : s.Kept ww) : (State.lifeChange s (s.boot.target.getD s.boot.lcs)).Kept ww :=
  watched_life hm

@[simp] theorem State.countAttempt_kept (s : State) (cause : Nat) (hm : s.Kept ww) :
    (State.countAttempt s cause).Kept ww := by
  unfold State.countAttempt
  dsimp only
  repeat' split
  all_goals simp (maxDischargeDepth := 40) (contextual := true) [*]

@[simp] theorem State.moduleReset_kept (s : State) (cause : Nat) (hm : s.Kept ww) :
    (State.moduleReset s cause).Kept ww := by
  unfold State.moduleReset
  dsimp only
  have h1 : ((List.range 32).foldl (fun s q => s.mapOut q) ((s.endAllJobs 5).jobEnds)).Kept ww :=
    foldl_kept _ _ _ (by simp (maxDischargeDepth := 40) [hm]) (by simp (contextual := true))
  generalize (List.range 32).foldl (fun s q => s.mapOut q) ((s.endAllJobs 5).jobEnds) = t at h1 ⊢
  have h2 : (t.domainReset.modBoot (fun b => { b with
      mepoch := b.mepoch + 1, rcause := cause, wipeDue := t.dueRanges (decide (cause = 6)), rst := none })).Kept ww :=
    watched_epoch (State.domainReset_kept t h1)
  generalize t.domainReset.modBoot _ = v at h2 ⊢
  have h3 : (if decide (cause = 6) = true then v.lifeChange (v.boot.target.getD v.boot.lcs) else v).Kept ww :=
    ite_kept _ _ _ (State.lifeChange_kept v h2) h2
  generalize (if decide (cause = 6) = true then v.lifeChange (v.boot.target.getD v.boot.lcs) else v) = w at h3 ⊢
  have h4 : (if cause = 7 then w.selectImage true else w).Kept ww := ite_kept _ _ _ (State.selectImage_kept w true h3) h3
  exact State.countAttempt_kept _ cause h4

@[simp] theorem State.coldStart_kept (s : State) (sill0Ok : Bool) (hm : s.Kept ww) :
    (State.coldStart s sill0Ok).Kept ww := by
  have h : (s.modBoot (fun b => { b with
      recovery := false, dead := false, mstate := 0, holdc := 0, phase := 0, lost54 := false })).Kept ww :=
    watched_ms 0 hm (.inl (Nat.zero_le _))
  exact State.selectImage_kept _ _ (State.moduleReset_kept _ 0 h)

@[simp] theorem State.selfRefresh_kept (s : State) (on : Bool) (hm : s.Kept ww) :
    (State.selfRefresh s on).Kept ww := by
  unfold State.selfRefresh
  simp (maxDischargeDepth := 40) (contextual := true) [*]

@[simp] theorem State.railsDown_kept (s : State) (hm : s.Kept ww) :
    (State.railsDown s).Kept ww := by
  unfold State.railsDown
  split <;> simp [*]

@[simp] theorem State.thermalTrip_kept (s : State) (unit : Agent) (hm : s.Kept ww) :
    (State.thermalTrip s unit).Kept ww := by
  unfold State.thermalTrip
  simp (maxDischargeDepth := 40) (contextual := true) [*]

end Sys2Proof.Machine
end

