-- ==== Sys2Proof/Laws/KeptLinks.lean ====
section
/-!
SUPPORT. `State.Kept` through the operations of Machine/Links.lean.
-/
namespace Sys2Proof.Machine
open Sys2Proof
variable {ww : Watch}

@[simp] theorem State.linkEvent_kept (s : State) (k : Nat) (cause : Nat) (hm : s.Kept ww) :
    (State.linkEvent s k cause).Kept ww := by
  unfold State.linkEvent
  simp [*]

@[simp] theorem State.modBoth_kept (s : State) (k : Nat) (f : Link → Link) (hm : s.Kept ww) :
    (State.modBoth s k f).Kept ww := by
  unfold State.modBoth
  split <;> simp [*]

@[simp] theorem State.freeInput_kept (s : State) (k : Nat) (c : Nat) (hm : s.Kept ww) :
    (State.freeInput s k c).Kept ww := by
  unfold State.freeInput
  simp [*]

@[simp] theorem State.pump_kept (s : State) (k : Nat) (y4 : Nat) (hm : s.Kept ww) :
    (State.pump s k y4).Kept ww := by
  induction y4 generalizing s k <;> simp only [State.pump] <;> (try dsimp only)
  all_goals repeat' (first
    | (simp (maxDischargeDepth := 40) (contextual := true) [*]; done)
    | (refine foldl_kept _ _ _ ?_ ?_) | (refine foldl_fst_kept _ _ _ ?_ ?_)
    | (intro _ _ _; try dsimp only)
    | (split <;> (try rename_i heq) <;>
        (try have hx := fst_kept (ww := ww) heq (by simp (maxDischargeDepth := 40) (contextual := true) [*, -heq]; done)) <;>
        (try dsimp only)))

@[simp] theorem State.errTo_kept (s : State) (w : Nat) (r : Resp) (hm : s.Kept ww) :
    (State.errTo s w r).Kept ww := by
  unfold State.errTo
  simp [*]

@[simp] theorem State.isolate_kept (s : State) (k : Nat) (w : Nat) (inj : Bool) (hm : s.Kept ww) :
    (State.isolate s k w inj).Kept ww := by
  unfold State.isolate
  dsimp only
  repeat' split
  all_goals simp (maxDischargeDepth := 40) (contextual := true) [*]

@[simp] theorem State.firedIsolation_kept (s : State) (k : Nat) (x : Nat) (hit : Option (Nat × Bool)) (hm : s.Kept ww) :
    (State.firedIsolation s k x hit).Kept ww := by
  unfold State.firedIsolation
  split <;> simp [*]

@[simp] theorem State.judgeHead_kept (s : State) (k : Nat) (w : Nat) (hm : s.Kept ww) :
    (State.judgeHead s k w).1.Kept ww := by
  unfold State.judgeHead
  dsimp only
  repeat' split
  all_goals simp [*]

@[simp] theorem State.flitEnter_kept (s : State) (k : Nat) (w : Nat) (hm : s.Kept ww) :
    (State.flitEnter s k w).Kept ww := by
  unfold State.flitEnter
  dsimp only
  repeat' split
  all_goals simp (maxDischargeDepth := 40) (contextual := true) [*]

@[simp] theorem State.retrain_kept (s : State) (k : Nat) (hm : s.Kept ww) :
    (State.retrain s k).Kept ww := by
  unfold State.retrain
  simp [*]

@[simp] theorem State.checkReplays_kept (s : State) (k : Nat) (hm : s.Kept ww) :
    (State.checkReplays s k).Kept ww := by
  unfold State.checkReplays
  simp [*]

@[simp] theorem State.replay_kept (s : State) (k : Nat) (count : Bool) (hm : s.Kept ww) :
    (State.replay s k count).Kept ww := by
  unfold State.replay
  simp [*]

@[simp] theorem State.linkInj_kept (s : State) (k : Nat) (hm : s.Kept ww) :
    (State.linkInj s k).1.Kept ww := by
  unfold State.linkInj
  dsimp only
  repeat' split
  all_goals simp [*]

@[simp] theorem State.flitBad_kept (s : State) (k : Nat) (w : Nat) (crc : Bool) (hit : Bool) (hm : s.Kept ww) :
    (State.flitBad s k w crc hit).Kept ww := by
  unfold State.flitBad
  simp (maxDischargeDepth := 40) (contextual := true) [*]

@[simp] theorem State.flitReceive_kept (s : State) (k : Nat) (w : Nat) (hm : s.Kept ww) :
    (State.flitReceive s k w).Kept ww := by
  unfold State.flitReceive
  simp (maxDischargeDepth := 40) (contextual := true) [*]

@[simp] theorem State.replayTimeout_kept (s : State) (k : Nat) (hm : s.Kept ww) :
    (State.replayTimeout s k).Kept ww := by
  unfold State.replayTimeout
  simp (maxDischargeDepth := 40) (contextual := true) [*]

@[simp] theorem State.retrainRequest_kept (s : State) (k : Nat) (v : Nat) (auth : Auth) (hm : s.Kept ww) :
    (State.retrainRequest s k v auth).Kept ww := by
  unfold State.retrainRequest
  split <;> simp [*]

@[simp] theorem State.trainMortar_kept (s : State) (k : Nat) (badLanes : Nat) (hm : s.Kept ww) :
    (State.trainMortar s k badLanes).Kept ww := by
  unfold State.trainMortar
  simp (maxDischargeDepth := 40) (contextual := true) [*]

@[simp] theorem State.trainUcie_kept (s : State) (k : Nat) (badLanes : Nat) (hm : s.Kept ww) :
    (State.trainUcie s k badLanes).Kept ww := by
  unfold State.trainUcie
  dsimp only
  repeat' split
  all_goals simp [*]

@[simp] theorem State.linkRetrain_kept (s : State) (k : Nat) (badLanes : Nat) (hm : s.Kept ww) :
    (State.linkRetrain s k badLanes).Kept ww := by
  unfold State.linkRetrain
  dsimp only
  repeat' split
  all_goals simp [*]

@[simp] theorem State.homeCut_kept (s : State) (h : Nat) (hm : s.Kept ww) :
    (State.homeCut s h).Kept ww := by
  unfold State.homeCut
  (try dsimp only)
  repeat' (first
    | (simp (maxDischargeDepth := 40) (contextual := true) [*]; done)
    | (refine foldl_kept _ _ _ ?_ ?_) | (refine foldl_fst_kept _ _ _ ?_ ?_)
    | (intro _ _ _; try dsimp only)
    | (split <;> (try rename_i heq) <;>
        (try have hx := fst_kept (ww := ww) heq (by simp (maxDischargeDepth := 40) (contextual := true) [*, -heq]; done)) <;>
        (try dsimp only)))

@[simp] theorem State.hopDown_kept (s : State) (k : Nat) (hm : s.Kept ww) :
    (State.hopDown s k).Kept ww := by
  unfold State.hopDown
  simp (maxDischargeDepth := 40) (contextual := true) [*]

@[simp] theorem State.panelsLose_kept (s : State) (k : Nat) (oosc : Nat) (cause : Nat) (hit : Panel → Bool) (hm : s.Kept ww) :
    (State.panelsLose s k oosc cause hit).Kept ww := by
  unfold State.panelsLose
  simp (maxDischargeDepth := 40) (contextual := true) [*]

@[simp] theorem State.linkLost_kept (s : State) (k : Nat) (cause : Nat) (hm : s.Kept ww) :
    (State.linkLost s k cause).Kept ww := by
  unfold State.linkLost
  simp (maxDischargeDepth := 40) (contextual := true) [*]

@[simp] theorem State.retrainDone_kept (s : State) (k : Nat) (hm : s.Kept ww) :
    (State.retrainDone s k).Kept ww := by
  unfold State.retrainDone
  dsimp only
  repeat' split
  all_goals simp (maxDischargeDepth := 40) (contextual := true) [*]

@[simp] theorem State.spareTest_kept (s : State) (k : Nat) (err : Bool) (hm : s.Kept ww) :
    (State.spareTest s k err).Kept ww := by
  unfold State.spareTest
  dsimp only
  repeat' split
  all_goals simp [*]

@[simp] theorem State.failedTest_kept (s : State) (k : Nat) (badLanes : Nat) (hm : s.Kept ww) :
    (State.failedTest s k badLanes).Kept ww := by
  unfold State.failedTest
  simp [*]

end Sys2Proof.Machine
end

