-- ==== Sys2Proof/Laws/KeptPower.lean ====
section
/-!
SUPPORT. `State.Kept` through the operations of Machine/Power.lean.
-/
namespace Sys2Proof.Machine
open Sys2Proof
variable {ww : Watch}

@[simp] theorem State.setCeiling_kept (s : State) (d : Nat) (mhz : Nat) (hm : s.Kept ww) :
    (State.setCeiling s d mhz).Kept ww := by
  unfold State.setCeiling
  dsimp only
  repeat' split
  all_goals simp [*]

@[simp] theorem State.raise_kept (s : State) (est : List (Die × Nat)) (w : Nat) (ds : List Nat)
    (hm : s.Kept ww) : (State.raise s est w ds).Kept ww := by
  induction ds generalizing s w with
  | nil => exact hm
  | cons d ds ih =>
    unfold State.raise
    dsimp only
    repeat' (first | exact ih _ _ (by simp [hm]) | split)

@[simp] theorem State.lower_kept (s : State) (est : List (Die × Nat)) (w : Nat) (ds : List Nat)
    (hm : s.Kept ww) : (State.lower s est w ds).Kept ww := by
  induction ds generalizing s w with
  | nil => exact hm
  | cons d ds ih =>
    unfold State.lower
    dsimp only
    repeat' (first | exact ih _ _ (by simp [hm]) | split)

@[simp] theorem State.powerTick_kept (s : State) (w : Nat) (rails : List (Die × Nat)) (est : List (Die × Nat)) (hm : s.Kept ww) :
    (State.powerTick s w rails est).Kept ww := by
  unfold State.powerTick
  simp (maxDischargeDepth := 40) (contextual := true) [*]

@[simp] theorem State.droop_kept (s : State) (t : Nat) (hm : s.Kept ww) :
    (State.droop s t).Kept ww := by
  unfold State.droop
  simp [*]

@[simp] theorem State.droopDetect_kept (s : State) (t : Nat) (mv : Nat) (hm : s.Kept ww) :
    (State.droopDetect s t mv).Kept ww := by
  unfold State.droopDetect
  split <;> simp [*]

@[simp] theorem State.injReading_kept (s : State) (det : Nat) (target : Nat) (window : Nat) (unit : Agent) (hm : s.Kept ww) :
    (State.injReading s det target window unit).1.Kept ww := by
  unfold State.injReading
  dsimp only
  repeat' split
  all_goals simp [*]

@[simp] theorem State.tileTemp_kept (s : State) (t : Nat) (q : Int) (hm : s.Kept ww) :
    (State.tileTemp s t q).Kept ww := by
  unfold State.tileTemp
  simp (maxDischargeDepth := 40) (contextual := true) [*]

@[simp] theorem State.dieTemp_kept (s : State) (sill : Bool) (u : Nat) (q : Int) (hm : s.Kept ww) :
    (State.dieTemp s sill u q).Kept ww := by
  unfold State.dieTemp
  dsimp only
  repeat' split
  all_goals simp [*]

@[simp] theorem State.hbmTemp_kept (s : State) (k : Nat) (temp : Nat) (hm : s.Kept ww) :
    (State.hbmTemp s k temp).Kept ww := by
  unfold State.hbmTemp
  simp (maxDischargeDepth := 40) (contextual := true) [*]

@[simp] theorem State.scrub_kept (s : State) (h : Nat) (pkg : Nat) (a : Nat) (e : CodeErr) (done : Bool) (hm : s.Kept ww) :
    (State.scrub s h pkg a e done).Kept ww := by
  unfold State.scrub
  simp (maxDischargeDepth := 40) (contextual := true) [*]

@[simp] theorem State.patternTest_kept (s : State) (t : Nat) (pass : Bool) (hm : s.Kept ww) :
    (State.patternTest s t pass).Kept ww := by
  unfold State.patternTest
  dsimp only
  repeat' split
  all_goals simp [*]

@[simp] theorem State.suspicionEnds_kept (s : State) (t : Nat) (hm : s.Kept ww) :
    (State.suspicionEnds s t).Kept ww := by
  unfold State.suspicionEnds
  dsimp only
  repeat' split
  all_goals simp [*]

end Sys2Proof.Machine
end

