-- ==== Sys2Proof/Laws/KeptWarm.lean ====
section
/-!
SUPPORT. `State.Kept` through the operations of Machine/Warm.lean.
-/
namespace Sys2Proof.Machine
open Sys2Proof
variable {ww : Watch}

@[simp] theorem State.intakesReset_kept (s : State) (hm : s.Kept ww) :
    (State.intakesReset s).Kept ww := by
  unfold State.intakesReset
  simp [*]

@[simp] theorem State.warmTrigger_kept (s : State) (hm : s.Kept ww) :
    (State.warmTrigger s).Kept ww := by
  unfold State.warmTrigger
  simp (maxDischargeDepth := 40) (contextual := true) [*]

@[simp] theorem State.warmReset_kept (s : State) (hm : s.Kept ww) :
    (State.warmReset s).Kept ww := by
  unfold State.warmReset
  simp (maxDischargeDepth := 40) (contextual := true) [*]

@[simp] theorem State.hwdogRestart_kept (s : State) (hm : s.Kept ww) :
    (State.hwdogRestart s).Kept ww := by
  unfold State.hwdogRestart
  simp [*]

@[simp] theorem State.coresRelease_kept (s : State) (hm : s.Kept ww) :
    (State.coresRelease s).Kept ww := by
  unfold State.coresRelease
  simp (maxDischargeDepth := 40) (contextual := true) [*]

@[simp] theorem specHostReset_ok (s : State) (q : IcralReq) (w : Nat) (hm : s.Kept ww) :
    (specHostReset.run s q w).Kept ww := by
  unfold specHostReset
  dsimp only
  repeat' (first | (with_reducible exact doneRefuse_ok _ _) | (with_reducible refine need_ok _ _ _ _ (fun _ => ?_)) | (with_reducible refine inService_ok _ _ _ ?_) | (with_reducible refine doneOk_ok _ ?_) | (with_reducible refine doneWait_ok _ _ ?_) | (simp (maxDischargeDepth := 40) (contextual := true) [*]; done) | (split <;> (try dsimp only)))

@[simp] theorem State.sbiReset_kept (s : State) (c : Nat) (type : Nat) (hm : s.Kept ww) :
    (State.sbiReset s c type).Kept ww := by
  unfold State.sbiReset
  split <;> simp [*]

@[simp] theorem State.hwdogExpires_kept (s : State) (h : Nat) (inj : Bool) (hm : s.Kept ww) :
    (State.hwdogExpires s h inj).Kept ww := by
  unfold State.hwdogExpires
  simp (maxDischargeDepth := 40) (contextual := true) [*]

@[simp] theorem State.hwdogWrite_kept (s : State) (h : Nat) (v : Nat) (auth : Auth) (hm : s.Kept ww) :
    (State.hwdogWrite s h v auth).Kept ww := by
  unfold State.hwdogWrite
  simp [*]

end Sys2Proof.Machine
end

