-- ==== Sys2Proof/Laws/KeptBoot.lean ====
section
/-!
SUPPORT. `State.Kept` through the operations of Machine/Boot.lean.
-/
namespace Sys2Proof.Machine
open Sys2Proof
variable {ww : Watch}

@[simp] theorem State.standbyOn_kept (s : State) (sill0Ok : Bool) (hm : s.Kept ww) :
    (State.standbyOn s sill0Ok).Kept ww := by
  unfold State.standbyOn
  split <;> simp [*]

theorem State.standbyLost_kept (s : State) (hm : s.Kept ww) : (State.standbyLost s).Kept ww :=
  watched_ms 0 (watched_none hm) (.inl (Nat.zero_le _))

@[simp] theorem State.standbyOff_kept (s : State) (hm : s.Kept ww) : (State.standbyOff s).Kept ww :=
  ite_kept _ _ _ hm (State.standbyLost_kept _ (State.domainReset_kept _ (State.selfRefresh_kept s false hm)))

@[simp] theorem State.mainOn_kept (s : State) (hm : s.Kept ww) :
    (State.mainOn s).Kept ww := by
  unfold State.mainOn
  simp [*]

@[simp] theorem State.mainOff_kept (s : State) (_overV : Bool) (hm : s.Kept ww) :
    (State.mainOff s _overV).Kept ww := by
  unfold State.mainOff
  split <;> simp [*]

@[simp] theorem State.rstN_kept (s : State) (low : Bool) (hm : s.Kept ww) :
    (State.rstN s low).Kept ww := by
  unfold State.rstN
  simp [*]

@[simp] theorem State.rstAssert_kept (s : State) (usec : Nat) (hm : s.Kept ww) :
    (State.rstAssert s usec).Kept ww := by
  unfold State.rstAssert
  dsimp only
  repeat' split
  all_goals simp [*]

@[simp] theorem State.repairColumn_kept (s : State) (tested : List (Nat × Nat × Nat)) (k : Nat) (hm : s.Kept ww) :
    (State.repairColumn s tested k).Kept ww := by
  unfold State.repairColumn
  split <;> simp [*]

@[simp] theorem State.repairColumns_kept (s : State) (tested : List (Nat × Nat × Nat)) (ks : List Nat) (hm : s.Kept ww) :
    (State.repairColumns s tested ks).Kept ww := by
  unfold State.repairColumns
  simp (maxDischargeDepth := 40) (contextual := true) [*]

@[simp] theorem State.clearMarks_kept (s : State) (hm : s.Kept ww) :
    (State.clearMarks s).Kept ww := by
  unfold State.clearMarks
  simp [*]

@[simp] theorem State.repairAll_kept (s : State) (tested : List (Nat × Nat × Nat)) (hm : s.Kept ww) :
    (State.repairAll s tested).Kept ww := by
  unfold State.repairAll
  simp [*]

@[simp] theorem State.trainAll_kept (s : State) (failed : List Nat) (below : List Nat) (channels : List Nat) (packages : List Nat) (hm : s.Kept ww) :
    (State.trainAll s failed below channels packages).Kept ww := by
  unfold State.trainAll
  simp (maxDischargeDepth := 40) (contextual := true) [*]

@[simp] theorem State.wipesDone_kept (s : State) (hm : s.Kept ww) : (State.wipesDone s).Kept ww := by
  unfold State.wipesDone
  dsimp only
  have h : ((s.keeps.foldl (fun s k => if k.2.lost then s.emit { cls := 0x18, cause := 5, detail := k.1 } else s) s).emit
      { cls := 0x20, cause := 17 }).Kept ww :=
    State.emit_kept _ _ (foldl_kept _ _ _ hm (by intro s k hs; split <;> simp [hs]))
  generalize State.emit _ _ = t at h ⊢
  split
  · exact h
  · exact h

theorem watched_raise (s : State) (hm : s.Kept ww) :
    Watched ww s.mem s.pending s.boot.raiseSvn.minsvn s.boot.raiseSvn.mepoch s.boot.raiseSvn.raises s.boot.raiseSvn.lcs
      s.boot.raiseSvn.mstate s.boot.raiseSvn.target := by
  obtain ⟨h1, h2, h3, h4, h5, h6, h7⟩ := hm
  unfold Boot.raiseSvn
  split
  · rename_i hc
    exact ⟨h1, h2, Nat.le_trans h3 (Nat.le_of_lt hc.2.1), h4, fun _ => hc.2.2, h6, h7⟩
  · exact ⟨h1, h2, h3, h4, h5, h6, h7⟩

@[simp] theorem State.enterReady_kept (s : State) (coresOk : Bool) (cxl : List Nat) (hm : s.Kept ww) :
    (State.enterReady s coresOk cxl).Kept ww := by
  unfold State.enterReady
  dsimp only
  generalize withCause _ 8 _ = c
  have h : (if c = 0 then
      { { s with cxl := cxlMask cxl } with
        ports := (List.range 32).foldl (fun t n => Table.modify t {} n (fun x => { x with st := 1 })) s.ports }.modBoot
        (fun b => { b.raiseSvn with
          mstate := 1, holdc := 0, fault := false, attempts := none, prevPref := none, fatalDue := !b.fatalRecs.isEmpty })
    else { s with cxl := cxlMask cxl }.modBoot (fun b => { b with mstate := 2, holdc := holdCode c })).Kept ww :=
    ite_kept _ _ _ (watched_ms 1 (watched_raise s hm) (.inl (by omega))) (watched_ms 2 hm (.inl (Nat.le_refl _)))
  generalize (if c = 0 then _ else _ : State) = t at h ⊢
  exact ite_kept _ _ _ h (State.coresRelease_kept t h)

@[simp] theorem State.phaseDone_kept (s : State) (ph : BootPhase) (hm : s.Kept ww) : (State.phaseDone s ph).Kept ww := by
  have hg : ∀ (n : Nat) (t : State), t.Kept ww →
      (if s.boot.due n = true then t.modBoot (fun b => { b with phase := n }) else s).Kept ww :=
    fun n t h => ite_kept _ _ _ h hm
  unfold State.phaseDone
  dsimp only
  split
  · exact hg 1 s hm
  · exact hg 2 s hm
  · exact ite_kept _ _ _ (hg 3 (s.modBoot (fun b => { b with rails := true })) hm) hm
  · exact hg 4 s hm
  · exact hg 5 (s.modBoot _) hm
  · exact hg 6 _ (State.repairAll_kept s _ hm)
  · exact hg 7 _ (State.trainAll_kept s _ _ _ _ hm)
  · exact ite_kept _ _ _ (hg 8 _ (State.wipesDone_kept s hm)) hm
  · exact hg 9 _ (State.enterReady_kept s _ _ hm)

@[simp] theorem State.refLost_kept (s : State) (hm : s.Kept ww) : (State.refLost s).Kept ww := by
  unfold State.refLost
  dsimp only
  have h : ((s.endAllJobs 6).emit { cls := 0x20, cause := 12 }).Kept ww := by simp (maxDischargeDepth := 40) [hm]
  generalize (s.endAllJobs 6).emit _ = t at h ⊢
  refine ite_kept _ _ _ hm (watched_ms (if t.boot.mstate = 1 then 2 else t.boot.mstate) h ?_)
  split
  · exact .inl (Nat.le_refl _)
  · exact .inr rfl

@[simp] theorem State.refBack_kept (s : State) (hm : s.Kept ww) :
    (State.refBack s).Kept ww := by
  unfold State.refBack
  simp (maxDischargeDepth := 40) (contextual := true) [*]

@[simp] theorem State.ppsEdge_kept (s : State) (at_ : Nat) (hm : s.Kept ww) :
    (State.ppsEdge s at_).Kept ww := by
  unfold State.ppsEdge
  simp [*]

@[simp] theorem State.timeSet_kept (s : State) (v : Nat) (auth : Auth) (hm : s.Kept ww) :
    (State.timeSet s v auth).Kept ww := by
  unfold State.timeSet
  split <;> simp [*]

@[simp] theorem State.managersLost_kept (s : State) (hm : s.Kept ww) :
    (State.managersLost s).Kept ww := by
  unfold State.managersLost
  simp [*]

@[simp] theorem State.takeover_kept (s : State) (standbyOk : Bool) (hm : s.Kept ww) :
    (State.takeover s standbyOk).Kept ww :=
  ite_kept _ _ _ hm (ite_kept _ _ _ (State.emit_kept _ _ (watched_epoch hm)) (State.managersLost_kept s hm))

@[simp] theorem State.masonSilent_kept (s : State) (i : Nat) (hm : s.Kept ww) :
    (State.masonSilent s i).Kept ww := by
  unfold State.masonSilent
  simp [*]

@[simp] theorem State.resetDue_kept (s : State) (cause : Nat) (hm : s.Kept ww) :
    (State.resetDue s cause).Kept ww := by
  unfold State.resetDue
  simp [*]

@[simp] theorem specModuleReset_ok (s : State) (q : IcralReq) (w : Nat) (hm : s.Kept ww) :
    (specModuleReset.run s q w).Kept ww := by
  unfold specModuleReset
  dsimp only
  repeat' (first | (with_reducible exact doneRefuse_ok _ _) | (with_reducible refine need_ok _ _ _ _ (fun _ => ?_)) | (with_reducible refine inService_ok _ _ _ ?_) | (with_reducible refine doneOk_ok _ ?_) | (with_reducible refine doneWait_ok _ _ ?_) | (simp (maxDischargeDepth := 40) (contextual := true) [*]; done) | (split <;> (try dsimp only)))

@[simp] theorem specTransition_ok (s : State) (q : IcralReq) (w : Nat) (hm : s.Kept ww) :
    (specTransition.run s q w).Kept ww :=
  need_ok _ _ _ _ (fun _ => need_ok _ _ _ _ (fun h => watched_move _ hm h))

@[simp] theorem specStage_ok (s : State) (q : IcralReq) (w : Nat) (hm : s.Kept ww) :
    (specStage.run s q w).Kept ww := by
  unfold specStage
  dsimp only
  repeat' (first | (with_reducible exact doneRefuse_ok _ _) | (with_reducible refine need_ok _ _ _ _ (fun _ => ?_)) | (with_reducible refine inService_ok _ _ _ ?_) | (with_reducible refine doneOk_ok _ ?_) | (with_reducible refine doneWait_ok _ _ ?_) | (simp (maxDischargeDepth := 40) (contextual := true) [*]; done) | (split <;> (try dsimp only)))

@[simp] theorem State.stageDone_kept (s : State) (ok : Bool) (hm : s.Kept ww) : (State.stageDone s ok).Kept ww :=
  ite_kept _ _ _ hm (ite_kept _ _ _ hm (State.drawBytes_kept s _ hm))

@[simp] theorem specActivate_ok (s : State) (q : IcralReq) (w : Nat) (hm : s.Kept ww) :
    (specActivate.run s q w).Kept ww := by
  unfold specActivate
  dsimp only
  repeat' (first | (with_reducible exact doneRefuse_ok _ _) | (with_reducible refine need_ok _ _ _ _ (fun _ => ?_)) | (with_reducible refine inService_ok _ _ _ ?_) | (with_reducible refine doneOk_ok _ ?_) | (with_reducible refine doneWait_ok _ _ ?_) | (simp (maxDischargeDepth := 40) (contextual := true) [*]; done) | (split <;> (try dsimp only)))

@[simp] theorem specBlock_ok (s : State) (q : IcralReq) (w : Nat) (hm : s.Kept ww) :
    (specBlock.run s q w).Kept ww := by
  unfold specBlock
  dsimp only
  repeat' (first | (with_reducible exact doneRefuse_ok _ _) | (with_reducible refine need_ok _ _ _ _ (fun _ => ?_)) | (with_reducible refine inService_ok _ _ _ ?_) | (with_reducible refine doneOk_ok _ ?_) | (with_reducible refine doneWait_ok _ _ ?_) | (simp (maxDischargeDepth := 40) (contextual := true) [*]; done) | (split <;> (try dsimp only)))

theorem State.commitImage_kept (s : State) (bs : List Byte) (hm : s.Kept ww) : (State.commitImage s bs).Kept ww := by
  unfold State.commitImage Boot.program
  exact hm

@[simp] theorem specCommit_ok (s : State) (q : IcralReq) (w : Nat) (hm : s.Kept ww) : (specCommit.run s q w).Kept ww := by
  unfold specCommit
  dsimp only
  exact need_ok _ _ _ _ (fun _ => need_ok _ _ _ _ (fun _ => need_ok _ _ _ _ (fun _ => doneOk_ok _ (State.commitImage_kept s _ hm))))

@[simp] theorem State.recoveryCommit_kept (s : State) (q : IcralReq) (hm : s.Kept ww) :
    (State.recoveryCommit s q).Kept ww := by
  have h := fun b => State.performReq_kept s q b specCommit hm (fun w => specCommit_ok s q w hm)
  unfold State.recoveryCommit
  dsimp only
  split <;> exact h _

@[simp] theorem State.tap_kept (s : State) (op : TapOp) (hm : s.Kept ww) :
    (State.tap s op).Kept ww := by
  unfold State.tap
  split
  · exact hm
  · split <;> try exact hm
    · exact ite_kept _ _ _ hm hm
    · split
      · rename_i hc
        obtain ⟨h1, h2, h3, h4, h5, h6, h7⟩ := hm
        exact ⟨h1, h2, h3, h4, h5, fun hl => ⟨Nat.zero_le _, (h6 hl).2⟩, fun hg => absurd (h7 hg).1 (by omega)⟩
      · exact hm

end Sys2Proof.Machine
end

