-- ==== Sys2Proof/Laws/KeptDebug.lean ====
section
/-!
SUPPORT. `State.Kept` through the operations of Machine/Debug.lean.
-/
namespace Sys2Proof.Machine
open Sys2Proof
variable {ww : Watch}

@[simp] theorem State.tileWrite_kept (s : State) (t : Nat) (off : Nat) (auth : Auth) (f : State → State) (hm : s.Kept ww) (hf : ∀ s, s.Kept ww → (f s).Kept ww) :
    (State.tileWrite s t off auth f).Kept ww := by
  unfold State.tileWrite
  split <;> simp [*]

@[simp] theorem State.syncWrite_kept (s : State) (t : Nat) (k : Nat) (v : Nat) (auth : Auth) (hm : s.Kept ww) :
    (State.syncWrite s t k v auth).Kept ww := by
  unfold State.syncWrite
  simp (maxDischargeDepth := 40) (contextual := true) [*]

@[simp] theorem State.pauseWrite_kept (s : State) (t : Nat) (v : Nat) (auth : Auth) (hm : s.Kept ww) :
    (State.pauseWrite s t v auth).Kept ww := by
  unfold State.pauseWrite
  simp (maxDischargeDepth := 40) (contextual := true) [*]

@[simp] theorem State.nflagWrite_kept (s : State) (t : Nat) (j : Nat) (v : Nat) (auth : Auth) (hm : s.Kept ww) :
    (State.nflagWrite s t j v auth).Kept ww := by
  unfold State.nflagWrite
  simp (maxDischargeDepth := 40) (contextual := true) [*]

@[simp] theorem State.pnlWrite_kept (s : State) (p : Nat) (off : Nat) (auth : Auth) (f : State → State) (hm : s.Kept ww) (hf : ∀ s, s.Kept ww → (f s).Kept ww) :
    (State.pnlWrite s p off auth f).Kept ww := by
  unfold State.pnlWrite
  simp [*]

@[simp] theorem State.suspWrite_kept (s : State) (p : Nat) (v : Nat) (auth : Auth) (hm : s.Kept ww) :
    (State.suspWrite s p v auth).Kept ww := by
  unfold State.suspWrite
  simp (maxDischargeDepth := 40) (contextual := true) [*]

@[simp] theorem State.trcCtlWrite_kept (s : State) (p : Nat) (v : Nat) (auth : Auth) (hm : s.Kept ww) :
    (State.trcCtlWrite s p v auth).Kept ww := by
  unfold State.trcCtlWrite
  simp (maxDischargeDepth := 40) (contextual := true) [*]

@[simp] theorem State.traceMark_kept (s : State) (p : Nat) (v : Nat) (auth : Auth) (hm : s.Kept ww) :
    (State.traceMark s p v auth).Kept ww := by
  unfold State.traceMark
  simp (maxDischargeDepth := 40) (contextual := true) [*]

@[simp] theorem State.icrWrite_kept (s : State) (p : PanelId) (i : Fin 64) (k : IcrReg) (v : Nat) (auth : Auth) (hm : s.Kept ww) :
    (State.icrWrite s p i k v auth).Kept ww := by
  unfold State.icrWrite
  dsimp only
  repeat' split
  all_goals simp [*]

@[simp] theorem State.writeFatal_kept (s : State) (rec : Nat) (hm : s.Kept ww) :
    (State.writeFatal s rec).Kept ww := by
  unfold State.writeFatal
  split <;> simp [*]

@[simp] theorem State.writeFatals_kept (s : State) (hm : s.Kept ww) :
    (State.writeFatals s).Kept ww := by
  unfold State.writeFatals
  simp (maxDischargeDepth := 40) (contextual := true) [*]

@[simp] theorem State.modWrite_kept (s : State) (off : Nat) (auth : Auth) (f : State → State) (hm : s.Kept ww) (hf : ∀ s, s.Kept ww → (f s).Kept ww) :
    (State.modWrite s off auth f).Kept ww := by
  unfold State.modWrite
  simp [*]

@[simp] theorem State.evtCfg_kept (s : State) (v : Nat) (auth : Auth) (hm : s.Kept ww) :
    (State.evtCfg s v auth).Kept ww := by
  unfold State.evtCfg
  simp (maxDischargeDepth := 40) (contextual := true) [*]

@[simp] theorem State.evtConsume_kept (s : State) (h : Count) (hm : s.Kept ww) :
    (State.evtConsume s h).Kept ww := by
  unfold State.evtConsume
  dsimp only
  repeat' split
  all_goals simp [*]

@[simp] theorem State.evtBell_kept (s : State) (h : Count) (auth : Auth) (hm : s.Kept ww) :
    (State.evtBell s h auth).Kept ww := by
  unfold State.evtBell
  simp (maxDischargeDepth := 40) (contextual := true) [*]

@[simp] theorem State.applyHeld_kept (s : State) (hm : s.Kept ww) :
    (State.applyHeld s).Kept ww := by
  unfold State.applyHeld
  simp (maxDischargeDepth := 40) (contextual := true) [*]

@[simp] theorem State.releaseHalt_kept (s : State) (hm : s.Kept ww) :
    (State.releaseHalt s).Kept ww := by
  unfold State.releaseHalt
  simp [*]

@[simp] theorem State.skim_kept (s : State) (halted : Bool) (bands : Nat) (hm : s.Kept ww) :
    (State.skim s halted bands).Kept ww := by
  unfold State.skim
  split <;> simp [*]

@[simp] theorem State.dbgCtl_kept (s : State) (v : Nat) (auth : Auth) (hm : s.Kept ww) :
    (State.dbgCtl s v auth).Kept ww := by
  unfold State.dbgCtl
  simp (maxDischargeDepth := 40) (contextual := true) [*]

@[simp] theorem State.regRead_kept (s : State) (addr : Nat) (wide : Bool) (auth : Auth) (hm : s.Kept ww) :
    (State.regRead s addr wide auth).Kept ww := by
  unfold State.regRead
  dsimp only
  repeat' split
  all_goals simp [*]

@[simp] theorem State.bellAt_kept (s : State) (g : Nat) (base : Nat) (n : Nat) (off : Nat) (v : Nat) (auth : Auth) (hm : s.Kept ww) :
    (State.bellAt s g base n off v auth).Kept ww := by
  unfold State.bellAt
  simp [*]

@[simp] theorem State.onLow_kept (s : State) (lo : Bool) (f : State → State) (hm : s.Kept ww) (hf : ∀ s, s.Kept ww → (f s).Kept ww) :
    (State.onLow s lo f).Kept ww := by
  unfold State.onLow
  simp [*]

@[simp] theorem State.writeTile_kept (s : State) (t : Nat) (off : Nat) (v : Nat) (lo : Bool) (hi : Bool) (auth : Auth) (hm : s.Kept ww) :
    (State.writeTile s t off v lo hi auth).Kept ww := by
  unfold State.writeTile
  simp (maxDischargeDepth := 40) (contextual := true) [*]

@[simp] theorem State.writePnl_kept (s : State) (p : Nat) (off : Nat) (v : Nat) (lo : Bool) (auth : Auth) (hm : s.Kept ww) :
    (State.writePnl s p off v lo auth).Kept ww := by
  unfold State.writePnl
  simp (maxDischargeDepth := 40) (contextual := true) [*]

@[simp] theorem State.writeMailbox_kept (s : State) (p : PanelId) (i : Fin 64) (k : Nat) (v : Nat) (lo : Bool) (hi : Bool) (auth : Auth) (hm : s.Kept ww) :
    (State.writeMailbox s p i k v lo hi auth).Kept ww := by
  unfold State.writeMailbox
  dsimp only
  repeat' split
  all_goals simp (maxDischargeDepth := 40) (contextual := true) [*]

@[simp] theorem State.writeIcr_kept (s : State) (p : Fin 16) (off : Nat) (v : Nat) (lo : Bool) (hi : Bool) (auth : Auth) (hm : s.Kept ww) :
    (State.writeIcr s p off v lo hi auth).Kept ww := by
  unfold State.writeIcr
  simp [*]

@[simp] theorem State.writeMod_kept (s : State) (off : Nat) (v : Nat) (lo : Bool) (hi : Bool) (auth : Auth) (hm : s.Kept ww) :
    (State.writeMod s off v lo hi auth).Kept ww := by
  unfold State.writeMod
  simp (maxDischargeDepth := 40) (contextual := true) [*]

@[simp] theorem State.blockWrite_kept (s : State) (b : Block) (off : Nat) (v : Nat) (lo : Bool) (hi : Bool) (auth : Auth) (hm : s.Kept ww) :
    (State.blockWrite s b off v lo hi auth).Kept ww := by
  unfold State.blockWrite
  dsimp only
  repeat' split
  all_goals simp (maxDischargeDepth := 40) (contextual := true) [*]

@[simp] theorem State.regWrite_kept (s : State) (addr : Nat) (wide : Bool) (v : Nat) (auth : Auth) (hm : s.Kept ww) :
    (State.regWrite s addr wide v auth).Kept ww := by
  unfold State.regWrite
  dsimp only
  repeat' split
  all_goals simp [*]

end Sys2Proof.Machine
end

