-- ==== Sys2Proof/Laws/KeptInject.lean ====
section
/-!
SUPPORT. `State.Kept` through the operations of Machine/Inject.lean.
-/
namespace Sys2Proof.Machine
open Sys2Proof
variable {ww : Watch}

@[simp] theorem State.injectNow_kept (s : State) (det : Nat) (target : Nat) (log : Bool) (hm : s.Kept ww) :
    (State.injectNow s det target log).Kept ww := by
  unfold State.injectNow
  dsimp only
  repeat' split
  all_goals simp [*]

@[simp] theorem specInject_ok (s : State) (q : IcralReq) (w : Nat) (hm : s.Kept ww) :
    (specInject.run s q w).Kept ww := by
  unfold specInject
  dsimp only
  repeat' (first | (with_reducible exact doneRefuse_ok _ _) | (with_reducible refine need_ok _ _ _ _ (fun _ => ?_)) | (with_reducible refine inService_ok _ _ _ ?_) | (with_reducible refine doneOk_ok _ ?_) | (with_reducible refine doneWait_ok _ _ ?_) | (simp (maxDischargeDepth := 40) (contextual := true) [*]; done) | (split <;> (try dsimp only)))

@[simp] theorem specDisarm_ok (s : State) (q : IcralReq) (w : Nat) (hm : s.Kept ww) :
    (specDisarm.run s q w).Kept ww := by
  unfold specDisarm
  dsimp only
  repeat' (first | (with_reducible exact doneRefuse_ok _ _) | (with_reducible refine need_ok _ _ _ _ (fun _ => ?_)) | (with_reducible refine inService_ok _ _ _ ?_) | (with_reducible refine doneOk_ok _ ?_) | (with_reducible refine doneWait_ok _ _ ?_) | (simp (maxDischargeDepth := 40) (contextual := true) [*]; done) | (split <;> (try dsimp only)))

end Sys2Proof.Machine
end

