-- ==== Sys2Proof/Laws/KeptExec.lean ====
section
/-!
SUPPORT. `State.Kept` through every command of the table.
-/
namespace Sys2Proof.Machine
open Sys2Proof
variable {ww : Watch}

theorem execRingDoorbell_kept (g : RingId) (count : Count) (auth : Auth) (s : State) (hm : s.Kept ww) (u : State)
    (hu : execRingDoorbell g count auth s = .next u) : u.Kept ww := by
  unfold execRingDoorbell at hu
  cases hu
  simp [*]

theorem execRingEntryFetch_kept (g : RingId) (s : State) (hm : s.Kept ww) (u : State)
    (hu : execRingEntryFetch g s = .next u) : u.Kept ww := by
  unfold execRingEntryFetch at hu
  cases hu
  simp [*]

theorem execSequencerSelect_kept (t : Tile) (c : EngClass) (s : State) (hm : s.Kept ww) (u : State)
    (hu : execSequencerSelect t c s = .next u) : u.Kept ww := by
  unfold execSequencerSelect at hu
  cases hu
  simp [*]

theorem execCommandTranslated_kept (t : Tile) (c : EngClass) (s : State) (hm : s.Kept ww) (u : State)
    (hu : execCommandTranslated t c s = .next u) : u.Kept ww := by
  unfold execCommandTranslated at hu
  cases hu
  simp [*]

theorem execNop_kept (t : Tile) (c : EngClass) (s : State) (hm : s.Kept ww) (u : State)
    (hu : execNop t c s = .next u) : u.Kept ww := by
  unfold execNop at hu
  cases hu
  (try dsimp only)
  repeat' (first
    | (simp (maxDischargeDepth := 40) (contextual := true) [*]; done)
    | (refine foldl_kept _ _ _ ?_ ?_) | (refine foldl_fst_kept _ _ _ ?_ ?_)
    | (intro _ _ _; try dsimp only)
    | (split <;> (try rename_i heq) <;>
        (try have hx := fst_kept (ww := ww) heq (by simp (maxDischargeDepth := 40) (contextual := true) [*, -heq]; done)) <;>
        (try dsimp only)))

theorem execFence_kept (t : Tile) (c : EngClass) (s : State) (hm : s.Kept ww) (u : State)
    (hu : execFence t c s = .next u) : u.Kept ww := by
  unfold execFence at hu
  cases hu
  (try dsimp only)
  repeat' (first
    | (simp (maxDischargeDepth := 40) (contextual := true) [*]; done)
    | (refine foldl_kept _ _ _ ?_ ?_) | (refine foldl_fst_kept _ _ _ ?_ ?_)
    | (intro _ _ _; try dsimp only)
    | (split <;> (try rename_i heq) <;>
        (try have hx := fst_kept (ww := ww) heq (by simp (maxDischargeDepth := 40) (contextual := true) [*, -heq]; done)) <;>
        (try dsimp only)))

theorem execCskip_kept (t : Tile) (c : EngClass) (s : State) (hm : s.Kept ww) (u : State)
    (hu : execCskip t c s = .next u) : u.Kept ww := by
  unfold execCskip at hu
  cases hu
  (try dsimp only)
  repeat' (first
    | (simp (maxDischargeDepth := 40) (contextual := true) [*]; done)
    | (refine foldl_kept _ _ _ ?_ ?_) | (refine foldl_fst_kept _ _ _ ?_ ?_)
    | (intro _ _ _; try dsimp only)
    | (split <;> (try rename_i heq) <;>
        (try have hx := fst_kept (ww := ww) heq (by simp (maxDischargeDepth := 40) (contextual := true) [*, -heq]; done)) <;>
        (try dsimp only)))

theorem execMarker_kept (t : Tile) (c : EngClass) (s : State) (hm : s.Kept ww) (u : State)
    (hu : execMarker t c s = .next u) : u.Kept ww := by
  unfold execMarker at hu
  cases hu
  dsimp only
  repeat' split
  all_goals simp [*]

theorem execCommandComplete_kept (t : Tile) (c : EngClass) (j : Slot) (s : State) (hm : s.Kept ww) (u : State)
    (hu : execCommandComplete t c j s = .next u) : u.Kept ww := by
  unfold execCommandComplete at hu
  cases hu
  simp [*]

theorem execRemoteAddApply_kept (src : Agent) (dst : Tile) (s : State) (hm : s.Kept ww) (u : State)
    (hu : execRemoteAddApply src dst s = .next u) : u.Kept ww := by
  unfold execRemoteAddApply at hu
  cases hu
  simp [*]

theorem execRemoteAddAck_kept (t : Tile) (s : State) (hm : s.Kept ww) (u : State)
    (hu : execRemoteAddAck t s = .next u) : u.Kept ww := by
  unfold execRemoteAddAck at hu
  cases hu
  split <;> simp [*]

theorem execSramCorrectedWriteback_kept (t : Tile) (bank : Fin 24) (s : State) (hm : s.Kept ww) (u : State)
    (hu : execSramCorrectedWriteback t bank s = .next u) : u.Kept ww := by
  unfold execSramCorrectedWriteback at hu
  cases hu
  simp [*]

theorem execFeederFill_kept (t : Tile) (col : Bool) (i : Fin 32) (s : State) (hm : s.Kept ww) (u : State)
    (hu : execFeederFill t col i s = .next u) : u.Kept ww := by
  unfold execFeederFill at hu
  cases hu
  simp [*]

theorem execWeightLoadPass_kept (t : Tile) (s : State) (hm : s.Kept ww) (u : State)
    (hu : execWeightLoadPass t s = .next u) : u.Kept ww := by
  unfold execWeightLoadPass at hu
  cases hu
  simp [*]

theorem execArrayStepIssue_kept (t : Tile) (s : State) (hm : s.Kept ww) (u : State)
    (hu : execArrayStepIssue t s = .next u) : u.Kept ww := by
  unfold execArrayStepIssue at hu
  cases hu
  (try dsimp only)
  repeat' (first
    | (simp (maxDischargeDepth := 40) (contextual := true) [*]; done)
    | (refine foldl_kept _ _ _ ?_ ?_) | (refine foldl_fst_kept _ _ _ ?_ ?_)
    | (intro _ _ _; try dsimp only)
    | (split <;> (try rename_i heq) <;>
        (try have hx := fst_kept (ww := ww) heq (by simp (maxDischargeDepth := 40) (contextual := true) [*, -heq]; done)) <;>
        (try dsimp only)))

theorem execArrayDrain_kept (t : Tile) (s : State) (hm : s.Kept ww) (u : State)
    (hu : execArrayDrain t s = .next u) : u.Kept ww := by
  unfold execArrayDrain at hu
  cases hu
  simp [*]

theorem execMm_kept (t : Tile) (s : State) (hm : s.Kept ww) (u : State)
    (hu : execMm t s = .next u) : u.Kept ww := by
  unfold execMm at hu
  cases hu
  simp [*]

theorem execMmAcc_kept (t : Tile) (s : State) (hm : s.Kept ww) (u : State)
    (hu : execMmAcc t s = .next u) : u.Kept ww := by
  unfold execMmAcc at hu
  cases hu
  simp [*]

theorem execConv_kept (t : Tile) (s : State) (hm : s.Kept ww) (u : State)
    (hu : execConv t s = .next u) : u.Kept ww := by
  unfold execConv at hu
  cases hu
  simp [*]

theorem execConvAcc_kept (t : Tile) (s : State) (hm : s.Kept ww) (u : State)
    (hu : execConvAcc t s = .next u) : u.Kept ww := by
  unfold execConvAcc at hu
  cases hu
  simp [*]

theorem execWs8_kept (t : Tile) (s : State) (hm : s.Kept ww) (u : State)
    (hu : execWs8 t s = .next u) : u.Kept ww := by
  unfold execWs8 at hu
  cases hu
  simp [*]

theorem execWs8Acc_kept (t : Tile) (s : State) (hm : s.Kept ww) (u : State)
    (hu : execWs8Acc t s = .next u) : u.Kept ww := by
  unfold execWs8Acc at hu
  cases hu
  simp [*]

theorem execWs2_kept (t : Tile) (s : State) (hm : s.Kept ww) (u : State)
    (hu : execWs2 t s = .next u) : u.Kept ww := by
  unfold execWs2 at hu
  cases hu
  simp [*]

theorem execWs2Acc_kept (t : Tile) (s : State) (hm : s.Kept ww) (u : State)
    (hu : execWs2Acc t s = .next u) : u.Kept ww := by
  unfold execWs2Acc at hu
  cases hu
  simp [*]

theorem execVew1_kept (t : Tile) (s : State) (hm : s.Kept ww) (u : State)
    (hu : execVew1 t s = .next u) : u.Kept ww := by
  unfold execVew1 at hu
  cases hu
  simp [*]

theorem execVew2_kept (t : Tile) (s : State) (hm : s.Kept ww) (u : State)
    (hu : execVew2 t s = .next u) : u.Kept ww := by
  unfold execVew2 at hu
  cases hu
  simp [*]

theorem execVfma_kept (t : Tile) (s : State) (hm : s.Kept ww) (u : State)
    (hu : execVfma t s = .next u) : u.Kept ww := by
  unfold execVfma at hu
  cases hu
  simp [*]

theorem execVred_kept (t : Tile) (s : State) (hm : s.Kept ww) (u : State)
    (hu : execVred t s = .next u) : u.Kept ww := by
  unfold execVred at hu
  cases hu
  simp [*]

theorem execVcvt_kept (t : Tile) (s : State) (hm : s.Kept ww) (u : State)
    (hu : execVcvt t s = .next u) : u.Kept ww := by
  unfold execVcvt at hu
  cases hu
  simp [*]

theorem execVzmap_kept (t : Tile) (s : State) (hm : s.Kept ww) (u : State)
    (hu : execVzmap t s = .next u) : u.Kept ww := by
  unfold execVzmap at hu
  cases hu
  simp [*]

theorem execMoeCount_kept (t : Tile) (s : State) (hm : s.Kept ww) (u : State)
    (hu : execMoeCount t s = .next u) : u.Kept ww := by
  unfold execMoeCount at hu
  cases hu
  simp [*]

theorem execMoeScan_kept (t : Tile) (s : State) (hm : s.Kept ww) (u : State)
    (hu : execMoeScan t s = .next u) : u.Kept ww := by
  unfold execMoeScan at hu
  cases hu
  simp [*]

theorem execMoeSum_kept (t : Tile) (s : State) (hm : s.Kept ww) (u : State)
    (hu : execMoeSum t s = .next u) : u.Kept ww := by
  unfold execMoeSum at hu
  cases hu
  simp [*]

theorem execEngineTakeCommand_kept (t : Tile) (c : EngClass) (s : State) (hm : s.Kept ww) (u : State)
    (hu : execEngineTakeCommand t c s = .next u) : u.Kept ww := by
  unfold execEngineTakeCommand at hu
  cases hu
  simp [*]

theorem execCohReq_kept (h : HomeId) (line : Nat) (cmd : CohCmd) (age : BitVec 8) (who : Holder) (s : State) (hm : s.Kept ww) (u : State)
    (hu : execCohReq h line cmd age who s = .next u) : u.Kept ww := by
  unfold execCohReq at hu
  cases hu
  simp [*]

theorem execHomeMemoryReadDone_kept (h : HomeId) (line : Nat) (s : State) (hm : s.Kept ww) (u : State)
    (hu : execHomeMemoryReadDone h line s = .next u) : u.Kept ww := by
  unfold execHomeMemoryReadDone at hu
  cases hu
  simp [*]

theorem execSliceSnoop_kept (sl : SliceId) (line : Nat) (k : SnoopKind) (s : State) (hm : s.Kept ww) (u : State)
    (hu : execSliceSnoop sl line k s = .next u) : u.Kept ww := by
  unfold execSliceSnoop at hu
  cases hu
  simp [*]

theorem execCacheSnoop_kept (who : Holder) (line : Nat) (k : SnoopKind) (s : State) (hm : s.Kept ww) (u : State)
    (hu : execCacheSnoop who line k s = .next u) : u.Kept ww := by
  unfold execCacheSnoop at hu
  cases hu
  simp [*]

theorem execSliceSnoopRsp_kept (sl : SliceId) (line : Nat) (t : Tile) (r : SnoopRsp) (s : State) (hm : s.Kept ww) (u : State)
    (hu : execSliceSnoopRsp sl line t r s = .next u) : u.Kept ww := by
  unfold execSliceSnoopRsp at hu
  cases hu
  simp [*]

theorem execHomeSnoopRsp_kept (h : HomeId) (line : Nat) (src : Holder ⊕ SliceId) (r : SnoopRsp) (s : State) (hm : s.Kept ww) (u : State)
    (hu : execHomeSnoopRsp h line src r s = .next u) : u.Kept ww := by
  unfold execHomeSnoopRsp at hu
  cases hu
  simp [*]

theorem execHomeSnoopResend_kept (h : HomeId) (line : Nat) (dst : Holder ⊕ SliceId) (s : State) (hm : s.Kept ww) (u : State)
    (hu : execHomeSnoopResend h line dst s = .next u) : u.Kept ww := by
  unfold execHomeSnoopResend at hu
  cases hu
  simp [*]

theorem execCohGrantReceive_kept (who : Holder) (line : Nat) (g : Grant) (s : State) (hm : s.Kept ww) (u : State)
    (hu : execCohGrantReceive who line g s = .next u) : u.Kept ww := by
  unfold execCohGrantReceive at hu
  cases hu
  simp [*]

theorem execCacheHoldExpiry_kept (who : Holder) (line : Nat) (s : State) (hm : s.Kept ww) (u : State)
    (hu : execCacheHoldExpiry who line s = .next u) : u.Kept ww := by
  unfold execCacheHoldExpiry at hu
  cases hu
  simp [*]

theorem execCohNackReceive_kept (who : Holder) (line : Nat) (reason : Fin 3) (s : State) (hm : s.Kept ww) (u : State)
    (hu : execCohNackReceive who line reason s = .next u) : u.Kept ww := by
  unfold execCohNackReceive at hu
  cases hu
  simp [*]

theorem execCohRetry_kept (who : Holder) (line : Nat) (s : State) (hm : s.Kept ww) (u : State)
    (hu : execCohRetry who line s = .next u) : u.Kept ww := by
  unfold execCohRetry at hu
  cases hu
  simp [*]

theorem execReservationExpiry_kept (h : HomeId) (r : Reservation) (s : State) (hm : s.Kept ww) (u : State)
    (hu : execReservationExpiry h r s = .next u) : u.Kept ww := by
  unfold execReservationExpiry at hu
  cases hu
  simp [*]

theorem execWriteback_kept (h : HomeId) (line : Nat) (who : Holder) (data : Nat) (s : State) (hm : s.Kept ww) (u : State)
    (hu : execWriteback h line who data s = .next u) : u.Kept ww := by
  unfold execWriteback at hu
  cases hu
  simp [*]

theorem execWritebackAckReceive_kept (who : Holder) (line : Nat) (s : State) (hm : s.Kept ww) (u : State)
    (hu : execWritebackAckReceive who line s = .next u) : u.Kept ww := by
  unfold execWritebackAckReceive at hu
  cases hu
  simp [*]

theorem execHomeNoncohAccess_kept (h : HomeId) (rq : MemReq) (e : CodeErr) (s : State) (hm : s.Kept ww) (u : State)
    (hu : execHomeNoncohAccess h rq e s = .next u) : u.Kept ww := by
  unfold execHomeNoncohAccess at hu
  cases hu
  split <;> simp [*]

theorem execHomeAtomic_kept (h : HomeId) (rq : MemReq) (s : State) (hm : s.Kept ww) (u : State)
    (hu : execHomeAtomic h rq s = .next u) : u.Kept ww := by
  unfold execHomeAtomic at hu
  cases hu
  split <;> simp [*]

theorem execRemoteAgentRequest_kept (t : Tile) (rq : MemReq) (e : CodeErr) (s : State) (hm : s.Kept ww) (u : State)
    (hu : execRemoteAgentRequest t rq e s = .next u) : u.Kept ww := by
  unfold execRemoteAgentRequest at hu
  cases hu
  simp [*]

theorem execSillHbmRequest_kept (k : Sill) (rq : MemReq) (e : CodeErr) (s : State) (hm : s.Kept ww) (u : State)
    (hu : execSillHbmRequest k rq e s = .next u) : u.Kept ww := by
  unfold execSillHbmRequest at hu
  cases hu
  simp [*]

theorem execCaccReceive_kept (p : CaccPacket) (s : State) (hm : s.Kept ww) (u : State)
    (hu : execCaccReceive p s = .next u) : u.Kept ww := by
  unfold execCaccReceive at hu
  cases hu
  simp [*]

theorem execStagedRead_kept (t : Tile) (slot : Slot) (addr : Nat) (len : Nat) (tag : BitVec 8) (s : State) (hm : s.Kept ww) (u : State)
    (hu : execStagedRead t slot addr len tag s = .next u) : u.Kept ww := by
  unfold execStagedRead at hu
  cases hu
  simp [*]

theorem execStagingFillComplete_kept (q : SpanId) (line : Nat) (s : State) (hm : s.Kept ww) (u : State)
    (hu : execStagingFillComplete q line s = .next u) : u.Kept ww := by
  unfold execStagingFillComplete at hu
  cases hu
  simp [*]

theorem execStamp_kept (t : Tile) (s : State) (hm : s.Kept ww) (u : State)
    (hu : execStamp t s = .next u) : u.Kept ww := by
  unfold execStamp at hu
  cases hu
  simp [*]

theorem execMvCopy_kept (t : Tile) (s : State) (hm : s.Kept ww) (u : State)
    (hu : execMvCopy t s = .next u) : u.Kept ww := by
  unfold execMvCopy at hu
  cases hu
  simp [*]

theorem execMvExpand_kept (t : Tile) (s : State) (hm : s.Kept ww) (u : State)
    (hu : execMvExpand t s = .next u) : u.Kept ww := by
  unfold execMvExpand at hu
  cases hu
  simp [*]

theorem execMvFill_kept (t : Tile) (s : State) (hm : s.Kept ww) (u : State)
    (hu : execMvFill t s = .next u) : u.Kept ww := by
  unfold execMvFill at hu
  cases hu
  simp [*]

theorem execMoeDispatch_kept (t : Tile) (s : State) (hm : s.Kept ww) (u : State)
    (hu : execMoeDispatch t s = .next u) : u.Kept ww := by
  unfold execMoeDispatch at hu
  cases hu
  simp [*]

theorem execMoeGather_kept (t : Tile) (s : State) (hm : s.Kept ww) (u : State)
    (hu : execMoeGather t s = .next u) : u.Kept ww := by
  unfold execMoeGather at hu
  cases hu
  simp [*]

theorem execRbAdd_kept (t : Tile) (s : State) (hm : s.Kept ww) (u : State)
    (hu : execRbAdd t s = .next u) : u.Kept ww := by
  unfold execRbAdd at hu
  cases hu
  simp [*]

theorem execRbRead_kept (t : Tile) (s : State) (hm : s.Kept ww) (u : State)
    (hu : execRbRead t s = .next u) : u.Kept ww := by
  unfold execRbRead at hu
  cases hu
  simp [*]

theorem execMoverTransactionResponse_kept (t : Tile) (tag : BitVec 8) (r : Resp) (s : State) (hm : s.Kept ww) (u : State)
    (hu : execMoverTransactionResponse t tag r s = .next u) : u.Kept ww := by
  unfold execMoverTransactionResponse at hu
  cases hu
  simp [*]

theorem execMxZero_kept (c : CoreId) (rd : BitVec 5) (rs1 : BitVec 5) (rs2 : BitVec 5) (s : State) (hm : s.Kept ww) (u : State)
    (hu : execMxZero c rd rs1 rs2 s = .next u) : u.Kept ww := by
  unfold execMxZero at hu
  cases hu
  simp (maxDischargeDepth := 40) (contextual := true) [*]

theorem execMxOpa_kept (c : CoreId) (rd : BitVec 5) (rs1 : BitVec 5) (rs2 : BitVec 5) (s : State) (hm : s.Kept ww) (u : State)
    (hu : execMxOpa c rd rs1 rs2 s = .next u) : u.Kept ww := by
  unfold execMxOpa at hu
  cases hu
  simp (maxDischargeDepth := 40) (contextual := true) [*]

theorem execMxOpn_kept (c : CoreId) (rd : BitVec 5) (rs1 : BitVec 5) (rs2 : BitVec 5) (s : State) (hm : s.Kept ww) (u : State)
    (hu : execMxOpn c rd rs1 rs2 s = .next u) : u.Kept ww := by
  unfold execMxOpn at hu
  cases hu
  simp (maxDischargeDepth := 40) (contextual := true) [*]

theorem execMxLd_kept (c : CoreId) (rd : BitVec 5) (rs1 : BitVec 5) (rs2 : BitVec 5) (s : State) (hm : s.Kept ww) (u : State)
    (hu : execMxLd c rd rs1 rs2 s = .next u) : u.Kept ww := by
  unfold execMxLd at hu
  cases hu
  simp (maxDischargeDepth := 40) (contextual := true) [*]

theorem execMxSt_kept (c : CoreId) (rd : BitVec 5) (rs1 : BitVec 5) (rs2 : BitVec 5) (s : State) (hm : s.Kept ww) (u : State)
    (hu : execMxSt c rd rs1 rs2 s = .next u) : u.Kept ww := by
  unfold execMxSt at hu
  cases hu
  simp (maxDischargeDepth := 40) (contextual := true) [*]

theorem execMxStb_kept (c : CoreId) (rd : BitVec 5) (rs1 : BitVec 5) (rs2 : BitVec 5) (s : State) (hm : s.Kept ww) (u : State)
    (hu : execMxStb c rd rs1 rs2 s = .next u) : u.Kept ww := by
  unfold execMxStb at hu
  cases hu
  simp (maxDischargeDepth := 40) (contextual := true) [*]

theorem execMxMvr_kept (c : CoreId) (rd : BitVec 5) (rs1 : BitVec 5) (rs2 : BitVec 5) (s : State) (hm : s.Kept ww) (u : State)
    (hu : execMxMvr c rd rs1 rs2 s = .next u) : u.Kept ww := by
  unfold execMxMvr at hu
  cases hu
  simp (maxDischargeDepth := 40) (contextual := true) [*]

theorem execTvplumbWrite_kept (c : CoreId) (v : BitVec 64) (mode : HartMode) (s : State) (hm : s.Kept ww) (u : State)
    (hu : execTvplumbWrite c v mode s = .next u) : u.Kept ww := by
  unfold execTvplumbWrite at hu
  cases hu
  simp [*]

theorem execPlumbTurnEnd_kept (h : HostDie) (g : Fin 8) (why : TurnEnd) (s : State) (hm : s.Kept ww) (u : State)
    (hu : execPlumbTurnEnd h g why s = .next u) : u.Kept ww := by
  unfold execPlumbTurnEnd at hu
  cases hu
  split <;> simp [*]

theorem execPcieInboundRequest_kept (rp : RootPort) (rid : BitVec 16) (_iova : Nat) (op : MemOp) (_relaxed : Bool) (ans : IommuAnswer) (s : State) (hm : s.Kept ww) (u : State)
    (hu : execPcieInboundRequest rp rid _iova op _relaxed ans s = .next u) : u.Kept ww := by
  unfold execPcieInboundRequest at hu
  cases hu
  simp [*]

theorem execPcieWake_kept (_rp : RootPort) (s : State) (hm : s.Kept ww) (u : State)
    (hu : execPcieWake _rp s = .next u) : u.Kept ww := by
  unfold execPcieWake at hu
  cases hu
  simp [*]

theorem execPciePresenceChange_kept (rp : RootPort) (present : Bool) (s : State) (hm : s.Kept ww) (u : State)
    (hu : execPciePresenceChange rp present s = .next u) : u.Kept ww := by
  unfold execPciePresenceChange at hu
  cases hu
  simp [*]

theorem execCNop_kept (n : Port) (i : Fin 256) (s : State) (hm : s.Kept ww) (u : State)
    (hu : execCNop n i s = .next u) : u.Kept ww := by
  unfold execCNop at hu
  cases hu
  simp [*]

theorem execCWrite_kept (n : Port) (i : Fin 256) (s : State) (hm : s.Kept ww) (u : State)
    (hu : execCWrite n i s = .next u) : u.Kept ww := by
  unfold execCWrite at hu
  cases hu
  simp [*]

theorem execCAcc_kept (n : Port) (i : Fin 256) (s : State) (hm : s.Kept ww) (u : State)
    (hu : execCAcc n i s = .next u) : u.Kept ww := by
  unfold execCAcc at hu
  cases hu
  simp [*]

theorem execCPut_kept (n : Port) (i : Fin 256) (s : State) (hm : s.Kept ww) (u : State)
    (hu : execCPut n i s = .next u) : u.Kept ww := by
  unfold execCPut at hu
  cases hu
  simp [*]

theorem execCBcast_kept (n : Port) (i : Fin 256) (s : State) (hm : s.Kept ww) (u : State)
    (hu : execCBcast n i s = .next u) : u.Kept ww := by
  unfold execCBcast at hu
  cases hu
  simp [*]

theorem execCAllreduce_kept (n : Port) (i : Fin 256) (s : State) (hm : s.Kept ww) (u : State)
    (hu : execCAllreduce n i s = .next u) : u.Kept ww := by
  unfold execCAllreduce at hu
  cases hu
  simp [*]

theorem execCRscatter_kept (n : Port) (i : Fin 256) (s : State) (hm : s.Kept ww) (u : State)
    (hu : execCRscatter n i s = .next u) : u.Kept ww := by
  unfold execCRscatter at hu
  cases hu
  simp [*]

theorem execCVote_kept (n : Port) (i : Fin 256) (s : State) (hm : s.Kept ww) (u : State)
    (hu : execCVote n i s = .next u) : u.Kept ww := by
  unfold execCVote at hu
  cases hu
  simp [*]

theorem execCAbort_kept (n : Port) (i : Fin 256) (s : State) (hm : s.Kept ww) (u : State)
    (hu : execCAbort n i s = .next u) : u.Kept ww := by
  unfold execCAbort at hu
  cases hu
  simp [*]

theorem execCollectivePhaseAdvance_kept (n : Port) (i : Fin 256) (s : State) (hm : s.Kept ww) (u : State)
    (hu : execCollectivePhaseAdvance n i s = .next u) : u.Kept ww := by
  unfold execCollectivePhaseAdvance at hu
  cases hu
  simp [*]

theorem execCourseCommandComplete_kept (n : Port) (i : Fin 256) (s : State) (hm : s.Kept ww) (u : State)
    (hu : execCourseCommandComplete n i s = .next u) : u.Kept ww := by
  unfold execCourseCommandComplete at hu
  cases hu
  simp [*]

theorem execCourseDataReceive_kept (n : Port) (f : CourseFrame) (s : State) (hm : s.Kept ww) (u : State)
    (hu : execCourseDataReceive n f s = .next u) : u.Kept ww := by
  unfold execCourseDataReceive at hu
  cases hu
  simp [*]

theorem execCourseFrameApplied_kept (k : ConnKey) (seq : Count) (s : State) (hm : s.Kept ww) (u : State)
    (hu : execCourseFrameApplied k seq s = .next u) : u.Kept ww := by
  unfold execCourseFrameApplied at hu
  cases hu
  simp [*]

theorem execVoteFrameReceive_kept (n : Port) (f : CourseFrame) (s : State) (hm : s.Kept ww) (u : State)
    (hu : execVoteFrameReceive n f s = .next u) : u.Kept ww := by
  unfold execVoteFrameReceive at hu
  cases hu
  simp [*]

theorem execCourseAckReceive_kept (n : Port) (f : CourseFrame) (s : State) (hm : s.Kept ww) (u : State)
    (hu : execCourseAckReceive n f s = .next u) : u.Kept ww := by
  unfold execCourseAckReceive at hu
  cases hu
  simp [*]

theorem execCourseAckTimer_kept (k : ConnKey) (s : State) (hm : s.Kept ww) (u : State)
    (hu : execCourseAckTimer k s = .next u) : u.Kept ww := by
  unfold execCourseAckTimer at hu
  cases hu
  simp [*]

theorem execCourseRetxTimer_kept (k : ConnKey) (seq : Count) (s : State) (hm : s.Kept ww) (u : State)
    (hu : execCourseRetxTimer k seq s = .next u) : u.Kept ww := by
  unfold execCourseRetxTimer at hu
  cases hu
  simp [*]

theorem execCoursePathSkipExpiry_kept (k : ConnKey) (path : Fin 8) (s : State) (hm : s.Kept ww) (u : State)
    (hu : execCoursePathSkipExpiry k path s = .next u) : u.Kept ww := by
  unfold execCoursePathSkipExpiry at hu
  cases hu
  simp [*]

theorem execCourseConnFailTimer_kept (k : ConnKey) (seq : Count) (s : State) (hm : s.Kept ww) (u : State)
    (hu : execCourseConnFailTimer k seq s = .next u) : u.Kept ww := by
  unfold execCourseConnFailTimer at hu
  cases hu
  simp [*]

theorem execVoteTimeout_kept (p : PanelId) (j : Slot) (s : State) (hm : s.Kept ww) (u : State)
    (hu : execVoteTimeout p j s = .next u) : u.Kept ww := by
  unfold execVoteTimeout at hu
  cases hu
  simp [*]

theorem execCourseAbortReceive_kept (n : Port) (f : CourseFrame) (s : State) (hm : s.Kept ww) (u : State)
    (hu : execCourseAbortReceive n f s = .next u) : u.Kept ww := by
  unfold execCourseAbortReceive at hu
  cases hu
  simp [*]

theorem execAbortResend_kept (p : PanelId) (j : Slot) (s : State) (hm : s.Kept ww) (u : State)
    (hu : execAbortResend p j s = .next u) : u.Kept ww := by
  unfold execAbortResend at hu
  cases hu
  simp [*]

theorem execCourseLinkDown_kept (n : Port) (s : State) (hm : s.Kept ww) (u : State)
    (hu : execCourseLinkDown n s = .next u) : u.Kept ww := by
  unfold execCourseLinkDown at hu
  cases hu
  split <;> simp [*]

theorem execCourseLinkHoldExpiry_kept (n : Port) (s : State) (hm : s.Kept ww) (u : State)
    (hu : execCourseLinkHoldExpiry n s = .next u) : u.Kept ww := by
  unfold execCourseLinkHoldExpiry at hu
  cases hu
  simp [*]

theorem execCoursePortRetrain_kept (n : Port) (v : BitVec 32) (auth : Auth) (s : State) (hm : s.Kept ww) (u : State)
    (hu : execCoursePortRetrain n v auth s = .next u) : u.Kept ww := by
  unfold execCoursePortRetrain at hu
  cases hu
  simp [*]

theorem execCourseLinkUp_kept (n : Port) (half : Bool) (s : State) (hm : s.Kept ww) (u : State)
    (hu : execCourseLinkUp n half s = .next u) : u.Kept ww := by
  unfold execCourseLinkUp at hu
  cases hu
  simp [*]

theorem execEthFrameReceive_kept (n : Port) (f : EthFrame) (s : State) (hm : s.Kept ww) (u : State)
    (hu : execEthFrameReceive n f s = .next u) : u.Kept ww := by
  unfold execEthFrameReceive at hu
  cases hu
  simp [*]

theorem execEthFrameTransmit_kept (n : Port) (q : Fin 128) (s : State) (hm : s.Kept ww) (u : State)
    (hu : execEthFrameTransmit n q s = .next u) : u.Kept ww := by
  unfold execEthFrameTransmit at hu
  cases hu
  simp [*]

theorem execHNop_kept (h : HodId) (i : Fin 128) (s : State) (hm : s.Kept ww) (u : State)
    (hu : execHNop h i s = .next u) : u.Kept ww := by
  unfold execHNop at hu
  cases hu
  simp [*]

theorem execHGather_kept (h : HodId) (i : Fin 128) (s : State) (hm : s.Kept ww) (u : State)
    (hu : execHGather h i s = .next u) : u.Kept ww := by
  unfold execHGather at hu
  cases hu
  simp [*]

theorem execHMerge_kept (h : HodId) (i : Fin 128) (s : State) (hm : s.Kept ww) (u : State)
    (hu : execHMerge h i s = .next u) : u.Kept ww := by
  unfold execHMerge at hu
  cases hu
  simp [*]

theorem execHUpdate_kept (h : HodId) (i : Fin 128) (s : State) (hm : s.Kept ww) (u : State)
    (hu : execHUpdate h i s = .next u) : u.Kept ww := by
  unfold execHUpdate at hu
  cases hu
  simp [*]

theorem execHodAccessResponse_kept (h : HodId) (write : Bool) (r : Resp) (s : State) (hm : s.Kept ww) (u : State)
    (hu : execHodAccessResponse h write r s = .next u) : u.Kept ww := by
  unfold execHodAccessResponse at hu
  cases hu
  simp [*]

theorem execHodCommandComplete_kept (h : HodId) (i : Fin 128) (s : State) (hm : s.Kept ww) (u : State)
    (hu : execHodCommandComplete h i s = .next u) : u.Kept ww := by
  unfold execHodCommandComplete at hu
  cases hu
  simp [*]

theorem execINop_kept (n : IntakeId) (i : Fin 512) (s : State) (hm : s.Kept ww) (u : State)
    (hu : execINop n i s = .next u) : u.Kept ww := by
  unfold execINop at hu
  cases hu
  simp [*]

theorem execIImage_kept (n : IntakeId) (i : Fin 512) (s : State) (hm : s.Kept ww) (u : State)
    (hu : execIImage n i s = .next u) : u.Kept ww := by
  unfold execIImage at hu
  cases hu
  simp [*]

theorem execIVideo_kept (n : IntakeId) (i : Fin 512) (s : State) (hm : s.Kept ww) (u : State)
    (hu : execIVideo n i s = .next u) : u.Kept ww := by
  unfold execIVideo at hu
  cases hu
  simp [*]

theorem execIAlign_kept (n : IntakeId) (i : Fin 512) (s : State) (hm : s.Kept ww) (u : State)
    (hu : execIAlign n i s = .next u) : u.Kept ww := by
  unfold execIAlign at hu
  cases hu
  simp [*]

theorem execIShuffle_kept (n : IntakeId) (i : Fin 512) (s : State) (hm : s.Kept ww) (u : State)
    (hu : execIShuffle n i s = .next u) : u.Kept ww := by
  unfold execIShuffle at hu
  cases hu
  simp [*]

theorem execIntakeAccessResponse_kept (n : IntakeId) (write : Bool) (r : Resp) (s : State) (hm : s.Kept ww) (u : State)
    (hu : execIntakeAccessResponse n write r s = .next u) : u.Kept ww := by
  unfold execIntakeAccessResponse at hu
  cases hu
  simp [*]

theorem execIntakeCommandComplete_kept (n : IntakeId) (i : Fin 512) (s : State) (hm : s.Kept ww) (u : State)
    (hu : execIntakeCommandComplete n i s = .next u) : u.Kept ww := by
  unfold execIntakeCommandComplete at hu
  cases hu
  simp [*]

theorem execWaitWordPoll_kept (g : RingId) (s : State) (hm : s.Kept ww) (u : State)
    (hu : execWaitWordPoll g s = .next u) : u.Kept ww := by
  unfold execWaitWordPoll at hu
  cases hu
  simp [*]

theorem execMailboxEntryFetch_kept (p : PanelId) (i : Fin 64) (s : State) (hm : s.Kept ww) (u : State)
    (hu : execMailboxEntryFetch p i s = .next u) : u.Kept ww := by
  unfold execMailboxEntryFetch at hu
  cases hu
  simp [*]

theorem execMgmtDatagramReceive_kept (d : Datagram) (s : State) (hm : s.Kept ww) (u : State)
    (hu : execMgmtDatagramReceive d s = .next u) : u.Kept ww := by
  unfold execMgmtDatagramReceive at hu
  cases hu
  simp [*]

theorem execSessionIdleExpiry_kept (ip : BitVec 32) (port : BitVec 16) (s : State) (hm : s.Kept ww) (u : State)
    (hu : execSessionIdleExpiry ip port s = .next u) : u.Kept ww := by
  unfold execSessionIdleExpiry at hu
  cases hu
  simp [*]

theorem execReassemblyExpiry_kept (ip : BitVec 32) (ident : BitVec 16) (s : State) (hm : s.Kept ww) (u : State)
    (hu : execReassemblyExpiry ip ident s = .next u) : u.Kept ww := by
  unfold execReassemblyExpiry at hu
  cases hu
  simp [*]

theorem execDhcpLeaseTimer_kept (ans : Option (BitVec 32)) (s : State) (hm : s.Kept ww) (u : State)
    (hu : execDhcpLeaseTimer ans s = .next u) : u.Kept ww := by
  unfold execDhcpLeaseTimer at hu
  cases hu
  simp [*]

theorem execI3cPrivateWrite_kept (bytes : List Byte) (s : State) (hm : s.Kept ww) (u : State)
    (hu : execI3cPrivateWrite bytes s = .next u) : u.Kept ww := by
  unfold execI3cPrivateWrite at hu
  cases hu
  simp [*]

theorem execI3cPrivateRead_kept (s : State) (hm : s.Kept ww) (u : State)
    (hu : execI3cPrivateRead s = .next u) : u.Kept ww := by
  unfold execI3cPrivateRead at hu
  cases hu
  split <;> simp [*]

theorem execI3cDynamicAddressAssign_kept (addr : BitVec 7) (s : State) (hm : s.Kept ww) (u : State)
    (hu : execI3cDynamicAddressAssign addr s = .next u) : u.Kept ww := by
  unfold execI3cDynamicAddressAssign at hu
  cases hu
  simp [*]

theorem execIdQuery_kept (q : IcralReq) (s : State) (hm : s.Kept ww) (u : State)
    (hu : execIdQuery q s = .next u) : u.Kept ww := by
  unfold execIdQuery at hu
  cases hu
  simp [*]

theorem execSetModuleId_kept (q : IcralReq) (s : State) (hm : s.Kept ww) (u : State)
    (hu : execSetModuleId q s = .next u) : u.Kept ww := by
  unfold execSetModuleId at hu
  cases hu
  simp [*]

theorem execStatusQuery_kept (q : IcralReq) (s : State) (hm : s.Kept ww) (u : State)
    (hu : execStatusQuery q s = .next u) : u.Kept ww := by
  unfold execStatusQuery at hu
  cases hu
  simp [*]

theorem execTelemetry_kept (q : IcralReq) (s : State) (hm : s.Kept ww) (u : State)
    (hu : execTelemetry q s = .next u) : u.Kept ww := by
  unfold execTelemetry at hu
  cases hu
  simp [*]

theorem execSetPowerLimit_kept (q : IcralReq) (s : State) (hm : s.Kept ww) (u : State)
    (hu : execSetPowerLimit q s = .next u) : u.Kept ww := by
  unfold execSetPowerLimit at hu
  cases hu
  simp [*]

theorem execSetFabric_kept (q : IcralReq) (s : State) (hm : s.Kept ww) (u : State)
    (hu : execSetFabric q s = .next u) : u.Kept ww := by
  unfold execSetFabric at hu
  cases hu
  simp [*]

theorem execMgmtNet_kept (q : IcralReq) (s : State) (hm : s.Kept ww) (u : State)
    (hu : execMgmtNet q s = .next u) : u.Kept ww := by
  unfold execMgmtNet at hu
  cases hu
  simp [*]

theorem execWipeComplete_kept (id : Nat) (s : State) (hm : s.Kept ww) (u : State)
    (hu : execWipeComplete id s = .next u) : u.Kept ww := by
  unfold execWipeComplete at hu
  cases hu
  simp [*]

theorem execPanelResetComplete_kept (p : PanelId) (s : State) (hm : s.Kept ww) (u : State)
    (hu : execPanelResetComplete p s = .next u) : u.Kept ww := by
  unfold execPanelResetComplete at hu
  cases hu
  simp [*]

theorem execPanelCreate_kept (q : IcralReq) (s : State) (hm : s.Kept ww) (u : State)
    (hu : execPanelCreate q s = .next u) : u.Kept ww := by
  unfold execPanelCreate at hu
  cases hu
  simp [*]

theorem execPanelDestroy_kept (q : IcralReq) (s : State) (hm : s.Kept ww) (u : State)
    (hu : execPanelDestroy q s = .next u) : u.Kept ww := by
  unfold execPanelDestroy at hu
  cases hu
  simp [*]

theorem execPanelReset_kept (q : IcralReq) (s : State) (hm : s.Kept ww) (u : State)
    (hu : execPanelReset q s = .next u) : u.Kept ww := by
  unfold execPanelReset at hu
  cases hu
  simp [*]

theorem execGrant_kept (q : IcralReq) (s : State) (hm : s.Kept ww) (u : State)
    (hu : execGrant q s = .next u) : u.Kept ww := by
  unfold execGrant at hu
  cases hu
  simp [*]

theorem execGrantRevoke_kept (q : IcralReq) (s : State) (hm : s.Kept ww) (u : State)
    (hu : execGrantRevoke q s = .next u) : u.Kept ww := by
  unfold execGrantRevoke at hu
  cases hu
  simp [*]

theorem execKeepDefine_kept (q : IcralReq) (s : State) (hm : s.Kept ww) (u : State)
    (hu : execKeepDefine q s = .next u) : u.Kept ww := by
  unfold execKeepDefine at hu
  cases hu
  simp [*]

theorem execKeepRelease_kept (q : IcralReq) (s : State) (hm : s.Kept ww) (u : State)
    (hu : execKeepRelease q s = .next u) : u.Kept ww := by
  unfold execKeepRelease at hu
  cases hu
  simp [*]

theorem execKeepAssign_kept (q : IcralReq) (s : State) (hm : s.Kept ww) (u : State)
    (hu : execKeepAssign q s = .next u) : u.Kept ww := by
  unfold execKeepAssign at hu
  cases hu
  simp [*]

theorem execKeepUnassign_kept (q : IcralReq) (s : State) (hm : s.Kept ww) (u : State)
    (hu : execKeepUnassign q s = .next u) : u.Kept ww := by
  unfold execKeepUnassign at hu
  cases hu
  simp [*]

theorem execPoolMap_kept (q : IcralReq) (s : State) (hm : s.Kept ww) (u : State)
    (hu : execPoolMap q s = .next u) : u.Kept ww := by
  unfold execPoolMap at hu
  cases hu
  simp [*]

theorem execPoolUnmap_kept (q : IcralReq) (s : State) (hm : s.Kept ww) (u : State)
    (hu : execPoolUnmap q s = .next u) : u.Kept ww := by
  unfold execPoolUnmap at hu
  cases hu
  simp [*]

theorem execStaging_kept (q : IcralReq) (s : State) (hm : s.Kept ww) (u : State)
    (hu : execStaging q s = .next u) : u.Kept ww := by
  unfold execStaging at hu
  cases hu
  simp [*]

theorem execStagingInvalidate_kept (p : PanelId) (v : BitVec 32) (auth : Auth) (s : State) (hm : s.Kept ww) (u : State)
    (hu : execStagingInvalidate p v auth s = .next u) : u.Kept ww := by
  unfold execStagingInvalidate at hu
  cases hu
  simp [*]

theorem execRingConfig_kept (q : IcralReq) (s : State) (hm : s.Kept ww) (u : State)
    (hu : execRingConfig q s = .next u) : u.Kept ww := by
  unfold execRingConfig at hu
  cases hu
  simp [*]

theorem execSegment_kept (q : IcralReq) (s : State) (hm : s.Kept ww) (u : State)
    (hu : execSegment q s = .next u) : u.Kept ww := by
  unfold execSegment at hu
  cases hu
  simp [*]

theorem execSegmentRead_kept (q : IcralReq) (s : State) (hm : s.Kept ww) (u : State)
    (hu : execSegmentRead q s = .next u) : u.Kept ww := by
  unfold execSegmentRead at hu
  cases hu
  simp [*]

theorem execSegmentUpdateComplete_kept (p : PanelId) (j : Slot) (e : Fin 16) (s : State) (hm : s.Kept ww) (u : State)
    (hu : execSegmentUpdateComplete p j e s = .next u) : u.Kept ww := by
  unfold execSegmentUpdateComplete at hu
  cases hu
  split <;> simp [*]

theorem execWindow_kept (q : IcralReq) (s : State) (hm : s.Kept ww) (u : State)
    (hu : execWindow q s = .next u) : u.Kept ww := by
  unfold execWindow at hu
  cases hu
  simp [*]

theorem execWindowRead_kept (q : IcralReq) (s : State) (hm : s.Kept ww) (u : State)
    (hu : execWindowRead q s = .next u) : u.Kept ww := by
  unfold execWindowRead at hu
  cases hu
  simp [*]

theorem execRtableWrite_kept (q : IcralReq) (s : State) (hm : s.Kept ww) (u : State)
    (hu : execRtableWrite q s = .next u) : u.Kept ww := by
  unfold execRtableWrite at hu
  cases hu
  simp [*]

theorem execRtableRead_kept (q : IcralReq) (s : State) (hm : s.Kept ww) (u : State)
    (hu : execRtableRead q s = .next u) : u.Kept ww := by
  unfold execRtableRead at hu
  cases hu
  simp [*]

theorem execRtableArm_kept (q : IcralReq) (s : State) (hm : s.Kept ww) (u : State)
    (hu : execRtableArm q s = .next u) : u.Kept ww := by
  unfold execRtableArm at hu
  cases hu
  simp [*]

theorem execCoursePort_kept (q : IcralReq) (s : State) (hm : s.Kept ww) (u : State)
    (hu : execCoursePort q s = .next u) : u.Kept ww := by
  unfold execCoursePort at hu
  cases hu
  simp [*]

theorem execJobStart_kept (q : IcralReq) (s : State) (hm : s.Kept ww) (u : State)
    (hu : execJobStart q s = .next u) : u.Kept ww := by
  unfold execJobStart at hu
  cases hu
  simp [*]

theorem execResumeCheckTimeout_kept (p : PanelId) (j : Slot) (s : State) (hm : s.Kept ww) (u : State)
    (hu : execResumeCheckTimeout p j s = .next u) : u.Kept ww := by
  unfold execResumeCheckTimeout at hu
  cases hu
  simp [*]

theorem execJobEnd_kept (q : IcralReq) (s : State) (hm : s.Kept ww) (u : State)
    (hu : execJobEnd q s = .next u) : u.Kept ww := by
  unfold execJobEnd at hu
  cases hu
  simp [*]

theorem execJobSlotIdle_kept (p : PanelId) (j : Slot) (s : State) (hm : s.Kept ww) (u : State)
    (hu : execJobSlotIdle p j s = .next u) : u.Kept ww := by
  unfold execJobSlotIdle at hu
  cases hu
  simp [*]

theorem execJobWatchdogExpiry_kept (p : PanelId) (j : Slot) (s : State) (hm : s.Kept ww) (u : State)
    (hu : execJobWatchdogExpiry p j s = .next u) : u.Kept ww := by
  unfold execJobWatchdogExpiry at hu
  cases hu
  simp [*]

theorem execTransactionTimeout_kept (a : Agent) (tag : BitVec 8) (s : State) (hm : s.Kept ww) (u : State)
    (hu : execTransactionTimeout a tag s = .next u) : u.Kept ww := by
  unfold execTransactionTimeout at hu
  cases hu
  simp [*]

theorem execT3AccessTimeout_kept (a : Agent) (tag : BitVec 8) (s : State) (hm : s.Kept ww) (u : State)
    (hu : execT3AccessTimeout a tag s = .next u) : u.Kept ww := by
  unfold execT3AccessTimeout at hu
  cases hu
  simp [*]

theorem execModuleResetBegin_kept (s : State) (hm : s.Kept ww) (u : State)
    (hu : execModuleResetBegin s = .next u) : u.Kept ww := by
  unfold execModuleResetBegin at hu
  cases hu
  (try dsimp only)
  repeat' (first
    | (simp (maxDischargeDepth := 40) (contextual := true) [*]; done)
    | (refine foldl_kept _ _ _ ?_ ?_) | (refine foldl_fst_kept _ _ _ ?_ ?_)
    | (intro _ _ _; try dsimp only)
    | (split <;> (try rename_i heq) <;>
        (try have hx := fst_kept (ww := ww) heq (by simp (maxDischargeDepth := 40) (contextual := true) [*, -heq]; done)) <;>
        (try dsimp only)))

theorem execLinkFlitReceive_kept (l : LinkId) (field : BitVec 64) (content : Nat) (s : State) (hm : s.Kept ww) (u : State)
    (hu : execLinkFlitReceive l field content s = .next u) : u.Kept ww := by
  unfold execLinkFlitReceive at hu
  cases hu
  simp [*]

theorem execLinkReplayTimeout_kept (l : LinkId) (s : State) (hm : s.Kept ww) (u : State)
    (hu : execLinkReplayTimeout l s = .next u) : u.Kept ww := by
  unfold execLinkReplayTimeout at hu
  cases hu
  simp [*]

theorem execLinkRetrainRequest_kept (d : Die) (e : Fin 4) (i : Fin 16) (v : BitVec 32) (auth : Auth) (s : State) (hm : s.Kept ww) (u : State)
    (hu : execLinkRetrainRequest d e i v auth s = .next u) : u.Kept ww := by
  unfold execLinkRetrainRequest at hu
  cases hu
  simp [*]

theorem execLinkRetrain_kept (l : LinkId) (badLanes : Nat) (s : State) (hm : s.Kept ww) (u : State)
    (hu : execLinkRetrain l badLanes s = .next u) : u.Kept ww := by
  unfold execLinkRetrain at hu
  cases hu
  simp [*]

theorem execLinkRetrainComplete_kept (l : LinkId) (s : State) (hm : s.Kept ww) (u : State)
    (hu : execLinkRetrainComplete l s = .next u) : u.Kept ww := by
  unfold execLinkRetrainComplete at hu
  cases hu
  simp [*]

theorem execSpareLaneTest_kept (l : LinkId) (err : Bool) (s : State) (hm : s.Kept ww) (u : State)
    (hu : execSpareLaneTest l err s = .next u) : u.Kept ww := by
  unfold execSpareLaneTest at hu
  cases hu
  simp [*]

theorem execFailedLinkLaneTest_kept (l : LinkId) (badLanes : Nat) (s : State) (hm : s.Kept ww) (u : State)
    (hu : execFailedLinkLaneTest l badLanes s = .next u) : u.Kept ww := by
  unfold execFailedLinkLaneTest at hu
  cases hu
  simp [*]

theorem execPowerManagerTick_kept (inputW : Nat) (rails : List (Die × Nat)) (estimate : List (Die × Nat)) (s : State) (hm : s.Kept ww) (u : State)
    (hu : execPowerManagerTick inputW rails estimate s = .next u) : u.Kept ww := by
  unfold execPowerManagerTick at hu
  cases hu
  simp [*]

theorem execDroopDetect_kept (t : Tile) (mv : Nat) (s : State) (hm : s.Kept ww) (u : State)
    (hu : execDroopDetect t mv s = .next u) : u.Kept ww := by
  unfold execDroopDetect at hu
  cases hu
  simp [*]

theorem execDroopRecovery_kept (t : Tile) (s : State) (hm : s.Kept ww) (u : State)
    (hu : execDroopRecovery t s = .next u) : u.Kept ww := by
  unfold execDroopRecovery at hu
  cases hu
  simp [*]

theorem execTileTempSample_kept (t : Tile) (quarterC : Int) (s : State) (hm : s.Kept ww) (u : State)
    (hu : execTileTempSample t quarterC s = .next u) : u.Kept ww := by
  unfold execTileTempSample at hu
  cases hu
  simp [*]

theorem execDieTempSample_kept (sill : Bool) (unit : Fin 16) (quarterC : Int) (s : State) (hm : s.Kept ww) (u : State)
    (hu : execDieTempSample sill unit quarterC s = .next u) : u.Kept ww := by
  unfold execDieTempSample at hu
  cases hu
  simp [*]

theorem execHbmTempSample_kept (k : Sill) (degC : Nat) (s : State) (hm : s.Kept ww) (u : State)
    (hu : execHbmTempSample k degC s = .next u) : u.Kept ww := by
  unfold execHbmTempSample at hu
  cases hu
  simp [*]

theorem execLpddrPatrolScrub_kept (h : HostDie) (pkg : Fin 16) (addr : Nat) (e : CodeErr) (passDone : Bool) (s : State) (hm : s.Kept ww) (u : State)
    (hu : execLpddrPatrolScrub h pkg addr e passDone s = .next u) : u.Kept ww := by
  unfold execLpddrPatrolScrub at hu
  cases hu
  simp [*]

theorem execArrayPatternTest_kept (t : Tile) (pass : Bool) (s : State) (hm : s.Kept ww) (u : State)
    (hu : execArrayPatternTest t pass s = .next u) : u.Kept ww := by
  unfold execArrayPatternTest at hu
  cases hu
  simp [*]

theorem execSuspicionExpiry_kept (t : Tile) (s : State) (hm : s.Kept ww) (u : State)
    (hu : execSuspicionExpiry t s = .next u) : u.Kept ww := by
  unfold execSuspicionExpiry at hu
  cases hu
  simp [*]

theorem execHostWarmReset_kept (s : State) (hm : s.Kept ww) (u : State)
    (hu : execHostWarmReset s = .next u) : u.Kept ww := by
  unfold execHostWarmReset at hu
  cases hu
  simp [*]

theorem execHostCoreRelease_kept (s : State) (hm : s.Kept ww) (u : State)
    (hu : execHostCoreRelease s = .next u) : u.Kept ww := by
  unfold execHostCoreRelease at hu
  cases hu
  simp [*]

theorem execHostReset_kept (q : IcralReq) (s : State) (hm : s.Kept ww) (u : State)
    (hu : execHostReset q s = .next u) : u.Kept ww := by
  unfold execHostReset at hu
  cases hu
  simp [*]

theorem execSbiSystemReset_kept (c : CoreId) (type : BitVec 32) (s : State) (hm : s.Kept ww) (u : State)
    (hu : execSbiSystemReset c type s = .next u) : u.Kept ww := by
  unfold execSbiSystemReset at hu
  cases hu
  simp [*]

theorem execHostWatchdogExpiry_kept (h : HostDie) (s : State) (hm : s.Kept ww) (u : State)
    (hu : execHostWatchdogExpiry h s = .next u) : u.Kept ww := by
  unfold execHostWatchdogExpiry at hu
  cases hu
  simp [*]

theorem execHwdogPeriodWrite_kept (h : HostDie) (v : BitVec 64) (auth : Auth) (s : State) (hm : s.Kept ww) (u : State)
    (hu : execHwdogPeriodWrite h v auth s = .next u) : u.Kept ww := by
  unfold execHwdogPeriodWrite at hu
  cases hu
  simp [*]

theorem execHwdogKick_kept (h : HostDie) (v : BitVec 64) (auth : Auth) (s : State) (hm : s.Kept ww) (u : State)
    (hu : execHwdogKick h v auth s = .next u) : u.Kept ww := by
  unfold execHwdogKick at hu
  cases hu
  simp [*]

theorem execStandbyPowerOn_kept (sill0Ok : Bool) (s : State) (hm : s.Kept ww) (u : State)
    (hu : execStandbyPowerOn sill0Ok s = .next u) : u.Kept ww := by
  unfold execStandbyPowerOn at hu
  cases hu
  simp [*]

theorem execStandbyPowerLoss_kept (s : State) (hm : s.Kept ww) (u : State)
    (hu : execStandbyPowerLoss s = .next u) : u.Kept ww := by
  unfold execStandbyPowerLoss at hu
  cases hu
  simp [*]

theorem execMainPowerValid_kept (s : State) (hm : s.Kept ww) (u : State)
    (hu : execMainPowerValid s = .next u) : u.Kept ww := by
  unfold execMainPowerValid at hu
  cases hu
  simp [*]

theorem execMainPowerLoss_kept (overV : Bool) (s : State) (hm : s.Kept ww) (u : State)
    (hu : execMainPowerLoss overV s = .next u) : u.Kept ww := by
  unfold execMainPowerLoss at hu
  cases hu
  simp [*]

theorem execMainStart_kept (s : State) (hm : s.Kept ww) (u : State)
    (hu : execMainStart s = .next u) : u.Kept ww := by
  unfold execMainStart at hu
  cases hu
  simp [*]

theorem execRstNAssert_kept (usec : Nat) (s : State) (hm : s.Kept ww) (u : State)
    (hu : execRstNAssert usec s = .next u) : u.Kept ww := by
  unfold execRstNAssert at hu
  cases hu
  simp [*]

theorem execRstNRelease_kept (s : State) (hm : s.Kept ww) (u : State)
    (hu : execRstNRelease s = .next u) : u.Kept ww := by
  unfold execRstNRelease at hu
  cases hu
  simp [*]

theorem execBootPhaseComplete_kept (ph : BootPhase) (s : State) (hm : s.Kept ww) (u : State)
    (hu : execBootPhaseComplete ph s = .next u) : u.Kept ww := by
  unfold execBootPhaseComplete at hu
  cases hu
  simp [*]

theorem execRefclkValid_kept (s : State) (hm : s.Kept ww) (u : State)
    (hu : execRefclkValid s = .next u) : u.Kept ww := by
  unfold execRefclkValid at hu
  cases hu
  simp [*]

theorem execRefclkLoss_kept (s : State) (hm : s.Kept ww) (u : State)
    (hu : execRefclkLoss s = .next u) : u.Kept ww := by
  unfold execRefclkLoss at hu
  cases hu
  simp [*]

theorem execRefclkLossTimeout_kept (s : State) (hm : s.Kept ww) (u : State)
    (hu : execRefclkLossTimeout s = .next u) : u.Kept ww := by
  unfold execRefclkLossTimeout at hu
  cases hu
  simp [*]

theorem execRefclkReturn_kept (s : State) (hm : s.Kept ww) (u : State)
    (hu : execRefclkReturn s = .next u) : u.Kept ww := by
  unfold execRefclkReturn at hu
  cases hu
  simp [*]

theorem execPpsEdge_kept (at_ : Nat) (s : State) (hm : s.Kept ww) (u : State)
    (hu : execPpsEdge at_ s = .next u) : u.Kept ww := by
  unfold execPpsEdge at hu
  cases hu
  simp [*]

theorem execPpsLockLoss_kept (s : State) (hm : s.Kept ww) (u : State)
    (hu : execPpsLockLoss s = .next u) : u.Kept ww := by
  unfold execPpsLockLoss at hu
  cases hu
  simp [*]

theorem execTimeSetWrite_kept (v : BitVec 64) (auth : Auth) (s : State) (hm : s.Kept ww) (u : State)
    (hu : execTimeSetWrite v auth s = .next u) : u.Kept ww := by
  unfold execTimeSetWrite at hu
  cases hu
  simp [*]

theorem execTimeSetExpiry_kept (s : State) (hm : s.Kept ww) (u : State)
    (hu : execTimeSetExpiry s = .next u) : u.Kept ww := by
  unfold execTimeSetExpiry at hu
  cases hu
  split <;> simp [*]

theorem execManagerHeartbeat_kept (s : State) (hm : s.Kept ww) (u : State)
    (hu : execManagerHeartbeat s = .next u) : u.Kept ww := by
  unfold execManagerHeartbeat at hu
  cases hu
  simp [*]

theorem execManagerHeartbeatTimeout_kept (standbyOk : Bool) (s : State) (hm : s.Kept ww) (u : State)
    (hu : execManagerHeartbeatTimeout standbyOk s = .next u) : u.Kept ww := by
  unfold execManagerHeartbeatTimeout at hu
  cases hu
  simp [*]

theorem execStandbyManagerLoss_kept (s : State) (hm : s.Kept ww) (u : State)
    (hu : execStandbyManagerLoss s = .next u) : u.Kept ww := by
  unfold execStandbyManagerLoss at hu
  cases hu
  simp [*]

theorem execMasonCoreTimeout_kept (d : Fin 58) (s : State) (hm : s.Kept ww) (u : State)
    (hu : execMasonCoreTimeout d s = .next u) : u.Kept ww := by
  unfold execMasonCoreTimeout at hu
  cases hu
  simp [*]

theorem execModuleReset_kept (q : IcralReq) (s : State) (hm : s.Kept ww) (u : State)
    (hu : execModuleReset q s = .next u) : u.Kept ww := by
  unfold execModuleReset at hu
  cases hu
  simp [*]

theorem execLifecycleTransition_kept (q : IcralReq) (s : State) (hm : s.Kept ww) (u : State)
    (hu : execLifecycleTransition q s = .next u) : u.Kept ww := by
  unfold execLifecycleTransition at hu
  cases hu
  simp [*]

theorem execLifecycleStageImage_kept (q : IcralReq) (s : State) (hm : s.Kept ww) (u : State)
    (hu : execLifecycleStageImage q s = .next u) : u.Kept ww := by
  unfold execLifecycleStageImage at hu
  cases hu
  simp [*]

theorem execImageStageDone_kept (ok : Bool) (s : State) (hm : s.Kept ww) (u : State)
    (hu : execImageStageDone ok s = .next u) : u.Kept ww := by
  unfold execImageStageDone at hu
  cases hu
  simp [*]

theorem execLifecycleActivateImage_kept (q : IcralReq) (s : State) (hm : s.Kept ww) (u : State)
    (hu : execLifecycleActivateImage q s = .next u) : u.Kept ww := by
  unfold execLifecycleActivateImage at hu
  cases hu
  simp [*]

theorem execLifecycleRecoveryBlock_kept (q : IcralReq) (s : State) (hm : s.Kept ww) (u : State)
    (hu : execLifecycleRecoveryBlock q s = .next u) : u.Kept ww := by
  unfold execLifecycleRecoveryBlock at hu
  cases hu
  simp [*]

theorem execLifecycleRecoveryCommit_kept (q : IcralReq) (s : State) (hm : s.Kept ww) (u : State)
    (hu : execLifecycleRecoveryCommit q s = .next u) : u.Kept ww := by
  unfold execLifecycleRecoveryCommit at hu
  cases hu
  simp [*]

theorem execTestAccessPortOperation_kept (op : TapOp) (s : State) (hm : s.Kept ww) (u : State)
    (hu : execTestAccessPortOperation op s = .next u) : u.Kept ww := by
  unfold execTestAccessPortOperation at hu
  cases hu
  simp [*]

theorem execTileSyncWrite_kept (t : Tile) (j : Slot) (c : Fin 64) (v : BitVec 32) (auth : Auth) (s : State) (hm : s.Kept ww) (u : State)
    (hu : execTileSyncWrite t j c v auth s = .next u) : u.Kept ww := by
  unfold execTileSyncWrite at hu
  cases hu
  simp [*]

theorem execTileSlotPauseWrite_kept (t : Tile) (v : BitVec 32) (auth : Auth) (s : State) (hm : s.Kept ww) (u : State)
    (hu : execTileSlotPauseWrite t v auth s = .next u) : u.Kept ww := by
  unfold execTileSlotPauseWrite at hu
  cases hu
  simp [*]

theorem execPanelSuspendWrite_kept (p : PanelId) (v : BitVec 32) (auth : Auth) (s : State) (hm : s.Kept ww) (u : State)
    (hu : execPanelSuspendWrite p v auth s = .next u) : u.Kept ww := by
  unfold execPanelSuspendWrite at hu
  cases hu
  simp [*]

theorem execTraceMark_kept (p : PanelId) (v : BitVec 64) (auth : Auth) (s : State) (hm : s.Kept ww) (u : State)
    (hu : execTraceMark p v auth s = .next u) : u.Kept ww := by
  unfold execTraceMark at hu
  cases hu
  simp [*]

theorem execIcrRingConfigWrite_kept (p : PanelId) (i : Fin 64) (r : IcrReg) (v : BitVec 64) (auth : Auth) (s : State) (hm : s.Kept ww) (u : State)
    (hu : execIcrRingConfigWrite p i r v auth s = .next u) : u.Kept ww := by
  unfold execIcrRingConfigWrite at hu
  cases hu
  simp [*]

theorem execModEvtCfgWrite_kept (v : BitVec 64) (auth : Auth) (s : State) (hm : s.Kept ww) (u : State)
    (hu : execModEvtCfgWrite v auth s = .next u) : u.Kept ww := by
  unfold execModEvtCfgWrite at hu
  cases hu
  simp [*]

theorem execEventLogDoorbell_kept (g : Option (PanelId × Fin 64)) (count : Count) (auth : Auth) (s : State) (hm : s.Kept ww) (u : State)
    (hu : execEventLogDoorbell g count auth s = .next u) : u.Kept ww := by
  unfold execEventLogDoorbell at hu
  cases hu
  split <;> simp [*]

theorem execHalt_kept (v : BitVec 32) (auth : Auth) (s : State) (hm : s.Kept ww) (u : State)
    (hu : execHalt v auth s = .next u) : u.Kept ww := by
  unfold execHalt at hu
  cases hu
  simp [*]

theorem execHaltRelease_kept (v : BitVec 32) (auth : Auth) (s : State) (hm : s.Kept ww) (u : State)
    (hu : execHaltRelease v auth s = .next u) : u.Kept ww := by
  unfold execHaltRelease at hu
  cases hu
  simp [*]

theorem execThaw_kept (v : BitVec 32) (auth : Auth) (s : State) (hm : s.Kept ww) (u : State)
    (hu : execThaw v auth s = .next u) : u.Kept ww := by
  unfold execThaw at hu
  cases hu
  simp [*]

theorem execSkimLive_kept (v : BitVec 32) (auth : Auth) (s : State) (hm : s.Kept ww) (u : State)
    (hu : execSkimLive v auth s = .next u) : u.Kept ww := by
  unfold execSkimLive at hu
  cases hu
  simp [*]

theorem execSkimHalted_kept (v : BitVec 32) (auth : Auth) (s : State) (hm : s.Kept ww) (u : State)
    (hu : execSkimHalted v auth s = .next u) : u.Kept ww := by
  unfold execSkimHalted at hu
  cases hu
  simp [*]

theorem execSkimComplete_kept (s : State) (hm : s.Kept ww) (u : State)
    (hu : execSkimComplete s = .next u) : u.Kept ww := by
  unfold execSkimComplete at hu
  cases hu
  simp [*]

theorem execRegisterReadClear_kept (addr : Nat) (wide : Bool) (auth : Auth) (s : State) (hm : s.Kept ww) (u : State)
    (hu : execRegisterReadClear addr wide auth s = .next u) : u.Kept ww := by
  unfold execRegisterReadClear at hu
  cases hu
  simp [*]

theorem execRegisterWrite_kept (addr : Nat) (wide : Bool) (v : BitVec 64) (auth : Auth) (s : State) (hm : s.Kept ww) (u : State)
    (hu : execRegisterWrite addr wide v auth s = .next u) : u.Kept ww := by
  unfold execRegisterWrite at hu
  cases hu
  simp [*]

theorem execInject_kept (q : IcralReq) (s : State) (hm : s.Kept ww) (u : State)
    (hu : execInject q s = .next u) : u.Kept ww := by
  unfold execInject at hu
  cases hu
  simp [*]

theorem execInjectDisarm_kept (q : IcralReq) (s : State) (hm : s.Kept ww) (u : State)
    (hu : execInjectDisarm q s = .next u) : u.Kept ww := by
  unfold execInjectDisarm at hu
  cases hu
  simp [*]

end Sys2Proof.Machine
end

