-- ==== Sys2Proof/Laws/Vector.lean ====
section
/-!
SUPPORT. The vector unit's work on a unit writes memory alone; how many moves a run is given does not matter once they
are enough.
-/
namespace Sys2Proof.Machine
open Sys2Proof

/-! ### Writes -/

/-- From `s` to `u` only memory and its poison may differ. -/
def State.MemOnly (s u : State) : Prop := ∃ a b c d, u = { s with mem := a, poison := b, injPoison := c, linePoison := d }

theorem State.MemOnly.refl (s : State) : s.MemOnly s := ⟨_, _, _, _, rfl⟩

theorem State.MemOnly.trans {s u v : State} (h : s.MemOnly u) (k : u.MemOnly v) : s.MemOnly v := by
  obtain ⟨_, _, _, _, rfl⟩ := h
  obtain ⟨_, _, _, _, rfl⟩ := k
  exact ⟨_, _, _, _, rfl⟩

theorem State.writeNat_memOnly (s : State) (n a v : Nat) : s.MemOnly (s.writeNat n a v) := ⟨_, _, _, _, rfl⟩

theorem MemOnly.foldl {α} (f : State → α → State) (hf : ∀ (s : State) a, s.MemOnly (f s a)) (l : List α) (s : State) :
    s.MemOnly (l.foldl f s) := by
  induction l generalizing s with
  | nil => exact .refl s
  | cons a l ih => exact (hf s a).trans (ih _)

theorem MemOnly.foldl₂ {α β} (f : State × β → α → State × β) (hf : ∀ (p : State × β) a, p.1.MemOnly (f p a).1) (l : List α)
    (p : State × β) : p.1.MemOnly (l.foldl f p).1 := by
  induction l generalizing p with
  | nil => exact .refl p.1
  | cons a l ih => exact (hf p a).trans (ih _)

theorem State.putCode_memOnly (s : State) (d b r j c : Nat) : s.MemOnly (s.putCode d b r j c) := ⟨_, _, _, _, rfl⟩

theorem State.putBlock_memOnly (s : State) (w : WorkCmd) (b : Nat) (cs : List Cell) : s.MemOnly (s.putBlock w b cs).1 := by
  unfold State.putBlock
  dsimp only
  split
  · exact MemOnly.foldl _ (fun s p => State.putCode_memOnly s _ _ _ _ _) _ s
  · exact (MemOnly.foldl _ (fun s p => State.putCode_memOnly s _ _ _ _ _) _ s).trans (State.writeNat_memOnly _ _ _ _)

theorem State.putElem_memOnly (s : State) (w : WorkCmd) (b o : Nat) (c : Cell) : s.MemOnly (s.putElem w b o c).1 := by
  unfold State.putElem; exact State.putCode_memOnly _ _ _ _ _ _

theorem State.putSparse_memOnly (s : State) (w : WorkCmd) (b r p : Nat) (vs : List Val) :
    s.MemOnly (s.putSparse w b r p vs).1 := by
  unfold State.putSparse
  exact ((State.writeNat_memOnly s _ _ _).trans (State.writeNat_memOnly _ _ _ _)).trans (State.writeNat_memOnly _ _ _ _)

theorem State.putRows_memOnly (s : State) (w : WorkCmd) (b : Nat) (rows : List (Nat × Nat × List Val)) :
    s.MemOnly (s.putRows w b rows).1 := by
  have h1 : ∀ bs, s.MemOnly (s.putBlocks w b bs).1 := fun bs => by
    unfold State.putBlocks
    refine MemOnly.foldl₂ _ (fun p c => ?_) bs (s, ({} : NFlags))
    exact State.putBlock_memOnly p.1 w b c
  have h2 : ∀ cs, s.MemOnly (s.putElems w b cs).1 := fun cs => by
    unfold State.putElems
    refine MemOnly.foldl₂ _ (fun p c => ?_) cs (s, ({} : NFlags))
    exact State.putElem_memOnly p.1 w b _ c
  unfold State.putRows
  dsimp only
  split
  · split
    · exact h1 _
    · exact h1 _
  · exact h2 _

theorem State.zmapUnit_memOnly (s : State) (a : Active) (u : Nat) : s.MemOnly (s.zmapUnit a u) := by
  unfold State.zmapUnit
  dsimp only
  split
  · split
    · exact State.writeNat_memOnly s _ _ _
    · exact MemOnly.foldl _ (fun s b => State.writeNat_memOnly s _ _ _) _ s
  · refine State.MemOnly.trans ?_ (MemOnly.foldl _ (fun s b => State.writeNat_memOnly s _ _ _) _ _)
    split
    · exact State.writeNat_memOnly s _ _ _
    · exact MemOnly.foldl _ (fun s b => State.writeNat_memOnly s _ _ _) _ s

/-- A unit's work changes memory alone. -/
theorem State.vecUnit_memOnly (s : State) (a : Active) (u : Nat) : s.MemOnly (s.vecUnit a u).1 := by
  unfold State.vecUnit
  dsimp only
  split
  · exact State.zmapUnit_memOnly ..
  · split
    · refine MemOnly.foldl₂ _ (fun p r => ?_) _ (s, _)
      refine MemOnly.foldl₂ _ (fun p v => ?_) _ p
      exact State.putSparse_memOnly _ _ _ _ _ _
    · exact State.putRows_memOnly ..

theorem State.MemOnly.tiles {s u : State} (h : s.MemOnly u) : u.tiles = s.tiles := by obtain ⟨_, _, _, _, rfl⟩ := h; rfl
theorem State.MemOnly.inj {s u : State} (h : s.MemOnly u) : u.inj = s.inj := by obtain ⟨_, _, _, _, rfl⟩ := h; rfl
theorem State.MemOnly.dbg {s u : State} (h : s.MemOnly u) : u.dbg = s.dbg := by obtain ⟨_, _, _, _, rfl⟩ := h; rfl

/-! ### The running command -/

/-- Replacing the running command's record by one that has not issued its last work leaves it the running command. -/
theorem Engine.current_putActive (e : Engine) (a b : Active) (h : e.current = some a) (hs : b.c.cmd.slot = a.c.cmd.slot)
    (hp : b.c.pos = a.c.pos) (hi : b.issued = false) : (e.putActive b).current = some b := by
  unfold Engine.current at h ⊢
  cases hr : e.running with
  | none => rw [hr] at h; cases h
  | some j =>
    rw [hr] at h
    show (e.putActive b).running.bind _ = _
    rw [show (e.putActive b).running = some j from hr]
    simp only [Option.bind_some, Engine.started] at h ⊢
    have hj := List.find?_some h
    simp only [Bool.and_eq_true, decide_eq_true_eq] at hj
    have hj1 : a.c.cmd.slot = j := hj.1
    show (e.active.map _).find? _ = _
    revert h
    generalize e.active = l
    induction l with
    | nil => intro h; cases h
    | cons x l ih =>
      intro h
      rw [List.map_cons, List.find?_cons]
      by_cases hx : x.c.cmd.slot = b.c.cmd.slot ∧ x.c.pos = b.c.pos
      · simp [hx, hs, hj1, hi]
      · rw [List.find?_cons] at h
        simp only [hx, if_false]
        split at h
        · cases h
          exact absurd ⟨hs.symm, hp.symm⟩ hx
        · next hn =>
          exact ih h

theorem State.engine_putActive (s : State) (t c : Nat) (a : Active) :
    (s.putActive t c a).engine t c = (s.engine t c).putActive a := (State.putActive_only s t c a).1

/-! ### Enough moves -/

/-- A vector command's run does the same with any number of moves that reaches its last unit. -/
theorem vecRun_enough (t : Nat) (n : Nat) : ∀ (s : State) (a : Active) (m : Nat), (s.engine t 1).current = some a →
    a.prog < vecUnits a.c.cmd → vecUnits a.c.cmd ≤ a.prog + n → n ≤ m → vecRun m t s = vecRun n t s := by
  induction n with
  | zero => intro s a m _ h1 h2; omega
  | succ n ih =>
    intro s a m hc h1 h2 h3
    obtain ⟨k, rfl⟩ : ∃ k, m = k + 1 := ⟨m - 1, by omega⟩
    rw [vecRun, vecRun]
    simp only [hc]
    split
    · rfl
    · split
      · rfl
      · split
        · rfl
        · next hlt =>
          split
          · rfl
          · refine ih _ { (a.gather (s.vecUnit a a.prog).2) with prog := a.prog + 1, chunkLen := a.chunkLen + vecUnitTime a.c.cmd } k ?_ ?_ ?_ (by omega)
            · rw [State.engine_putActive]
              refine Engine.current_putActive _ a _ ?_ rfl rfl ?_
              · rw [State.engine, State.tile, (State.vecUnit_memOnly s a a.prog).tiles]; exact hc
              · unfold Engine.current at hc
                cases hr : (s.engine t 1).running with
                | none => rw [hr] at hc; cases hc
                | some j =>
                  rw [hr] at hc
                  have := List.find?_some hc
                  simp at this
                  exact this.2
            · exact Nat.lt_of_not_le hlt
            · show vecUnits a.c.cmd ≤ a.prog + 1 + n; omega

end Sys2Proof.Machine
end

