-- ==== Sys2Proof/Laws/Mover.lean ====
section
/-!
SUPPORT. How a mover command whose work is all issued ends its chunk and finishes.
-/
namespace Sys2Proof.Machine
open Sys2Proof

theorem Engine.putActive_putActive (e : Engine) (a b : Active) (hs : b.c.cmd.slot = a.c.cmd.slot) (hp : b.c.pos = a.c.pos) :
    (e.putActive a).putActive b = e.putActive b := by
  unfold Engine.putActive
  dsimp only
  rw [List.map_map]
  congr 1
  apply List.map_congr_left
  intro x _
  simp only [Function.comp]
  by_cases h : x.c.cmd.slot = a.c.cmd.slot ∧ x.c.pos = a.c.pos
  · simp [h, hs, hp]
  · have : ¬ (x.c.cmd.slot = b.c.cmd.slot ∧ x.c.pos = b.c.pos) := by rw [hs, hp]; exact h
    simp [h]

theorem State.putActive_putActive (s : State) (t c : Nat) (a b : Active) (hs : b.c.cmd.slot = a.c.cmd.slot)
    (hp : b.c.pos = a.c.pos) : (s.putActive t c a).putActive t c b = s.putActive t c b := by
  simp only [State.putActive_eq, State.modEngine_eq, State.setEngine_eq, State.engine, State.tile_setTile, Table.get_set_self,
    State.setTile_setTile, Table.set_set, Engine.putActive_putActive _ a b hs hp]

theorem current_mem {e : Engine} {a : Active} (h : e.current = some a) :
    e.running = some a.c.cmd.slot ∧ a.issued = false ∧ a ∈ e.active := by
  unfold Engine.current at h
  cases hr : e.running with
  | none => rw [hr] at h; cases h
  | some j =>
    rw [hr] at h
    have h1 := List.find?_some h
    simp only [Bool.and_eq_true, decide_eq_true_eq, Bool.not_eq_true'] at h1
    exact ⟨by rw [h1.1], h1.2, List.mem_of_find?_eq_some h⟩

/-- A record just put among the started commands is found by its slot and position. -/
theorem Engine.find_putActive (e : Engine) (a b : Active) (ha : a ∈ e.active) (hs : b.c.cmd.slot = a.c.cmd.slot)
    (hp : b.c.pos = a.c.pos) : (e.putActive b).find a.c.cmd.slot a.c.pos = some b := by
  unfold Engine.find Engine.putActive
  dsimp only
  revert ha
  generalize e.active = l
  induction l with
  | nil => intro h; cases h
  | cons x l ih =>
    intro h
    rw [List.map_cons, List.find?_cons]
    by_cases hx : x.c.cmd.slot = b.c.cmd.slot ∧ x.c.pos = b.c.pos
    · simp [hx, hs, hp]
    · have h1 : a ∈ l := by
        rcases List.mem_cons.mp h with rfl | h
        · exact absurd ⟨hs.symm, hp.symm⟩ hx
        · exact h
      have h2 : (decide (x.c.cmd.slot = a.c.cmd.slot) && decide (x.c.pos = a.c.pos)) = false := by
        rw [hs, hp] at hx
        simpa using hx
      rw [if_neg hx, h2]
      exact ih h1

/-- A mover command of an opcode that writes nothing at its end (every one but RB_READ, and MV_EXPAND once all its bricks
are written) whose work is all issued and answered finishes. -/
theorem State.issueWork_end (s : State) (t : Nat) (a : Active) (hc : (s.engine t 2).current = some a) (hp : a.plan = some [])
    (ht : (s.tile t).txns.any (fun x => x.slot = a.c.cmd.slot && x.pos = a.c.pos) = false) (hd : a.done = false)
    (ho : a.c.cmd.op ≠ 0x8D) (hb : a.c.cmd.op = 0x81 → a.brick = expandTotal a.c.cmd) :
    s.issueWork t a = s.setEngine t 2 { (s.engine t 2).putActive { a.finish with bytes := [], elems := [] } with running := none } := by
  obtain ⟨hr, -, hm⟩ := current_mem hc
  have h0 : s.issueWork t a = ((s.putActive t 2 { a with issued := true }).stopMover t a.c.cmd.slot).finishMove t a.c.cmd.slot a.c.pos := by
    unfold State.issueWork
    dsimp only
    split
    · next h => rw [hp] at h; cases h
    · rfl
    · next h => rw [hp] at h; cases h
  have e1 : ((s.putActive t 2 { a with issued := true }).stopMover t a.c.cmd.slot) =
      s.setEngine t 2 { (s.engine t 2).putActive { a with issued := true } with running := none } := by
    simp only [State.stopMover, State.putActive_eq, State.modEngine_eq, State.setEngine_eq, State.engine, State.tile_setTile,
      Table.get_set_self, State.setTile_setTile, Table.set_set]
    congr 3
    unfold Engine.stop
    rw [if_pos (show ((Table.get (s.tile t).eng {} 2).putActive { a with issued := true }).running = _ from hr)]
  have e2 : ((s.setEngine t 2 { (s.engine t 2).putActive { a with issued := true } with running := none }).engine t 2).find
      a.c.cmd.slot a.c.pos = some { a with issued := true } := by
    have := Engine.find_putActive (s.engine t 2) a { a with issued := true } hm rfl rfl
    simp only [State.setEngine_eq, State.engine, State.tile_setTile, Table.get_set_self]
    exact this
  have e3 : ((s.setEngine t 2 { (s.engine t 2).putActive { a with issued := true } with running := none }).tile t).txns = (s.tile t).txns := by
    simp [State.setEngine_eq]
  have e4 : ¬ (a.c.cmd.op = 129 ∧ a.brick ≠ expandTotal a.c.cmd) := fun h => h.2 (hb h.1)
  have e5 : ¬ (!true || a.done || (s.tile t).txns.any (fun x => x.slot = a.c.cmd.slot && x.pos = a.c.pos)) = true := by
    rw [ht, hd]; decide
  rw [h0, e1]
  unfold State.finishMove
  rw [e2]
  dsimp only
  rw [e3, if_neg e5, if_neg e4, if_neg ho]
  dsimp only
  simp only [State.putActive_eq, State.modEngine_eq, State.setEngine_eq, State.engine, State.tile_setTile, Table.get_set_self,
    State.setTile_setTile, Table.set_set]
  congr 3
  exact Engine.putActive_putActive { (Table.get (s.tile t).eng {} 2) with running := none } { a with issued := true }
    { a.finish with bytes := [], elems := [] } rfl rfl

/-- A mover command whose work is all issued but not all answered waits, and leaves the mover free. -/
theorem State.issueWork_wait (s : State) (t : Nat) (a : Active) (hc : (s.engine t 2).current = some a) (hp : a.plan = some [])
    (ht : (s.tile t).txns.any (fun x => x.slot = a.c.cmd.slot && x.pos = a.c.pos) = true) :
    s.issueWork t a = s.setEngine t 2 { (s.engine t 2).putActive { a with issued := true } with running := none } := by
  obtain ⟨hr, -, hm⟩ := current_mem hc
  have h0 : s.issueWork t a = ((s.putActive t 2 { a with issued := true }).stopMover t a.c.cmd.slot).finishMove t a.c.cmd.slot a.c.pos := by
    unfold State.issueWork
    dsimp only
    split
    · next h => rw [hp] at h; cases h
    · rfl
    · next h => rw [hp] at h; cases h
  have e1 : ((s.putActive t 2 { a with issued := true }).stopMover t a.c.cmd.slot) =
      s.setEngine t 2 { (s.engine t 2).putActive { a with issued := true } with running := none } := by
    simp only [State.stopMover, State.putActive_eq, State.modEngine_eq, State.setEngine_eq, State.engine, State.tile_setTile,
      Table.get_set_self, State.setTile_setTile, Table.set_set]
    congr 3
    unfold Engine.stop
    rw [if_pos (show ((Table.get (s.tile t).eng {} 2).putActive { a with issued := true }).running = _ from hr)]
  have e2 : ((s.setEngine t 2 { (s.engine t 2).putActive { a with issued := true } with running := none }).engine t 2).find
      a.c.cmd.slot a.c.pos = some { a with issued := true } := by
    have := Engine.find_putActive (s.engine t 2) a { a with issued := true } hm rfl rfl
    simp only [State.setEngine_eq, State.engine, State.tile_setTile, Table.get_set_self]
    exact this
  have e3 : ((s.setEngine t 2 { (s.engine t 2).putActive { a with issued := true } with running := none }).tile t).txns = (s.tile t).txns := by
    simp [State.setEngine_eq]
  rw [h0, e1]
  unfold State.finishMove
  rw [e2]
  dsimp only
  rw [e3, ht]
  simp

end Sys2Proof.Machine
end

