-- ==== Sys2Proof/WellFormed.lean ====
section
/-!
DEFINITION. Which commands are well formed: every operand lies in the field or range the spec gives it.
-/
namespace Sys2Proof

/-- Physical addresses have 52 bits (R281). -/
def addrOk (a : Nat) : Bool := decide (a < 2 ^ 52)

/-- R77, R83, R311: a request names 1 to 4,096 B inside the address space; an atomic is 4 B or 8 B, aligned to its size
(R354), with operands of that width. -/
def MemOp.ok (a : Nat) : MemOp → Bool
  | .read n => decide (1 ≤ n ∧ n ≤ 4096 ∧ a + n ≤ 2 ^ 52)
  | .write d => decide (1 ≤ d.length ∧ d.length ≤ 4096 ∧ a + d.length ≤ 2 ^ 52)
  | .atomic _ w o c =>
    let n := if w then 8 else 4
    decide (a + n ≤ 2 ^ 52 ∧ o < 2 ^ (8 * n) ∧ c < 2 ^ (8 * n))

def MemReq.ok (r : MemReq) : Bool := r.op.ok r.addr

/-- A line number of the coherent space. -/
def lineOk (l : Nat) : Bool := decide (l < 2 ^ 46)

def dataOk (d : Nat) : Bool := decide (d < 2 ^ 512)

def SnoopRsp.ok : SnoopRsp → Bool
  | .invData d | .shrData d => dataOk d
  | _ => true

def Grant.ok : Grant → Bool
  | .shared d | .exclusive d => dataOk d
  | .upgraded => true

/-- Table 11.2: elements of 48 bits (kind 1) or 32 bits (kind 0) of a transaction of at most 4,096 B, a 10-bit maximum exponent. -/
def CaccPacket.ok (p : CaccPacket) : Bool :=
  addrOk p.addr && decide (1 ≤ p.vals.length ∧ p.vals.length ≤ 1024 ∧ -512 ≤ p.cmaxe ∧ p.cmaxe ≤ 511) &&
    p.vals.all (fun v => decide (v < if p.kind1 then 2 ^ 48 else 2 ^ 32))

/-- Table 12.2: a header of 48 B and a payload of at most 8,191 B (LEN). -/
def CourseFrame.ok (f : CourseFrame) : Bool := decide (f.hdr < 2 ^ 384 ∧ f.payload.length < 2 ^ 13)

/-- R522: an IPv4 UDP fragment. -/
def Datagram.ok (d : Datagram) : Bool := decide (d.offset < 2 ^ 16 ∧ d.offset % 8 = 0 ∧ d.bytes.length ≤ 65515)

/-- Table 16.4: parameters of PLEN bytes, at most 4,096. -/
def IcralReq.ok (q : IcralReq) : Bool := decide (q.plen ≤ 4096 ∧ q.params < 2 ^ (8 * q.plen))

/-- A 4 B register write carries a 32-bit value; MMIO accesses are aligned to their size (R503). -/
def regOk (a : Nat) (wide : Bool) : Bool := decide (a < 2 ^ 52 ∧ a % (if wide then 8 else 4) = 0)

/-- Links that exist: a mortar link of an edge, or one of the three UCIe links of a ring position (Table 8.6). -/
def LinkId.ok : LinkId → Bool
  | .mortar .. => true
  | .ucie pos k => decide (pos.val < 16 ∨ 1 ≤ k.val)

/-- A temperature code of 12 bits in quarters of a degree (Table 3.8). -/
def tempOk (q : Int) : Bool := decide (-2048 ≤ q ∧ q < 2048)

def WellFormed : Instr → Bool
  | .remoteAgentRequest _ r _ | .sillHbmRequest _ r _ | .homeNoncohAccess _ r _ => r.ok
  | .homeAtomic _ r => r.ok && (match r.op with | .atomic .. => true | _ => false)
  | .caccReceive p => p.ok
  | .stagedRead _ _ a n _ => decide (1 ≤ n ∧ n ≤ 4096) && addrOk (a + n)
  | .stagingFillComplete _ l => decide (l < 2 ^ 29)
  | .cohReq _ l _ _ _ | .cacheSnoop _ l _ | .sliceSnoop _ l _ | .homeSnoopResend _ l _ | .cacheHoldExpiry _ l
  | .cohNackReceive _ l _ | .cohRetry _ l | .writebackAckReceive _ l | .homeMemoryReadDone _ l => lineOk l
  | .writeback _ l _ d => lineOk l && dataOk d
  | .sliceSnoopRsp _ l _ r | .homeSnoopRsp _ l _ r => lineOk l && r.ok
  | .cohGrantReceive _ l g => lineOk l && g.ok
  | .reservationExpiry _ r => (match r with | .line l => lineOk l | .table => true | .set n => decide (n < 2 ^ 16))
  | .pcieInboundRequest _ _ a op _ _ => decide (a < 2 ^ 64) && op.ok 0
  | .courseDataReceive _ f | .courseAckReceive _ f | .voteFrameReceive _ f | .courseAbortReceive _ f => f.ok
  | .ethFrameReceive _ f => decide (14 ≤ f.bytes.length ∧ f.bytes.length ≤ 9600)
  | .mgmtDatagramReceive d => d.ok
  | .idQuery q | .setModuleId q | .statusQuery q | .telemetry q | .setPowerLimit q | .setFabric q | .hostReset q
  | .moduleReset q | .lifecycleTransition q | .lifecycleStageImage q | .lifecycleActivateImage q
  | .lifecycleRecoveryBlock q | .lifecycleRecoveryCommit q | .panelCreate q | .panelDestroy q | .panelReset q
  | .grant q | .grantRevoke q | .keepDefine q | .keepRelease q | .keepAssign q | .keepUnassign q | .poolMap q
  | .poolUnmap q | .staging q | .ringConfig q | .segment q | .segmentRead q | .window q | .windowRead q
  | .rtableWrite q | .rtableRead q | .rtableArm q | .coursePort q | .mgmtNet q | .jobStart q | .jobEnd q
  | .inject q | .injectDisarm q => q.ok
  | .registerReadClear a w _ => regOk a w
  | .registerWrite a w v _ => regOk a w && (w || decide (v.toNat < 2 ^ 32))
  | .linkFlitReceive l _ c => l.ok && decide (c < 2 ^ 960)
  | .linkReplayTimeout l | .linkRetrainComplete l | .spareLaneTest l _ => l.ok
  | .linkRetrain l b | .failedLinkLaneTest l b => l.ok && decide (b ≤ 66)
  | .tileTempSample _ q | .dieTempSample _ _ q => tempOk q
  | .hbmTempSample _ t => decide (t < 256)
  | .lpddrPatrolScrub _ _ a _ _ => addrOk a
  | .droopDetect _ mv => decide (mv < 4096)
  | .ppsEdge a => decide (a < 2 ^ 64)
  | _ => true

end Sys2Proof
end

