-- ==== Sys2Proof/Tests/Slice0.lean ====
section
/-!
SUPPORT. Tests: a term that each check of WellFormed refuses; for each statement with hypotheses, states and operands that meet
them (test_meets_…); for each family, commands whose results the spec's tables and worked values give.
-/
namespace Sys2Proof.Tests
open Sys2Proof Sys2Proof.Machine

/-! ### Small states -/

/-- A module in Ready: supplies and reference valid, rails up, links trained. -/
def up : Boot :=
  { p12 := true, p54 := true, charged := true, ref := 1, mstate := 1, phase := 9, started := true, trained := true, rails := true }

/-- Panel 0 in service on column band 0, its slot 0 running a job. -/
def pan : Panel := { state := 2, wb := 1, jobs := [(0, { jstate := 1 })] }

def base : State := { boot := up, panels := [(0, pan)] }

/-- `base` with an engine of tile 0. -/
def withEng (c : Nat) (e : Engine) : State := { base with tiles := [(0, { eng := [(c, e)] })] }

/-- A started command of slot 0 with header `hdr`. -/
def act (hdr : Nat) (d0 : Nat := 0) : Active := { c := { cmd := { hdr := hdr, d0 := d0 } } }

theorem test_meets_StepRunsTheFrontCommand :
    ({ base with pending := [.refclkValid] } : State).pending = .refclkValid :: [] := by decide

theorem test_meets_StepTakesOnlyTheFrontCommand :
    (∃ u, step { base with pending := [.refclkValid] } = .next u) ∧ State.reset.pending = [] := ⟨⟨_, rfl⟩, by decide⟩

theorem test_meets_StepKeepsMemoryCanonical :
    Memory.wf ({ base with mem := [(5, 1)] } : State).mem = true ∧ ∃ u, step { base with mem := [(5, 1)] } = .next u :=
  ⟨by decide, ⟨_, rfl⟩⟩

/-- 64 raises are the most. -/
theorem test_meets_StepNeverLowersMinsvnOrMepoch :
    ({ base with boot := { up with raises := 64 } } : State).boot.raises ≤ 64 ∧
    ∃ u, step { base with boot := { up with raises := 64 } } = .next u := ⟨by decide, ⟨_, rfl⟩⟩

theorem test_meets_LifeCycleCodesStayLegal :
    ({ base with boot := { up with lcs := 4 } } : State).boot.codesLegal ∧
    (({ base with boot := { up with lcs := 4 } } : State).boot.lcs = 4 ∧
      ({ base with boot := { up with lcs := 4 } } : State).boot.target = none) ∧
    ∃ u, step { base with boot := { up with lcs := 4 } } = .next u :=
  ⟨⟨by decide, by decide, fun _ h => by cases h⟩, by decide, ⟨_, rfl⟩⟩

theorem test_meets_NopFenceCskipFinish :
    (withEng 0 { active := [act 0] }).halted = false ∧
    ((withEng 0 { active := [act 0] }).engine 0 0).control 0 = some (act 0) ∧
    ((withEng 2 { active := [act 1] }).engine 0 2).active.find?
      (fun a => a.c.cmd.op = 1 && !a.issued && (withEng 2 { active := [act 1] }).fenceMet 0 a) = some (act 1) ∧
    ((withEng 1 { active := [act 2 255] }).engine 0 1).control 2 = some (act 2 255) := by decide

/-- Tile 0 of a panel with trace on for slot 0, its trace ring enabled with one entry free. -/
def traced : State :=
  { withEng 0 { active := [act 3] } with
    panels := [(0, { pan with trcCtl := 1 })]
    rings := [(261121, { en := true, log2 := 6, base := 0x100000000000, tail := 63 })] }

theorem test_meets_MarkerWritesItsRecord :
    (withEng 0 { active := [act 3] }).halted = false ∧
    ((withEng 0 { active := [act 3] }).engine 0 0).control 3 = some (act 3) ∧
    (withEng 0 { active := [act 3] }).tilePanel 0 = some 0 ∧
    bit ((withEng 0 { active := [act 3] }).panel 0).trcCtl (act 3).c.cmd.slot = false ∧
    traced.halted = false ∧ (traced.engine 0 0).control 3 = some (act 3) ∧ traced.tilePanel 0 = some 0 ∧
    bit (traced.panel 0).trcCtl (act 3).c.cmd.slot = true ∧ (traced.panel 0).traceRing 0 (tileSpan 0) = 261121 ∧
    (traced.ring 261121).en = true ∧ (traced.ring 261121).full = false ∧ (traced.ring 261121).lost = 0 ∧
    isCoherent ((traced.ring 261121).entryAddr (traced.ring 261121).tail) = false := by decide

/-- Ring 0 of tile 0, of 64 entries, HEAD 4, TAIL 6. -/
def rung : State := { base with rings := [(0, { en := true, log2 := 6, base := 0x100000000000, head := 4, tail := 6 })] }

/-- DOORBELL values at the edges of R204's cases: TAIL itself, one below it, 64 past HEAD, 65 past HEAD. -/
theorem test_meets_DoorbellRule :
    rung.halted = false ∧ reaches .owner (rung.ringOwner 0).panel = true ∧ rung.modulesOwn 0 .owner = false ∧
    (rung.ring 0).en = true ∧ isTraceRing 0 = false ∧ (6 : Count) = (rung.ring 0).tail ∧
    0x80000000 ≤ ((5 : Count) - (rung.ring 0).tail).toNat ∧
    ((68 : Count) ≠ (rung.ring 0).tail ∧ ((68 : Count) - (rung.ring 0).tail).toNat < 0x80000000 ∧
      ((68 : Count) - (rung.ring 0).head).toNat ≤ 2 ^ (rung.ring 0).log2) ∧
    ((69 : Count) ≠ (rung.ring 0).tail ∧ ((69 : Count) - (rung.ring 0).tail).toNat < 0x80000000 ∧
      2 ^ (rung.ring 0).log2 < ((69 : Count) - (rung.ring 0).head).toNat) ∧
    (rung.ringOwner 0).job = some (0, 0) ∧ isMailbox 0 = false ∧ (rung.job 0 0).jstate = 1 ∧
    (rung.job 0 0).faulted = false ∧ countsStale 0 = true ∧ (rung.ringOwner 0).panel = some 0 := by decide

theorem test_meets_RingFetchTakesTheNextEntries :
    base.ringLive 0 = false ∧ rung.ringLive 0 = true ∧ (rung.ring 0).fetchCount = 2 ∧
    (∀ n, (rung.ringOwner 0).unit ≠ .port n) ∧
    (∀ i, i < 2 → rung.readResp ((rung.ring 0).entryAddr ((rung.ring 0).head + BitVec.ofNat 32 i)) 64 = .ok ∧
      isCoherent ((rung.ring 0).entryAddr ((rung.ring 0).head + BitVec.ofNat 32 i)) = false) := by decide

/-- Ring 0 holds a fetched NOP; the pointer stands at slot `k`. -/
def ready (k : Nat) (hdr : Nat := 0) (x : Option (Nat × Bool) := none) : State :=
  { withEng 0 { selPtr := k, xlat := x } with
    rings := [(0, { en := true, log2 := 6, base := 0x100000000000, tail := 1, fetched := [hdr] })] }

theorem test_meets_SequencerSelectsInRotation :
    (ready 1).eligible 0 0 ((1 + 7) % 8) = some false ∧
    (∀ i, i < 7 → (ready 1).eligible 0 0 ((1 + i) % 8) ≠ some false) ∧ ((ready 1).engine 0 0).xlat = none ∧
    (∀ k, k < 8 → (ready 1).eligible 0 0 k ≠ some true) ∧
    (ready 0 0x100 (some (3, false))).eligible 0 0 0 = some true ∧
    ((ready 0 0x100 (some (3, false))).engine 0 0).xlat = some (3, false) := by decide

theorem test_meets_TranslationMovesTheCommand :
    let s := ready 0 0 (some (0, false))
    s.halted = false ∧ (s.engine 0 0).xlat = some (0, false) ∧ s.tilePanel 0 = some 0 ∧
    (s.ring (tileRing 0 0 0)).headCmd = some {} ∧ s.translate 0 0 0 0 {} = .ok {} {} {} ∧
    ({} : WorkCmd).waitEn = false ∧ ({} : WorkCmd).slot = 0 ∧ (s.engine 0 0).oldest 0 = none :=
  ⟨by decide, by decide, by decide, by decide, rfl, by decide, by decide, by decide⟩

/-- Opcode 0xFF is none of Table 7.9's. -/
theorem test_meets_BadTranslationEndsTheJob :
    let s := ready 0 0xFF (some (0, false))
    s.halted = false ∧ (s.engine 0 0).xlat = some (0, false) ∧ s.tilePanel 0 = some 0 ∧
    (s.ring (tileRing 0 0 0)).headCmd = some { hdr := 0xFF } ∧
    (∀ oa ob oc, s.translate 0 0 0 0 { hdr := 0xFF } ≠ .ok oa ob oc) ∧ (s.job 0 0).jstate = 1 ∧
    (s.job 0 0).faulted = false :=
  have h : (ready 0 0xFF (some (0, false))).translate 0 0 0 0 { hdr := 0xFF } = .malformed 2 := by decide
  ⟨by decide, by decide, by decide, by decide, fun _ _ _ e => Xlat.noConfusion (h.symm.trans e), by decide, by decide⟩

/-- One command in the FIFO of tile 0's array engine, its ring about to skip `k` commands. -/
def queued (hdr k : Nat) : State :=
  { withEng 0 { normal := [{ cmd := { hdr := hdr } }] } with rings := [(0, { cskip := k })] }

theorem test_meets_EngineTakesTheReadyCommand :
    (∀ h ∈ [(0, 255), (0x10, 0), (0, 0), (2 ^ 88, 0)], let s := queued h.1 h.2
      let x : Cmd := { cmd := { hdr := h.1 } }
      s.halted = false ∧ (s.engine 0 0).running = none ∧ (s.tile 0).patternDue = false ∧ (s.tile 0).retire = false ∧
      (s.engine 0 0).urgent = [] ∧ (s.engine 0 0).normal = [x] ∧ (s.engine 0 0).active = [] ∧ x.noted ≠ 1 ∧
      x.cmd.urg = false ∧ (s.tile 0).waitMet x.cmd = true ∧ s.tilePanel 0 = some 0 ∧
      (s.panel 0).susp.getLsbD x.cmd.slot = false ∧ bit (s.panel 0).trcCtl x.cmd.slot = false) ∧
    0 < ((queued 0 255).ring 0).cskip ∧
    (let w : WorkCmd := { hdr := 0x10 }; w.condSrc = 0 ∧ isControlOp w.op = false ∧ isWsOp w.op = false) ∧
    (let w : WorkCmd := {}; w.condSrc = 0 ∧ isControlOp w.op = true) ∧
    (let w : WorkCmd := { hdr := 2 ^ 88 }; w.condSrc = 1 ∧
      ((((queued (2 ^ 88) 0).tile 0).ctr 0 (w.condArg % 64)).val.toNat = 0 ↔ w.condZ = false)) := by decide

/-- MM of M 64, N 32 and one K-block of format 1 without scales, set to run on tile 0's array. -/
def mmCmd (op : Nat) : Active :=
  { c := { cmd := { hdr := op, d0 := 2 ^ 48 + 63 * 2 ^ 64, d1 := 2 ^ 48 + 31 * 2 ^ 64, d2 := 2 ^ 48 + 31 * 2 ^ 64 },
           a := { addr := winAddr 0 0 }, b := { addr := winAddr 0 0x1000 }, c := { addr := winAddr 0 0x2000 } }, effM := 64 }

/-- The command running on tile 0's array in state `x`. -/
def onArray (a : Active) (x : ArrayS) : State :=
  { base with tiles := [(0, { eng := [(0, { running := some 0, active := [a] })], arr := x })] }

/-- `n` entries in feeder 31 of the rows and of the columns. -/
def fed (n : Nat) : ArrayS :=
  { rowFeed := [(31, (List.range n).map (fun i => { step := i }))], colFeed := [(31, (List.range n).map (fun i => { step := i }))] }

/-- An empty feeder, one with a step left to take, and full ones. -/
theorem test_meets_FeederFillTakesTheNextStep :
    let s := onArray (mmCmd 0x10) {}
    let u := onArray (mmCmd 0x10) (fed 8)
    s.noInjection ∧ s.halted = false ∧ (s.engine 0 0).current = some (mmCmd 0x10) ∧ isArrayOp (mmCmd 0x10).c.cmd.op = true ∧
    isWsOp (mmCmd 0x10).c.cmd.op = false ∧
    (let ks := ((s.groupSteps 0 (mmCmd 0x10) (mmCmd 0x10).grp).map (entryKey (mmCmd 0x10).grp)).filter
        (fun k => decide ((mmCmd 0x10).prog ≤ k)); ks = [0, 1] ∧ nextKey (((s.tile 0).arr).rowFeed.get [] 31) ks = some 0 ∧
      nextKey (((s.tile 0).arr).colFeed.get [] 31) (colKeys ks) = some 0 ∧
      nextKey (((onArray (mmCmd 0x10) (fed 1)).tile 0).arr.rowFeed.get [] 31) ks = some 1) ∧
    (s.tile 0).arr.held = [] ∧ u.noInjection ∧ u.halted = false ∧ (u.engine 0 0).current = some (mmCmd 0x10) ∧
    8 ≤ (((u.tile 0).arr).rowFeed.get [] 31).length ∧ 8 ≤ (((u.tile 0).arr).colFeed.get [] 31).length := by
  refine ⟨rfl, by decide, by decide, by decide, by decide, by decide, by decide, rfl, ?_⟩; decide

/-- Every feeder's head is the entry of step 0; the group of two sub-blocks has set 0. -/
def headsUp : ArrayS :=
  { grp := some (0, [0, 0]), rowFeed := (List.range 32).map (fun i => (i, [{}])), colFeed := (List.range 32).map (fun i => (i, [{}])) }

theorem test_meets_ArrayStepUpdatesTheAccumulators :
    let s := onArray (mmCmd 0x10) headsUp
    s.halted = false ∧ (s.engine 0 0).current = some (mmCmd 0x10) ∧ s.planStep 0 (mmCmd 0x10) = .step 0 0 ∧
    (s.tile 0).arr.grp = some (0, [0, 0]) ∧ (s.tile 0).arr.rowHeads (progAt 0 0) = some (List.replicate 32 {}) ∧
    (s.tile 0).arr.colHeads (entryKey 0 (0 / 4)) = some (List.replicate 32 {}) ∧
    entriesFault (List.replicate 32 ({} : FeedEntry) ++ List.replicate 32 ({} : FeedEntry)) = none ∧
    (s.groupSteps 0 { mmCmd 0x10 with prog := progAt 0 1 } 0).any (fun k => decide (0 < k)) = true := by decide

/-- WS8 of N 32 and 8 K-blocks in two passes of 4, its slot mask at offset 0 of SRAM. -/
def wsCmd : Active :=
  { c := { cmd := { hdr := 0x14, d0 := 2 ^ 48 + 7 * 2 ^ 77, d1 := 2 ^ 48 + 31 * 2 ^ 64 + 7 * 2 ^ 77, d2 := 2 ^ 48, ext := some (4 * 2 ^ 288) } }, mask := 1 }

theorem test_meets_WeightLoadFillsThePass :
    let s := onArray wsCmd {}
    s.noInjection ∧ s.halted = false ∧ (s.engine 0 0).current = some wsCmd ∧ isWsOp wsCmd.c.cmd.op = true ∧
    (s.tile 0).arr.wts = [] ∧ wsCmd.grp = 0 ∧ wsCmd.c.cmd.passes = 2 ∧ (s.tile 0).arr.drains = [] ∧
    entriesFault [joinReads ((List.range wsCmd.c.cmd.n).map (fun n => s.wsWeights wsCmd 0 n)) 0] = none ∧
    (let v := onArray wsCmd { wts := [(0, [])] }; v.noInjection ∧ (v.engine 0 0).current = some wsCmd ∧ (v.tile 0).arr.wts.getLast? = some (0, []) ∧ (v.tile 0).arr.wts.length = 1 ∧
      wsCmd.fitsHalf 0 = true ∧ wsCmd.fitsHalf 1 = true ∧
      entriesFault [joinReads ((List.range wsCmd.c.cmd.n).map (fun n => v.wsWeights wsCmd 1 n)) 0] = none) := by
  refine ⟨rfl, by decide, by decide, by decide, by decide, by decide, by decide, by decide, by decide, rfl, ?_⟩; decide

/-- The first drain, past its first two rows. -/
theorem test_meets_DrainWritesTwoRows :
    let d : Drain := { subs := 2, nU := [1, 1], next := 1 }
    let s := onArray { mmCmd 0x10 with issued := true } { drains := [d] }
    let a := { mmCmd 0x10 with issued := true }
    s.halted = false ∧ (s.tile 0).arr.drains = [d] ∧ s.drainCmd 0 d = some a ∧ d.ws = false ∧ d.next % 16 ≠ 0 ∧
    d.next % 16 ≠ 15 ∧ d.next + 1 < 16 * d.subs ∧
    s.rowPoison a.c.cmd a.c.c.addr 2 0 = none ∧ s.rowPoison a.c.cmd a.c.c.addr 3 0 = none := by decide

/-- MM past the last step of its only group, and WS8 at its last pass with no active token. -/
def emptyMm : Active := { mmCmd 0x10 with prog := progAt 0 8 }
def lastWs : Active := { wsCmd with mask := 0, prog := progAt 1 0 }

/-- The move of each that ends the chunk. -/
theorem test_meets_ArrayRowsRunTheirCommand :
    (((onArray emptyMm {}).squareMove 0 emptyMm).engine 0 0).current = none ∧
    (((onArray lastWs { wts := [(1, [])] }).wsMove 0 lastWs).engine 0 0).current = none ∧
    (0x10, Instr.mm 0) ∈ squareRows 0 ∧ (0x14, Instr.ws8 0) ∈ wsRows 0 ∧ (base.engine 0 0).current = none ∧
    (onArray emptyMm {}).halted = false ∧ ((onArray emptyMm {}).engine 0 0).current = some emptyMm ∧ emptyMm.c.cmd.op = 0x10 ∧
    ((onArray lastWs { wts := [(1, [])] }).engine 0 0).current = some lastWs ∧ lastWs.c.cmd.op = 0x14 := by decide

/-- VEW1 copying rows of 8 FP32 values of SRAM; `n` rows, the `p`-th to do. -/
def vew (n p : Nat) (len : Nat := 0) : Active :=
  let d := 9 * 2 ^ 48 + 7 * 2 ^ 64 + (n - 1) * 2 ^ 80 + 4 * 2 ^ 96
  { c := { cmd := { hdr := 0x40, d0 := d, d2 := d }, a := { addr := winAddr 0 0 }, c := { addr := winAddr 0 0x1000 } },
    prog := p, chunkLen := len }

/-- The command running on engine `c` of tile 0. -/
def onEng (c : Nat) (a : Active) : State := withEng c { running := some a.c.cmd.slot, active := [a] }

/-- The last row, a row that fills the chunk's 512 tc, and a row that does not. -/
theorem test_meets_VectorRowsPerformUnits :
    (0x40, Instr.vew1 0) ∈ vecRows 0 ∧
    (∀ a ∈ [vew 1 0, vew 3 1 511, vew 3 1 510], (onEng 1 a).halted = false ∧ ((onEng 1 a).engine 0 1).current = some a ∧
      a.c.cmd.op = 0x40 ∧ (onEng 1 a).unitPoison a a.prog = none ∧ a.prog < vecUnits a.c.cmd) ∧
    vecUnits (vew 1 0).c.cmd = 0 + 1 ∧ 1 + 1 < vecUnits (vew 3 1).c.cmd ∧
    512 < 511 + vecUnitTime (vew 3 1).c.cmd + vecUnitTime (vew 3 1).c.cmd ∧
    510 + vecUnitTime (vew 3 1).c.cmd + vecUnitTime (vew 3 1).c.cmd ≤ 512 := by decide

/-- A dispatch command of one token and one expert. -/
def moe (op : Nat) : Active :=
  { c := { cmd := { hdr := op, d1 := 9 * 2 ^ 48, d2 := 9 * 2 ^ 48, ext := some 0 },
           a := { addr := winAddr 0 0 }, b := { addr := winAddr 0 0x1000 }, c := { addr := winAddr 0 0x2000 } } }

theorem test_meets_DispatchStagesFinish :
    ∀ op ∈ [0x50, 0x51, 0x52], (onEng 1 (moe op)).halted = false ∧ ((onEng 1 (moe op)).engine 0 1).current = some (moe op) ∧
      (onEng 1 (moe op)).moePoison 0 (moe op) = none ∧ (moe op).c.cmd.op = op := by decide

/-- A mover command with its plan. -/
def mover (op : Nat) (pl : Option (List Work)) (brick : Nat := 0) : Active :=
  { c := { cmd := { hdr := op, d0 := 7 * 2 ^ 64, d2 := 7 * 2 ^ 64 }, a := { addr := winAddr 0 0 }, c := { addr := winAddr 0 0x1000 } },
    plan := pl, brick := brick }

theorem test_meets_MoverCommandFinishes :
    let x := mover 0x80 (some [])
    let e := mover 0x81 (some []) (expandTotal (mover 0x81 none).c.cmd)
    (0x80, Instr.mvCopy 0) ∈ moverRows 0 ∧ (onEng 2 x).halted = false ∧ ((onEng 2 x).engine 0 2).current = some x ∧
    x.c.cmd.op = 0x80 ∧ x.plan = some [] ∧ x.done = false ∧
    ((onEng 2 x).tile 0).txns.any (fun y => y.slot = x.c.cmd.slot && y.pos = x.c.pos) = false ∧
    (0x81, Instr.mvExpand 0) ∈ moverRows 0 ∧ ((onEng 2 e).engine 0 2).current = some e ∧ e.plan = some [] ∧ e.done = false ∧
    e.brick = expandTotal e.c.cmd := by decide

/-- A copy from tile 1's SRAM, a copy to it, and an accumulation of one element at HBM; 63 transactions are in flight. -/
def farWork (k : Nat) : Work :=
  match k with
  | 0 => .copy (winAddr 1 0) (winAddr 0 0) 64
  | 1 => .copy (winAddr 0 0) (winAddr 1 0) 64
  | _ => .cacc 0 0 1 (spanAddr 0)

def farCmd (k : Nat) : Active := mover (if k = 2 then 0x8C else 0x80) (some [farWork k])
def far (k : Nat) : State :=
  (onEng 2 (farCmd k)).modTile 0 (fun x => { x with txns := (List.range 63).map (fun i => { tag := i }) })

theorem test_meets_MoverIssuesItsLastRequest :
    (∀ k ∈ [0, 1, 2], (far k).halted = false ∧ ((far k).engine 0 2).current = some (farCmd k) ∧
      (farCmd k).plan = some [farWork k] ∧ ((farCmd k).reach 0 (farWork k)).map (·.coh) = some false ∧
      ((far k).tile 0).txns.length = 63) ∧
    (0x80, Instr.mvCopy 0) ∈ moverRows 0 ∧ (0x8C, Instr.rbAdd 0) ∈ moverRows 0 ∧ (farCmd 1).c.cmd.op = 0x80 ∧
    (farCmd 2).c.cmd.op = 0x8C ∧ inOwn 0 (winAddr 1 0) = false ∧ inOwn 0 (winAddr 0 0) = true ∧
    isCoherent (winAddr 0 0) = false ∧ (far 1).readResp (winAddr 0 0) 64 = .ok ∧
    (match (far 2).caccPacket 0 (farCmd 2) 0 0 1 (spanAddr 0) with | .ok _ => true | .error _ => false) = true := by decide

/-- One piece inside the tile's own SRAM. -/
def own (op : Nat) : Active := mover op none

theorem test_meets_MoverFillsAndCopiesItsOwnMemory :
    (∀ op ∈ [0x80, 0x82], (onEng 2 (own op)).halted = false ∧ ((onEng 2 (own op)).engine 0 2).current = some (own op) ∧
      (own op).plan = none ∧ (own op).done = false ∧
      ((onEng 2 (own op)).tile 0).txns.any (fun x => x.slot = (own op).c.cmd.slot && x.pos = (own op).c.pos) = false ∧
      (onEng 2 (own op)).writeResp (winAddr 0 0x1000) 8 = .ok ∧ (onEng 2 (own op)).readResp (winAddr 0 0) 8 = .ok) ∧
    inOwn 0 (winAddr 0 0x1000) = true ∧ isCoherent (winAddr 0 0x1000) = false ∧ isCoherent (winAddr 0 0) = false ∧
    fillPlan (own 0x82) = [.fill (winAddr 0 0x1000) 8 0] ∧
    copyPlan 0 (own 0x80) = [.copy (winAddr 0 0) (winAddr 0 0x1000) 8] := by decide

/-- The job's header lies in HBM. -/
def stamping : State :=
  { onEng 2 (own 4) with panels := [(0, { pan with jobs := [(0, { jstate := 1, hdrAddr := spanAddr 0 })] })] }

theorem test_meets_StampWritesTheRecord :
    stamping.noInjection ∧ stamping.halted = false ∧ stamping.tilePanel 0 = some 0 ∧
    (stamping.engine 0 2).current = some (own 4) ∧ (own 4).c.cmd.op = 0x04 ∧
    (stamping.job 0 (own 4).c.cmd.slot).hdrAddr + 64 = spanAddr 0 + 64 ∧ inOwn 0 (spanAddr 0 + 64) = false ∧
    stamping.readResp (spanAddr 0 + 64) 64 = .ok ∧ inOwn 0 (own 4).c.a.addr = true ∧
    isCoherent (own 4).c.a.addr = false ∧ stamping.readResp (own 4).c.a.addr 32 = .ok ∧
    isCoherent (own 4).c.c.addr = false ∧ stamping.writeResp (own 4).c.c.addr 64 = .ok ∧
    linesOf (spanAddr 0 + 64) 64 = [lineOf (spanAddr 0 + 64)] ∧ stamping.holders (lineOf (spanAddr 0 + 64)) = [] := by
  refine ⟨rfl, ?_⟩; decide

/-- The copy's read from tile 1 is in flight with tag 63; another piece is to come. -/
def answered : State :=
  (withEng 2 { active := [mover 0x80 (some [])] }).modTile 0 (fun x => { x with
    txns := [{ tag := 63, work := .copy (winAddr 1 0) (winAddr 0 0) 64 }] })

theorem test_meets_TransactionResponseActs :
    let x : Txn := { tag := 63, work := .copy (winAddr 1 0) (winAddr 0 0) 64 }
    let a := mover 0x80 (some [])
    answered.noInjection ∧ (answered.tile 0).txns.find? (fun y => y.tag = (63 : BitVec 8).toNat) = some x ∧ x.waiting = false ∧
    x.staged = false ∧ x.bad = .ok ∧ answered.frozen = false ∧ (answered.engine 0 2).find x.slot x.pos = some a ∧
    a.issued = false ∧ inOwn 0 (winAddr 0 0) = true ∧ inOwn 0 (winAddr 1 0) = false ∧ isCoherent (winAddr 0 0) = false ∧
    isCoherent (winAddr 1 0) = false ∧ a.c.a.tier ≠ 4 ∧ answered.readResp (winAddr 1 0) 64 = .ok ∧
    answered.writeResp (winAddr 0 0) 64 = .ok ∧ answered.tilePanel 0 = some 0 ∧
    (answered.job 0 a.c.cmd.slot).jstate = 1 ∧ (answered.job 0 a.c.cmd.slot).faulted = false := by
  refine ⟨rfl, ?_⟩; decide

/-- No panel traces. -/
theorem base_noTrace : base.noTrace := fun p => by
  show (Table.get [(0, pan)] {} p).trcCtl = 0
  unfold Table.get; split <;> rfl

/-- A finished command with signal `o` of value 65,535 to tile 1, with `k` remote adds unacknowledged. -/
def finished (o : Nat) : Active := { act (o * 2 ^ 54 + 0xFFFF * 2 ^ 56 + 2 ^ 72) with done := true }
def signalled (o k : Nat) : State := (withEng 0 { active := [finished o] }).modTile 0 (fun x => { x with unacked := k })

theorem test_meets_CommandCompleteSignals :
    (∀ o k, (signalled o k).noTrace) ∧ ∀ h ∈ [(0, 0), (1, 0), (2, 0), (3, 7), (3, 8)],
      (signalled h.1 h.2).halted = false ∧ ((signalled h.1 h.2).engine 0 0).oldestActive 0 = some (finished h.1) ∧
      (finished h.1).done = true ∧ (finished h.1).held = false ∧ (finished h.1).c.cmd.crec = false ∧
      ((signalled h.1 h.2).engine 0 0).urgent = [] ∧ ((signalled h.1 h.2).engine 0 0).normal = [] ∧
      (signalled h.1 h.2).tilePanel 0 = some 0 ∧ (finished h.1).c.cmd.sigOp = h.1 ∧
      ((signalled h.1 h.2).tile 0).unacked = h.2 := ⟨fun _ _ => base_noTrace, by decide⟩

/-- A remote add from tile 1 to counter 63 of tile 0 with generation `g` of a job of generation 256, and a corrected word. -/
def remote (g : Nat) : RemoteAdd := ⟨.tile 1, 0, 0, 0, 0, 63, 0xFFFF, g⟩
def adding (g : Nat) (halt : Bool) : State :=
  { base with panels := [(0, { pan with jobs := [(0, { jstate := 1, gen := 256 })] })], adds := [remote g], addAcks := [(0, 1)],
              tiles := [(0, { corrected := [(23, 0)] })], dbg := { halt := halt, thawed := halt } }

theorem test_meets_RemoteAddsAndAcks :
    (∀ g h, (adding g h).noTrace) ∧ (∀ (c : Nat), ((adding 0 false).engine 0 c).urgent = [] ∧ ((adding 0 false).engine 0 c).normal = []) ∧
    (∀ g ∈ [0, 1], (adding g false).adds.find? (fun y => y.src = .tile 1 && y.dst = 0) = some (remote g) ∧ (remote g).src = .tile 1 ∧
      (remote g).dst = 0 ∧ (adding g false).halted = false ∧ (adding g true).halted = true ∧ (adding g true).frozen = false) ∧
    ((adding 0 false).job 0 0).gen % 256 = (remote 0).gen % 256 ∧ ((adding 1 false).job 0 0).gen % 256 ≠ (remote 1).gen % 256 ∧
    0 < (adding 0 false).addAcks.get 0 0 ∧ ((adding 0 false).tile 0).corrected.find? (fun z => z.1 = 23) = some (23, 0) := by
  refine ⟨fun _ _ p => ?_, fun _ => ⟨rfl, rfl⟩, by decide⟩
  show (Table.get [(0, { pan with jobs := _ })] {} p).trcCtl = 0
  unfold Table.get; split <;> rfl
/-- A request of tile 1 at `a`. -/
def req (a : Nat) (op : MemOp) : MemReq := ⟨.tile 1, none, a, op, 7⟩

def ops3 : List MemOp := [.read 8, .write (List.replicate 8 1), .atomic .add true 1 0, .atomic .add false 1 0]

/-- SRAM of tile 0 and HBM of sill 0, in their first and last 8 bytes. -/
theorem test_meets_TileAndSillServeRequests :
    base.noInjection ∧ base.frozen = false ∧
    (∀ op ∈ ops3, 0 < opSize op ∧ (∀ a ∈ [winAddr 0 0, winAddr 0 0 + sramSize - 8], rqAligned (req a op) = true ∧
      base.readResp a (opSize op) = .ok ∧ within a (opSize op) (winAddr 0 0) winSize = true) ∧
      rqAligned (req (spanAddr 0) op) = true ∧ base.readResp (spanAddr 0) (opSize op) = .ok) ∧
    regionOf (spanAddr 0) = .hbm 0 0 ∧ 0 / 2 = (0 : Sill).val := by
  refine ⟨rfl, ?_⟩; decide

/-- Entry 0 of panel 0's table: valid, eight elements at the start of HBM; a packet of one element at `ad`. -/
def packet (ad : Nat) : CaccPacket := ⟨0, 0, .tile 0, false, false, false, false, 0, 0, ad, [0]⟩
def rtabbed (ad : Nat) : State :=
  { base with panels := [(0, { pan with rtab := [(0, spanAddr 0 + 2 ^ 63 + 7 * 2 ^ 64)] })], caccs := [packet ad] }

/-- At the first and the last group of the buffer; past it; between groups; an entry that is not valid. -/
theorem test_meets_ReductionEngineAdds :
    (∀ k ∈ [0, 24], rtRefuse (((rtabbed (spanAddr 0 + k)).panel 0).rtab.get 0 0) (spanAddr 0 + k) 1 = none ∧
      (rtabbed (spanAddr 0 + k)).writeResp (spanAddr 0 + k) 6 = .ok) ∧ (rtabbed 0).noInjection ∧
    (∀ h ∈ [(48, 2), (6, 3)], rtRefuse (((rtabbed (spanAddr 0 + h.1)).panel 0).rtab.get 0 0) (spanAddr 0 + h.1) 1 = some h.2 ∧
      (rtabbed (spanAddr 0 + h.1)).caccTxn (packet (spanAddr 0 + h.1)) = none) ∧
    rtRefuse 0 (spanAddr 0) 1 = some 1 ∧ ((rtabbed 0).job 0 0).jstate = 1 ∧ ((rtabbed 0).job 0 0).faulted = false :=
  ⟨by decide, rfl, by decide⟩

/-- A staged read of the last 64 B of line 3 by tile 0; the window holds the line or is empty. -/
def staging (w : StageWin) : State :=
  { base with panels := [(0, { pan with wl := 64, stage := [(261120, {})] })],
              tiles := [(0, { txns := [{ tag := 5, waiting := true, staged := true }] })] }.modStage 0 (tileSpan 0) (fun _ => w)

def lineEnd : Nat := 3 * 65536 + 65472
def holding : State := staging { held := [(3, some (3, false))] }
def filling : State := staging { fills := [⟨3, false, false⟩] }

theorem test_meets_StagingServesFillsAndInvalidates :
    (∀ s ∈ [holding, staging {}], s.tilePanel 0 = some 0 ∧
      (s.tile 0).txns.find? (fun y => decide (y.tag = (5 : BitVec 8).toNat)) = some { tag := 5, waiting := true, staged := true } ∧
      0 < (s.panel 0).wl ∧ ⟨0, 0, lineEnd, 64, 5⟩ ∉ ((s.panel 0).stage.get {} (tileSpan 0)).waits ∧
      ⟨0, 0, lineEnd, 64, 5⟩ ∉ ((s.panel 0).stage.get {} (tileSpan 0)).class_) ∧
    holding.noInjection ∧ lineEnd / 65536 = 3 ∧ ((holding.panel 0).stage.get {} (tileSpan 0)).has 64 3 = true ∧
    holding.readResp (holding.stageBase (tileSpan 0) 64 + 3 % 64 * 65536 + lineEnd % 65536) 64 = .ok ∧
    ((staging {}).panel 0).stage.get {} (tileSpan 0) = {} ∧ ((staging {}).panel 0).pf = 0 ∧
    filling.spanPanel (tileSpan 0) = some 0 ∧
    ((filling.panel 0).stage.get {} (tileSpan 0)) = { fills := [⟨3, false, false⟩] } ∧ (∀ l, filling.holders l = []) ∧
    (∀ i, filling.poisoned (3 * 65536 + 32 * i) 32 = false) ∧
    (1 : BitVec 32).getLsbD 0 = true ∧ (0xFFFFFFFE : BitVec 32).getLsbD 0 = false := by
  refine ⟨by decide, rfl, by decide, by decide, by decide, by decide, by decide, by decide, by decide, fun _ => ?_, fun _ => ?_, by decide⟩
  · rfl
  · rfl

/-- Line 1 in tile 0's cache in state `x`. -/
def caching (x : Line) : State :=
  { base with tiles := [(0, { hwc := [(1, x)] })], grants := [(.tile 0, 1, .shared 5), (.tile 0, 2, .exclusive 5), (.tile 0, 3, .upgraded)],
              nacks := [(.tile 0, 1, 2)], wbAcks := [(.tile 0, 1)] }

/-- The same with a snoop of kind `k` at tile 0's slice, and no grant on its way. -/
def snooped (k : SnoopKind) (x : Line) : State :=
  { caching x with grants := [], slices := [(sliceKey (sliceOf 0), { txns := [(1, some { kind := k, waits := [0] })] })] }

theorem test_meets_CachesActOnWhatReachesThem :
    (caching {}).halted = false ∧ (∀ g ∈ [(1, Grant.shared 5), (2, .exclusive 5), (3, .upgraded)],
      (Holder.tile 0, g.1, g.2) ∈ (caching {}).grants) ∧ (Holder.tile 0, 1, (2 : Fin 3).val) ∈ (caching {}).nacks ∧
    ((caching { nacked := true, age := 255 }).cacheLine (.tile 0) 1).nacked = true ∧ (Holder.tile 0, 1) ∈ (caching {}).wbAcks ∧
    ((caching { st := .S }).cacheLine (.tile 0) 1).st ≠ .I ∧
    (∀ h ∈ [(SnoopKind.inv, ({ st := .S, req := some .upg } : Line)), (.shr, { st := .E, hold := true }), (.inv, { st := .M, data := 9 }),
        (.shr, { st := .M, data := 9 }), (.inv, { st := .S })],
      (snooped h.1 h.2).halted = false ∧ (snooped h.1 h.2).cacheLine (.tile 0) 1 = h.2 ∧ h.2.wb = false ∧
      ((snooped h.1 h.2).slice (sliceOf 0)).txns.get none 1 = some { kind := h.1, waits := [0] } ∧
      (snooped h.1 h.2).rspOut (.inl (.tile 0)) 1 = none ∧ (snooped h.1 h.2).grants = []) := by decide

/-- Line 1's home has a snoop out to slice `sl0` (and one to tile 9); the slice's copies are `ts`, its own snoop `x`. -/
def sl0 : SliceId := ⟨0, 0, false⟩
def sharers (ts : List Nat) (x : Option SliceTxn) (r : Holder ⊕ SliceId) (a : SnoopRsp) : State :=
  { base with
    homes := [(0, { txns := [(1, some { snoops := [{ dst := .inr sl0 }, { dst := .inl (.tile 9) }] })] })]
    slices := [(0, { ents := [(1, ts)], txns := [(1, x)] })]
    snpRsps := [(r, 1, a)] }

theorem test_meets_SlicesAndHomesCollectAnswers :
    (let s := sharers [] none (.inl (.tile 9)) .inv;
      s.snoopOut (.inr sl0) 1 .inv = true ∧ (s.slice sl0).txns.get none 1 = none ∧
      ((s.slice sl0).ents.get [] 1).filter (fun v => decide (s.requester 1 ≠ some (toHolderTile v))) = []) ∧
    (let s := sharers [4] none (.inl (.tile 9)) .inv;
      s.snoopOut (.inr sl0) 1 .inv = true ∧ (s.slice sl0).txns.get none 1 = none ∧
      ((s.slice sl0).ents.get [] 1).filter (fun v => decide (s.requester 1 ≠ some (toHolderTile v))) ≠ []) ∧
    (let s := sharers [4] (some { waits := [4] }) (.inl (.tile 4)) .inv;
      (s.slice sl0).txns.get none 1 = some { waits := [4] } ∧ s.rspOut (.inl (.tile 4)) 1 = some .inv) ∧
    (∀ a ∈ [SnoopRsp.hold, .inv], let s := sharers [] none (.inr sl0) a
      let tr : Trans := { snoops := [{ dst := .inr sl0 }, { dst := .inl (.tile 9) }] }
      (s.home 0).txns.get none 1 = some tr ∧ s.rspOut (.inr sl0) 1 = some a ∧ { dst := .inr sl0 } ∈ tr.snoops ∧
      ∃ z ∈ tr.snoops, z.dst ≠ .inr sl0) ∧
    (base.home 0).busy 1 = false := by decide

/-- Line 1 (T2, home 0): a request of tile 0 for it on its way, a grant waiting for memory, and a writeback. -/
def homing (x : Line) (h : Home) : State := { base with tiles := [(0, { hwc := [(1, x)] })], homes := [(0, h)] }

theorem test_meets_HomeServesRequests :
    (∀ cmd ∈ [CohCmd.rdS, .rdU], (homing { req := some cmd, age := 255 } {}).requestOut 0 1 cmd 255 (.tile 0) = true ∧
      let s := homing { req := some cmd } { txns := [(1, some {})] }
      s.requestOut 0 1 cmd 0 (.tile 0) = true ∧ (s.home 0).busy 1 = true) ∧
    (∀ cmd ∈ [CohCmd.rdS, .rdU], let s := homing {} { txns := [(1, some { kind := .grant (.tile 0) cmd })] }
      (s.home 0).txns.get none 1 = some { kind := .grant (.tile 0) cmd } ∧ (s.home 0).dir = []) ∧
    (let s := homing { wb := true, data := 9 } { dir := [(1, { owner := some (.tile 0) })] };
      (s.cacheLine (.tile 0) 1).wb = true ∧ (s.cacheLine (.tile 0) 1).data = 9 ∧ (Holder.tile 0, 1) ∉ s.wbAcks ∧
      s.homeOf (64 * 1) = 0 ∧ ((s.home 0).dir.get {} 1).owner = some (.tile 0) ∧ (s.cacheLine (.tile 0) 1).pz = false) ∧
    base.noInjection ∧ (∀ op ∈ ops3, ∀ a ∈ [64, 120], isCoherent a = true ∧ base.homeOf a = 0 ∧ linesOf a (opSize op) = [1] ∧
      base.lineBusy 1 = false ∧ (base.home 0).txns = [] ∧ (base.home 0).dir = [] ∧ base.readResp a (opSize op) = .ok ∧
      0 < opSize op ∧ base.mapped a = true ∧ base.mapped (a + opSize op - 1) = true ∧ a % 8 = 0) :=
  ⟨by decide, by decide, by decide, rfl, by decide⟩

/-- Host cores run; core 0 has MS = `ms`, base `b` in x1, stride `st` in x2. -/
def coring (ms : Nat) (b st : BitVec 64) : State :=
  { base with hosts := [(0, { cstate := 0 }), (1, { cstate := 0 })], cores := [(0, { ms := ms, x := [(1, b), (2, st)] })] }

def rowsAt (st : Nat) : State := coring 1 (BitVec.ofNat 64 (spanAddr 0)) (BitVec.ofNat 64 st)

theorem test_meets_MatrixExtension :
    (coring 0 0 0).mayRetire 0 = true ∧ ((coring 0 0 0).core 0).ms = 0 ∧ (rowsAt 128).mayRetire 0 = true ∧
    ((rowsAt 128).core 0).ms ≠ 0 ∧ ((rowsAt 128).core 0).vstart = 0 ∧ (3 : BitVec 5).toNat < 4 ∧ (30 : BitVec 5).toNat % 2 = 0 ∧
    ((coring 1 64 0).core 0).xreg 1 % 128 ≠ 0 ∧ ((coring 1 32 0).core 0).xreg 1 % 64 ≠ 0 ∧
    (∀ h ∈ [(128, 128), (64, 64)], let s := rowsAt h.1
      ((s.core 0).xreg 1) % 128 = 0 ∧ (s.core 0).xreg 2 = h.1 ∧ spanAddr 0 + 31 * h.1 < 2 ^ 64 ∧
      ∀ i, i < 32 → let a := spanAddr 0 + i * h.1; rowAddr (spanAddr 0) h.1 i = a ∧ isCoherent a = false ∧ s.coreMay a h.2 = true ∧
        s.readResp a h.2 = .ok ∧ s.writeResp a h.2 = .ok) := by decide
/-- Both host dies run; cores 0 and 1 exist; core 1 has the turn of group 1 and core 2 is its other member. -/
def plumbed (turn : Nat) : State :=
  { base with hosts := [(0, { cstate := 0 }), (1, { cstate := 0 })], plumb := [(1, some turn)],
              cores := [(1, { tvplumb := 3 }), (2, { tvplumb := 3 })] }

/-- Watchdog of host die 0 with PERIOD 1, the hosts in a warm reset. -/
def watched : State :=
  { base with hosts := [(0, { cstate := 1 }), (1, { cstate := 1 })], dbg := { hwdog := [(0, (1, false, 0))] } }

theorem test_meets_PlumbSidebandAndWatchdogs :
    (plumbed 1).mayRetire 0 = true ∧ (plumbed 1).mayRetire 1 = true ∧ (plumbed 2).mayRetire 1 = false ∧
    (plumbed 1).plumb.get none (plumbKey 0 1) = some 1 ∧
    ((plumbed 1).plumbMembers 0 1).find? (fun x => decide (1 < x)) = some 2 ∧ ((plumbed 1).core 0).grouped = false ∧
    (match Sys2Proof.Machine.exec (.tvplumbWrite 0 3 .m) (plumbed 1) with | .next u => (u.core 0).grouped | _ => false) = true ∧
    (3 : BitVec 32) ≠ 2 ∧ (plumbed 1).intakes = [] ∧ ((plumbed 1).host 0).cstate = 0 ∧
    (watched.dbg.hwdog.get (0, false, 0) 0).1 ≠ 0 ∧ (watched.host 0).cstate ≠ 0 ∧ (watched.host 1).cstate ≠ 0 ∧
    bit (0x100000 : BitVec 32).toNat 20 = true := by decide

/-- A warm reset in progress, before and after the core domain's reset. -/
def warm (r : Bool) : State :=
  { base with hosts := [(0, { cstate := 1, domReset := r, wrcnt := 255 }), (1, { cstate := 1, domReset := r })] }

theorem test_meets_WarmResetAndInboundIo :
    ((warm false).host 0).cstate = 1 ∧ ((warm false).host 0).domReset = false ∧ (warm false).hostsQuiet = true ∧
    ((warm true).host 0).domReset = true ∧ (∀ z ∈ (warm true).mgmt.accepted, z.wait ≠ some .hosts) ∧
    (∀ rp : RootPort, ((plumbed 1).host (rp.val / 4)).cstate = 0) ∧
    (∃ d e, regionOf 64 = .lpddr d ∧ regionOf (64 + 128 - 1) = .lpddr e) ∧ linesOf 64 128 = [1, 2] ∧
    (∀ l ∈ linesOf 64 128, (plumbed 1).lineBusy l = false) ∧ (∀ l, (plumbed 1).holders l = []) ∧
    (plumbed 1).readResp 64 128 = .ok ∧ (plumbed 1).writeResp 64 128 = .ok ∧ (plumbed 1).noInjection ∧
    bit (plumbed 1).present 7 ≠ true :=
  ⟨by decide, by decide, by decide, by decide, by decide, by decide, ⟨_, _, rfl, rfl⟩, by decide, by decide, fun _ => rfl, by decide,
   by decide, rfl, by decide⟩

/-- Port 0 up with command `x`; ring 0 of it is panel 0, slot 0; connection 4 is to rank 1 of the same job, the next SEQ the last. -/
def course (c : Conn) (x : List CourseCmd) (fetched : List Nat := []) : State :=
  { base with
    midset := true
    ports := [(0, { st := 2, cmds := x })]
    conns := [(4, { c with live := true, paths := [(0, 0)] })]
    rings := [(245760, { en := true, log2 := 6, base := spanAddr 0 + 4096, fetched := fetched, tail := 1 })]
    panels := [(0, { pan with jobs := [(0, { jstate := 1, vtab := spanAddr 0 + 8192, nmod := 1 })]
                              wins := [(0, spanAddr 0 + 0xFFFF * 2 ^ 64 + 7 * 2 ^ 115 + 2 ^ 118 + (spanAddr 0 + 65536) * 2 ^ 160)]
                              rtab := [(0, spanAddr 0 + 2 ^ 63 + 3 * 2 ^ 64)] })] }

def cmdOf (op : Nat) : CourseCmd := { w := op + 2 ^ 16 + spanAddr 0 * 2 ^ 256 + 4 * 2 ^ 320 }
def sending (op : Nat) : State := course { seq := 2 ^ 32 - 1, acked := 2 ^ 32 - 1024 } [cmdOf op]

theorem test_meets_CourseCommandSendsItsFrame :
    (∀ op ∈ [0x01, 0x02, 0x03, 0x08, 0x20], let s := sending op
      s.courseActive 0 0 = some (cmdOf op) ∧ ccOp (cmdOf op).w = op ∧
      (match s.cmdFrames 0 0 0 (cmdOf op) with
       | [(k, f)] => decide (k = 4 ∧ f.vote = decide (op = 0x20) ∧
           (f.vote = true ∨ (0 < f.len ∧ isCoherent f.src = false ∧ s.readResp f.src f.len = .ok)))
       | _ => false) = true ∧
      (cmdOf op).prog = 0 ∧ (s.conn 4).live = true ∧ seqSub (s.conn 4).seq (s.conn 4).acked < 1024 ∧
      s.nextPath (s.conn 4) (s.conn 4).rr = some 0 ∧ s.inFlight 0 < 16384) ∧ (sending 1).noInjection := by
  refine ⟨?_, rfl⟩; decide
/-- A course command whose frames have gone, in phase `ph`, with its remote add enabled or not. -/
def goneCmd (ph op : Nat) (sig : Bool) : CourseCmd := { w := op + b2n sig * 2 ^ 407 + 5 * 2 ^ 256 + 5 * 2 ^ 288, sent := true, phase := ph }

/-- The wait counters of window 0's NADDR at 5 (met) or 4 (not met). -/
def arrived (v ph : Nat) (op : Nat := 0x10) : State :=
  { course {} [goneCmd ph op false] with mem := [(spanAddr 0 + 65536 + 8, BitVec.ofNat 8 v), (spanAddr 0 + 65536 + 16, BitVec.ofNat 8 v)] }

theorem course_noTrace (c : Conn) (x : List CourseCmd) (l : List Nat) : (course c x l).noTrace := fun p => by
  show (Table.get [(0, { pan with jobs := _, wins := _, rtab := _ })] {} p).trcCtl = 0
  unfold Table.get; split <;> rfl

theorem test_meets_CourseCommandsStartAndComplete :
    (∀ c x l, (course c x l).noTrace) ∧
    (∀ op ∈ [0, 0x21], (course {} [] [op]).courseActive 0 0 = none ∧ (course {} [] [op]).courseHead 0 0 = some op ∧ ccWaddr op = 0 ∧
      ccOp op = op ∧ ((course {} [] [op]).job 0 0).jstate = 1 ∧ ((course {} [] [op]).job 0 0).faulted = false) ∧
    (∀ ph ∈ [1, 3], ∀ v ∈ [4, 5], let s := arrived v ph
      let na := wnAddr ((s.panel 0).wins.get 0 (ccWin (goneCmd ph 0x10 false).w))
      let a := na + (if ph = 1 then 8 else 16)
      (s.port 0).cmds.find? (fun c => decide (c.ring = 0) && decide (c.phase = 1 ∨ c.phase = 3)) = some (goneCmd ph 0x10 false) ∧
      na ≠ 0 ∧ isCoherent a = false ∧ s.readResp a 8 = .ok ∧ (seqSub (s.readNat 8 a % 2 ^ 32) 5 < 2 ^ 31 ↔ v = 5)) ∧
    ccTacc (goneCmd 1 0x10 false).w = 5 ∧ ccTput (goneCmd 1 0x10 false).w = 5 ∧ (arrived 4 1).noInjection ∧
    (∀ sig ∈ [true, false], let s := course {} [goneCmd 0 0 sig]
      (s.port 0).cmds.find? (fun c => c.ring = 0) = some (goneCmd 0 0 sig) ∧ ccCollective (ccOp (goneCmd 0 0 sig).w) = false ∧
      s.framesGone 0 0 0 (goneCmd 0 0 sig) = true ∧ ccRec (goneCmd 0 0 sig).w = false ∧ ccSigen (goneCmd 0 0 sig).w = sig) := by
  refine ⟨course_noTrace, by decide, by decide, by decide, by decide, rfl, by decide⟩

/-- The frame that the module's own port would send with header `h`. -/
def frameOf (h : CHdr) (bs : List Byte) : CourseFrame := ⟨true, 0x88B5, base.courseHdr h bs, bs⟩

def hdrOf (ty seq : Nat) (last : Bool := false) : CHdr := { type := ty, dst := 0, spanel := 0, dpanel := 0, slot := 0, jtag := 7, seq := seq, last := last }

/-- Window 0 (JTAG 7) admits writes; connection 4 has P and A at `q`. -/
def openTo (q : Nat) (rx : Table (Option RxFrame) := []) : State :=
  let s := course { jtag := 7, p := q, a := q, ackP := q, ackA := q, rx := rx } []
  { s with panels := [(0, { s.panel 0 with wins := [(0, spanAddr 0 + 0xFFFF * 2 ^ 64 + 2 ^ 115 + 2 ^ 118 + 7 * 2 ^ 128)] })] }

set_option maxRecDepth 20000 in
theorem test_meets_CourseFramesAreReceived :
    (openTo 9).portOpen 0 = true ∧ (openTo 9).noInjection ∧ connKey 0 0 1 0 = 4 ∧
    (openTo 9).frameIntact 0 (frameOf (hdrOf 0 9) [1] |> fun f => { f with fcsOk := false }) = false ∧
    (∀ h ∈ [(0, 9), (0, 8), (1, 9), (4, 9)], let f := frameOf (hdrOf h.1 h.2) (toBytes 16 1)
      (openTo 9).frameIntact 0 f = true ∧ (openTo 9).connOf f.hdr = some 4 ∧ fhType f.hdr = h.1 ∧ fhJtag f.hdr = 7) ∧
    (let f := frameOf (hdrOf 0 9) (toBytes 16 1); let c := ((openTo 9).conn 4).acknowledge (fhAckseq f.hdr);
      c.duplicate 9 = false ∧ c.duplicate 8 = true ∧ c.beyond 9 = false ∧ (openTo 9).rxFull 0 16 = false ∧
      c.nackNow 9 0 = false ∧ (openTo 9).windowFault 0 f.hdr = none ∧
      ¬ (16 ≤ seqSub (c.holdFrame 9 0 f).p c.ackP ∨ 16 ≤ seqSub c.a c.ackA)) ∧
    ((openTo 9).job 0 0).jstate = 1 ∧ ((openTo 9).job 0 0).faulted = false ∧ ((openTo 9).job 0 0).committed 1 = false ∧
    ((openTo 9).conn 4).jtag = 7 := by
  refine ⟨by decide, rfl, by decide, by decide, by decide, by decide, by decide⟩

set_option maxRecDepth 20000 in
theorem test_meets_CourseFramesAreReceived_applied :
    let r : RxFrame := { hdr := base.courseHdr (hdrOf 0 9) [1], payload := [1] }
    let s := openTo 9 [(9, some r)]
    let a := wnBase ((s.panel 0).wins.get 0 (fhWin r.hdr)) + fhOff r.hdr
    s.noInjection ∧ (s.conn 4).rx.get none 9 = some r ∧ r.applied = false ∧ fhType r.hdr = 0 ∧ fhOp r.hdr = 0 ∧ (s.conn 4).a = 9 ∧
    s.windowStopped a = false ∧ isCoherent a = false ∧ s.writeResp a 1 = .ok ∧ fhLast r.hdr = false ∧
    (s.conn 4).rx.get none 10 = none ∧ ¬ (16 ≤ seqSub (s.conn 4).p (s.conn 4).ackP ∨ 16 ≤ seqSub 10 (s.conn 4).ackA) := by
  refine ⟨rfl, ?_⟩; decide

set_option maxRecDepth 20000 in
theorem test_meets_VoteFrameIsHeld :
    let f := frameOf (hdrOf 3 9 true) (toBytes 64 5)
    let c := ((openTo 9).conn 4).acknowledge (fhAckseq f.hdr)
    (openTo 9).portOpen 0 = true ∧ (openTo 9).frameIntact 0 f = true ∧ (openTo 9).connOf f.hdr = some 4 ∧ fhType f.hdr = 3 ∧
    f.payload.length = 64 ∧ ((openTo 9).job 0 0).vote = none ∧
    isCoherent (((openTo 9).job 0 0).vtab + 128 * keyRank 4 + 64 * (5 % 2)) = false ∧ ofBytes (f.payload.take 8) = 5 ∧
    fhSeq f.hdr = c.p ∧ c.p = c.a ∧ c.p = 9 ∧ c.bitmap = 0 ∧ c.rx = [] ∧ (openTo 9).rxFull 0 64 = false ∧ c.ackP = c.p ∧
    c.ackA = c.a ∧ c.live = true := by decide

/-- Connection 4 with a frame unaccepted, its path's expiries at `e`, and a vote submitted. -/
def timing (f : SentFrame) (e : Nat) : State :=
  let s := course { ackSoon := true, frames := [f], expiries := [(0, e)] } []
  { s with panels := [(0, { s.panel 0 with jobs := [(0, { jstate := 1, vote := some (5, false), vtimer := true })] })]
           aborts := [{ left := 1 }] }

/-- A port in link state `st`, and an Ethernet-mode port with a receive and a transmit ring. -/
def porting (st : Nat) (hold : Bool := false) : State := { base with ports := [(0, { st := st, hold := hold })] }

def ethRing : Ring := { en := true, log2 := 6, base := spanAddr 0, tail := 1 }

/-- The head entries give a buffer of 64 B at the second MiB of HBM. -/
def ether (en : Bool) : State :=
  { base with ports := [(0, { st := 2, eth := true })], rings := [(245760, { ethRing with en := en }), (245888, { ethRing with en := en })]
              mem := [(spanAddr 0 + 2, 0x10), (spanAddr 0 + 5, 0x10), (spanAddr 0 + 8, 0x40)] }

theorem test_meets_CourseTimersLinksAndEthernet :
    (let s := timing { seq := 3, vote := true } 0;
      (s.conn 4).live = true ∧ (s.conn 4).ackSoon = true ∧
      (s.conn 4).paths.find? (fun z => decide (z.1 = 32 ∧ (s.port z.1).st = 2)) = none ∧
      (s.conn 4).paths.find? (fun z => decide ((s.port z.1).st = 2)) = some (0, 0) ∧
      (s.conn 4).frames.find? (fun f => decide (f.seq = (3 : BitVec 32).toNat) && !f.accepted) = some { seq := 3, vote := true } ∧
      (s.setConn 4 { s.conn 4 with expiries := (s.conn 4).expiries.modify 0 0 (fun e => min 2 (e + 1)) }).nextPath
        { s.conn 4 with expiries := (s.conn 4).expiries.modify 0 0 (fun e => min 2 (e + 1)) } (0 + 1) = some 0 ∧
      s.failStopped (s.conn 4) = false ∧ (s.job 0 0).jstate = 1 ∧ (s.job 0 0).faulted = false ∧
      (s.job 0 0).vote = some (5, false) ∧ (s.job 0 0).vtimer = true ∧ s.courseHold = false ∧ s.linkHold = false ∧ s.halted = false ∧
      s.aborts.find? (fun a => decide (a.panel = 0 ∧ a.slot = 0)) = some { left := 1 }) ∧
    (let s := timing { seq := 3 } 1; let e := { s.conn 4 with expiries := (s.conn 4).expiries.modify 0 0 (fun e => min 2 (e + 1)) };
      (s.setConn 4 e).nextPath e (0 + 1) = none ∧ 2 ≤ e.expiries.get 0 0) ∧
    ((porting 2).port 0).st = 2 ∧ (((porting 3 true).port 0).st = 3 ∧ ((porting 3 true).port 0).hold = true) ∧
    (porting 3).mgmt.accepted = [] ∧ (porting 3).conns = [] ∧ ((porting 1).port 0).st = 1 ∧ (1 : BitVec 32).getLsbD 0 = true ∧
    (∀ en ∈ [true, false], let s := ether en; let bs := List.replicate 64 (0 : Byte)
      (s.port 0).eth = true ∧ (s.port 0).st = 2 ∧ (s.port 0).ethAccepts bs = true ∧ flowHash bs = 0 ∧ (s.ring (crsRing 0 128)).en = en) ∧
    (∀ g ∈ [crsRing 0 0, crsRing 0 128], let s := ether true; let r := s.ring g; let e := s.readNat 64 (r.entryAddr r.head)
      r.en = true ∧ r.stopped = false ∧ r.count ≠ 0 ∧ isCoherent (r.entryAddr r.head) = false ∧
      s.readResp (r.entryAddr r.head) 64 = .ok ∧ bits e 64 14 = 64 ∧ isCoherent (bits e 0 52) = false ∧
      s.writeResp (bits e 0 52) 64 = .ok ∧ s.readResp (bits e 0 52) 64 = .ok ∧ isCoherent (r.entryAddr r.head + 32) = false ∧
      s.writeResp (r.entryAddr r.head + 32) 32 = .ok ∧ r.entryAddr r.head + 32 + 32 ≤ bits e 0 52) ∧ (ether true).noInjection := by
  refine ⟨by decide, by decide, by decide, by decide, by decide, by decide, by decide, by decide, by decide, by decide, rfl⟩
/-- A hod command of one index: its blocks 4 KiB apart in HBM, its table of one row of 32 elements, hot. -/
def hodCmd (op : Nat) : HodCmd := { w := op + 8 * 2 ^ 16, desc := 2 ^ 400, tr := (List.range 13).map (fun k => spanAddr 0 + 4096 * k) }

def hodding (cs : List HodCmd) (fetched : List Nat := []) (idx : Byte := 0) : State :=
  { base with hods := [(0, { cmds := cs })], mem := if idx = 0 then [] else [(spanAddr 0, idx)]
              rings := [(253952, { en := true, log2 := 6, base := spanAddr 0 + 65536, fetched := fetched, tail := 2 })] }

theorem hodding_noTrace (cs : List HodCmd) (l : List Nat) (b : Byte) : (hodding cs l b).noTrace := base_noTrace

set_option maxRecDepth 4000 in
theorem test_meets_HodCommandsRun :
    (∀ cs l b, (hodding cs l b).noTrace ∧ (hodding cs l b).noInjection) ∧ base.spanPanel 0 = some 0 ∧
    (let s := hodding [] [0, 0]; s.hodPick 0 0 0 = some (0, 0) ∧ s.hodCauses 0 0 0 = [] ∧ hcWaiten 0 = false ∧ hcCond 0 = false) ∧
    (∀ op ∈ [1, 2, 3], let x := hodCmd op; let s := hodding [x] [] (if op = 3 then 1 else 0)
      let d := x.desc
      let u0 := s.readNat 4 (if op = 3 then x.idxA 1 else x.idxA 0)
      let e := s.readNat 4 (x.addr 7 + 4 * u0)
      let n := slotSize d (e % 4)
      let a := x.slotA (e % 4) (e / 4)
      hcOp x.w = op ∧ x.ran = false ∧ x.rLeft = 0 ∧ x.rOut = 0 ∧ s.hodStopped x = false ∧
      (s.hod 0).cmds.find? (fun c => decide (c.ring = 0) && !c.ran && decide (hcOp c.w = op)) = some x ∧ hcNidx x.w = 0 ∧
      hcPool x.w = 0 ∧ hcWen x.w = false ∧ u0 < tdRows d ∧ e % 4 < 3 ∧ e / 4 < tdCnt d (e % 4) ∧ 0 < n ∧
      (op = 3 → s.readNat 4 (x.idxA 0) = 1) ∧ tdRule d = 0 ∧ (hcCond x.w && hcClip x.w) = false ∧
      ∀ k ∈ [x.idxA 0, x.idxA 1, x.addr 7 + 4 * u0, a, x.dataA 0, x.addr 4, x.addr 5, x.addr 6], isCoherent k = false ∧
        s.readResp k 128 = .ok ∧ s.writeResp k 128 = .ok) ∧
    fmtBytes (hcOfmt (hodCmd 2).w) * tdD (hodCmd 2).desc = 64 ∧ ((gatherRow (hodCmd 1) 0 []).writes.map (·.1)) = [(hodCmd 1).dataA 0] ∧
    (hodCmd 2).addr 4 + 8 ≤ (hodCmd 2).addr 5 ∧ (hodCmd 2).addr 5 + 128 ≤ (hodCmd 2).addr 6 ∧
    (let s := hodding [{ rOut := 1 }, { wOut := 1, pos := 1 }];
      (s.hod 0).cmds.find? (fun c => decide (0 < c.rOut)) = some { rOut := 1 } ∧
      (s.hod 0).cmds.find? (fun c => decide (0 < c.wOut)) = some { wOut := 1, pos := 1 } ∧
      (s.job 0 0).jstate = 1 ∧ (s.job 0 0).faulted = false) ∧
    (∀ w ∈ [0, 2 ^ 660], let s := hodding [{ ran := true, w := w }]
      (s.hod 0).cmds.find? (fun c => c.ring = 0) = some { ran := true, w := w } ∧ hcRec w = false ∧ (hcSigen w = true ↔ w ≠ 0)) := by
  refine ⟨fun _ _ _ => ⟨base_noTrace, rfl⟩, by decide, by decide, by decide, by decide, by decide, by decide, by decide, by decide,
    by decide⟩

/-- An intake command: two streams of one sample each for I_ALIGN, or `w`. -/
def intCmd (op : Nat) : IntCmd :=
  { w := op + 2 ^ 112 + 2 ^ 912 + 2 ^ 864, tr := (List.range 8).map (fun k => spanAddr 0 + 4096 * k) }

/-- Memory of the alignment block: two streams, MODE `m`, the second stream's time `t`. -/
def intaking (cs : List IntCmd) (fetched : List Nat := []) (m : List Host.Cell := []) : State :=
  { base with hosts := [(0, { cstate := 0 }), (1, { cstate := 0 })], intakes := [(0, { cmds := cs })], mem := m
              rings := [(258048, { en := true, log2 := 6, base := spanAddr 0 + 65536, fetched := fetched, tail := 2 })] }

def aligning (mode : Bool) (t : Byte) : State :=
  intaking [intCmd 3] [] ([(spanAddr 0, if mode then 0x11 else 0x01)] ++ if t = 0 then [] else [(spanAddr 0 + 6 * 4096, t)])

set_option maxRecDepth 4000 in
/-- TOL is 0: a time of 0 is near, one of 1 is not. A head that a check passes and one that is too wide (the head of the input
itself is free, log 28). -/
theorem test_meets_IntakeCommandsRun :
    (∀ cs l m, (intaking cs l m).noTrace ∧ (intaking cs l m).noInjection) ∧ (intaking []).intakeHeld 0 = false ∧
    (let s := intaking [] [0, 0]; s.intPick 0 = some (0, 0) ∧ s.intakeMalformed 0 0 0 = false ∧ icWaiten 0 = false) ∧
    (∀ op ∈ [1, 2, 3, 4], let x := intCmd op; let s := intaking [x]
      x.ran = false ∧ x.rLeft = 0 ∧ x.rOut = 0 ∧ icOp x.w = op ∧ icNen x.w = false ∧
      (s.intake 0).cmds.find? (fun c => decide (c.ring = 0) && !c.ran && decide (icOp c.w = op)) = some x ∧
      isCoherent (x.addr 0) = false ∧ icInlen x.w = 1 ∧ s.readResp (x.addr 0) 1 = .ok ∧ isCoherent (x.addr 1) = false ∧
      s.writeResp (x.addr 1) 16 = .ok ∧ icCnt x.w = 2) ∧
    (let h : Config.PicHead := { supported := true, w := 1, h := 1 };
      rejectCause (intCmd 1).w h false = none ∧ rejectCause (intCmd 1).w { h with w := 16385 } false = some 2 ∧
      rejectCause (intCmd 1).w h true = some 8 ∧ h.bad = false) ∧
    (∀ m ∈ [true, false], ∀ t ∈ [0, 1], let s := aligning m t; let x := intCmd 3
      alStreams (s.readNat 16 (x.addr 0)) = 2 ∧ (alMode1 (s.readNat 16 (x.addr 0)) = m) ∧
      (natDist (bits (s.readNat 8 (x.addr 6)) 0 63) (bits (s.readNat 8 (x.addr 5)) 0 63) ≤ alTol (s.readNat 16 (x.addr 0)) ↔ t = 0) ∧
      ∀ k, k < 2 → alCount (s.readNat 16 (x.addr 0 + 16 + 16 * k)) = 1 ∧ isCoherent (x.addr 0 + 16 + 16 * k) = false ∧
        s.readResp (x.addr 0 + 16 + 16 * k) 16 = .ok ∧ isCoherent (x.addr (5 + k)) = false ∧ s.readResp (x.addr (5 + k)) 8 = .ok) ∧
    (let s := intaking [{ rOut := 1 }, { wOut := 1, pos := 1 }];
      (s.intake 0).cmds.find? (fun c => decide (0 < c.rOut)) = some { rOut := 1 } ∧
      (s.intake 0).cmds.find? (fun c => decide (0 < c.wOut)) = some { wOut := 1, pos := 1 } ∧
      (s.job (intPanel 0) (intSlot 0)).jstate = 1 ∧ (s.job (intPanel 0) (intSlot 0)).faulted = false) ∧
    (let x := { intCmd 1 with ran := true }; let s := intaking [x];
      (s.intake 0).cmds.find? (fun c => c.ring = 0) = some x ∧ icRec x.w = false ∧ icOp x.w ≠ 0 ∧ icSigen x.w = false ∧
      isCoherent (x.addr 2) = false ∧ s.writeResp (x.addr 2) 32 = .ok) := by
  refine ⟨fun _ _ _ => ⟨base_noTrace, rfl⟩, by decide, by decide, by decide, by decide, by decide, by decide, by decide⟩

/-! ### The manager (16) -/

/-- A packet: header word without its CRC, parameters. -/
def pack (op seq : Nat) (params : List Byte) : List Byte := sealed (op + 2 ^ 20 + seq * 2 ^ 32 + params.length * 2 ^ 64) params

/-- An owner's host that may reach the manager, and mailbox ring 0 of panel 0 with the entry `e`, whose packet and reply lie in
tier 2. -/
def icr (e : Nat) (pkt : List Byte) : State :=
  ({ base with mgmt := { allow := [(0, 0)] }
               rings := [(mailboxRing 0 0, { en := true, log2 := 6, base := 4096, clog := 65536, tail := 1 })] }.writeNat 64 4096 e).writeBytes
    1048576 pkt

def entry0 : Nat := 1048576 + 2097152 * 2 ^ 64

def dgram : Datagram := { srcIp := 0x0A000001, srcPort := 5, ident := 0, offset := 0, more := false, bytes := pack 1 1 [] }

/-- Nothing of tier 2 is in a cache of `icr`. -/
theorem icr_plain (e : Nat) (bs : List Byte) (a : Nat) : (icr e bs).plain a := .inr ⟨fun _ => rfl, rfl, rfl⟩

set_option maxRecDepth 8000 in
theorem passes_i3c : ({ base with mgmt := { i3cReply := none } } : State).passes .i3c .owner (pack 1 1 []) :=
  ⟨by decide, by decide, by decide, by decide, by decide, by decide, (1, .a, 0), by decide, by decide, by decide⟩

set_option maxRecDepth 8000 in
/-- An old SEQ of 2^32 - 1: SEQ 0 is ahead of it. -/
theorem passes_eth :
    (icr 0 []).passes (.eth dgram.srcIp dgram.srcPort) .owner dgram.bytes ∧
    ({ icr 0 [] with mgmt := { sessions := [(.i3c, { high := some 0xFFFFFFFF })] } } : State).passes .i3c .owner (pack 1 0 []) :=
  ⟨⟨by decide, by decide, by decide, by decide, by decide, by decide, (1, .a, 0), by decide, by decide, by decide⟩,
   ⟨by decide, by decide, by decide, by decide, by decide, by decide, (1, .a, 0), by decide, by decide, by decide⟩⟩

set_option maxRecDepth 20000 in
/-- The entry's packet and reply in tier 2; an entry with a reserved bit set. -/
theorem test_meets_PacketsAreAccepted :
    (base.managed = true ∧ base.boot.lcs ≠ 4 ∧ headerOk (toBytes 32 (1 + 2 ^ 20)) = true ∧ packetCrcOk (toBytes 32 (1 + 2 ^ 20)) = false) ∧
    (let s := icr 0 []; s.managed = true ∧ s.boot.recovery = false ∧ s.boot.lcs ≠ 4 ∧ s.allowed dgram.srcIp = true ∧ s.mgmt.frags = [] ∧
      dgram.bytes.length ≤ 8224) ∧
    (∀ e ∈ [entry0, 2 ^ 52], let s := icr e (pack 1 1 []); let r := s.ring (mailboxRing 0 0)
      s.managed = true ∧ r.en = true ∧ r.count ≠ 0 ∧ s.performing (.mailbox 0 0) = none ∧ s.mgmt.accepted.length < 256 ∧
      s.readResp (r.entryAddr r.head) 64 = .ok ∧ (s.entryOk (r.authAt r.head) (s.readNat 64 (r.entryAddr r.head)) = true ↔ e = entry0) ∧
      bit e 135 = false) ∧
    (let s := icr entry0 (pack 1 1 []); bits entry0 0 52 = 1048576 ∧ s.readResp 1048576 32 = .ok ∧
      (32 + bits (s.readNat 32 1048576) 64 13) = 32 ∧ s.t2Reach .owner 1048576 32 = true ∧
      s.readBytes 32 1048576 = pack 1 1 []) := by
  exact ⟨by decide, by decide, by decide, by decide⟩

set_option maxRecDepth 4000 in
theorem test_meets_ReplyReadsAndExpiries :
    base.managed = true ∧ base.mgmt.static = false ∧ base.mgmt.i3cReply = none ∧
    (∃ r, ({ base with mgmt := { i3cReply := some [1] } } : State).mgmt.i3cReply = some r) ∧
    (let s : State := { base with mgmt := { sessions := [(.eth 1 2, {})], want := true } };
      assoc s.mgmt.sessions (.eth 1 2) = some {} ∧ s.mgmt.want = true ∧ s.performing (.eth 1 2) = none) ∧
    (let r : Reasm := { ip := 1, ident := 2 }; ¬ (r.ip = 1 ∧ r.ident = 3)) := by
  refine ⟨by decide, by decide, by decide, ⟨_, rfl⟩, by decide, by decide⟩

/-- A packet of the module's owner over I3C. -/
def ask (op : Nat) (w : Nat := 0) (p : PanelId := 0) : IcralReq :=
  { sess := .i3c, auth := .owner, opcode := BitVec.ofNat 16 op, panel := p, check := false, seq := 1, tag := 0, plen := 0, params := w }

/-- The state with that packet accepted. -/
def asked (s : State) (q : IcralReq) : State := { s with mgmt := { s.mgmt with accepted := [{ q := q }] } }

/-- The packet is taken with its parameters as they stand. -/
def takes (s : State) (q : IcralReq) (op : Nat) (o : OpSpec) (w : Nat := q.params) : Bool :=
  decide (q.opcode.toNat = op) && s.turnOf q && !q.check && !o.outside s q &&
  (match judgeFields (o.fields s q) q.params with | .ok x => decide (x.1 = w) | .error _ => false) &&
  s.serves o.gate && !s.refusedResetting q

theorem takes_taken (s : State) (q : IcralReq) (op : Nat) (o : OpSpec) (w : Nat) (h : takes s q op o w = true) : ∃ cl, s.taken q op o w cl := by
  unfold takes at h
  simp only [Bool.and_eq_true, Bool.not_eq_true', decide_eq_true_eq] at h
  obtain ⟨⟨⟨⟨⟨⟨h1, h2⟩, h3⟩, h4⟩, h5⟩, h6⟩, h7⟩ := h
  split at h5
  · rename_i x hx
    exact ⟨x.2, h1, h2, h3, h4, by rw [hx, ← of_decide_eq_true h5], h6, h7⟩
  · cases h5

/-- A limit asked below and above the range, and at its ends. -/
theorem test_meets_ModuleQueriesAndSettings :
    takes (asked base (ask 1)) (ask 1) 1 specIdQuery = true ∧
    (let q := ask 2 1023; let s := asked { base with panels := [(0, { pan with jobs := [] })] } q
      takes s q 2 specSetModuleId = true ∧ s.anyJob = false) ∧
    (takes (asked base (ask 3)) (ask 3) 3 specStatusQuery = true ∧ (base.panel 0).state ≠ 0) ∧
    takes (asked base (ask 4)) (ask 4) 4 specTelemetry = true ∧
    (∀ x ∈ [(0, 7000), (7000, 7000), (7015, 7010), (16000, 16000), (2 ^ 32 - 1, 16000)],
      takes (asked base (ask 5 x.1)) (ask 5 x.1) 5 specSetPowerLimit x.2 = true) ∧
    takes (asked base (ask 6 5)) (ask 6 5) 6 specSetFabric = true ∧
    takes (asked base (ask 0x25 (16 * 2 ^ 64))) (ask 0x25 (16 * 2 ^ 64)) 0x25 specMgmtNet = true ∧
    takes (asked base (ask 7)) (ask 7) 7 specHostReset = true ∧
    takes (asked base (ask 8)) (ask 8) 8 specModuleReset = true ∧ bits 0 0 32 = base.boot.mepoch % 2 ^ 32 := by decide

/-- A LIFECYCLE packet. -/
def life (action rest : Nat) : IcralReq := ask 9 (action * 2 ^ 32 + rest)

/-- An image of one byte at 2 MiB of tier 2. -/
theorem test_meets_LifecyclePacketsAct :
    (∀ l ∈ [0, 1, 2, 3], ∀ x ∈ [1, 4], let q := life 0 (x * 2 ^ 35); let s := asked { base with boot := { up with lcs := l } } q
      takes s q 9 specTransition = true ∧ lcAction q = 0 ∧ bits q.params 0 32 = s.boot.mepoch % 2 ^ 32 ∧
      (moveOk s.boot.lcs (bits q.params 35 3) = decide (l = 0 ↔ x = 1))) ∧
    (let q := life 1 (2097152 * 2 ^ 64); let s := asked base q
      takes s q 9 specStage = true ∧ lcAction q = 1 ∧ s.boot.fwst ≠ 1 ∧ bits q.params 64 52 = 2097152 ∧
      bits q.params 128 32 + 1 = 1 ∧ s.readResp 2097152 1 = .ok) ∧
    (asked base (life 1 (2097152 * 2 ^ 64))).plain 2097152 ∧
    (({ up with fwst := 1 } : Boot).fwst = 1 ∧ 1 - ({ up with fwst := 1 } : Boot).slot ≤ 1) ∧
    (let q := life 2 0; let s := asked { base with boot := { up with fwst := 2 } } q
      takes s q 9 specActivate = true ∧ lcAction q = 2 ∧ s.boot.fwst = 2) ∧
    (∀ a ∈ [3, 4], let q := life a 0; let s := asked { base with boot := { up with recovery := true, mstate := 0 } } q
      takes s q 9 (if a = 3 then specBlock else specCommit) = true ∧ lcAction q = a ∧ s.boot.recovery = true) := by
  refine ⟨by decide, by decide, .inr ⟨fun _ => rfl, rfl, rfl⟩, by decide, by decide, by decide⟩

/-- A range of tier 2, tier 3 or the pool: 1 GiB at `b`, as the parameters of a packet name it. -/
def gibAt (b : Nat) : Nat := b * 2 ^ 64 + (2 ^ 30 - 1) * 2 ^ 128

/-- `base` with panel 0 in `state`, its grants `g`. -/
def withPanel (state : Nat) (g : List (Nat × Nat) := []) : State := { base with panels := [(0, { pan with state := state, grants := g })] }

set_option maxRecDepth 8000 in
theorem test_meets_PanelPacketsAct :
    (∀ w ∈ [16, 31, 256], let s := asked { base with panels := [] } (ask 0x10 w)
      takes s (ask 0x10 w) 0x10 specPanelCreate = true ∧ (s.panel 0).state = 0 ∧
      ∀ i, i < bits w 4 5 → s.colPanel (8 * (bits w 0 4 + i)) = none) ∧
    (∀ st ∈ [1, 2, 3], let s := withPanel st; (s.panel 0).state ≠ 0 ∧
      takes (asked s (ask 0x11)) (ask 0x11) 0x11 specPanelDestroy = true ∧
      takes (asked s (ask 0x12)) (ask 0x12) 0x12 specPanelReset = true) ∧
    (let q := ask 0x13 (gibAt (2 ^ 30)); let s := asked base q
      takes s q 0x13 specGrant = true ∧ bit q.params 0 = false ∧ (s.panel 0).state ≠ 0 ∧ s.grantConflict 0 (2 ^ 30) (2 ^ 30) = false) ∧
    (let q := ask 0x13 (gibAt (2 ^ 30) + 1); let s := asked (withPanel 2 [(2 ^ 30, 2 ^ 30)]) q
      takes s q 0x13 specGrantRevoke = true ∧ bit q.params 0 = true ∧ (s.panel 0).state ≠ 0 ∧ (2 ^ 30, 2 ^ 30) ∈ (s.panel 0).grants ∧
      s.rangeUsed 0 (2 ^ 30) (2 ^ 30) = false) ∧
    (let q := ask 0x14 (gibAt (2 ^ 30) + 31); let s := asked base q
      takes s q 0x14 specKeepDefine = true ∧ bits q.params 5 2 = 0 ∧ (s.keep 31).defined = false ∧
      s.keepRanges.any (fun z => overlaps z.1 z.2 (2 ^ 30) (2 ^ 30)) = false ∧ s.t2Dead (2 ^ 30) (2 ^ 30) = false ∧
      s.keepTotal + 2 ^ 30 ≤ 1792 * gib) ∧
    (∀ a ∈ [1, 2, 3], let q := ask 0x14 (a * 2 ^ 5)
      let s := asked { base with keeps := [(0, { defined := true, base := 2 ^ 30, len := 2 ^ 30 })] } q
      takes s q 0x14 (if a = 1 then specKeepRelease else if a = 2 then specKeepAssign else specKeepUnassign) = true ∧
      bits q.params 5 2 = a ∧ bits q.params 7 4 = 0 ∧ (s.keep 0).defined = true ∧ (s.keep 0).panel = none ∧ (s.panel 0).state ≠ 0) ∧
    (let q := ask 0x15 (gibAt (2 ^ 30) + 1); let s := asked { base with cxl := 1 } q
      takes s q 0x15 specPoolMap = true ∧ bit q.params 10 = false ∧ (setPositions 8 (poolPorts 1)).all (bit s.cxl) = true ∧
      s.pool.any (fun e => overlaps e.1 e.2.1 (2 ^ 30) (2 ^ 30)) = false) ∧
    (let q := ask 0x15 (2 ^ 30 * 2 ^ 64 + 2 ^ 10); let s := asked { base with pool := [(2 ^ 30, 2 ^ 30, 1, 0, 0)] } q
      takes s q 0x15 specPoolUnmap = true ∧ bit q.params 10 = true ∧ ∃ e ∈ s.pool, e.1 = bits q.params 64 52) ∧
    (∀ wl ∈ [0, 1], let q := ask 0x16 wl; let s := asked base q
      takes s q 0x16 specStaging = true ∧ (s.panel 0).state = 2 ∧
      (s.panel 0).segs.any (fun e => sgValid e.2 && decide (sgTier e.2 = 4)) = false) := by
  refine ⟨by decide, by decide, by decide, by decide, by decide, by decide, by decide, by decide, by decide⟩

set_option maxRecDepth 8000 in
theorem test_meets_WipesAndPanelResetsEnd :
    (let w : Wipe := { id := 7, tier := 2, ranges := [(4096, 8192)], panel := none, keep := none }; let s : State := { base with wipes := [w] }
      s.wipes.find? (fun w => decide (w.id = 7)) = some w ∧ w.ranges = [(4096, 8192)] ∧ w.keep = none ∧ s.mgmt.accepted = []) ∧
    (∀ a ∈ [0, 1], let x : Panel := { pan with state := 1, wiped := true, after := a }
      let s : State := { base with panels := [(0, x)], tiles := [(0, {})] }
      (s.panel 0).state = 1 ∧ (s.panel 0).wiped = true ∧ s.wipes.any (fun w => decide (w.panel = some 0)) = false ∧
      s.tiles.any (fun t => (s.panel 0).holdsTile t.1 && t.2.patternDue && !t.2.retire) = false ∧
      s.tiles.filter (fun t => (s.panel 0).holdsTile t.1 && t.2.retire) = [] ∧ (s.panel 0).after ≠ 2) := by
  refine ⟨by decide, by decide⟩

/-- Panel 0 in service with 1 GiB of tier 2 granted. -/
def granted : State := withPanel 2 [(2 ^ 30, 2 ^ 30)]

/-- A tile-local copy of slot 0 in flight on tile 0, whose descriptors name segment 0. -/
def busySeg : State :=
  { granted with tiles := [(0, { eng := [(2, { active := [{ c := { cmd := { hdr := 0x82 } } }] })] })] }

/-- A tier 2 segment and window entry over the first 4 KiB of the grant, and a reduction tensor at the start of the panel's HBM. -/
def segE : Nat := 4096 + 2 ^ 30 * 2 ^ 64 + 4095 * 2 ^ 128 + 3 * 2 ^ 176 + 2 ^ 191
def winE : Nat := 2 ^ 30 + 4095 * 2 ^ 64 + 3 * 2 ^ 112 + 2 ^ 118
def rtE : Nat := spanAddr 0 + 2 ^ 63

set_option maxRecDepth 8000 in
/-- Ring, segment and window numbers at both ends of their ranges, an invalid and a valid entry. -/
theorem test_meets_TablePacketsAct :
    (∀ g ∈ [0, 23], let q := ask 0x20 (g + (6 + 2 ^ 5 + 2 ^ 12) * 2 ^ 64 + 65536 * 2 ^ 128); let s := asked base q
      takes s q 0x20 specRingConfig = true ∧ (s.panel 0).state = 2 ∧ (s.ring g).en = false) ∧
    (∀ e ∈ [0, segE], ∀ k ∈ [0, 127], let q := ask 0x21 (k + e * 2 ^ 64); let s := asked granted q
      takes s q 0x21 specSegment = true ∧ bit q.params 8 = false ∧ (s.panel 0).state = 2 ∧ bits q.params 64 256 = e ∧
      s.segOk 0 (k / 16) (k % 16) e = true ∧ s.segUsers 0 (k / 16) (k % 16) = []) ∧
    (let q := ask 0x21 0; let s := asked busySeg q; takes s q 0x21 specSegment = true ∧ s.segOk 0 0 0 0 = true ∧ s.segUsers 0 0 0 ≠ []) ∧
    (let q := ask 0x21 256; takes (asked granted q) q 0x21 specSegmentRead = true ∧ bit q.params 8 = true) ∧
    (∀ s ∈ [granted, busySeg], let z : Accepted := { q := ask 0x21, wait := some (.seg 0 0 0 [(2, 0)]) }
      let u : State := { s with mgmt := { s.mgmt with accepted := [z] } }
      u.mgmt.accepted = [z] ∧ ([(2, 0)].any u.inEngine = decide (s ≠ granted))) ∧
    (∀ e ∈ [0, winE], ∀ k ∈ [0, 255], let q := ask 0x22 (k + e * 2 ^ 64); let s := asked granted q
      takes s q 0x22 specWindow = true ∧ bit q.params 8 = false ∧ bits q.params 64 256 = e ∧ s.winOk 0 e = true) ∧
    (let q := ask 0x22 256; takes (asked granted q) q 0x22 specWindowRead = true ∧ bit q.params 8 = true) ∧
    (∀ e ∈ [0, rtE], let q := ask 0x23 (4095 * 4 + e * 2 ^ 64); let s := asked granted q
      takes s q 0x23 specRtableWrite = true ∧ bits q.params 0 2 = 0 ∧ bits q.params 64 192 = e ∧ s.rtOk 0 e = true) ∧
    (let q := ask 0x23 (1 + 169 * 2 ^ 14); takes (asked granted q) q 0x23 specRtableRead = true ∧ bits q.params 0 2 = 1) ∧
    (let q := ask 0x23 (2 + 255 * 2 ^ 14); takes (asked granted q) q 0x23 specRtableArm = true ∧ bits q.params 0 2 = 2) ∧
    (∀ md ∈ [0, 32], let q := ask 0x24 (2 * 2 ^ 64 + md); let s := asked { base with ports := [(0, { st := 2 })] } q
      let y := (s.port 0).configure q.params
      takes s q 0x24 specCoursePort = true ∧ s.portNamed 0 = false ∧ s.rxRingOn 0 = false ∧ (s.port 0).st = 2 ∧
      ((s.port 0).eth = y.eth ↔ md = 0)) ∧
    (∀ d ∈ [(1, 0), (0x0B, 0), (0x0D, 1), (0x0F, 0)], let q := ask 0x40 (d.1 + d.2 * 256 + (if d.1 = 0x0D then 2 ^ 64 else 0))
      let s := asked { base with panels := [(0, { pan with jobs := [] })] } q
      takes s q 0x40 specInject = true ∧ bit q.params 9 = false ∧ bits q.params 0 8 = d.1 ∧ (bit q.params 8 = true ↔ d.2 = 1) ∧
      s.running 0 0 = false) ∧
    (let q := ask 0x40 (1 + 512); takes (asked base q) q 0x40 specDisarm = true ∧ bit q.params 9 = true) := by
  refine ⟨by decide, by decide, by decide, by decide, by decide, by decide, by decide, by decide, by decide, by decide, by decide,
    by decide, by decide⟩

/-- Panel 0 with its first slot in state `st`, 1 GiB of keep region at 1 GiB. -/
def slotIn (st : Nat) (wd : Nat := 0) : State :=
  { base with panels := [(0, { pan with jobs := [(0, { jstate := st, wdog := wd })] })], midset := true
              keeps := [(0, { defined := true, base := 2 ^ 30, len := 2 ^ 30, panel := some 0 })] }

/-- JOB_START of slot 0 alone: header at 1 GiB, OUTR, VTAB and PTAB in tier 2. -/
def startW : Nat := 2 ^ 30 * 2 ^ 192 + 4096 * 2 ^ 256 + 8192 * 2 ^ 320 + 16384 * 2 ^ 384

set_option maxRecDepth 8000 in
theorem test_meets_JobsStartEndAndIdle :
    (let q := ask 0x30 startW; let s := asked (slotIn 0) q; let rd := s.cohRead 72 16384; let tab := peerTable 0 rd.1
      let own := tab.getD 0 0; let cs := peerConns 0 0 0 tab
      takes s q 0x30 specJobStart = true ∧ bits startW 16 10 = 0 ∧ bits startW 384 52 = 16384 ∧ s.patternOwed 0 = false ∧
      s.midset = true ∧ (s.panel 0).state = 2 ∧ s.readResp 16384 72 = .ok ∧ bits own 0 10 = s.modId ∧ bits own 10 4 = 0 ∧
      bits own 14 3 = 0 ∧ (s.job 0 0).jstate = 0 ∧
      (s.panel 0).jobs.all (fun x => decide (x.2.jstate = 0 ∨ x.2.tag = bits startW 32 32)) = true ∧
      cs.all (fun c => c.2.paths.all (fun x => !(s.port x.1).eth)) = true ∧ 2 * s.conns.length + 2 * cs.length ≤ 8192 ∧
      bit startW 5 = false ∧ bit q.params 5 = false) ∧
    (∀ st ∈ [0, 1], let q := ask 0x31; let s := asked (slotIn st) q
      takes s q 0x31 specJobEnd = true ∧ (s.panel 0).state ≠ 0 ∧ (s.job 0 0).jstate = st) ∧
    (let s := slotIn 2; (s.job 0 0).jstate = 2 ∧ s.slotQuiet 0 0 = true ∧ s.halted = false ∧ (s.panel 0).state ≠ 1 ∧
      s.mgmt.accepted = []) ∧
    (∀ wd ∈ [0, 1], let s := slotIn 1 wd; (s.job 0 0).wdog = wd ∧ s.linkHold = false ∧ s.halted = false ∧ (s.job 0 0).jstate = 1) := by
  refine ⟨by decide, by decide, by decide, by decide⟩

/-- A transaction of tile 0 that fills from `a` on, outstanding. -/
def fillAt (a : Nat) : State :=
  (onEng 2 (mover 0x83 (some [.fill a 64 0]))).modTile 0 (fun x => { x with txns := [{ tag := 5, work := .fill a 64 0 }] })

set_option maxRecDepth 8000 in
/-- A WAIT_WORD whose word, 0, has reached its value and one whose word has not. -/
theorem test_meets_RequestTimersAndPolls :
    (∃ s : State, s.linkHold = true ∨ s.halted = true) ∧
    (let d : RemoteAdd := { src := tileAgent 0 }; let s : State := { base with adds := [d] }
      s.linkHold = false ∧ s.halted = false ∧ s.adds.find? (fun z => decide (z.src = tileAgent 0)) = some d ∧
      (s.job 0 0).jstate = 1 ∧ (s.job 0 0).faulted = false) ∧
    (let x : HodCmd := { rOut := 1 }; let s := hodding [x]; s.linkHold = false ∧ s.halted = false ∧ s.spanPanel 0 = some 0 ∧
      (s.hod 0).cmds.find? (fun c => decide (0 < c.rOut + c.wOut)) = some x ∧ (s.job 0 (x.ring / 16)).jstate = 1 ∧ (s.job 0 0).faulted = false) ∧
    (let x : IntCmd := { wOut := 1 }; let s := intaking [x]; s.linkHold = false ∧ s.halted = false ∧
      (s.intake 0).cmds.find? (fun c => decide (0 < c.rOut + c.wOut)) = some x ∧ (s.job (intPanel 0) (intSlot 0)).jstate = 1 ∧
      (s.job (intPanel 0) (intSlot 0)).faulted = false) ∧
    (∀ a ∈ [poolBase, winAddr 1 0], let s := fillAt a; let x : Txn := { tag := 5, work := .fill a 64 0 }
      s.linkHold = false ∧ s.halted = false ∧ (s.tile 0).txns.find? (fun z => decide (z.tag = 5)) = some x ∧
      (isPool (s.txnAddr 0 x) = decide (a = poolBase))) ∧
    (let z : Accepted := { q := ask 0x30, wait := some (.resume 0 0) }
      let s : State := { base with mgmt := { accepted := [z] } }; s.mgmt.accepted = [z] ∧ z.wait = some (.resume 0 0)) ∧
    (∀ v ∈ [0, 1], let w := spanAddr 0 * 2 ^ 64 + v * 2 ^ 128; let s := course {} [] [w]
      crsRing 0 0 < 262144 ∧ s.courseActive 0 0 = none ∧ s.courseHead 0 0 = some w ∧ ccWaddr w ≠ 0 ∧
      ((s.waitWord 0 0 (ccWaddr w) (ccWval w)).2.toOption = some (decide (v = 0)))) := by
  refine ⟨⟨{ base with dbg := { halt := true } }, .inr rfl⟩, by decide, by decide, by decide, by decide, by decide, by decide⟩

/-- Mailbox ring 0 of panel 0, enabled, with `n` entries. -/
def mailed (n : Count) : State := { base with rings := [(mailboxRing 0 0, { en := true, log2 := 6, base := 4096, clog := 65536, tail := n })] }

/-- The module's event log enabled with `n` records. -/
def logged (n : Count) : State := { base with evt := { en := true, log2 := 6, base := 4096, tail := n } }

/-- CFG of a ring of 64 entries at `b` pages. -/
def cfgW (b : Nat) : BitVec 64 := BitVec.ofNat 64 (6 + 2 ^ 5 + b * 2 ^ 12)

theorem skim_fits : skimFits 0 1 = true := by
  unfold skimFits
  refine Bool.and_eq_true_iff.mpr ⟨rfl, List.all_eq_true.mpr (fun t h => Bool.or_eq_true_iff.mpr (.inr ?_))⟩
  have h := List.mem_range.mp h
  exact decide_eq_true (show 0 + 2048 * t + 2048 ≤ tib2 by unfold tib2; omega)

set_option maxRecDepth 8000 in
/-- A CFG at a page of tier 2 and one past its end; a trace ring of the marker; skims that fit and do not. -/
theorem test_meets_RegisterAccessesAct :
    (base.halted = false ∧ (∀ au ∈ [.owner, .panel 0], reaches au (base.tilePanel 0) = true ∧ reaches au (some 0) = true) ∧
      ({ base with dbg := { halt := true } } : State).halted = true) ∧
    base.noTrace ∧
    (∀ b ∈ [1, 2 ^ 39], let s := mailed 0; let z := (s.ring (mailboxRing 0 0)).icrWrite .cfg (cfgW b).toNat (.panel 0)
      reaches (.panel 0) (some 0) = true ∧ s.modulesOwn (mailboxRing 0 0) (.panel 0) = false ∧
      (s.ring (mailboxRing 0 0)).head = (s.ring (mailboxRing 0 0)).tail ∧
      ((mailed 0).ringFits .owner ((s.ring (mailboxRing 0 0)).icrWrite .cfg (cfgW b).toNat .owner) true = decide (b = 1)) ∧ z.en = true) ∧
    (let r := (mailed 1).ring (mailboxRing 0 0); ¬ (r.en = false ∨ r.head = r.tail)) ∧
    (base.boot.fatalDue = false ∧ base.evt.en = false ∧
      base.ringFits .owner { base.evt with log2 := 6, en := true, base := 4096, modr := true } false = true) ∧
    (let r := (logged 1).evt; ¬ (r.en = false ∨ r.head = r.tail) ∧ r.en = true ∧ ((1 : Count) - r.head).toNat ≤ (r.tail - r.head).toNat) ∧
    traceRingId 15 63 < 262144 ∧
    ((∀ v ∈ [(1, true, false), (3, true, true), (0, false, false), (4, false, false)], bit v.1 0 = v.2.1 ∧ bit v.1 1 = v.2.2) ∧
      (bit 4 2 = true ∧ bit 12 3 = true ∧ bit 13 0 = true ∧ bit 13 2 = true ∧ bit 13 3 = true) ∧ base.dbg.halt = false) ∧
    (skimFits 0 1 = true ∧ skimFits 64 65535 = false) ∧
    (let s : State := { base with panels := [(0, { pan with trcCtl := 1 })]
                                  rings := [(traceRingId 0 1, { en := true, log2 := 6, base := spanAddr 0 })] }
      let w := s.ring (traceRingId 0 1)
      (bit (s.panel 0).trcCtl 0 = true ∧ bit (s.panel 0).trcCtl 1 = false) ∧ w.en = true ∧ w.full = false ∧ w.lost = 0 ∧
      isCoherent (w.entryAddr w.tail) = false) ∧
    ({ base with time := { armed := some 5 } } : State).time.armed = some 5 ∧ 3 % 4 ≠ 0 := by
  refine ⟨by decide, base_noTrace, by decide, by decide, by decide, by decide, by decide, by decide, ⟨skim_fits, rfl⟩, by decide, by decide⟩

/-- The header word of an intact flit with header bits `low` and no content. -/
def flit (low : Nat) : BitVec 64 := BitVec.ofNat 64 (low + flitCrc low * 2 ^ 32)

/-- Link `k` with the record `x`. -/
def linked (k : Nat) (x : Link) : State := { base with links := [(k, x)] }

set_option maxRecDepth 20000 in
/-- A flit with a wrong CRC, an idle one, and a body flit next in order after SEQ 255; the east edge of die 0 and a sill-ring hop. -/
theorem test_meets_LinksReceiveReplayAndRetrain :
    base.noInjection ∧
    (let k := linkKey (.mortar 0 1 0); linkExists k = true ∧ base.linkState k = 3 ∧ linkKey (.mortar 0 0 0) = 0 ∧ linkExists 0 = false) ∧
    (let w := (2 ^ 32 : BitVec 64).toNat; flitCrc w ≠ bits w 32 32) ∧
    (let w := (flit 0).toNat; flitCrc w = bits w 32 32 ∧ bit w 21 = false) ∧
    (let w := (flit (2 ^ 21)).toNat; flitCrc w = bits w 32 32 ∧ bit w 21 = true ∧ flitSeq w = (255 + 1) % 256 ∧ flitHead w = false) ∧
    (let k := linkKey (.mortar 0 1 0); let x : Link := { rxSeq := 255, held := [1], failedReplays := 6 }; let s := linked k x
      s.link k = x ∧ x.waitq = [] ∧ x.exit.getD 0 none = none ∧ x.waitReplay = false ∧ x.failedReplays < 7 ∧ x.replayTimes.length < 16 ∧
      s.linkState k = 3 ∧ x.held ≠ [] ∧ x.spares + x.withdrawn < 2) ∧
    (mortarKey 0 1 0 = linkKey (.mortar 0 1 0) ∧ bit (1 : BitVec 32).toNat 0 = true) ∧
    (∀ l ∈ [LinkId.mortar 0 1 0, .ucie 0 1], ∀ tr ∈ [0, 1, 2], let k := linkKey l; let x : Link := { st := some 4, spares := 2, trial := tr }
      let s := linked k x
      linkExists k = true ∧ s.linkState k = 4 ∧ (s.link k) = x ∧ (k < 2560 ↔ l = .mortar 0 1 0) ∧ x.rate ≤ s.boot.ufloor ∧ x.rate < 2 ∧
      x.half = false ∧ (s.link (linkPeer k)).waitq = []) ∧
    (linked (linkKey (.mortar 0 1 0)) { st := some 5 }).linkState (linkKey (.mortar 0 1 0)) = 5 := by
  refine ⟨rfl, by decide, by decide, by decide +kernel, by decide +kernel, by decide, by decide, by decide, by decide⟩

/-- `base` with tile 0's record `x`. -/
def tiled (x : TileS) : State := { base with tiles := [(0, x)] }

set_option maxRecDepth 4000 in
/-- Input powers on both sides of the band, temperatures at each limit. -/
theorem test_meets_PowerSamplesAndTestsAct :
    base.noInjection ∧ base.boot.rails = true ∧ base.managed = true ∧
    (99 * base.power.limitNow < 100 * 16000 ∧ 100 * 6000 ≤ 99 * base.power.limitNow ∧ base.power.ticks + 1 < 100 ∧
      99 ≤ ({ base with power := { ticks := 99 } } : State).power.ticks) ∧
    (∀ q ∈ [(420 : Int), 499], (tiled {}).tile 0 = {} ∧ ({} : TileS).thermal = false ∧ 420 ≤ q ∧ q < 500) ∧
    (({ thermal := true } : TileS).thermal = true ∧ (400 : Int) ≤ 400 ∧ (401 : Int) < 500 ∧ (419 : Int) < 420) ∧
    base.boot.tripped = false ∧ 114 < 115 ∧ (base.stack 0).stop = false ∧ (((base.host 0).pkgs.get {} 15).sref = false) ∧
    (let x := (tiled { patternDue := true }).tile 0; x.patternDue = true ∧ ((tiled { patternDue := true }).engine 0 0).active = []) ∧
    base.halted = false ∧ (base.tile 0).patternDue = false ∧
    (let x := (tiled { suspect := some 0 }).tile 0; x.suspect = some 0 ∧ x.patternDue = false ∧ x.retire = false) := by
  refine ⟨rfl, by decide, by decide, by decide, by decide, by decide, by decide, by decide, by decide, by decide, by decide, by decide,
    by decide, by decide⟩

/-- A module in boot state `b`. -/
def booting (b : Boot) : State := { base with boot := b }

set_option maxRecDepth 4000 in
/-- RST_N just below and at 100 µs and 1 ms. -/
theorem test_meets_SuppliesResetsAndPhasesAct :
    up.p12 = true ∧ ({} : Boot).p12 = false ∧ up.p54 = true ∧ ({} : Boot).p54 = false ∧
    ({ up with phase := 2 } : Boot).mayStart = true ∧ ({} : Boot).mayStart = false ∧
    (99 < 100 ∧ 100 ≤ 100 ∧ 999 < 1000 ∧ 1000 ≤ 1000) ∧
    (let b : Boot := { up with rst := some 5 }; b.p12 = true ∧ b.rst = some 5 ∧ b.attempts = none) ∧ up.rst = none ∧
    (∀ n, ({} : Boot).due n = false) ∧
    (∀ n ∈ [1, 2, 3, 9], ({ up with phase := n - 1 } : Boot).due n = true) ∧ ({ up with phase := 2 } : Boot).mayStart = true ∧
    ({ base with wipes := [{}] } : State).wipes ≠ [] ∧
    (let b : Boot := { up with phase := 8 }; (booting b).mgmt.accepted = [] ∧ b.causes = 0 ∧ b.ref = 1 ∧ b.lcs ≠ 3 ∧ b.lcs ≠ 4) ∧
    (let b : Boot := { up with phase := 8, causes := 2 ^ 2 }; b.due 9 = true ∧ b.causes = 2 ^ 2 ∧ b.ref = 1 ∧ b.lcs ≠ 3 ∧ b.lcs ≠ 4) := by
  refine ⟨by decide, by decide, by decide, by decide, by decide, by decide, by decide, by decide, by decide, fun _ => rfl, by decide,
    by decide, by decide, by decide, by decide⟩

/-- The reference time with lock `l`, and the last of `k` good edges at `e`. -/
def timed (l : Bool) (k : Nat) (e : Option Nat) (armed : Option Nat := none) (now : Nat := 0) : State :=
  { base with now := now, time := { lock := l, streak := k, lastEdge := e, armed := armed } }

set_option maxRecDepth 4000 in
/-- Edges 1000 and 1001 ns from a second. -/
theorem test_meets_ReferenceTimeAndManagersAct :
    (∀ r ∈ [0, 1, 2, 3], ({ up with ref := r } : Boot).ref = r) ∧
    (let s := timed true 3 none (some 7); s.time.lock = true ∧ offSecond (max s.now 1000001000) ≤ 1000 ∧ s.time.armed = some 7) ∧
    (let s := timed true 3 none; 1000 < offSecond (max s.now 1000001001) ∧ s.time.armed = none) ∧
    (let s := timed false 2 (some 5) none 5; s.time.lock = false ∧ s.time.lastEdge = some 5 ∧ edgeGood 5 (max s.now 1000001005) = true ∧
      s.time.streak = 2 ∧ s.time.armed = none) ∧
    (base.managed = true ∧ ({} : State).managed = false) ∧
    (∀ st ∈ [true, false], ({ up with stby := st } : Boot).recovery = false ∧ ({ up with stby := st } : Boot).stby = st) ∧
    (∀ l ∈ [0, 3], ({ up with lcs := l } : Boot).lcs = l) ∧ ((16 : BitVec 5).toNat ≤ 16) ∧
    up.rails = true ∧ ({} : Boot).rails = false ∧ (57 : Fin 58).val ≠ 0 ∧ (57 : Fin 58).val ≠ 9 := by
  refine ⟨by decide, by decide, by decide, by decide, by decide, by decide, by decide, by decide, by decide, by decide, by decide,
    by decide⟩

/-! ### Ill-formed commands -/

def someReq (op : MemOp) (a : Nat := 0) : MemReq := { src := .tile 0, job := none, addr := a, op := op, tag := 0 }
def someFrame (hdr n : Nat) : CourseFrame := { fcsOk := true, etype := 0x88B5, hdr := hdr, payload := List.replicate n 0 }
def someCacc (vals : List Nat) (m : Int := 0) (k : Bool := true) : CaccPacket :=
  { panel := 0, slot := 0, src := .tile 0, kind1 := k, cof := false, cnf := false, cmv := false, cmaxe := m, rtid := 0, addr := 0, vals := vals }

set_option maxRecDepth 8000 in
/-- One ill-formed term for each check. -/
theorem test_wellFormed_refuses :
    ∀ i ∈ [Instr.remoteAgentRequest 0 (someReq (.read 0)) .clean, .sillHbmRequest 0 (someReq (.write [])) .clean,
      .homeNoncohAccess 0 (someReq (.read 2) (2 ^ 52 - 1)) .clean, .homeAtomic 0 (someReq (.read 4)),
      .homeAtomic 0 (someReq (.atomic .add false (2 ^ 32) 0)), .homeAtomic 0 (someReq (.atomic .cas false 0 (2 ^ 32))),
      .caccReceive (someCacc []), .caccReceive (someCacc [0] 512), .caccReceive (someCacc [2 ^ 48]),
      .caccReceive (someCacc [2 ^ 32] 0 false), .stagedRead 0 0 0 0 0, .stagedRead 0 0 (2 ^ 52) 1 0, .stagingFillComplete 0 (2 ^ 29),
      .cohReq 0 (2 ^ 46) .rdS 0 (.tile 0), .writeback 0 0 (.tile 0) (2 ^ 512), .homeSnoopRsp 0 0 (.inl (.tile 0)) (.invData (2 ^ 512)),
      .cohGrantReceive (.tile 0) 0 (.shared (2 ^ 512)), .reservationExpiry 0 (.set 65536)] ++
     [Instr.pcieInboundRequest 0 0 (2 ^ 64) (.read 1) false .fault, .courseDataReceive 0 (someFrame (2 ^ 384) 0),
      .ethFrameReceive 0 { bytes := List.replicate 13 0, fcsOk := true }, .mgmtDatagramReceive { dgram with offset := 4 },
      .idQuery (ask 1 1), .panelCreate { ask 0x10 with plen := 4097 }, .registerReadClear 4 true .owner, .registerWrite 2 false 0 .owner,
      .registerWrite 0 false (2 ^ 32) .owner, .linkReplayTimeout (.ucie 16 0), .linkFlitReceive (.mortar 0 1 0) 0 (2 ^ 960),
      .linkRetrain (.mortar 0 1 0) 67, .tileTempSample 0 2048, .hbmTempSample 0 256, .lpddrPatrolScrub 0 0 (2 ^ 52) .clean true,
      .droopDetect 0 4096, .ppsEdge (2 ^ 64)], WellFormed i = false := by decide

/-- Operands at the ends of their ranges. -/
theorem test_wellFormed_accepts :
    ∀ i ∈ [Instr.homeAtomic 0 (someReq (.atomic .add true (2 ^ 64 - 1) 0) (2 ^ 52 - 8)), .caccReceive (someCacc [2 ^ 48 - 1] 511),
      .stagedRead 0 0 0 4096 0, .registerWrite 4 false (2 ^ 32 - 1) .owner, .linkReplayTimeout (.ucie 16 1), .linkRetrain (.mortar 0 1 0) 66,
      .tileTempSample 0 (-2048)], WellFormed i = true := by decide

/-! ### The spec's worked examples -/

/-- 01, 03, 09: tile 6,477, its die, SRAM window, register block and span. -/
theorem test_tile_6477 :
    tileX 6477 = 77 ∧ tileY 6477 = 50 ∧ tileDie 6477 = 28 ∧ winAddr 6477 0 = 0x200653400000 ∧ tileBlock 6477 = 0x3000194D0000 ∧
    tileSpan 6477 = 23 ∧ spanAddr 23 = 0x108A00000000 := by decide

/-- 09: offset 0x1234_5000 of span 23 is in channel 373 at 0x123_4000. -/
theorem test_hbm_channel : base.hbmChannel 23 0x12345000 = (373, 0x1234000) := by decide

/-- 10: package 9 of host die 1. -/
theorem test_lpddr_package : lpddrPkg 0x012345678940 = 16 + 9 := by decide

/-- A block of 32 elements, zero after the first ones. -/
def blk (f : Fmt) (scale : Nat) (xs : List Nat) : Blk :=
  { scale := scale, els := (xs ++ List.replicate (32 - xs.length) 0).map (fun c => some (f.decode c)) }

set_option maxRecDepth 4000 in
/-- 02: 2^24 + 1 − 2^24 under the scales 0x7F and 0x80, onto 0.5. -/
theorem test_dpu_exact_sum :
    (dpuUpdate false false { v := 0x3F000000 } (blk fmtE5M2 0x7F [0x6C, 0x3C, 0xEC]) (blk fmtE5M2 0x80 [0x6C, 0x3C, 0x6C])).1.v = 0x40200000 := by
  decide

set_option maxRecDepth 4000 in
/-- 02: 1.75 · 2^-38 and −1.25 · 2^-38 are truncated to 2^-38 beside 1.0. -/
theorem test_dpu_bf16_truncates :
    (dpuUpdate true false {} (blk fmtBF16 0x7F [0x3F80, 0x2CE0, 0xACA0]) (blk fmtBF16 0x7F [0x3F80, 0x3F80, 0x3F80])).1.v = 0x3F800000 := by
  decide

/-- 02: 300.0 and 1,000.0 as MXFP8 E4M3; stochastic rounding above and below F. -/
theorem test_mxfp8_of_300 :
    blockScale fmtE4M3 [val32 0x43960000] = 0x7F ∧ (blockElem fmtE4M3 false .rne 0 (val32 0x43960000)).1 = 0x79 ∧
    (blockElem fmtE4M3 false (.dsr 0x5A3C1E07) 0 (val32 0x43960000)).1 = 0x7A ∧
    (blockElem fmtE4M3 false (.dsr 0xC0000000) 0 (val32 0x43960000)).1 = 0x79 ∧
    blockScale fmtE4M3 [val32 0x447A0000] = 0x80 ∧ blockElem fmtE4M3 false .rne 1 (val32 0x447A0000) = (0x7E, {}) := by decide

/-- 07: the ring of tile 6,477's example, HEAD 0xFFFF_FFF0, TAIL `t`. -/
def belled (t : Count) : State :=
  { base with rings := [(155463, { en := true, log2 := 8, head := 0xFFFFFFF0, tail := t })] }

/-- 07: a doorbell that is accepted and a stale one. -/
theorem test_doorbell :
    (((belled 0xFFFFFFF8).doorbell 155463 0x10 .owner).ring 155463).tail = 0x10 ∧
    (((belled 0x10).doorbell 155463 0xFFFFFFF8 .owner).ring 155463).tail = 0x10 := by decide

/-- 07: an overflow stops the ring and leaves TAIL. -/
theorem test_doorbell_overflow :
    let r := ((belled 0x10).doorbell 155463 0x200 .owner).ring 155463
    r.tail = 0x10 ∧ r.stopped = true := by decide

/-- 11: RTID 7's X after the arm, and the three contributions. -/
theorem test_reduction_contributions :
    let e := rtArm (16 * 2 ^ 112 + 2 ^ 117 + 2 ^ 118 + 2 ^ 130 + unsigned 10 (-3) * 2 ^ 136)
    rtX e = -32 ∧ (contribution e 0x3DCCCCCD).1 = 429496736 ∧ (contribution e 0xBCCCCCCD).1 = -107374184 ∧
    (contribution e 0x3D800000).1 = 268435456 ∧ rtMval e = false := by decide

/-- 11: the element's value read back as BF16. -/
theorem test_reduction_read_bf16 : (fmtBF16.convert false .rne (.num false 590558008 (-32))).1 = 0x3E0D := by decide

/-- 12: the shards of 1,000 elements over three ranks. -/
theorem test_shards : (List.range 3).map (shard 1000 3) = [(0, 352), (352, 352), (704, 296)] := by decide

set_option maxRecDepth 4000 in
/-- 10: mx.opa of acc2 element (3, 7), −1.0 + 0x3F81². -/
theorem test_mxOpa :
    let x : HostCore := ({ ms := 2, v := [(1, 0x3F81 * 2 ^ 48), (2, 0x3F81 * 2 ^ 112)] } : HostCore).setElem 2 3 7 0xBF800000
    let s : State := { base with cores := [(0, x)], hosts := [(0, { cstate := 0 })] }
    (match exec (.mxOpa 0 2 1 2) s with | .next t => (t.core 0).elem 2 3 7 | _ => 0) = 0x3C808000 := by decide +kernel

end Sys2Proof.Tests
end

section
/-!
Register accesses that act (00 R11, 15 R503, 16 R540, 19 R600 to R611): what each register's write or read does once it reaches
its register, and the settling of RegisterAccessesAct from these.
-/
namespace Sys2Proof.Machine
open Sys2Proof

/-! ### Words and reach -/

theorem bits_zero (w n : Nat) : bits w 0 n = w % 2 ^ n := by simp [bits]

@[simp] theorem reaches_owner (p : Option Nat) : reaches .owner p = true := rfl

/-! ### Writes of a tile's registers (R91, R92) -/

theorem State.tileWrite_halted {s : State} (t off : Nat) (au : Auth) (f : State → State) (hh : s.halted = true) :
    s.tileWrite t off au f = s := by
  simp [State.tileWrite, hh]

theorem State.tileWrite_reached {s : State} {t : Nat} {au : Auth} (off : Nat) (f : State → State) (hh : s.halted = false)
    (hr : reaches au (s.tilePanel t) = true) : s.tileWrite t off au f = f s := by
  simp [State.tileWrite, hh, hr]

theorem State.pauseWrite_reached {s : State} {t : Nat} {au : Auth} (v : BitVec 32) (hh : s.halted = false)
    (hr : reaches au (s.tilePanel t) = true) :
    s.pauseWrite t v.toNat au = s.setTile t { s.tile t with pause := v.setWidth 8 } := by
  rw [State.pauseWrite, State.tileWrite_reached _ _ hh hr, State.modTile_eq, BitVec.ofNat_toNat]

/-- From `s` to `u` only the engines of tile `t` may differ. -/
def State.EnginesOnly (t : Nat) (s u : State) : Prop :=
  s.onlyTile u t ∧ u.tile t = { s.tile t with eng := (u.tile t).eng }

theorem State.EnginesOnly.refl (t : Nat) (s : State) : s.EnginesOnly t s := ⟨⟨rfl, fun _ _ => rfl⟩, rfl⟩

theorem State.EnginesOnly.trans {t : Nat} {s u v : State} (h : s.EnginesOnly t u) (k : u.EnginesOnly t v) :
    s.EnginesOnly t v := by
  obtain ⟨⟨hs, hw⟩, ht⟩ := h
  obtain ⟨⟨ks, kw⟩, kt⟩ := k
  exact ⟨⟨by rw [ks, hs], fun w hn => (kw w hn).trans (hw w hn)⟩, by rw [kt, ht]⟩

theorem State.EnginesOnly.panels {t : Nat} {s u : State} (h : s.EnginesOnly t u) : u.panels = s.panels := by
  rw [h.1.1]

theorem State.EnginesOnly.rings {t : Nat} {s u : State} (h : s.EnginesOnly t u) : u.rings = s.rings := by
  rw [h.1.1]

theorem State.EnginesOnly.sync {t : Nat} {s u : State} (h : s.EnginesOnly t u) : (u.tile t).sync = (s.tile t).sync := by
  rw [h.2]

theorem State.EnginesOnly.noTrace {t : Nat} {s u : State} (h : s.EnginesOnly t u) (hn : s.noTrace) : u.noTrace := by
  intro p
  rw [State.panel, h.panels]
  exact hn p

theorem State.setEngine_enginesOnly (s : State) (t c : Nat) (e : Engine) : s.EnginesOnly t (s.setEngine t c e) := by
  rw [State.setEngine_eq]
  exact ⟨⟨rfl, fun w hw => State.tile_setTile_ne _ _ _ _ hw⟩, by simp⟩

theorem State.traceTile_noTrace {s : State} (hn : s.noTrace) (t : Nat) (rec : Trace) : s.traceTile t rec = s := by
  unfold State.traceTile
  split
  · simp [Panel.traces, hn _, bit]
  · rfl

/-- With tracing off a wait's notes are kept in the engine alone. -/
theorem State.noteWait_enginesOnly {s : State} (hn : s.noTrace) (t c j : Nat) : s.EnginesOnly t (s.noteWait t c j) := by
  unfold State.noteWait
  dsimp only
  split
  · simp only [State.traceTile_noTrace hn]
    split
    · exact State.setEngine_enginesOnly ..
    · split
      · exact State.setEngine_enginesOnly ..
      · exact .refl t s
  · exact .refl t s

theorem State.noteWaits_enginesOnly {s : State} (hn : s.noTrace) (t c : Nat) : s.EnginesOnly t (s.noteWaits t c) := by
  unfold State.noteWaits
  generalize List.range 8 = js
  induction js generalizing s with
  | nil => exact .refl t s
  | cons j js ih =>
    have hj := State.noteWait_enginesOnly hn t c j
    exact hj.trans (ih (hj.noTrace hn))

/-- The waits of a tile's three engines, noted after an update of its counters. -/
theorem State.noteAllWaits_enginesOnly {s : State} (hn : s.noTrace) (t : Nat) :
    s.EnginesOnly t (((s.noteWaits t 0).noteWaits t 1).noteWaits t 2) := by
  have h0 := State.noteWaits_enginesOnly hn t 0
  have h1 := h0.trans (State.noteWaits_enginesOnly (h0.noTrace hn) t 1)
  exact h1.trans (State.noteWaits_enginesOnly (h1.noTrace hn) t 2)

theorem State.setCtr_sync (s : State) (t j c : Nat) (v : BitVec 16) (byTile byEng : Nat) (rem : Bool) :
    ((s.setCtr t j c v byTile byEng rem).tile t).sync = (s.tile t).sync.set {} (ctrKey j c) ⟨v, byTile, byEng, rem⟩ := by
  rw [State.setCtr, State.modTile_eq, State.tile_setTile]

theorem State.syncWrite_reached {s : State} {t : Nat} {au : Auth} (j : Slot) (c : Fin 64) (v : BitVec 32)
    (hh : s.halted = false) (hr : reaches au (s.tilePanel t) = true) (hn : s.noTrace) :
    let u := s.syncWrite t (64 * j + c) v.toNat au
    ((u.tile t).ctr j c).val = v.setWidth 16 ∧
      (∀ k, k ≠ ctrKey j c → (u.tile t).sync.get {} k = (s.tile t).sync.get {} k) ∧
      (∀ w, w ≠ t → u.tile w = s.tile w) ∧ u.panels = s.panels ∧ u.rings = s.rings := by
  have hj : (64 * j.val + c.val) / 64 = j := by omega
  have hc : (64 * j.val + c.val) % 64 = c := by omega
  rw [State.syncWrite, State.tileWrite_reached _ _ hh hr, hj, hc, BitVec.ofNat_toNat]
  have h := State.noteAllWaits_enginesOnly (s := s.setCtr t j c (v.setWidth 16) t 3 false) hn t
  have hs := h.sync.trans (State.setCtr_sync s t j c (v.setWidth 16) t 3 false)
  refine ⟨?_, fun k hk => ?_, fun w hw => (h.1.2 w hw).trans (State.tile_setTile_ne _ _ _ _ hw), h.panels, h.rings⟩
  · rw [TileS.ctr, hs, Table.get_set_self]
  · rw [hs, Table.get_set_ne _ _ _ hk]

/-! ### Writes of a panel's registers (R510, R540) -/

theorem State.pnlWrite_reached {au : Auth} {p : Nat} (s : State) (off : Nat) (f : State → State)
    (hr : reaches au (some p) = true) : s.pnlWrite p off au f = f s := by
  simp [State.pnlWrite, hr]

theorem State.suspWrite_reached {au : Auth} {p : Nat} (s : State) (v : BitVec 32) (hr : reaches au (some p) = true) :
    s.suspWrite p v.toNat au = s.setPanel p { s.panel p with susp := v.setWidth 8 } := by
  rw [State.suspWrite, State.pnlWrite_reached _ _ _ hr, State.modPanel_eq, BitVec.ofNat_toNat]

/-- The ring is disabled or empty: the rings whose configuration a write may change (R540). -/
def Ring.configurable (r : Ring) : Prop := r.en = false ∨ r.head = r.tail

theorem Ring.configurable_iff (r : Ring) : r.configurable ↔ (r.en && decide (r.head ≠ r.tail)) = false := by
  simp only [Ring.configurable, Bool.and_eq_false_iff, decide_eq_false_iff_not, ne_eq, Classical.not_not]

theorem Ring.not_configurable_iff (r : Ring) : ¬ r.configurable ↔ (r.en && decide (r.head ≠ r.tail)) = true := by
  rw [Ring.configurable_iff, Bool.not_eq_false]

theorem State.icrWrite_accepted {s : State} {p : PanelId} {i : Fin 64} {k : IcrReg} {v : Nat} {au : Auth}
    (hr : reaches au (some p.val) = true) (ho : s.modulesOwn (mailboxRing p i) au = false)
    (hi : (s.ring (mailboxRing p i)).configurable)
    (hf : s.ringFits au ((s.ring (mailboxRing p i)).icrWrite k v au) true = true) :
    s.icrWrite p i k v au =
      let z := (s.ring (mailboxRing p i)).icrWrite k v au
      if k = .cfg ∧ z.en = true then (s.setRing (mailboxRing p i) z).dropSession (.mailbox p i)
      else s.setRing (mailboxRing p i) z := by
  simp only [State.icrWrite, hr, ho, (Ring.configurable_iff _).mp hi, hf]
  rfl

theorem State.icrWrite_refused {s : State} {p : PanelId} {i : Fin 64} {k : IcrReg} {v : Nat} {au : Auth}
    (hr : reaches au (some p.val) = true) (ho : s.modulesOwn (mailboxRing p i) au = false)
    (hb : ¬ (s.ring (mailboxRing p i)).configurable ∨
      s.ringFits au ((s.ring (mailboxRing p i)).icrWrite k v au) true = false) :
    s.icrWrite p i k v au = s.setPanel p { s.panel p with cfgerr := min 0xFFFF ((s.panel p).cfgerr + 1) } := by
  rw [Ring.not_configurable_iff] at hb
  have hc : ((s.ring (mailboxRing p i)).en && decide ((s.ring (mailboxRing p i)).head ≠ (s.ring (mailboxRing p i)).tail) ||
      !s.ringFits au ((s.ring (mailboxRing p i)).icrWrite k v au) true) = true := by
    rcases hb with h | h <;> simp only [h, Bool.true_or, Bool.not_false, Bool.or_true]
  simp only [State.icrWrite, hr, ho, hc]
  rfl

/-! ### The module log (R589, R611) -/

theorem State.modWrite_owner (s : State) (off : Nat) (f : State → State) : s.modWrite off .owner f = f s := rfl

/-- The module log with its CFG register written by the module's owner, but for its LSEQ. -/
def Ring.evtCfg (r : Ring) (v : Nat) : Ring :=
  { r with log2 := bits v 0 5, en := bit v 5, base := bits v 12 40 * 4096, modr := bit v 5 }

theorem Ring.cfgWrite_owner (r : Ring) (v : Nat) : r.cfgWrite v .owner = r.evtCfg v := by
  simp [Ring.cfgWrite, Ring.evtCfg]

theorem State.writeFatals_notDue {s : State} (h : s.boot.fatalDue = false) : s.writeFatals = s := by
  simp [State.writeFatals, h]

theorem State.evtCfg_accepted {s : State} {v : Nat} (hd : s.boot.fatalDue = false)
    (hi : s.evt.configurable) (hf : s.ringFits .owner (s.evt.evtCfg v) false = true) :
    s.evtCfg v .owner =
      { s with evt := { s.evt.evtCfg v with lseq := if (s.evt.evtCfg v).en && !s.evt.en then 0 else s.evt.lseq } } := by
  simp only [State.evtCfg, State.modWrite_owner, Ring.cfgWrite_owner, (Ring.configurable_iff _).mp hi, hf]
  exact State.writeFatals_notDue hd

theorem State.evtCfg_refused {s : State} (v : Nat) (hb : ¬ s.evt.configurable) :
    s.evtCfg v .owner = { s with dbg := { s.dbg with cfgerr := min 0xFFFF (s.dbg.cfgerr + 1) } } := by
  rw [Ring.not_configurable_iff] at hb
  simp only [State.evtCfg, State.modWrite_owner, hb]
  rfl

theorem State.evtBell_disabled {s : State} (h : Count) (he : s.evt.en = false) :
    s.evtBell h .owner = s.emit { cls := 4, detail := h.toNat } := by
  simp [State.evtBell, State.modWrite_owner, State.evtConsume, he]

theorem State.evtBell_consumes {s : State} {h : Count} (he : s.evt.en = true)
    (hc : (h - s.evt.head).toNat ≤ (s.evt.tail - s.evt.head).toNat) :
    s.evtBell h .owner = { s with evt := { s.evt with head := h } } := by
  simp only [State.evtBell, State.modWrite_owner, State.evtConsume, he, consumerBell, if_pos hc]
  rfl

/-! ### Halt, thaw, skim (R600 to R604) -/

/-- The state with its debug registers replaced. -/
def State.withDbg (s : State) (d : Dbg) : State := { s with dbg := d }

/-- The fields a write of MOD_DBG_CTL sets whatever it does. -/
def Dbg.ctlFields (d : Dbg) (v : Nat) : Dbg := { d with skmode := bit v 3, skbands := bits v 4 16 }

/-- The last part of a write of MOD_DBG_CTL: HALT and THAW. -/
def State.ctlHalt (s : State) (v : Nat) : State :=
  if bit v 0 then s.assertHalt.withDbg { s.assertHalt.dbg with thawed := bit v 1 }
  else if s.halted then s.releaseHalt else s

/-- A write of MOD_DBG_CTL sets the fields, skims, then halts or releases. -/
theorem State.dbgCtl_owner (s : State) (v : Nat) :
    s.dbgCtl v .owner =
      let u := s.withDbg (s.dbg.ctlFields v)
      (if bit v 2 then u.skim (bit v 3) (bits v 4 16) else u).ctlHalt v := rfl

theorem State.dbgCtl_noSkim (s : State) {v : Nat} (h2 : bit v 2 = false) :
    s.dbgCtl v .owner = (s.withDbg (s.dbg.ctlFields v)).ctlHalt v := by
  simp [State.dbgCtl_owner, h2]

theorem State.dbgCtl_skim (s : State) {v : Nat} (h2 : bit v 2 = true) :
    s.dbgCtl v .owner = ((s.withDbg (s.dbg.ctlFields v)).skim (bit v 3) (bits v 4 16)).ctlHalt v := by
  simp [State.dbgCtl_owner, h2]

theorem State.ctlHalt_release {s : State} {v : Nat} (h0 : bit v 0 = false) (hh : s.halted = true) :
    s.ctlHalt v = (s.withDbg { s.dbg with halt := false, thawed := false }).applyHeld := by
  simp [State.ctlHalt, h0, hh, State.releaseHalt, State.withDbg]

theorem State.ctlHalt_running {s : State} {v : Nat} (h0 : bit v 0 = false) (hh : s.halted = false) : s.ctlHalt v = s := by
  simp [State.ctlHalt, h0, hh]

theorem State.ctlHalt_stopped {s : State} {v : Nat} (h0 : bit v 0 = true) (hh : s.dbg.halt = true) :
    s.ctlHalt v = s.withDbg { s.dbg with thawed := bit v 1 } := by
  simp [State.ctlHalt, h0, State.assertHalt, hh]

/-- A halt of a running plane changes the debug controls and cuts the tiles' drains. -/
theorem State.ctlHalt_halts {s : State} {v : Nat} (h0 : bit v 0 = true) (hh : s.dbg.halt = false) :
    s.ctlHalt v = { s with dbg := { s.dbg with halt := true, thawed := bit v 1 }, tiles := s.assertHalt.tiles } := by
  simp [State.ctlHalt, h0, State.assertHalt, hh, State.withDbg]

theorem State.dbgCtl_halts {s : State} {v : Nat} (h0 : bit v 0 = true) (h2 : bit v 2 = false) (hh : s.dbg.halt = false) :
    (s.dbgCtl v .owner).dbg = { s.dbg.ctlFields v with halt := true, thawed := bit v 1 } ∧
      s.dbgCtl v .owner = { s with dbg := (s.dbgCtl v .owner).dbg, tiles := (s.dbgCtl v .owner).tiles } := by
  rw [State.dbgCtl_noSkim s h2, State.ctlHalt_halts (s := s.withDbg (s.dbg.ctlFields v)) h0 hh]
  exact ⟨rfl, rfl⟩

theorem State.dbgCtl_releases {s : State} {v : Nat} (h0 : bit v 0 = false) (h2 : bit v 2 = false) (hh : s.dbg.halt = true) :
    s.dbgCtl v .owner = (s.withDbg { s.dbg.ctlFields v with halt := false, thawed := false }).applyHeld :=
  (State.dbgCtl_noSkim s h2).trans (State.ctlHalt_release (s := s.withDbg (s.dbg.ctlFields v)) h0 hh)

theorem State.dbgCtl_running {s : State} {v : Nat} (h0 : bit v 0 = false) (h2 : bit v 2 = false) (hh : s.dbg.halt = false) :
    s.dbgCtl v .owner = s.withDbg (s.dbg.ctlFields v) :=
  (State.dbgCtl_noSkim s h2).trans (State.ctlHalt_running (s := s.withDbg (s.dbg.ctlFields v)) h0 hh)

theorem State.dbgCtl_stopped {s : State} {v : Nat} (h0 : bit v 0 = true) (h2 : bit v 2 = false) (hh : s.dbg.halt = true) :
    s.dbgCtl v .owner = s.withDbg { s.dbg.ctlFields v with thawed := bit v 1 } :=
  (State.dbgCtl_noSkim s h2).trans (State.ctlHalt_stopped (s := s.withDbg (s.dbg.ctlFields v)) h0 hh)

theorem State.skimTo_cohOnly (s : State) (base bands : Nat) : s.CohOnly (s.skimTo base bands) := by
  refine CohOnly.foldl _ (fun s t => ?_) _ s
  split
  · exact State.cohWrite_cohOnly ..
  · exact .refl s

theorem State.CohOnly.dbg {s u : State} (h : s.CohOnly u) : u.dbg = s.dbg := by
  obtain ⟨_, _, _, _, _, _, _, _, rfl⟩ := h
  rfl

theorem State.skim_refused {s : State} {halted : Bool} {bands : Nat}
    (h : (halted = true ∧ s.halted = false) ∨ skimFits s.dbg.skimAddr bands = false) :
    s.skim halted bands = s.withDbg { s.dbg with skerr := true } := by
  refine if_pos ?_
  rcases h with ⟨hm, hh⟩ | hf
  · simp [hm, hh]
  · simp [hf]

theorem State.skim_taken_dbg {s : State} {halted : Bool} {bands : Nat} (hh : halted = false ∨ s.halted = true)
    (hf : skimFits s.dbg.skimAddr bands = true) : (s.skim halted bands).dbg = { s.dbg with skbusy := true } := by
  have hg : ¬ ((halted && !s.halted) || !skimFits s.dbg.skimAddr bands) = true := by
    rcases hh with h | h <;> simp [h, hf]
  rw [State.skim, if_neg hg]
  exact congrArg (fun d : Dbg => { d with skbusy := true }) (State.skimTo_cohOnly s s.dbg.skimAddr bands).dbg

/-- A skim of a running plane sets SKBUSY and leaves SKERR and the plane running. -/
theorem State.dbgCtl_skimLive {s : State} {v : Nat} (h2 : bit v 2 = true) (h0 : bit v 0 = false) (h3 : bit v 3 = false)
    (hh : s.dbg.halt = false) (hf : skimFits s.dbg.skimAddr (bits v 4 16) = true) :
    (s.dbgCtl v .owner).dbg = { s.dbg.ctlFields v with skbusy := true } := by
  have hd := State.skim_taken_dbg (s := s.withDbg (s.dbg.ctlFields v)) (halted := bit v 3) (.inl h3) hf
  rw [State.dbgCtl_skim s h2, State.ctlHalt_running h0 (by rw [State.halted, hd]; exact hh), hd]
  rfl

/-- A skim that is refused sets SKERR; the plane runs on. -/
theorem State.dbgCtl_skimRefused {s : State} {v : Nat} (h2 : bit v 2 = true) (h0 : bit v 0 = false) (hh : s.dbg.halt = false)
    (hr : bit v 3 = true ∨ skimFits s.dbg.skimAddr (bits v 4 16) = false) :
    s.dbgCtl v .owner = s.withDbg { s.dbg.ctlFields v with skerr := true } := by
  have hs := State.skim_refused (s := s.withDbg (s.dbg.ctlFields v)) (hr.imp_left fun h => ⟨h, hh⟩)
  rw [State.dbgCtl_skim s h2, hs]
  exact State.ctlHalt_running (s := s.withDbg { s.dbg.ctlFields v with skerr := true }) h0 hh

/-- A skim of a halted plane sets SKBUSY and leaves the plane halted. -/
theorem State.dbgCtl_skimHalted {s : State} {v : Nat} (h2 : bit v 2 = true) (h0 : bit v 0 = true) (hh : s.dbg.halt = true)
    (hf : skimFits s.dbg.skimAddr (bits v 4 16) = true) :
    (s.dbgCtl v .owner).dbg = { s.dbg.ctlFields v with skbusy := true, thawed := bit v 1 } := by
  have hd := State.skim_taken_dbg (s := s.withDbg (s.dbg.ctlFields v)) (halted := bit v 3) (.inr hh) hf
  rw [State.dbgCtl_skim s h2, State.ctlHalt_stopped h0 (by rw [hd]; exact hh), hd]
  rfl

/-! Each debug command is a write of MOD_DBG_CTL with its own bits. -/

theorem exec_halt {v : BitVec 32} (s : State) (h0 : bit v.toNat 0 = true) :
    exec (.halt v .owner) s = .next (s.dbgCtl v.toNat .owner) := congrArg Host.Outcome.next (if_pos h0)

theorem exec_haltRelease {v : BitVec 32} (s : State) (h0 : bit v.toNat 0 = false) :
    exec (.haltRelease v .owner) s = .next (s.dbgCtl v.toNat .owner) :=
  congrArg Host.Outcome.next (if_neg (by rw [h0]; decide))

theorem exec_thaw {v : BitVec 32} (s : State) (h1 : bit v.toNat 1 = true) :
    exec (.thaw v .owner) s = .next (s.dbgCtl v.toNat .owner) := congrArg Host.Outcome.next (if_pos h1)

theorem exec_skimLive {v : BitVec 32} (s : State) (h2 : bit v.toNat 2 = true) (h3 : bit v.toNat 3 = false) :
    exec (.skimLive v .owner) s = .next (s.dbgCtl v.toNat .owner) :=
  congrArg Host.Outcome.next (if_pos (by rw [h2, h3]; decide))

theorem exec_skimHalted {v : BitVec 32} (s : State) (h2 : bit v.toNat 2 = true) (h3 : bit v.toNat 3 = true) :
    exec (.skimHalted v .owner) s = .next (s.dbgCtl v.toNat .owner) :=
  congrArg Host.Outcome.next (if_pos (by rw [h2, h3]; decide))

/-! ### Host markers (R609) -/

/-- The record of a host marker. -/
def hostMark (x : Nat) : Trace := { kind := 8, unit := 0x3FFF, slot := bits x 34 3, arg := bits x 0 34 }

theorem State.traceMark_reached {au : Auth} {p : Nat} (s : State) (x : Nat) (hr : reaches au (some p) = true) :
    s.traceMark p x au =
      if bit (s.panel p).trcCtl (bits x 34 3) then s.traceTo p (traceRingId p 1) (hostMark x) else s := by
  rw [State.traceMark, State.pnlWrite_reached _ _ _ hr]
  simp only [State.traceUnit, Panel.traces, if_true, Bool.and_true]
  rfl

theorem State.traceMark_untraced {s : State} {au : Auth} {p x : Nat} (hr : reaches au (some p) = true)
    (ht : bit (s.panel p).trcCtl (bits x 34 3) = false) : s.traceMark p x au = s := by
  simp [State.traceMark_reached s x hr, ht]

theorem State.traceMark_traced {s : State} {au : Auth} {p x : Nat} {w : Ring} (hr : reaches au (some p) = true)
    (hw : w = s.ring (traceRingId p 1)) (ht : bit (s.panel p).trcCtl (bits x 34 3) = true) (he : w.en = true)
    (hf : w.full = false) (hl : w.lost = 0) (hp : s.plain (w.entryAddr w.tail)) :
    s.traceMark p x au = (s.writeNat 64 (w.entryAddr w.tail) ((hostMark x).code s.now s.time.lock)).setRing (traceRingId p 1)
      { w with tail := w.tail + 1 } := by
  subst hw
  rw [State.traceMark_reached s x hr, if_pos ht, State.traceTo_room s p _ _ he hf hl, State.cohWriteNat,
    State.cohWrite_of_plain s _ _ hp, State.writeNat]

/-! ### MOD_TIME_SET -/

theorem State.timeSet_arms (s : State) {v : Nat} (h : bit v 48 = true) :
    s.timeSet v .owner = { s with time := { s.time with armed := some (bits v 0 48) } } := by
  simp [State.timeSet, h]

theorem State.timeSet_ignored (s : State) {v : Nat} (h : bit v 48 = false) : s.timeSet v .owner = s := by
  simp [State.timeSet, h]

theorem exec_timeSetExpiry_armed {s : State} {z : Nat} (h : s.time.armed = some z) :
    exec .timeSetExpiry s = .next { s with time := { s.time with armed := none, miss := min 0xFFFF (s.time.miss + 1) } } := by
  rw [show exec .timeSetExpiry s = execTimeSetExpiry s from rfl, execTimeSetExpiry, h]
  rfl

/-! ### REGISTER_READ_CLEAR and REGISTER_WRITE (R11, R504) -/

theorem State.regRead_unaligned (s : State) {a : Nat} (h : a % 4 ≠ 0) (au : Auth) : s.regRead a false au = s := by
  simp [State.regRead, regAligned, h]

theorem State.regWrite_unaligned (s : State) {a : Nat} (h : a % 4 ≠ 0) (v : Nat) (au : Auth) : s.regWrite a false v au = s := by
  simp [State.regWrite, regAligned, h]

theorem blockOf_pnl (p : PanelId) {off : Nat} (h : off < 0x10000) : blockOf (pnlBlock p + off) = some (.pnl p, off) := by
  have hb : pnlBlock p + off = mmioBase + (0x44000000 + p.val * 0x10000 + off) := by unfold pnlBlock; omega
  have h1 : (0x44000000 + p.val * 0x10000 + off) / 2 ^ 24 = 0x44 := by omega
  have h2 : (0x44000000 + p.val * 0x10000 + off) % 2 ^ 24 / 2 ^ 16 = p := by omega
  have h3 : (0x44000000 + p.val * 0x10000 + off) % 2 ^ 16 = off := by omega
  have h4 : ¬ 0x44000000 + p.val * 0x10000 + off < 10240 * 2 ^ 16 := by omega
  rw [hb, blockOf, if_neg (by omega)]
  simp only [Nat.add_sub_cancel_left, h1, h2, h3, if_neg h4, p.isLt, if_true]

theorem pnlBlock_mod_eight (p off : Nat) : (pnlBlock p + off) % 8 = off % 8 := by
  unfold pnlBlock mmioBase; omega

/-- A read of PNL_CNT (Table 15.10) answers the four counters and clears them. -/
theorem State.regRead_pnlCnt (s : State) (p : PanelId) :
    s.regRead (pnlBlock p + 0x2010) true .owner =
      { (s.setPanel p { s.panel p with stale := 0, gendis := 0, tdrop := 0, edrop := 0 }) with
        regRsp := (s.panel p).stale + (s.panel p).gendis * 2 ^ 16 + (s.panel p).tdrop * 2 ^ 32 + (s.panel p).edrop * 2 ^ 48 } := by
  have ha : regAligned (pnlBlock p + 0x2010) true = true := by simp [regAligned, pnlBlock_mod_eight]
  rw [State.regRead, ha, blockOf_pnl p (by decide)]
  rfl

/-- A 32-bit write at PNL_CTL's address is the panel's write of its suspensions. -/
theorem State.regWrite_pnlCtl (s : State) (p : PanelId) (x : BitVec 64) :
    s.regWrite (pnlBlock p + 8) false x.toNat .owner = s.suspWrite p (x.setWidth 32).toNat .owner := by
  have h8 := pnlBlock_mod_eight p 8
  have ha : regAligned (pnlBlock p + 8) false = true := by
    simp only [regAligned, Bool.false_eq_true, if_false, decide_eq_true_eq]; omega
  have hv : bits (bits x.toNat 0 32) 0 32 = (x.setWidth 32).toNat := by
    rw [bits_zero, bits_zero, Nat.mod_mod, BitVec.toNat_setWidth]
  rw [State.regWrite, ha, blockOf_pnl p (by decide), ← hv]
  rfl

/-- Settles O56: each clause is what its register's access does, by the lemma on that register. -/
theorem registerAccessesAct : Obligations.RegisterAccessesAct := by
  unfold Obligations.RegisterAccessesAct
  intro s t j c p i v x h au g r y d idle fields evt
  refine ⟨?tileSync, ?slotCtl, ?tileHalted, ?pnlCtl, ?icr, ?evtCfg, ?evtCfgErr, ?logBell, ?evtBellOff, ?evtBell, ?halt, ?release,
    ?thaw, ?skimLive, ?skimRefused, ?skimHalted, ?skimDone, ?mark, ?arm, ?noArm, ?expiry, ?readClear, ?unaligned, ?write⟩
  case tileSync => exact fun hh hr hn => ⟨_, rfl, State.syncWrite_reached j c v hh hr hn⟩
  case slotCtl => exact fun hh hr => congrArg Host.Outcome.next (State.pauseWrite_reached v hh hr)
  case tileHalted =>
    exact fun hh => ⟨congrArg Host.Outcome.next (State.tileWrite_halted _ _ _ _ hh),
      congrArg Host.Outcome.next (State.tileWrite_halted _ _ _ _ hh)⟩
  case pnlCtl => exact fun hr => congrArg Host.Outcome.next (State.suspWrite_reached s v hr)
  case icr =>
    exact fun k hr ho => ⟨fun hi hf => congrArg Host.Outcome.next (State.icrWrite_accepted hr ho hi hf),
      fun hb => congrArg Host.Outcome.next (State.icrWrite_refused hr ho hb)⟩
  case evtCfg => exact fun hd hi hf => congrArg Host.Outcome.next (State.evtCfg_accepted hd hi hf)
  case evtCfgErr => exact fun hb => congrArg Host.Outcome.next (State.evtCfg_refused x.toNat hb)
  case logBell =>
    intro a ha
    show Host.Outcome.next (s.doorbell (traceRingId p i) h au) = .next (s.doorbell a.val h au)
    rw [ha]
  case evtBellOff => exact fun he => congrArg Host.Outcome.next (State.evtBell_disabled h he)
  case evtBell => exact fun he hc => congrArg Host.Outcome.next (State.evtBell_consumes he hc)
  case halt => exact fun h0 h2 hh => ⟨_, exec_halt s h0, State.dbgCtl_halts h0 h2 hh⟩
  case release =>
    exact fun h0 h2 => ⟨fun hh => (exec_haltRelease s h0).trans (congrArg _ (State.dbgCtl_releases h0 h2 hh)),
      fun hh => (exec_haltRelease s h0).trans (congrArg _ (State.dbgCtl_running h0 h2 hh))⟩
  case thaw =>
    intro h0 h1 h2 hh
    rw [exec_thaw s h1, State.dbgCtl_stopped h0 h2 hh, h1]
    rfl
  case skimLive =>
    refine fun h2 h0 h3 hh => ⟨fun hf => ⟨_, exec_skimLive s h2 h3, ?_⟩, fun hf => ?_⟩
    · rw [State.dbgCtl_skimLive h2 h0 h3 hh hf]
      exact ⟨rfl, rfl, hh⟩
    · exact (exec_skimLive s h2 h3).trans (congrArg _ (State.dbgCtl_skimRefused h2 h0 hh (.inr hf)))
  case skimRefused =>
    exact fun h2 h0 h3 hh => (exec_skimHalted s h2 h3).trans (congrArg _ (State.dbgCtl_skimRefused h2 h0 hh (.inl h3)))
  case skimHalted =>
    intro h2 h0 h3 hh hf
    refine ⟨_, exec_skimHalted s h2 h3, ?_⟩
    rw [State.dbgCtl_skimHalted h2 h0 hh hf]
    exact ⟨rfl, hh⟩
  case skimDone => rfl
  case mark =>
    exact fun hr => ⟨fun ht => congrArg Host.Outcome.next (State.traceMark_untraced hr ht),
      fun ht he hf hl hp => congrArg Host.Outcome.next (State.traceMark_traced hr rfl ht he hf hl hp)⟩
  case arm => exact fun hv => congrArg Host.Outcome.next (State.timeSet_arms s hv)
  case noArm => exact fun hv => congrArg Host.Outcome.next (State.timeSet_ignored s hv)
  case expiry => exact fun z hz => exec_timeSetExpiry_armed hz
  case readClear => exact congrArg Host.Outcome.next (State.regRead_pnlCnt s p)
  case unaligned =>
    exact fun a ha => ⟨congrArg Host.Outcome.next (State.regRead_unaligned s ha au),
      congrArg Host.Outcome.next (State.regWrite_unaligned s ha x.toNat au)⟩
  case write => exact congrArg Host.Outcome.next (State.regWrite_pnlCtl s p x)

end Sys2Proof.Machine
end

section
/-!
A step of a square group (04 R109, R116; 02 R44, R45; 06 R181): what the array does when the feeders' heads hold a sound step
of a begun group, and the settling of ArrayStepUpdatesTheAccumulators from it.
-/
namespace Sys2Proof.Machine
open Sys2Proof

/-- The new accumulators of sub-block `st % 4` and the flags raised, the step's K-blocks taken in increasing K. -/
def ArrayS.stepSums (x : ArrayS) (w : WorkCmd) (st set : Nat) (rs cs : List FeedEntry) : List Acc × NFlags :=
  gridSteps (isBf16 w) w.sat (Acc.table x (4 * set + st % 4)) rs cs (w.stepBlocks (st / 4)).2

/-- The array once step `st` of group `i` has issued: sums stored, K-blocks counted, the heads of its entries released. -/
def ArrayS.stepIssued (x : ArrayS) (w : WorkCmd) (i st set : Nat) (nU : List Nat) (rs cs : List FeedEntry) : ArrayS :=
  { x with
    accs := x.accs.set [] (4 * set + st % 4) (x.stepSums w st set rs cs).1
    held := cs
    grp := some (set, nU.set (st % 4) (nU.getD (st % 4) 0 + (w.stepBlocks (st / 4)).2))
    rowFeed := x.rowFeed.update [] (fun _ q => if (q.headD {}).step = progAt i st then q.drop 1 else q)
    colFeed := x.colFeed.update [] (fun _ q => if (q.headD {}).step = entryKey i (st / 4) then q.drop 1 else q) }

/-- The running command past step `st` of group `i`, with the step's flags. -/
def Active.pastStep (a : Active) (i st : Nat) (f : NFlags) : Active := { a.gather f with prog := progAt i (st + 1) }

theorem exec_arrayStepIssue_square {s : State} {t : Tile} {a : Active} (hh : s.halted = false)
    (hc : (s.engine t 0).current = some a) (hop : isArrayOp a.c.cmd.op = true) (hws : isWsOp a.c.cmd.op = false) :
    exec (.arrayStepIssue t) s = .next (s.squareStep t a false) := by
  show execArrayStepIssue t s = _
  simp [execArrayStepIssue, hh, hc, hop, hws]

/-- A group that has begun is not begun again: its array stays. -/
theorem State.ensureGroup_begun {s : State} {t : Nat} {g : Nat × List Nat} (a : Active) (hg : (s.tile t).arr.grp = some g) :
    s.ensureGroup t a = s.setTile t (s.tile t) := by
  simp [State.ensureGroup, State.modArr_eq, hg]

@[simp] theorem State.modArr_setTile (s : State) (t : Nat) (x : TileS) (f : ArrayS → ArrayS) :
    (s.setTile t x).modArr t f = s.setTile t { x with arr := f x.arr } := by
  simp [State.modArr_eq]

/-- A planned step whose entries stand at the heads of all feeders issues with them, nothing fetched. -/
theorem State.squareStep_heads {s : State} {t : Nat} {a : Active} {i st : Nat} {rs cs : List FeedEntry} (fill : Bool)
    (hp : s.planStep t a = .step i st) (hr : (s.tile t).arr.rowHeads (progAt i st) = some rs)
    (hk : (s.tile t).arr.colHeads (entryKey i (st / 4)) = some cs) :
    s.squareStep t a fill = (s.ensureGroup t a).issueStep t a i st rs cs := by
  simp [State.squareStep, hp, hr, hk, State.stepRows, State.stepCols]

/-- A sound step that is not its group's last updates the array and moves the command on to the next step. -/
theorem State.issueStep_more {s : State} {t : Nat} {a : Active} {i st set : Nat} {nU : List Nat} {rs cs : List FeedEntry}
    (he : entriesFault (rs ++ cs) = none) (hg : (s.tile t).arr.grp = some (set, nU)) :
    let x := (s.tile t).arr
    let b := a.pastStep i st (x.stepSums a.c.cmd st set rs cs).2
    let u := (s.modArr t (fun _ => x.stepIssued a.c.cmd i st set nU rs cs)).putActive t 0 b
    (u.groupSteps t b i).any (fun k => decide (st < k)) = true → s.issueStep t a i st rs cs = u := by
  intro x b u hmore
  unfold State.issueStep
  rw [he]
  dsimp only
  rw [hg]
  exact if_pos hmore

/-- Settles O17: the heads' step issues, the group having begun, and more steps of the group follow. -/
theorem arrayStepUpdatesTheAccumulators : Obligations.ArrayStepUpdatesTheAccumulators := by
  unfold Obligations.ArrayStepUpdatesTheAccumulators
  intro s t a i st set nU rs cs hh hc hop hws w x n k r rowFeed colFeed grp y u hplan hg hr hk he hmore
  have hx : ((s.ensureGroup t a).tile t).arr = x := by rw [State.ensureGroup_begun a hg, State.tile_setTile]
  have hu : ((s.ensureGroup t a).modArr t (fun _ => y)).putActive t 0 (a.pastStep i st r.2) = u := by
    rw [State.ensureGroup_begun a hg, State.modArr_setTile]
    rfl
  have hissue : (s.ensureGroup t a).issueStep t a i st rs cs = u := by
    have h := State.issueStep_more (s := s.ensureGroup t a) (t := t) (a := a) (i := i) (st := st) he
      (hx.symm ▸ hg : ((s.ensureGroup t a).tile t).arr.grp = some (set, nU))
    rw [hx] at h
    exact (h (hu ▸ hmore)).trans hu
  rw [exec_arrayStepIssue_square hh hc hop hws, State.squareStep_heads false hplan hr hk, hissue]

end Sys2Proof.Machine
end

section
/-!
The completion of a command (02 R62; 07 R217, R219, R220, R227): its flags, its leaving the engine, each kind of signal, and
the settling of CommandCompleteSignals from these.
-/
namespace Sys2Proof.Machine
open Sys2Proof

/-! ### An engine's writes on a tile just written -/

@[simp] theorem State.engine_setTile (s : State) (t c : Nat) (x : TileS) : (s.setTile t x).engine t c = x.eng.get {} c := by
  rw [State.engine, State.tile_setTile]

@[simp] theorem State.modEngine_setTile (s : State) (t c : Nat) (x : TileS) (f : Engine → Engine) :
    (s.setTile t x).modEngine t c f = s.setTile t { x with eng := x.eng.set {} c (f (x.eng.get {} c)) } := by
  simp [State.modEngine_eq, State.setEngine_eq]

theorem State.setTile_noTrace {s : State} (hn : s.noTrace) (t : Nat) (x : TileS) : (s.setTile t x).noTrace := hn

/-! ### Waits -/

theorem Engine.oldest_empty {e : Engine} (hu : e.urgent = []) (hm : e.normal = []) (j : Nat) : e.oldest j = none := by
  simp [Engine.oldest, hu, hm]

/-- An engine with no command waiting in its FIFO has no wait to note. -/
theorem State.noteWait_empty {s : State} {t c : Nat} (j : Nat) (hu : (s.engine t c).urgent = [])
    (hm : (s.engine t c).normal = []) : s.noteWait t c j = s := by
  simp [State.noteWait, Engine.oldest_empty hu hm]

theorem State.noteWaits_empty {s : State} {t c : Nat} (hu : (s.engine t c).urgent = []) (hm : (s.engine t c).normal = []) :
    s.noteWaits t c = s := by
  unfold State.noteWaits
  induction List.range 8 with
  | nil => rfl
  | cons j js ih => rw [List.foldl_cons, State.noteWait_empty j hu hm, ih]

/-! ### The signal step (R217, R219, R220), nothing traced, on a tile that stands at `x` -/

theorem State.signal_none {a : Active} (s : State) (t c : Nat) (x : TileS) (ho : a.c.cmd.sigOp = 0) :
    (s.setTile t x).signal t c a =
      s.setTile t { x with eng := x.eng.set {} c ((x.eng.get {} c).removeActive a) } := by
  rw [State.signal, ho]
  exact State.modEngine_setTile ..

/-- The value a local signal leaves in its counter: an add's sum, or the value set. -/
def WorkCmd.signalled (w : WorkCmd) (old : BitVec 16) : BitVec 16 :=
  if w.sigOp = 1 then old + BitVec.ofNat 16 w.sigVal else BitVec.ofNat 16 w.sigVal

theorem State.signal_local {s : State} {a : Active} {v : BitVec 16} (t c : Nat) (x : TileS) (hn : s.noTrace)
    (h0 : a.c.cmd.sigOp ≠ 0) (h3 : a.c.cmd.sigOp ≠ 3)
    (hv : a.c.cmd.signalled (x.ctr a.c.cmd.slot a.c.cmd.sigCtr).val = v) :
    (s.setTile t x).signal t c a =
      s.setTile t { x with eng := x.eng.set {} c ((x.eng.get {} c).removeActive a)
                           sync := x.sync.set {} (ctrKey a.c.cmd.slot a.c.cmd.sigCtr) ⟨v, t, c, false⟩ } := by
  subst hv
  have hl : (s.setTile t x).localSignal t c a.c.cmd a.c.pos =
      s.setTile t { x with
        sync := x.sync.set {} (ctrKey a.c.cmd.slot a.c.cmd.sigCtr)
          ⟨a.c.cmd.signalled (x.ctr a.c.cmd.slot a.c.cmd.sigCtr).val, t, c, false⟩ } := by
    simp only [State.localSignal, State.setCtr, State.modTile_eq, State.tile_setTile, State.setTile_setTile,
      State.traceTile_noTrace (State.setTile_noTrace hn _ _)]
    rfl
  unfold State.signal
  dsimp only
  split
  · contradiction
  · contradiction
  · rw [hl, State.modEngine_setTile]

/-- Adds sent beside a write of a tile: the two do not meet. -/
theorem State.setTile_withAdds (s : State) (t : Nat) (x : TileS) (l : List RemoteAdd) :
    { s.setTile t x with adds := l } = ({ s with adds := l } : State).setTile t x := rfl

theorem State.signal_sent {s : State} {a : Active} {p : Nat} (t : Tile) (c : Nat) (x : TileS) (hn : s.noTrace)
    (ho : a.c.cmd.sigOp = 3) (hp : s.tilePanel t = some p) (hk : x.unacked < 8) :
    (s.setTile t x).signal t c a =
      { (s.setTile t { x with eng := x.eng.set {} c ((x.eng.get {} c).removeActive a), unacked := x.unacked + 1 }) with
        adds := s.adds ++ [⟨.tile t, c, a.c.cmd.sigTile, p, a.c.cmd.slot, a.c.cmd.sigCtr, a.c.cmd.sigVal, a.c.gen⟩] } := by
  have ht : tileAgent t = .tile t := congrArg Agent.tile (Fin.ofNat_val_eq_self t)
  have hk' : ¬ 8 ≤ x.unacked := Nat.not_le.mpr hk
  have hn' (l : List RemoteAdd) : ({ s with adds := l } : State).noTrace := hn
  simp only [State.signal, ho, State.setTile_tilePanelR, hp, State.tile_setTile, if_neg hk', ht, State.setTile_withAdds,
    State.setTile_adds, State.modTile_eq, State.setTile_setTile, State.traceTile_noTrace (State.setTile_noTrace (hn' _) _ _),
    State.modEngine_setTile]

theorem State.signal_held {s : State} {a : Active} {p : Nat} (t c : Nat) (x : TileS) (ho : a.c.cmd.sigOp = 3)
    (hp : s.tilePanel t = some p) (hk : 8 ≤ x.unacked) :
    (s.setTile t x).signal t c a =
      s.setTile t { x with eng := x.eng.set {} c ((x.eng.get {} c).putActive { a with held := true }) } := by
  simp [State.signal, ho, hp, hk, State.putActive_eq]

/-! ### Completion -/

/-- A finished command, no completion record and no tracing: its flags join TILE_NFLAG and its signal acts; with nothing
waiting in the FIFO that is all. -/
theorem exec_commandComplete_signal {s v : State} {t : Tile} {c : EngClass} {j : Slot} {a : Active} (hh : s.halted = false)
    (hn : s.noTrace) (ha : (s.engine t c).oldestActive j = some a) (hd : a.done = true) (hl : a.held = false)
    (hr : a.c.cmd.crec = false) (hv : (s.setTile t ((s.tile t).orFlags j a.flags)).signal t c a = v) {e : Engine}
    (he : v.engine t c = e) (hu : e.urgent = []) (hm : e.normal = []) : exec (.commandComplete t c j) s = .next v := by
  subst he
  show Host.Outcome.next (s.complete t c j) = _
  simp [State.complete, hh, ha, hd, hl, hr, State.modTile_eq, State.traceTile_noTrace (State.setTile_noTrace hn _ _), hv,
    State.noteWaits_empty hu hm]

/-- Settles O28: each clause is the signal step of its kind after the flags. -/
theorem commandCompleteSignals : Obligations.CommandCompleteSignals := by
  unfold Obligations.CommandCompleteSignals
  intro s t c j a p hh hn ha hd hl hr hu hm hp w x e old put add
  have removed (y : TileS) (hy : y.eng = x.eng.set {} c e) : (s.setTile t y).engine t c = e := by
    rw [State.engine_setTile, hy, Table.get_set_self]
  refine ⟨fun h0 => ?none, fun h1 => ?add, fun h2 => ?set, fun h3 hk => ?sent, fun h3 hk => ?held⟩
  case none => exact exec_commandComplete_signal hh hn ha hd hl hr (State.signal_none s t c x h0) (removed _ rfl) hu hm
  case add =>
    have hs := State.signal_local t c x hn (by rw [h1]; decide) (by rw [h1]; decide) (if_pos h1)
    exact exec_commandComplete_signal hh hn ha hd hl hr hs (removed _ rfl) hu hm
  case set =>
    have hs := State.signal_local t c x hn (by rw [h2]; decide) (by rw [h2]; decide) (if_neg (by rw [h2]; decide))
    exact exec_commandComplete_signal hh hn ha hd hl hr hs (removed _ rfl) hu hm
  case sent =>
    exact exec_commandComplete_signal hh hn ha hd hl hr (State.signal_sent t c x hn h3 hp hk) (removed _ rfl) hu hm
  case held =>
    exact exec_commandComplete_signal hh hn ha hd hl hr (State.signal_held t c x h3 hp hk)
      ((State.engine_setTile ..).trans (Table.get_set_self ..)) hu hm

end Sys2Proof.Machine
end

section
/-!
Selection and translation (03 R84 to R89, 07 R219): what the sequencer picks, where a translated command goes, what a bad one
leaves, and the settling of SequencerSelectsInRotation, TranslationMovesTheCommand and BadTranslationEndsTheJob from these.
-/
namespace Sys2Proof.Machine
open Sys2Proof

/-! ### An engine just written -/

@[simp] theorem State.engine_setEngine (s : State) (t c : Nat) (e : Engine) : (s.setEngine t c e).engine t c = e := by
  simp [State.setEngine_eq]

@[simp] theorem State.setEngine_setEngine (s : State) (t c : Nat) (d e : Engine) :
    (s.setEngine t c d).setEngine t c e = s.setEngine t c e := by
  simp [State.setEngine_eq]

theorem State.modEngine_setEngine (s : State) (t c : Nat) (e : Engine) (f : Engine → Engine) :
    (s.setEngine t c e).modEngine t c f = s.setEngine t c (f e) := by
  simp [State.modEngine_eq]

/-! ### Selection (R87, R88) -/

/-- The rotation finds the first slot from the pointer on whose head has the class bit. -/
theorem State.pick_first {s : State} {t c d : Nat} {u : Bool} (hd : d < 8)
    (he : s.eligible t c (((s.engine t c).selPtr + d) % 8) = some u)
    (hfirst : ∀ i, i < d → s.eligible t c (((s.engine t c).selPtr + i) % 8) ≠ some u) :
    s.pick t c u = some (((s.engine t c).selPtr + d) % 8) := by
  have hrange : (List.range 8).find?
      ((fun j => decide (s.eligible t c j = some u)) ∘ fun i => ((s.engine t c).selPtr + i) % 8) = some d :=
    List.find?_range_eq_some.mpr ⟨by simpa using he, List.mem_range.mpr hd, fun i hi => by simpa using hfirst i hi⟩
  rw [State.pick, rotate, List.find?_map, hrange, Option.map_some]

theorem State.pick_none {s : State} {t c : Nat} {u : Bool} (hn : ∀ k, k < 8 → s.eligible t c k ≠ some u) :
    s.pick t c u = none := by
  refine List.find?_eq_none.mpr fun j hj => ?_
  obtain ⟨i, -, rfl⟩ := List.mem_map.mp hj
  simpa using hn _ (Nat.mod_lt _ (by decide))

/-- A pick of the class bit starts its translation. -/
def State.startXlat (s : State) (t c j : Nat) (u : Bool) : State :=
  s.setEngine t c { s.engine t c with xlat := some (j, u), selPtr := (j + 1) % 8 }

/-- An urgent head starts unless another urgent command is in translation. -/
theorem State.select_urgent {s : State} {t c j : Nat} (hx : ∀ k, (s.engine t c).xlat ≠ some (k, true))
    (hp : s.pick t c true = some j) : s.select t c = s.startXlat t c j true := by
  unfold State.select
  dsimp only
  split
  case h_1 => rw [hp]; rfl
  case h_2 k hk => exact absurd hk (hx k)
  case h_3 => rw [hp]; rfl

/-- With nothing in translation and no urgent head, a normal head starts. -/
theorem State.select_normal {s : State} {t c j : Nat} (hx : (s.engine t c).xlat = none) (hu : s.pick t c true = none)
    (hp : s.pick t c false = some j) : s.select t c = s.startXlat t c j false := by
  simp only [State.select, hx, hu, hp, State.startXlat]

/-- Settles O12: the rotation's first head of the class bit is the one picked, and it starts. -/
theorem sequencerSelectsInRotation : Obligations.SequencerSelectsInRotation := by
  unfold Obligations.SequencerSelectsInRotation
  intro s t c d u hd e j hj hfirst hfree hx hnone
  have hp : s.pick t c u = some j := State.pick_first hd hj hfirst
  refine congrArg Host.Outcome.next ?_
  cases u with
  | true => exact State.select_urgent hx hp
  | false => exact State.select_normal (hfree.resolve_right (by decide)) (State.pick_none (hnone rfl)) hp

/-! ### Translation (R84) -/

/-- The command has left translation, and its ring's head has passed it. -/
def State.passed (s : State) (t c j : Nat) (w : WorkCmd) : State :=
  (s.setEngine t c { s.engine t c with xlat := none }).setRing (tileRing t j c)
    ((s.ring (tileRing t j c)).pass (if w.xt then 2 else 1))

theorem State.passed_ring (s : State) (t c j : Nat) (w : WorkCmd) :
    ((s.passed t c j w).ring (tileRing t j c)) = (s.ring (tileRing t j c)).pass (if w.xt then 2 else 1) :=
  State.ring_setRing ..

/-- An update of the engine that translated does not meet the ring. -/
theorem State.modEngine_passed (s : State) (t c j : Nat) (w : WorkCmd) (f : Engine → Engine) :
    (s.passed t c j w).modEngine t c f =
      (s.setEngine t c (f { s.engine t c with xlat := none })).setRing (tileRing t j c)
        ((s.ring (tileRing t j c)).pass (if w.xt then 2 else 1)) :=
  congrArg (fun v : State => v.setRing (tileRing t j c) ((s.ring (tileRing t j c)).pass (if w.xt then 2 else 1)))
    (State.modEngine_setEngine s t c { s.engine t c with xlat := none } f)

/-- The command joins its lane. -/
def Engine.enqueue (e : Engine) (x : Cmd) : Engine :=
  if x.cmd.urg then { e with urgent := e.urgent ++ [x] } else { e with normal := e.normal ++ [x] }

/-- A good translation puts the command in its lane and notes its wait. -/
theorem State.translated_ok {s : State} {t c j p : Nat} {u : Bool} {w : WorkCmd} {oa ob oc : Opnd} (hh : s.halted = false)
    (hx : (s.engine t c).xlat = some (j, u)) (hp : s.tilePanel t = some p)
    (hw : (s.ring (tileRing t j c)).headCmd = some w) (ht : s.translate t p j c w = .ok oa ob oc) :
    s.translated t c = ((s.passed t c j w).modEngine t c (fun e => e.enqueue
      { cmd := w, pos := (s.ring (tileRing t j c)).head, a := oa, b := ob, c := oc, gen := (s.job p j).gen })).noteWait
        t c j := by
  have ht' : (s.passed t c j w).translate t p j c w = .ok oa ob oc := ht
  unfold State.passed at ht'
  simp only [State.translated, hh, Bool.false_eq_true, if_false, hx, hp, hw, ht']
  rfl

/-- A command found malformed or untranslatable is a fault of its slot on the tile. -/
theorem State.translated_bad {s : State} {t c j p : Nat} {u : Bool} {w : WorkCmd} (hh : s.halted = false)
    (hx : (s.engine t c).xlat = some (j, u)) (hp : s.tilePanel t = some p)
    (hw : (s.ring (tileRing t j c)).headCmd = some w) (ht : ∀ oa ob oc, s.translate t p j c w ≠ .ok oa ob oc) :
    ∃ ev, s.translated t c = (s.passed t c j w).faultTile t j ev := by
  have same : (s.passed t c j w).translate t p j c w = s.translate t p j c w := rfl
  unfold State.passed at same
  simp only [State.translated, hh, Bool.false_eq_true, if_false, hx, hp, hw, same]
  cases h : s.translate t p j c w with
  | malformed k => exact ⟨_, rfl⟩
  | fault f => exact ⟨_, rfl⟩
  | ok oa ob oc => exact absurd h (ht oa ob oc)

/-! ### The wait of a command that has none -/

/-- The first command of a slot to join a lane is the slot's oldest. -/
theorem Engine.oldest_enqueue {e : Engine} {x : Cmd} (hn : e.oldest x.cmd.slot = none) :
    (e.enqueue x).oldest x.cmd.slot = some (x.cmd.urg, x) := by
  have hlanes : e.urgent.find? (fun c => decide (c.cmd.slot = x.cmd.slot)) = none ∧
      e.normal.find? (fun c => decide (c.cmd.slot = x.cmd.slot)) = none := by
    unfold Engine.oldest at hn
    split at hn
    · split at hn <;> contradiction
    · contradiction
    · contradiction
    · exact ⟨‹_›, ‹_›⟩
  obtain ⟨hu, hm⟩ := hlanes
  cases hx : x.cmd.urg <;> simp [Engine.oldest, Engine.enqueue, hx, List.find?_append, hu, hm]

/-- A slot whose oldest command has no wait and no note has nothing to note. -/
theorem State.noteWait_waitless {s : State} {t c j : Nat} {lane : Bool} {x : Cmd} (ho : (s.engine t c).oldest j = some (lane, x))
    (hw : x.cmd.waitEn = false) (hn : x.noted = 0) : s.noteWait t c j = s := by
  unfold State.noteWait
  dsimp only
  rw [ho]
  split
  · next heq => cases heq; simp [TileS.waitMet, hw, hn]
  · rfl

/-! ### Settling -/

/-- Settles O13: the command joins its lane behind no command of its slot, so no wait is noted. -/
theorem translationMovesTheCommand : Obligations.TranslationMovesTheCommand := by
  unfold Obligations.TranslationMovesTheCommand
  intro s t c j p u w oa ob oc e g x hh hx hp hw ht hwait hslot hold urgent normal
  subst hslot
  have hlane : ({ e with xlat := none } : Engine).enqueue x = { e with xlat := none, urgent := urgent, normal := normal } := by
    cases hu : w.urg <;> simp [Engine.enqueue, urgent, normal, x, hu]
  have hput : (s.passed t c w.slot w).modEngine t c (fun e => e.enqueue x) =
      (s.setEngine t c { e with xlat := none, urgent := urgent, normal := normal }).setRing g
        ((s.ring g).pass (if w.xt then 2 else 1)) := by
    rw [State.modEngine_passed, ← hlane]
  have hnote : (((s.passed t c w.slot w).modEngine t c (fun e => e.enqueue x)).engine t c).oldest w.slot = some (w.urg, x) := by
    rw [hput, ← hlane]
    exact (congrArg (fun e : Engine => e.oldest w.slot) (State.engine_setEngine s t c _)).trans (Engine.oldest_enqueue hold)
  refine congrArg Host.Outcome.next ?_
  rw [State.translated_ok hh hx hp hw ht, State.noteWait_waitless hnote hwait rfl, hput]

/-- Settles O14: the bad command is a fault of its slot, found after HEAD has passed it. -/
theorem badTranslationEndsTheJob : Obligations.BadTranslationEndsTheJob := by
  unfold Obligations.BadTranslationEndsTheJob
  intro s t c j p u w hh hx hp hw ht hj hpanel hs hf
  obtain ⟨ev, hev⟩ := State.translated_bad hh hx hp hw ht
  have hjob := State.faultTile_job (s.passed t c j w) t p j ev hp hs hf
  obtain ⟨n, hring⟩ := State.faultTile_ring (s.passed t c j w) t j (tileRing t j c) ev
    (fun q => by have := t.isLt; have := c.isLt; unfold tileRing panelLog; omega)
  refine ⟨_, congrArg Host.Outcome.next hev, hjob.1, hjob.2, ?_, State.faultTile_bit _ _ _ _ hj⟩
  rw [hring, State.passed_ring]
  rfl

end Sys2Proof.Machine
end

section
/-!
The mover's traffic with other units (03 R79, R83, 07 R226, 11 R376, R642): how its last request enters the router, how an answer
to a read comes back, and the settling of MoverIssuesItsLastRequest and TransactionResponseActs from these.
-/
namespace Sys2Proof.Machine
open Sys2Proof

/-! ### Reads with no injection armed -/

theorem State.armed_noInjection {s : State} (hi : s.noInjection) (det target : Nat) : s.armed det target = none := by
  rw [State.armed, show s.inj = [] from hi, Table.get_nil]

theorem State.fireSram_noInjection {s : State} (hi : s.noInjection) (t a : Nat) (job : Option (Nat × Nat)) :
    s.fireSram t a job = s := by
  rw [State.fireSram, State.armed_noInjection hi]

theorem State.fireMem_noInjection {s : State} (hi : s.noInjection) (det target a : Nat) (job : Option (Nat × Nat)) :
    s.fireMem det target a job = (s, false) := by
  rw [State.fireMem, State.armed_noInjection hi]

theorem State.fireLpddr_noInjection {s : State} (hi : s.noInjection) (a : Nat) (job : Option (Nat × Nat)) :
    s.fireLpddr a job = s := by
  unfold State.fireLpddr
  split
  · simp [State.armed_noInjection hi, State.fireMem_noInjection hi]
  · rfl

theorem State.fireRead_noInjection {s : State} (hi : s.noInjection) (a : Nat) (job : Option (Nat × Nat)) :
    s.fireRead a job = s := by
  unfold State.fireRead
  split
  · exact State.fireSram_noInjection hi ..
  · simp [State.fireMem_noInjection hi]
  · exact State.fireLpddr_noInjection hi ..
  · rfl

/-- A sound read, of the tile's own SRAM or with no injection armed, that reaches memory alone gives the bytes. -/
theorem State.moverRead_plain {s : State} {t ad n : Nat} (a : Active) (hi : inOwn t ad = true ∨ s.noInjection)
    (hp : s.plain ad) (hr : s.readResp ad n = .ok) : s.moverRead t a ad n false = (s, .ok (s.readBytes n ad)) := by
  have hfire : (if inOwn t ad then s else s.fireRead ad (s.jobOf t a.c.cmd.slot)) = s := by
    split
    · rfl
    · exact State.fireRead_noInjection (hi.resolve_left ‹_›) ..
  simp [State.moverRead, hfire, hr, State.accessEvent, State.cohRead_of_plain s n ad hp]

theorem State.moverWrite_plain {s : State} {ad : Nat} {bs : List Byte} (t : Nat) (hp : s.plain ad)
    (hr : s.writeResp ad bs.length = .ok) : s.moverWrite t ad bs false = (s.writeBytes ad bs, none) := by
  simp [State.moverWrite, hr, State.accessEvent, State.cohWrite_of_plain s ad bs hp]

/-! ### A request enters the router (R79, R642) -/

/-- The transaction of a piece of work, under the smallest free tag. -/
def State.txnOf (s : State) (t : Nat) (a : Active) (w : Work) (r : Reach) : Txn :=
  { tag := (s.tile t).freeTag, slot := a.c.cmd.slot, pos := a.c.pos, work := w, waiting := r.staged, staged := r.staged }

def State.addTxn (s : State) (t : Nat) (y : Txn) : State := s.setTile t { s.tile t with txns := (s.tile t).txns ++ [y] }

theorem State.sendTxn_asIs (s : State) (t : Nat) (a : Active) {w : Work} (r : Reach)
    (hcopy : ∀ src dst n, w = .copy src dst n → inOwn t src = false) (hcacc : ∀ i j n d, w ≠ .cacc i j n d) :
    s.sendTxn t a w r = (s.addTxn t (s.txnOf t a w r), a, none) := by
  cases w with
  | copy src dst n => simp only [State.sendTxn, hcopy src dst n rfl]; rfl
  | cacc i j n d => exact absurd rfl (hcacc i j n d)
  | _ => rfl

theorem State.sendTxn_copyOut {s : State} {t : Nat} {src n : Nat} (a : Active) (dst : Nat) (r : Reach) (ho : inOwn t src = true)
    (hp : s.plain src) (hr : s.readResp src n = .ok) : s.sendTxn t a (.copy src dst n) r =
      (s.addTxn t { s.txnOf t a (.copy src dst n) r with work := .put dst (s.readBytes n src) }, a, none) := by
  simp only [State.sendTxn, ho, if_true, State.moverRead_plain a (.inl ho) hp hr]
  rfl

theorem State.sendTxn_cacc {s : State} {t : Nat} {a : Active} {i j n d : Nat} {p : CaccPacket} {f : NFlags} (r : Reach)
    (hk : s.caccPacket t a i j n d = .ok (p, f)) : s.sendTxn t a (.cacc i j n d) r =
      (({ s with caccs := s.caccs ++ [p] } : State).addTxn t (s.txnOf t a (.cacc i j n d) r), a.gather f, none) := by
  simp only [State.sendTxn, hk]
  rfl

/-! ### The chunk that issues the last request -/

theorem issueRun_succ {n t : Nat} {s : State} {a : Active} (hh : s.halted = false) (hc : (s.engine t 2).current = some a) :
    issueRun (n + 1) t s = issueRun n t (s.issueWork t a) := by
  simp [issueRun, hh, hc]

/-- A piece of work that reaches another unit, past no cache, is sent; the command goes on to the rest. -/
theorem State.issueWork_sent {s u : State} {t : Nat} {a b : Active} {w : Work} {rest : List Work} {r : Reach}
    (hp : a.plan = some (w :: rest)) (hr : a.reach t w = some r) (hcoh : r.coh = false) (hl : (s.tile t).txns.length < 64)
    (hs : s.sendTxn t a w r = (u, b, none)) :
    s.issueWork t a = u.putActive t 2 { b with plan := some rest, prog := b.prog + 1 } := by
  unfold State.issueWork
  rw [hp]
  dsimp only
  rw [hr]
  simp [hcoh, Nat.not_le.mpr hl, hs]

/-- The transaction `y` in the router, the command's record `b`, the mover free. -/
def State.sent (s : State) (t : Nat) (y : Txn) (b : Active) : State :=
  s.setTile t { s.tile t with
    txns := (s.tile t).txns ++ [y]
    eng := (s.tile t).eng.set {} 2 { (s.engine t 2).putActive b with running := none } }

/-- A command with nothing more to issue, its last transaction on its way, waits for it. -/
theorem issueRun_waits {s : State} {t : Nat} {a b : Active} {y : Txn} (hh : s.halted = false)
    (hc : (s.engine t 2).current = some a) (hb : b.c = a.c) (hi : b.issued = false) (hp : b.plan = some [])
    (hslot : y.slot = a.c.cmd.slot) (hpos : y.pos = a.c.pos) :
    issueRun 1 t ((s.addTxn t y).putActive t 2 b) = s.sent t y { b with issued := true } := by
  have heng : ((s.addTxn t y).putActive t 2 b).engine t 2 = (s.engine t 2).putActive b := by
    simp [State.addTxn, State.putActive_eq, State.engine]
  have hcur : (((s.addTxn t y).putActive t 2 b).engine t 2).current = some b := by
    rw [heng]
    exact Engine.current_putActive _ a b hc (by rw [hb]) (by rw [hb]) hi
  have hany : ((((s.addTxn t y).putActive t 2 b).tile t).txns).any
      (fun x => x.slot = b.c.cmd.slot && x.pos = b.c.pos) = true := by
    simp [State.addTxn, State.putActive_eq, hslot, hpos, hb]
  rw [issueRun_succ (s := (s.addTxn t y).putActive t 2 b) hh hcur, State.issueWork_wait _ t b hcur hp hany, heng,
    Engine.putActive_putActive _ b { b with issued := true } rfl rfl]
  simp [issueRun, State.addTxn, State.putActive_eq, State.setEngine_eq, State.sent]

/-! ### A mover opcode's row -/

theorem exec_moverRow {t : Tile} {op : Nat} {c : Instr} (h : (op, c) ∈ moverRows t) (s : State) :
    exec c s = .next (s.runMove t op) ∧ op ≠ 4 := by
  simp only [moverRows, List.mem_cons, Prod.mk.injEq, List.not_mem_nil, or_false] at h
  rcases h with ⟨rfl, rfl⟩ | ⟨rfl, rfl⟩ | ⟨rfl, rfl⟩ | ⟨rfl, rfl⟩ | ⟨rfl, rfl⟩ | ⟨rfl, rfl⟩ | ⟨rfl, rfl⟩ <;>
  exact ⟨rfl, by decide⟩

theorem State.runMove_planned {s : State} {t op : Nat} {a : Active} {ws : List Work} (hh : s.halted = false)
    (hc : (s.engine t 2).current = some a) (ho : a.c.cmd.op = op) (h4 : op ≠ 4) (hp : a.plan = some ws) :
    s.runMove t op = issueRun (ws.length + 1) t s := by
  simp [State.runMove, hh, hc, ho, h4, hp]

/-- The row that sends its command's last piece of work; `v` is the state with the work's packet, if it has one. -/
theorem exec_moverRow_last {t : Tile} {op : Nat} {c : Instr} {s v : State} {a b : Active} {w : Work} {r : Reach} {y : Txn}
    (h : (op, c) ∈ moverRows t) (hh : s.halted = false) (hc : (s.engine t 2).current = some a) (ho : a.c.cmd.op = op)
    (hp : a.plan = some [w]) (hr : a.reach t w = some r) (hcoh : r.coh = false) (hl : (s.tile t).txns.length < 64)
    (hs : s.sendTxn t a w r = (v.addTxn t y, b, none)) (hv : v.halted = false) (hcv : (v.engine t 2).current = some a)
    (hb : b.c = a.c) (hi : b.issued = a.issued) (hslot : y.slot = a.c.cmd.slot) (hpos : y.pos = a.c.pos) :
    exec c s = .next (v.sent t y { b with plan := some [], prog := b.prog + 1, issued := true }) := by
  obtain ⟨hexec, h4⟩ := exec_moverRow h s
  obtain ⟨-, hiss, -⟩ := current_mem hc
  rw [hexec, State.runMove_planned hh hc ho h4 hp, List.length_singleton, issueRun_succ hh hc,
    State.issueWork_sent hp hr hcoh hl hs]
  exact congrArg Host.Outcome.next (issueRun_waits (b := { b with plan := some [], prog := b.prog + 1 }) hv hcv hb
    (hi.trans hiss) rfl hslot hpos)

/-- Settles O24: each clause is the last piece of work sent in its own way. -/
theorem moverIssuesItsLastRequest : Obligations.MoverIssuesItsLastRequest := by
  unfold Obligations.MoverIssuesItsLastRequest
  intro s t op c a w r h hh hc ho hp hr hcoh hl x b sent
  refine ⟨fun hcopy hcacc => ?asIs, fun src dst n hw hown hnc hread => ?copyOut, fun row e0 n ad p f hw hk => ?packet⟩
  case asIs =>
    exact exec_moverRow_last h hh hc ho hp hr hcoh hl (State.sendTxn_asIs s t a r hcopy hcacc) hh hc rfl rfl rfl rfl
  case copyOut =>
    subst hw
    exact exec_moverRow_last h hh hc ho hp hr hcoh hl (State.sendTxn_copyOut a dst r hown (.inl hnc) hread) hh hc rfl rfl rfl rfl
  case packet =>
    subst hw
    exact exec_moverRow_last h hh hc ho hp hr hcoh hl (State.sendTxn_cacc r hk) hh hc rfl rfl rfl rfl

/-! ### An answer comes back (R79, R83, R508) -/

/-- The transaction of a tag has left the tile's list. -/
def State.freeTxn (s : State) (t tag : Nat) : State :=
  s.setTile t { s.tile t with txns := (s.tile t).txns.filter (fun z => decide (z.tag ≠ tag)) }

theorem State.tile_freeTxn (s : State) (t tag : Nat) : (s.freeTxn t tag).tile t =
    { s.tile t with txns := (s.tile t).txns.filter (fun z => decide (z.tag ≠ tag)) } := State.tile_setTile ..

theorem State.putActive_txns (s : State) (t c : Nat) (a : Active) : ((s.putActive t c a).tile t).txns = (s.tile t).txns := by
  obtain ⟨-, -, heng, -⟩ := State.putActive_only s t c a
  rw [heng]

/-- How a copy into the tile's own SRAM from elsewhere reaches outside, its source not in T2. -/
def copyInReach (a : Active) (src n : Nat) : Reach := { addr := src, len := n, coh := a.c.a.coh && isCoherent src }

theorem Active.reach_copyIn {a : Active} {t src dst : Nat} (n : Nat) (hd : inOwn t dst = true) (hs : inOwn t src = false)
    (h4 : a.c.a.tier ≠ 4) : a.reach t (.copy src dst n) = some (copyInReach a src n) := by
  simp [Active.reach, hd, hs, h4, copyInReach]

/-- The answer to a read for a copy of memory outside the coherence domain can come at once. -/
theorem State.canAnswer_copyIn {s : State} {t src dst n : Nat} {a : Active} {x : Txn} (hw : x.work = .copy src dst n)
    (hwait : x.waiting = false) (hd : inOwn t dst = true) (hs : inOwn t src = false) (h4 : a.c.a.tier ≠ 4)
    (hc : isCoherent src = false) : s.canAnswer t (some a) x = true := by
  have hreach : (some a).bind (fun b => b.reach t x.work) = some (copyInReach a src n) := by
    rw [Option.bind_some, hw, Active.reach_copyIn n hd hs h4]
  have hpkt : s.packetOut t x = false := by rw [State.packetOut, hw]; rfl
  rw [State.canAnswer, hreach, hwait, hpkt]
  show (!isCoherent src || _ || _) = true
  rw [hc]
  rfl

theorem State.finishMove_unissued {s : State} {t j : Nat} {pos : Count} {a : Active} (ha : (s.engine t 2).find j pos = some a)
    (hi : a.issued = false) : s.finishMove t j pos = s := by
  simp [State.finishMove, ha, hi]

theorem Engine.of_find {e : Engine} {j : Nat} {pos : Count} {a : Active} (h : e.find j pos = some a) :
    a ∈ e.active ∧ a.c.cmd.slot = j ∧ a.c.pos = pos := by
  have hm := List.find?_some h
  simp only [Bool.and_eq_true, decide_eq_true_eq] at hm
  exact ⟨List.mem_of_find?_eq_some h, hm⟩

/-- A fault of a command of a running job ends the job. -/
theorem State.faultCmd_job {s : State} {t p : Nat} {x : Cmd} (c : Nat) (e : Event) (hp : s.tilePanel t = some p)
    (hs : (s.job p x.cmd.slot).jstate = 1) (hf : (s.job p x.cmd.slot).faulted = false) :
    ((s.faultCmd t c x e).job p x.cmd.slot).jstate = 2 ∧ ((s.faultCmd t c x e).job p x.cmd.slot).ecause = 2 := by
  unfold State.faultCmd
  exact State.faultTile_job _ t p x.cmd.slot _ hp hs hf

/-- An OK answer performs the transaction; a command with more to issue goes on. -/
theorem State.txnResponse_ok {s u : State} {t tag : Nat} {x : Txn} {a b : Active}
    (hx : (s.tile t).txns.find? (fun y => y.tag = tag) = some x) (hf : s.frozen = false)
    (ha : (s.engine t 2).find x.slot x.pos = some a) (hc : s.canAnswer t (some a) x = true) (hb : x.bad = .ok)
    (hw : (s.freeTxn t tag).doWork t a x.work (if x.staged then some x.data else none) false = (u, b, none))
    (hu : u.engine t 2 = s.engine t 2) (hbc : b.c = a.c) (hi : b.issued = false) :
    s.txnResponse t tag .ok = u.putActive t 2 b := by
  obtain ⟨hm, hslot, hpos⟩ := Engine.of_find ha
  have hfind : ((u.putActive t 2 b).engine t 2).find x.slot x.pos = some b := by
    rw [State.engine_putActive, hu, ← hslot, ← hpos]
    exact Engine.find_putActive _ a b hm (by rw [hbc]) (by rw [hbc])
  rw [← State.finishMove_unissued hfind hi, State.txnResponse, hx]
  simp only [ha, hf, hc, hb, Bool.not_true, Bool.or_self, Bool.false_eq_true, if_false, ne_eq, not_true_eq_false,
    State.accessEvent]
  rw [State.modTile_eq]
  unfold State.freeTxn at hw
  rw [hw]

/-- An answer other than OK is a fault of the command. -/
theorem State.txnResponse_err {s : State} {t tag : Nat} {x : Txn} {a : Active} {r : Reach}
    (hx : (s.tile t).txns.find? (fun y => y.tag = tag) = some x) (hf : s.frozen = false)
    (ha : (s.engine t 2).find x.slot x.pos = some a) (hc : s.canAnswer t (some a) x = true)
    (hr : a.reach t x.work = some r) : ∃ e, s.txnResponse t tag .errOther = (s.freeTxn t tag).faultCmd t 2 a.c e := by
  refine ⟨{ cls := (errCause r.addr .errOther).1, cause := (errCause r.addr .errOther).2, addr := r.addr }, ?_⟩
  rw [State.txnResponse, hx]
  simp only [ha, hf, hc, hr]
  rfl

/-- A copy of memory outside the coherence domain into the tile's own SRAM, performed: the bytes are written. -/
theorem State.doWork_copyIn {s : State} {t src dst n : Nat} (a : Active) (hi : s.noInjection) (hs : isCoherent src = false)
    (hd : isCoherent dst = false) (hr : s.readResp src n = .ok) (hw : s.writeResp dst n = .ok) :
    s.doWork t a (.copy src dst n) none false = (s.writeBytes dst (s.readBytes n src), a, none) := by
  have hlen : (s.readBytes n src).length = n := by simp [State.readBytes]
  have hread := State.moverRead_plain (t := t) a (.inr hi) (.inl hs) hr
  have hwrite := State.moverWrite_plain (bs := s.readBytes n src) t (.inl hd : s.plain dst) (by rw [hlen]; exact hw)
  simp only [State.doWork, State.workBytes, Bool.false_and, hread, hwrite]

/-- Settles O27: an OK answer performs the copy, another is a fault of the command. -/
theorem transactionResponseActs : Obligations.TransactionResponseActs := by
  unfold Obligations.TransactionResponseActs
  intro s t tag x a src dst n p hx hw hwait hstaged hbad hf hi ha hiss hd hs hdc hsc h4 txns
  have hc : s.canAnswer t (some a) x = true := State.canAnswer_copyIn hw hwait hd hs h4 hsc
  refine ⟨fun hr hwr => ?ok, fun hp hj hjf => ?err⟩
  case ok =>
    let v := s.freeTxn t tag.toNat
    have hlen : (s.readBytes n src).length = n := by simp [State.readBytes]
    have hdo : v.doWork t a x.work (if x.staged then some x.data else none) false =
        (v.writeBytes dst (s.readBytes n src), a, none) := by
      rw [hw, hstaged]
      exact State.doWork_copyIn a hi hsc hdc hr hwr
    have heng : (v.writeBytes dst (s.readBytes n src)).engine t 2 = s.engine t 2 := by
      show (v.tile t).eng.get {} 2 = _
      rw [State.tile_freeTxn]
      rfl
    refine ⟨_, congrArg Host.Outcome.next (State.txnResponse_ok hx hf ha hc hbad hdo heng rfl hiss), ?_, ?_, ?_, ?_, rfl, rfl⟩
    · have h := State.readBytes_writeBytes v dst (s.readBytes n src)
      rwa [hlen] at h
    · have h := State.writeBytes_outside v dst (s.readBytes n src)
      rwa [hlen] at h
    · rw [State.putActive_txns]
      exact congrArg TileS.txns (State.tile_freeTxn s t tag.toNat)
    · rw [State.engine_putActive, heng]
  case err =>
    have hreach : a.reach t x.work = some (copyInReach a src n) := by rw [hw, Active.reach_copyIn n hd hs h4]
    obtain ⟨e, he⟩ := State.txnResponse_err hx hf ha hc hreach
    exact ⟨_, congrArg Host.Outcome.next he, State.faultCmd_job 2 e hp hj hjf⟩

end Sys2Proof.Machine
end

section
/-!
Requests at the memory's agents (03 R76, R83; 09 R311; 10 R354): what a tile's remote agent and a sill do with a request of sound
memory, and the settling of TileAndSillServeRequests from it.
-/
namespace Sys2Proof.Machine
open Sys2Proof

/-- An OK read found its range mapped, its channel up and its data sound. -/
theorem State.of_readResp_ok {s : State} {a n : Nat} (hn : 0 < n) (h : s.readResp a n = .ok) :
    s.mapped a = true ∧ s.mapped (a + n - 1) = true ∧ s.hbmDown a = false ∧ s.poisoned a n = false := by
  unfold State.readResp at h
  rw [if_neg (by omega)] at h
  split at h
  · cases h
  · next hm =>
    split at h
    · cases h
    · next hd =>
      split at h
      · cases h
      · next hp =>
        simp only [Bool.or_eq_true, Bool.not_eq_true', not_or, Bool.not_eq_false, Bool.not_eq_true] at hm hd hp
        obtain ⟨⟨hlo, hhi⟩, -⟩ := hm
        exact ⟨hlo, hhi, hd.1, hp⟩

/-! ### The answer of sound memory -/

theorem State.perform_read {s : State} {rq : MemReq} {n : Nat} (ho : rq.op = .read n) (hr : s.readResp rq.addr n = .ok) :
    s.perform rq = s.respond rq .ok (s.readBytes n rq.addr) := by
  simp [State.perform, ho, hr]

theorem State.perform_write {s : State} {rq : MemReq} {bs : List Byte} (ho : rq.op = .write bs)
    (hr : s.readResp rq.addr bs.length = .ok) : s.perform rq = (s.writeBytes rq.addr bs).respond rq .ok [] := by
  simp [State.perform, ho, State.writeResp, hr]

theorem State.perform_atomic {s : State} {rq : MemReq} {op : AtomicOp} {w : Bool} {v c : Nat} (ho : rq.op = .atomic op w v c)
    (hr : s.readResp rq.addr (atomicSize w) = .ok) :
    s.perform rq = (s.writeNat (atomicSize w) rq.addr (atomicNew op w (s.readNat (atomicSize w) rq.addr) v c)).respond rq .ok
      (toBytes (atomicSize w) (s.readNat (atomicSize w) rq.addr)) := by
  simp [State.perform, ho, hr]

/-! ### The agents -/

/-- A tile's remote agent performs a request of its window whose memory is sound. -/
theorem State.remoteAgent_sound {s : State} {t : Nat} {rq : MemReq} (hi : s.noInjection) (hn : 0 < opSize rq.op)
    (ha : rqAligned rq = true) (hr : s.readResp rq.addr (opSize rq.op) = .ok) (hf : s.frozen = false)
    (hw : within rq.addr (opSize rq.op) (winAddr t 0) winSize = true) : s.remoteAgent t rq .clean = s.perform rq := by
  obtain ⟨-, hm, -, hp⟩ := State.of_readResp_ok hn hr
  have hread : (s.sramCode t rq.addr .clean).fireSram t rq.addr (rqJob rq) = s := State.fireSram_noInjection hi ..
  unfold State.remoteAgent
  simp only [hf, hw, hm, ha, hread, Nat.ne_of_gt hn, decide_false, Bool.not_true, Bool.or_self, Bool.false_eq_true, if_false]
  cases ho : rq.op with
  | write bs => rfl
  | read n => rw [ho] at hp; simp [hp]
  | atomic op w v c => rw [ho] at hp; simp [hp]

/-- A sill performs a request of its own stack whose memory is sound. -/
theorem State.sillRequest_sound {s : State} {k q off : Nat} {rq : MemReq} (hi : s.noInjection) (hn : 0 < opSize rq.op)
    (ha : rqAligned rq = true) (hr : s.readResp rq.addr (opSize rq.op) = .ok) (hg : regionOf rq.addr = .hbm q off)
    (hq : q / 2 = k) : s.sillRequest k rq .clean = s.perform rq := by
  obtain ⟨hlo, hhi, hd, -⟩ := State.of_readResp_ok hn hr
  have hread : (s.hbmCode rq.addr .clean).fireRead rq.addr (rqJob rq) = s := by
    rw [State.hbmCode, hg]
    exact State.fireRead_noInjection hi ..
  unfold State.sillRequest
  simp only [hg]
  rw [if_neg (by omega)]
  simp only [hlo, hhi, ha, hread, hd, Bool.not_true, Bool.or_self, Bool.false_eq_true, if_false]
  cases rq.op <;> rfl

/-- Settles O31: either agent performs the request. -/
theorem tileAndSillServeRequests : Obligations.TileAndSillServeRequests := by
  unfold Obligations.TileAndSillServeRequests
  intro s t k rq c hi hn ha hr hc answer
  have hexec : exec c s = .next (s.perform rq) := by
    rcases hc with ⟨rfl, hf, hw⟩ | ⟨rfl, q, off, hg, hq⟩
    · exact congrArg Host.Outcome.next (State.remoteAgent_sound hi hn ha hr hf hw)
    · exact congrArg Host.Outcome.next (State.sillRequest_sound hi hn ha hr hg hq)
  rw [hexec]
  refine ⟨fun n ho => ?read, fun bs ho => ?write, fun op w v cmp ho => ?atomic⟩
  all_goals rw [ho] at hr; refine congrArg Host.Outcome.next ?_
  case read => exact State.perform_read ho hr
  case write => exact State.perform_write ho hr
  case atomic => exact State.perform_atomic ho hr

end Sys2Proof.Machine
end

section
/-!
Packets on a panel's tables, on ports and on injections (16 R526, R529, R537, R538, R542; 09 R288 to R290, R295; 11 R373, R374,
R382): how a packet whose turn has come is performed, and the settling of TablePacketsAct from it.
-/
namespace Sys2Proof.Machine
open Sys2Proof

/-! ### A packet in its turn (R526 steps 7 to 9) -/

/-- How the end of a packet's performance answers it. -/
def State.concluded (s : State) (q : IcralReq) (o : OpSpec) (cl : List Nat) : Done → State
  | .refuse st d => s.answer (s.acceptedOf q) st d [] []
  | .ok u => u.answer (s.acceptedOf q) stOk 0 (o.rp u q) cl
  | .wait u x => u.waiting q x cl

theorem State.taken.opcode {s : State} {q : IcralReq} {op w : Nat} {o : OpSpec} {cl : List Nat} (h : s.taken q op o w cl) :
    q.opcode.toNat = op := h.1

/-- A packet that its opcode's row takes is performed on its parameters in force. -/
theorem State.performReq_taken {s : State} {q : IcralReq} {op w : Nat} {o : OpSpec} {cl : List Nat} {here : Bool}
    {d : Done} (h : s.taken q op o w cl) (hh : here = true) (hd : o.run s q w = d) :
    s.performReq q here o = s.concluded q o cl d := by
  subst hd
  obtain ⟨-, hturn, hcheck, hout, hjudge, hserve, hres⟩ := h
  unfold State.performReq
  simp only [hh, hturn, hout, hjudge, hserve, hres, Bool.not_true, Bool.or_self, Bool.false_eq_true, if_false]
  cases o.run s q w <;> simp [State.concluded, hcheck, State.waiting]

theorem need_true {ok : Bool} (h : ok = true) (status detail : Nat) (k : Done) : need ok status detail k = k := if_pos h

theorem State.inService_of {s : State} {p : Nat} (h : (s.panel p).state = 2) (k : Done) : s.inService p k = k :=
  need_true (decide_eq_true h) ..

/-! ### Tables -/

theorem specRingConfig_run {s : State} {q : IcralReq} {w : Nat}
    (hs : s.isEthRing (bits w 0 18) = true ∨ (s.panel q.panel).state = 2)
    (hr : (s.ring (bits w 0 18)).configurable) : specRingConfig.run s q w = .ok (s.setRing (bits w 0 18)
      ((s.ring (bits w 0 18)).configure (bits w 64 5) (bit w 69) (bits w 76 40 * 4096) (bits w 128 52))) := by
  have hgo : (!(s.ring (bits w 0 18)).en || decide ((s.ring (bits w 0 18)).head = (s.ring (bits w 0 18)).tail)) = true := by
    rcases hr with h | h <;> simp [h]
  unfold specRingConfig
  dsimp only
  rw [need_true hgo]
  split
  · rfl
  · exact State.inService_of (hs.resolve_left ‹_›) _

theorem specSegment_run {s : State} {q : IcralReq} {w : Nat} (hs : (s.panel q.panel).state = 2)
    (hk : s.segOk q.panel (bits w 4 3) (bits w 0 4) (bits w 64 256) = true) :
    specSegment.run s q w =
      let users := s.segUsers q.panel (bits w 4 3) (bits w 0 4)
      let u := s.setPanel q.panel { s.panel q.panel with
        segs := (s.panel q.panel).segs.set 0 (bits w 4 3 * 16 + bits w 0 4) (bits w 64 256) }
      if users.isEmpty then .ok u else .wait u (.seg q.panel (bits w 4 3) (bits w 0 4) users) := by
  unfold specSegment
  dsimp only
  rw [State.inService_of hs, need_true hk]
  rfl

theorem specWindow_run {s : State} {q : IcralReq} {w : Nat} (hs : (s.panel q.panel).state = 2)
    (hk : s.winOk q.panel (bits w 64 256) = true) : specWindow.run s q w = .ok (s.setPanel q.panel { s.panel q.panel with
      wins := (s.panel q.panel).wins.set 0 (bits w 0 8) (bits w 64 256) }) := by
  unfold specWindow
  dsimp only
  rw [State.inService_of hs, need_true hk]
  rfl

theorem specRtableWrite_run {s : State} {q : IcralReq} {w : Nat} (hs : (s.panel q.panel).state = 2)
    (hk : s.rtOk q.panel (bits w 64 192) = true) : specRtableWrite.run s q w = .ok (s.setPanel q.panel { s.panel q.panel with
      rtab := (s.panel q.panel).rtab.set 0 (bits w 2 12) (bits w 64 192) }) := by
  unfold specRtableWrite
  dsimp only
  rw [State.inService_of hs, need_true hk]
  rfl

/-- Arming rewrites each entry of the list that is valid; one that is not valid reads as it did. -/
theorem Panel.arm_rtab (x : Panel) (l : List Nat) (i : Nat) :
    (x.arm l).rtab.get 0 i = if l.contains i && rtValid (x.rtab.get 0 i) then rtArm (x.rtab.get 0 i) else x.rtab.get 0 i := by
  have hz (k : Nat) : (if l.contains k && rtValid 0 then rtArm 0 else 0) = 0 := by
    rw [show rtValid 0 = false from by decide, Bool.and_false]
    rfl
  exact Table.get_update x.rtab 0 (fun k e => if l.contains k && rtValid e then rtArm e else e) hz i

/-! ### A segment's users are gone (R86, R295) -/

/-- The only accepted packet, waiting for users of a segment, is the one found when they are gone. -/
theorem State.segDone_only {s : State} {z : Accepted} {p j e : Nat} {cmds : List (Nat × Count)} (hz : s.mgmt.accepted = [z])
    (hw : z.wait = some (.seg p j e cmds)) :
    s.segDone p j e = if cmds.any s.inEngine then none else some (.seg p j e cmds) := by
  unfold State.segDone
  cases hc : cmds.any s.inEngine <;> simp [hz, hw, hc]

theorem State.release_only {s : State} {z : Accepted} {x : Wait} (rp : State → IcralReq → List Byte)
    (hz : s.mgmt.accepted = [z]) (hw : z.wait = some x) : s.release x rp = s.answer z stOk 0 (rp s z.q) z.clamps := by
  simp [State.release, hz, hw]

/-- The packet is answered once the last of the commands it waits for has left its engine. -/
theorem execSegmentUpdateComplete_only {s : State} {z : Accepted} {p : PanelId} {j : Slot} {e : Fin 16}
    {cmds : List (Nat × Count)} (hz : s.mgmt.accepted = [z]) (hw : z.wait = some (.seg p j e cmds)) :
    execSegmentUpdateComplete p j e s =
      .next (if cmds.any s.inEngine then s else s.answer z stOk 0 (segRp s z.q) z.clamps) := by
  rw [execSegmentUpdateComplete, State.segDone_only hz hw]
  cases cmds.any s.inEngine with
  | true => rfl
  | false => exact congrArg Host.Outcome.next (State.release_only segRp hz hw)

/-! ### Ports (R542) -/

/-- The rules of COURSE_PORT on what connections and receive rings hold fixed are met. -/
theorem specCoursePort_run {s : State} {q : IcralReq} {w : Nat}
    (hf : (s.port (bits w 0 5)).sameFixed ((s.port (bits w 0 5)).configure w) = true ∨ s.portNamed (bits w 0 5) = false)
    (hr : (s.port (bits w 0 5)).nrxq = ((s.port (bits w 0 5)).configure w).nrxq ∨ s.rxRingOn (bits w 0 5) = false) :
    specCoursePort.run s q w =
      if (s.port (bits w 0 5)).eth = ((s.port (bits w 0 5)).configure w).eth then
        .ok (s.modPort (bits w 0 5) (fun _ => (s.port (bits w 0 5)).configure w))
      else .wait ((s.modPort (bits w 0 5) CPort.retrain).portEvent (bits w 0 5) 1) (.port (bits w 0 5)) := by
  refine need_true ?_ ..
  rw [Bool.and_eq_true, Bool.or_eq_true, Bool.or_eq_true, decide_eq_true_eq, Bool.not_eq_true', Bool.not_eq_true']
  exact ⟨hf, hr⟩

/-- An up port that retrains goes down under hold. -/
theorem State.retrain_up {s : State} {n : Nat} (h : (s.port n).st = 2) :
    s.modPort n CPort.retrain = s.modPort n (fun z => { z with st := 3, hold := true }) := by
  simp [State.modPort, CPort.retrain, h]

/-! ### Injections (R537, R538) -/

/-- A detector that waits for an occurrence is armed. -/
theorem specInject_run_arms {s : State} {w : Nat} (q : IcralReq) (hn : injNow (bits w 0 8) = false) : specInject.run s q w =
    .ok { s with inj := s.inj.set none (injKey (bits w 0 8) (bits w 32 32)) (some (bits w 64 32, bit w 8)) } := by
  have hd : bits w 0 8 ≠ 0x0F := by
    rintro h
    rw [h] at hn
    exact absurd hn (by decide)
  simp [specInject, hn, hd]

/-- A detector that fires at once does so, but for an injection into the watchdog of a job that does not run. -/
theorem specInject_run_fires {s : State} {w : Nat} (q : IcralReq) (hn : injNow (bits w 0 8) = true) (hd : bits w 0 8 ≠ 0x0F) :
    specInject.run s q w = .ok (s.injectNow (bits w 0 8) (bits w 32 32) (bit w 8)) := by
  simp [specInject, hn, hd]

theorem specInject_run_droops {s : State} {w : Nat} (q : IcralReq) (hd : bits w 0 8 = 0x0B) (hl : bit w 8 = false) :
    specInject.run s q w =
      .ok ((s.droop (bits w 32 32)).emit (injEvent (bits w 0 8) (bits w 32 32) (tileAgent (bits w 32 32)))) := by
  rw [specInject_run_fires q (by rw [hd]; decide) (by rw [hd]; decide), hd, hl]
  rfl

/-- The loss of the reference clock in LOG mode is recorded only. -/
theorem specInject_run_logsReference {s : State} {w : Nat} (q : IcralReq) (hd : bits w 0 8 = 0x0D) (hl : bit w 8 = true) :
    specInject.run s q w = .ok (s.emit (injEvent (bits w 0 8) (bits w 32 32) .manager)) := by
  rw [specInject_run_fires q (by rw [hd]; decide) (by rw [hd]; decide), hd, hl]
  rfl

theorem specInject_run_refuses {s : State} {w : Nat} (q : IcralReq) (hd : bits w 0 8 = 0x0F)
    (hr : s.running (bits w 32 32 / 8) (bits w 32 32 % 8) = false) : specInject.run s q w = .refuse stConflict 32 := by
  simp [specInject, hd, hr]

/-! ### Settling -/

/-- Settles O53: each packet in its turn does what its opcode's rule, met, makes it do. -/
theorem tablePacketsAct : Obligations.TablePacketsAct := by
  unfold Obligations.TablePacketsAct
  intro s q w cl a p x v rv g r k n y det tgt
  refine ⟨fun h hs hr => ?ringConfig, fun h h8 hs hk => ?segment, fun h h8 hs => ?segmentRead,
    fun z e j cmds hz hw => ?segmentDone, fun h h8 hs hk => ?window, fun h h8 hs => ?windowRead,
    fun h ha hs hk => ?rtableWrite, fun h ha hs => ?rtableRead, fun h ha hs => ?rtableArm,
    fun h hf hr => ?coursePort, fun h h9 => ?inject, fun h h9 => ?disarm⟩
  case ringConfig =>
    exact congrArg Host.Outcome.next (State.performReq_taken h (by simp [h.opcode]) (specRingConfig_run hs hr))
  case segment =>
    have here : (decide (q.opcode.toNat = 0x21) && !bit q.params 8) = true := by simp [h.opcode, h8]
    have hrun := specSegment_run hs hk
    refine ⟨fun hu => ?_, fun hu => ?_⟩
    · have hok := hrun.trans (if_pos (List.isEmpty_iff.mpr hu))
      exact congrArg Host.Outcome.next (State.performReq_taken h here hok)
    · have hwait := hrun.trans (if_neg fun he => hu (List.isEmpty_iff.mp he))
      exact congrArg Host.Outcome.next (State.performReq_taken h here hwait)
  case segmentRead =>
    exact congrArg Host.Outcome.next (State.performReq_taken h (by simp [h.opcode, h8]) (State.inService_of hs _))
  case segmentDone =>
    have hdone := execSegmentUpdateComplete_only hz hw
    exact ⟨fun hc => hdone.trans (congrArg Host.Outcome.next (if_neg (by simp [hc]))),
      fun hc => hdone.trans (congrArg Host.Outcome.next (if_pos hc))⟩
  case window =>
    exact congrArg Host.Outcome.next (State.performReq_taken h (by simp [h.opcode, h8]) (specWindow_run hs hk))
  case windowRead =>
    exact congrArg Host.Outcome.next (State.performReq_taken h (by simp [h.opcode, h8]) (State.inService_of hs _))
  case rtableWrite =>
    exact congrArg Host.Outcome.next (State.performReq_taken h (by simp [h.opcode, ha]) (specRtableWrite_run hs hk))
  case rtableRead =>
    exact congrArg Host.Outcome.next (State.performReq_taken h (by simp [h.opcode, ha]) (State.inService_of hs _))
  case rtableArm =>
    exact ⟨_, congrArg Host.Outcome.next (State.performReq_taken h (by simp [h.opcode, ha]) (State.inService_of hs _)),
      Panel.arm_rtab x (rtRange 2 w)⟩
  case coursePort =>
    have hrun := specCoursePort_run (q := q) hf hr
    refine ⟨fun he => ?_, fun he hst => ?_⟩
    · exact congrArg Host.Outcome.next (State.performReq_taken h (by simp [h.opcode]) (hrun.trans (if_pos he)))
    · rw [State.retrain_up hst] at hrun
      exact congrArg Host.Outcome.next (State.performReq_taken h (by simp [h.opcode]) (hrun.trans (if_neg he)))
  case inject =>
    have here : (decide (q.opcode.toNat = 0x40) && !bit q.params 9) = true := by simp [h.opcode, h9]
    refine ⟨fun h1 h2 h3 h4 => ?_, fun hd hl => ?_, fun hd hl => ?_, fun hd hr => ?_⟩
    · have hn : injNow det = false := by simp [injNow, h1, h2, h3, h4]
      exact congrArg Host.Outcome.next (State.performReq_taken h here (specInject_run_arms q hn))
    · exact congrArg Host.Outcome.next (State.performReq_taken h here (specInject_run_droops q hd hl))
    · exact congrArg Host.Outcome.next (State.performReq_taken h here (specInject_run_logsReference q hd hl))
    · exact congrArg Host.Outcome.next (State.performReq_taken h here (specInject_run_refuses q hd hr))
  case disarm =>
    exact congrArg Host.Outcome.next (State.performReq_taken h (by simp [h.opcode, h9]) rfl)

end Sys2Proof.Machine
end

section
/-!
What the feeders and the weight store take from SRAM (04 R109, R113 to R115, R132 to R134): the next step of the group in progress,
the next pass's weights; and the settling of FeederFillTakesTheNextStep and WeightLoadFillsThePass.
-/
namespace Sys2Proof.Machine
open Sys2Proof

theorem State.fireIndex_noInjection {s : State} (hi : s.noInjection) (t : Nat) (job : Option (Nat × Nat)) (e : FeedEntry)
    (sparse : Bool) : s.fireIndex t job e sparse = (s, e) := by
  rw [State.fireIndex, State.armed_noInjection hi]
  exact ite_self _

/-! ### FEEDER_FILL -/

/-- Keys of the steps still to issue of the output group in progress, in their order (R109, R110). -/
def State.keysLeft (s : State) (t : Nat) (a : Active) : List Nat :=
  ((s.groupSteps t a a.grp).map (entryKey a.grp)).filter (fun k => decide (a.prog ≤ k))

section
variable {s : State} {t : Nat} {a : Active} {f : Nat} (hh : s.halted = false) (hc : (s.engine t 0).current = some a)
  (hop : isArrayOp a.c.cmd.op = true) (hws : isWsOp a.c.cmd.op = false)
include hh hc hop hws

/-- A feeder whose eight entries are taken fetches nothing (R113). -/
theorem State.feederFill_full {col : Bool}
    (hq : 8 ≤ (if col then (s.tile t).arr.colFeed.get [] f else (s.tile t).arr.rowFeed.get [] f).length) :
    s.feederFill t col f = s := by
  simp [State.feederFill, hh, hc, hop, hws, hq]

theorem State.feederFill_row {k : Nat} (hi : s.noInjection) (hq : ((s.tile t).arr.rowFeed.get [] f).length < 8)
    (hk : nextKey ((s.tile t).arr.rowFeed.get [] f) (s.keysLeft t a) = some k) :
    let e : FeedEntry := { s.rowEntry t a (k / 2 ^ 20) (k % 2 ^ 20) f with step := k }
    s.feederFill t false f = s.modArr t (fun x => { x with rowFeed := x.rowFeed.modify [] f (· ++ [e]) }) := by
  unfold State.keysLeft at hk
  simp [State.feederFill, hh, hc, hop, hws, Nat.not_le.mpr hq, hk, State.fireSram_noInjection hi, State.fireIndex_noInjection hi]

/-- With no K-step held by its DPUs, a column feeder looks at every K-step left. -/
theorem State.feederFill_col {k : Nat} (hi : s.noInjection) (hq : ((s.tile t).arr.colFeed.get [] f).length < 8)
    (hheld : (s.tile t).arr.held = [])
    (hk : nextKey ((s.tile t).arr.colFeed.get [] f) (colKeys (s.keysLeft t a)) = some k) :
    let e : FeedEntry := { s.colEntry t a (k / 2 ^ 20) (k % 2 ^ 20) f with step := k }
    s.feederFill t true f = s.modArr t (fun x => { x with colFeed := x.colFeed.modify [] f (· ++ [e]) }) := by
  unfold State.keysLeft at hk
  simp [State.feederFill, hh, hc, hop, hws, Nat.not_le.mpr hq, hheld, hk, State.fireSram_noInjection hi,
    State.fireIndex_noInjection hi]

end

/-- Settles O16: a free entry of a row or a column feeder is filled, a full feeder is left. -/
theorem feederFillTakesTheNextStep : Obligations.FeederFillTakesTheNextStep := by
  unfold Obligations.FeederFillTakesTheNextStep
  intro s t f a k hi hh hc hop hws x ks
  refine ⟨fun hq hk => ?row, fun hq hheld hk => ?col, fun hq => ?rowFull, fun hq => ?colFull⟩
  case row => exact congrArg Host.Outcome.next (State.feederFill_row hh hc hop hws hi hq hk)
  case col => exact congrArg Host.Outcome.next (State.feederFill_col hh hc hop hws hi hq hheld hk)
  case rowFull => exact congrArg Host.Outcome.next (State.feederFill_full (col := false) hh hc hop hws hq)
  case colFull => exact congrArg Host.Outcome.next (State.feederFill_full (col := true) hh hc hop hws hq)

/-! ### WEIGHT_LOAD_PASS -/

/-- A sound load of the pass that comes next, the store having room for it. -/
theorem State.weightLoad_sound {s : State} {t p : Nat} {a : Active} (hi : s.noInjection) (hh : s.halted = false)
    (hc : (s.engine t 0).current = some a) (hop : isWsOp a.c.cmd.op = true) (hp : p < a.c.cmd.passes) :
    let x := (s.tile t).arr
    let rs := (List.range a.c.cmd.n).map (fun n => s.wsWeights a p n)
    (x.wts.getLast? = none ∧ p = a.grp ∨ ∃ q, x.wts.getLast? = some q ∧ p = q.1 + 1) →
    (x.wts = [] ∨ (x.wts.length = 1 ∧ a.fitsHalf (p - 1) = true ∧ a.fitsHalf p = true)) →
    (x.wts = [] → p = 0 → x.drains = []) → entriesFault [joinReads rs 0] = none →
    s.weightLoad t = s.modArr t (fun x =>
      { x with wts := x.wts ++ [(p, rs.map (·.blks))], accs := if p = 0 then [] else x.accs }) := by
  intro x rs hnext hroom hdr he
  have hfit : (x.wts.isEmpty || (decide (x.wts.length = 1) && a.fitsHalf (p - 1) && a.fitsHalf p)) = true := by
    simpa [and_assoc] using hroom
  have hfree : (x.wts.isEmpty && decide (p = 0) && !x.drains.isEmpty) = false := by simpa using hdr
  have hgo : (s.halted || !isWsOp a.c.cmd.op || decide (a.c.cmd.passes ≤ p)) = false := by simp [hh, hop, hp]
  obtain ⟨hlast, rfl⟩ | ⟨q, hlast, rfl⟩ := hnext <;>
    simp only [State.weightLoad, hc, hlast, hgo, hfit, hfree, State.fireSram_noInjection hi, State.fireIndex_noInjection hi, he,
      Bool.not_true, Bool.false_eq_true, if_false, x, rs]

/-- Settles O18: the next pass is the one after the last in the store, or the command's own when the store is empty. -/
theorem weightLoadFillsThePass : Obligations.WeightLoadFillsThePass := by
  unfold Obligations.WeightLoadFillsThePass
  intro s t a p hi hh hc hop x h0 h1 rs hp hroom hdr he wts
  have hnext : x.wts.getLast? = none ∧ p = a.grp ∨ ∃ q, x.wts.getLast? = some q ∧ p = q.1 + 1 := by
    cases hlast : x.wts.getLast? with
    | none => exact .inl ⟨rfl, h0 (List.getLast?_eq_none_iff.mp hlast)⟩
    | some q => exact .inr ⟨q, rfl, h1 q hlast⟩
  exact congrArg Host.Outcome.next (State.weightLoad_sound hi hh hc hop hp hnext hroom hdr he)

end Sys2Proof.Machine
end

section
/-!
The drain port in the middle of a square sub-block (04 R120, R121; 06 R182, R183): a tc that begins no sub-block and ends none
checks two rows and writes them; and the settling of DrainWritesTwoRows.
-/
namespace Sys2Proof.Machine
open Sys2Proof

/-! A drain's checks change its failure bits alone. -/

@[simp] theorem Drain.squareChecks_next (d : Drain) (w : WorkCmd) (l : List Acc) : (d.squareChecks w l).1.next = d.next := by
  unfold Drain.squareChecks; split <;> rfl
@[simp] theorem Drain.squareChecks_subs (d : Drain) (w : WorkCmd) (l : List Acc) : (d.squareChecks w l).1.subs = d.subs := by
  unfold Drain.squareChecks; split <;> rfl
@[simp] theorem Drain.squareChecks_mb (d : Drain) (w : WorkCmd) (l : List Acc) : (d.squareChecks w l).1.mb = d.mb := by
  unfold Drain.squareChecks; split <;> rfl
@[simp] theorem Drain.squareChecks_nb (d : Drain) (w : WorkCmd) (l : List Acc) : (d.squareChecks w l).1.nb = d.nb := by
  unfold Drain.squareChecks; split <;> rfl

/-- After a sub-block's first tc no armed injection takes effect. -/
theorem State.drainBegin_started {d : Drain} (s : State) (t k : Nat) (h : d.next % 16 ≠ 0) : s.drainBegin t d k = (s, d) :=
  if_neg h

theorem State.drainWrite_more {s : State} {t : Nat} {a : Active} {d : Drain} {rows : List (Nat × Nat × List Nat)}
    (hr : ∀ r ∈ rows, s.rowPoison a.c.cmd a.c.c.addr r.1 r.2.1 = none) :
    s.drainWrite t a d rows false = (s.drainRows t a rows).putDrain t d := by
  simp [State.drainWrite, List.filterMap_eq_nil_iff.mpr hr]

theorem State.drainTc_square {s : State} {t : Nat} {d : Drain} {ds : List Drain} {a : Active} (hh : s.halted = false)
    (hd : (s.tile t).arr.drains = d :: ds) (ha : s.drainCmd t d = some a) (hws : d.ws = false) :
    s.drainTc t = s.squareDrain t a d := by
  simp [State.drainTc, hh, hd, ha, hws]

/-- The two output rows of sub-block `d.next / 16` that a drain tc writes. -/
def Drain.rowsOut (d : Drain) (l : List Acc) : List (Nat × Nat × List Nat) :=
  let r0 := d.next % 16 * 2
  let m := 32 * (d.mb + d.next / 16) + r0
  [(m, d.nb, (cellRow l r0 32).map (·.v)), (m + 1, d.nb, (cellRow l (r0 + 1) 32).map (·.v))]

/-- A tc inside a sub-block acts on no failed check: it writes its rows and counts itself. -/
theorem State.squareDrain_middle {s : State} {t : Nat} {a : Active} {d : Drain} (h0 : d.next % 16 ≠ 0) (h15 : d.next % 16 ≠ 15)
    (hl : d.next + 1 < 16 * d.subs) :
    let l := Acc.table (s.tile t).arr (4 * d.set + d.next / 16)
    let c := d.squareChecks a.c.cmd l
    let v := s.modTile t (fun x => { x with unmade := x.unmade + c.2 })
    (∀ r ∈ d.rowsOut l, v.rowPoison a.c.cmd a.c.c.addr r.1 r.2.1 = none) →
    s.squareDrain t a d = (v.drainRows t a (d.rowsOut l)).putDrain t { c.1 with next := c.1.next + 1 } := by
  intro l c v hr
  have hlast : d.next % 16 * 2 ≠ 30 := by omega
  have hw := State.drainWrite_more (t := t) (d := { c.1 with next := c.1.next + 1 }) hr
  simpa [State.squareDrain, State.drainBegin_started s t _ h0, hlast, Nat.ne_of_lt hl, Drain.rowsOut, c, v, l] using hw

/-- Settles O19: the tc neither begins nor ends a sub-block. -/
theorem drainWritesTwoRows : Obligations.DrainWritesTwoRows := by
  unfold Obligations.DrainWritesTwoRows
  intro s t d ds a hh hd ha hws h0 h15 hl l c m rows v hr
  exact congrArg Host.Outcome.next ((State.drainTc_square hh hd ha hws).trans (State.squareDrain_middle h0 h15 hl hr))

end Sys2Proof.Machine
end

section
/-!
The rows of the array opcodes (04 R109, R122, R124; 07 R226, Table 7.9): each runs the running command of its opcode move by move
to its chunk's end; and the settling of ArrayRowsRunTheirCommand.
-/
namespace Sys2Proof.Machine
open Sys2Proof

theorem exec_squareRow {t : Tile} {op : Nat} {c : Instr} (h : (op, c) ∈ squareRows t) (s : State) :
    exec c s = .next (s.runSquare t op) := by
  simp only [squareRows, List.mem_cons, Prod.mk.injEq, List.not_mem_nil, or_false] at h
  obtain ⟨rfl, rfl⟩ | ⟨rfl, rfl⟩ | ⟨rfl, rfl⟩ | ⟨rfl, rfl⟩ := h <;> rfl

theorem exec_wsRow {t : Tile} {op : Nat} {c : Instr} (h : (op, c) ∈ wsRows t) (s : State) :
    exec c s = .next (s.runWs t op) := by
  simp only [wsRows, List.mem_cons, Prod.mk.injEq, List.not_mem_nil, or_false] at h
  obtain ⟨rfl, rfl⟩ | ⟨rfl, rfl⟩ | ⟨rfl, rfl⟩ | ⟨rfl, rfl⟩ := h <;> rfl

/-! ### No running command of the opcode -/

section
variable {s : State} {t op : Nat} (h : s.halted = true ∨ ∀ a, (s.engine t 0).current = some a → a.c.cmd.op ≠ op)
include h

theorem State.runSquare_idle : s.runSquare t op = s := by
  unfold State.runSquare
  split
  · rfl
  · next hh =>
    split
    · next a hc => exact if_neg (h.resolve_left hh a hc)
    · rfl

theorem State.runWs_idle : s.runWs t op = s := by
  unfold State.runWs
  split
  · rfl
  · next hh =>
    split
    · next a hc => exact if_neg (h.resolve_left hh a hc)
    · rfl

end

/-! ### The move after which nothing runs -/

theorem squareRun_stopped {s : State} {t : Nat} (n : Nat) (h : (s.engine t 0).current = none) : squareRun n t s = s := by
  cases n with
  | zero => rfl
  | succ n => simp [squareRun, h]

theorem wsRun_stopped {s : State} {t : Nat} (n : Nat) (h : (s.engine t 0).current = none) : wsRun n t s = s := by
  cases n with
  | zero => rfl
  | succ n => simp [wsRun, h]

section
variable {s : State} {t op : Nat} {a : Active} (hh : s.halted = false) (hc : (s.engine t 0).current = some a)
  (ho : a.c.cmd.op = op)
include hh hc ho

/-- The fuel allows at least one move, and a tile without a running command makes none. -/
theorem State.runSquare_last (hl : ((s.squareMove t a).engine t 0).current = none) :
    s.runSquare t op = (s.squareMove t a).lastDrains t a := by
  simp [State.runSquare, Active.fuel, squareRun, hh, hc, ho, squareRun_stopped _ hl]

theorem State.runWs_last (hl : ((s.wsMove t a).engine t 0).current = none) :
    s.runWs t op = (s.wsMove t a).lastDrains t a := by
  simp [State.runWs, Active.wsFuel, wsRun, hh, hc, ho, wsRun_stopped _ hl]

end

/-- Settles O20: a row without its command is idle, and a last move is followed by the drains that wait. -/
theorem arrayRowsRunTheirCommand : Obligations.ArrayRowsRunTheirCommand := by
  unfold Obligations.ArrayRowsRunTheirCommand
  intro s t op c
  refine ⟨fun hrow hidle => ?idle, fun a hh hc ho => ⟨fun hrow hl => ?square, fun hrow hl => ?ws⟩⟩
  case idle =>
    rcases hrow with hrow | hrow
    · rw [exec_squareRow hrow, State.runSquare_idle hidle]
    · rw [exec_wsRow hrow, State.runWs_idle hidle]
  case square => rw [exec_squareRow hrow, State.runSquare_last hh hc ho hl]
  case ws => rw [exec_wsRow hrow, State.runWs_last hh hc ho hl]

end Sys2Proof.Machine
end

section
/-!
The dispatch stages of the vector unit (05 R164, R170; 07 R242, Table 7.9): with no injection armed and nothing poisoned that it
reads, a stage's row does the stage's work whole and finishes its command; and the settling of DispatchStagesFinish.
-/
namespace Sys2Proof.Machine
open Sys2Proof

/-- The work of the dispatch stage of opcode `op`: the state after its writes, and the flags of what it computed. Counts and
scans are of integers and raise none. -/
def State.moeWork (s : State) (t op : Nat) (a : Active) : State × NFlags :=
  if op = 0x50 then (s.moeCount a, {}) else if op = 0x51 then (s.moeScan a, {}) else s.moeSum t a

/-- The command of a dispatch stage takes the flags of its work and is finished; the vector unit is then free. -/
def State.moeDone (t : Nat) (a : Active) (r : State × NFlags) : State :=
  (r.1.putActive t 1 (a.gather r.2).finish).modEngine t 1 (fun e => e.stop a.c.cmd.slot)

/-- The row's read fires no injection and meets no poison, so nothing keeps the stage from its work. -/
theorem State.runMoe_sound {s : State} {t op : Nat} {a : Active} (hi : s.noInjection) (hh : s.halted = false)
    (hc : (s.engine t 1).current = some a) (hp : s.moePoison t a = none) (ho : a.c.cmd.op = op) :
    s.runMoe t op = State.moeDone t a (s.moeWork t op a) := by
  simp [State.runMoe, hh, hc, ho, State.fireSram_noInjection hi, hp, State.moeWork, State.moeDone]

/-- Settles O22: each stage's row does the work of its opcode. -/
theorem dispatchStagesFinish : Obligations.DispatchStagesFinish := by
  unfold Obligations.DispatchStagesFinish
  intro s t a hi hh hc hp done
  refine ⟨fun ho => ?count, fun ho => ?scan, fun ho => ?sum⟩
  case count => exact congrArg Host.Outcome.next (State.runMoe_sound hi hh hc hp ho)
  case scan => exact congrArg Host.Outcome.next (State.runMoe_sound hi hh hc hp ho)
  case sum => exact congrArg Host.Outcome.next (State.runMoe_sound hi hh hc hp ho)

end Sys2Proof.Machine
end

section
/-!
The control opcodes (07 R226, R232 to R234, Table 7.9): each row finishes its command's record and then does what its opcode adds;
and the settling of NopFenceCskipFinish and MarkerWritesItsRecord.
-/
namespace Sys2Proof.Machine
open Sys2Proof

/-- The record a MARKER makes (R234, R609). -/
def Active.marker (a : Active) (c : Nat) : Trace :=
  { kind := 8, slot := a.c.cmd.slot, eng := c, pos := a.c.pos.toNat, arg := bits a.c.cmd.d0 0 34, ts := some a.at_ }

/-! ### The rows -/

section
variable {s : State} {t : Tile} {c : EngClass} {a : Active} (hh : s.halted = false)
include hh

theorem exec_nop_control (ha : (s.engine t c).control 0 = some a) :
    exec (.nop t c) s = .next (s.putActive t c a.finish) := by
  show execNop t c s = _
  simp [execNop, hh, ha]

theorem exec_fence_met
    (ha : (s.engine t c).active.find? (fun a => a.c.cmd.op = 1 && !a.issued && s.fenceMet t a) = some a) :
    exec (.fence t c) s = .next (s.putActive t c a.finish) := by
  show execFence t c s = _
  rw [execFence, hh, ha]
  rfl

theorem exec_cskip_control (ha : (s.engine t c).control 2 = some a) :
    exec (.cskip t c) s = .next ((s.putActive t c a.finish).setRing (tileRing t a.c.cmd.slot c)
      { s.ring (tileRing t a.c.cmd.slot c) with cskip := bits a.c.cmd.d0 0 8 }) := by
  show execCskip t c s = _
  simp [execCskip, hh, ha, bits_zero, State.modRing_eq, State.putActive_eq, State.modEngine_eq, State.setEngine_eq]

theorem exec_marker_control (ha : (s.engine t c).control 3 = some a) :
    exec (.marker t c) s = .next ((s.putActive t c a.finish).traceTile t (a.marker c)) := by
  show execMarker t c s = _
  simp [execMarker, hh, ha, bits_zero, Active.marker]

end

/-! ### A tile's trace record (R605, R606) -/

/-- A tile's range markers are traced exactly when its panel traces the slot. -/
theorem State.traceTile_marker {s : State} {t p : Nat} (a : Active) (c : Nat) (hp : s.tilePanel t = some p) :
    s.traceTile t (a.marker c) = if bit (s.panel p).trcCtl a.c.cmd.slot then
      s.traceTo p ((s.panel p).traceRing p (tileSpan t)) { a.marker c with unit := t } else s := by
  simp [State.traceTile, hp, Panel.traces, Active.marker]

/-- A trace ring in memory that no cache holds takes the record there. -/
theorem State.traceTo_plain {s : State} {g : Nat} (p : Nat) (rec : Trace) (he : (s.ring g).en = true)
    (hf : (s.ring g).full = false) (hl : (s.ring g).lost = 0) (ha : s.plain ((s.ring g).entryAddr (s.ring g).tail)) :
    s.traceTo p g rec = (s.writeNat 64 ((s.ring g).entryAddr (s.ring g).tail) (rec.code s.now s.time.lock)).setRing g
      { s.ring g with tail := (s.ring g).tail + 1 } := by
  rw [State.traceTo_room s p g rec he hf hl, State.cohWriteNat, State.cohWrite_of_plain _ _ _ ha]
  rfl

/-- A command's record put in place, a number stored and a ring replaced do not meet. -/
theorem State.putActive_writeNat_setRing (s : State) (t c g n x v : Nat) (a : Active) (r : Ring) :
    let u := ((s.putActive t c a).writeNat n x v).setRing g r
    u.engine t c = (s.engine t c).putActive a ∧ ∀ w, w ≠ t → u.tile w = s.tile w := by
  obtain ⟨heng, htile, -⟩ := State.putActive_only s t c a
  exact ⟨heng, htile.2⟩

/-- The record carries the time the engine took its command, whatever the time now. -/
theorem Active.marker_code (a : Active) (c t now : Nat) (lock : Bool) :
    Trace.code { a.marker c with unit := t } now lock = Trace.code
      { kind := 8, unit := t, slot := a.c.cmd.slot, eng := c, pos := a.c.pos.toNat, arg := bits a.c.cmd.d0 0 34 } a.at_ lock := by
  simp only [Trace.code, Active.marker, Option.getD_some, Option.getD_none]

/-- Settles O8: each row finishes its command's record; CSKIP then writes its ring's count. -/
theorem nopFenceCskipFinish : Obligations.NopFenceCskipFinish := by
  unfold Obligations.NopFenceCskipFinish
  intro s t c a hh
  obtain ⟨heng, htile, honly⟩ := State.putActive_only s t c a.finish
  refine ⟨fun ha => ?nop, fun ha => ?fence, fun ha => ?cskip⟩
  case nop => exact ⟨_, exec_nop_control hh ha, heng, htile, honly⟩
  case fence => exact ⟨_, exec_fence_met hh ha, heng, htile, honly⟩
  case cskip =>
    exact ⟨_, exec_cskip_control hh ha, heng, State.ring_setRing .., rfl, htile.2, honly,
      fun g hg => State.ring_setRing_ne _ _ _ _ hg⟩

/-- Settles O9: with trace off the row only finishes the command; with trace on its record takes the trace ring's tail. -/
theorem markerWritesItsRecord : Obligations.MarkerWritesItsRecord := by
  unfold Obligations.MarkerWritesItsRecord
  intro s t c a p hh ha hp
  obtain ⟨heng, htile, honly⟩ := State.putActive_only s t c a.finish
  let v := s.putActive t c a.finish
  have hexec := exec_marker_control hh ha
  rw [State.traceTile_marker (s := v) a c hp] at hexec
  refine ⟨fun hoff => ?off, fun hon => ?on⟩
  case off =>
    rw [show v.panel p = s.panel p from rfl, if_neg (by rw [hoff]; decide)] at hexec
    exact ⟨_, hexec, heng, htile, honly⟩
  case on =>
    intro g at_ he hf hl hat
    have hput : v.traceTo p g { a.marker c with unit := t } = _ :=
      State.traceTo_plain (s := v) (g := g) p _ he hf hl (State.plain_setTile hat rfl)
    rw [show v.panel p = s.panel p from rfl, if_pos hon, hput, Active.marker_code] at hexec
    obtain ⟨hbytes, hout, hring, hrings, -, hpanels⟩ := State.writeNat_setRing v g 64 at_ _ _
    obtain ⟨hengine, htiles⟩ := State.putActive_writeNat_setRing s t c g 64 at_ _ a.finish _
    exact ⟨_, hexec, hengine, hbytes, hout, hring, hrings, htiles, hpanels⟩

end Sys2Proof.Machine
end

section
/-!
A unit's rings (07 R201, R204, R205): what a doorbell's count does to an enabled ring, what a fetch takes; and the settling of
DoorbellRule and RingFetchTakesTheNextEntries.
-/
namespace Sys2Proof.Machine
open Sys2Proof

/-! ### What the count asks (R204) -/

theorem bellOf_duplicate (r : Ring) : bellOf r r.tail = .duplicate := if_pos rfl

theorem bellOf_stale {r : Ring} {t : Count} (h : 0x80000000 ≤ (t - r.tail).toNat) : bellOf r t = .stale := by
  have hne : t ≠ r.tail := by
    rintro rfl
    simp at h
  rw [bellOf, if_neg hne, if_pos h]

theorem bellOf_accept {r : Ring} {t : Count} (hne : t ≠ r.tail) (h : (t - r.tail).toNat < 0x80000000)
    (hfit : (t - r.head).toNat ≤ r.size) : bellOf r t = .accept := by
  rw [bellOf, if_neg hne, if_neg (Nat.not_le.mpr h), if_pos hfit]

theorem bellOf_overflow {r : Ring} {t : Count} (hne : t ≠ r.tail) (h : (t - r.tail).toNat < 0x80000000)
    (hfit : r.size < (t - r.head).toNat) : bellOf r t = .overflow := by
  rw [bellOf, if_neg hne, if_neg (Nat.not_le.mpr h), if_neg (Nat.not_le.mpr hfit)]

/-- What a doorbell's answer does to a ring the module does not produce. -/
def State.rung (s : State) (g : Nat) (t : Count) (auth : Auth) : Bell → State
  | .duplicate => s
  | .stale => s.countStale g (s.ringOwner g).panel
  | .accept => s.setRing g { s.ring g with
      tail := t, avail := if isMailbox g then (s.ring g).avail ++ [(t, auth)] else (s.ring g).avail }
  | .overflow => s.bellOverflow g t

/-- An enabled ring the module does not produce, its writer in reach, takes a doorbell by its count alone. -/
theorem State.doorbell_enabled {s : State} {g : Nat} {t : Count} {auth : Auth} (hh : g < 245760 → s.halted = false)
    (hr : reaches auth (s.ringOwner g).panel = true) (hm : s.modulesOwn g auth = false) (he : (s.ring g).en = true)
    (ht : isTraceRing g = false) : s.doorbell g t auth = s.rung g t auth (bellOf (s.ring g) t) := by
  have hstop : ¬ (g < 245760 ∧ s.halted = true) := fun ⟨hg, h⟩ => by simp [hh hg] at h
  unfold State.doorbell
  dsimp only
  rw [if_neg hstop, if_neg (by simp [hr, hm]), if_neg (by simp [he]), if_neg (by simp [ht])]
  cases bellOf (s.ring g) t <;> rfl

/-! ### A stale doorbell is counted (Table 19.6) -/

theorem State.countStale_panels (s : State) (g : Nat) (o : Option Nat) :
    let u := s.countStale g o
    u = { s with panels := u.panels } ∧
    (∀ p, o = some p → countsStale g = true → u.panel p = { s.panel p with stale := min 0xFFFF ((s.panel p).stale + 1) }) ∧
    (∀ p, o ≠ some p → u.panel p = s.panel p) := by
  unfold State.countStale
  cases o with
  | none => exact ⟨rfl, fun p h => (nomatch h), fun p _ => rfl⟩
  | some q =>
    dsimp only
    split
    · refine ⟨rfl, fun p hp _ => ?_, fun p hp => ?_⟩
      · cases hp
        exact State.panel_setPanel ..
      · exact State.panel_setPanel_ne _ _ _ _ (fun h => hp (h ▸ rfl))
    · next hc => exact ⟨rfl, fun p _ h => absurd h hc, fun p _ => rfl⟩

/-! ### An overflow (R204, R205, R540) -/

/-- A ring that the module does not produce is no panel's event log. -/
theorem ne_panelLog {g : Nat} (ht : isTraceRing g = false) (p : Nat) : g ≠ panelLog p := by
  simp only [isTraceRing, decide_eq_false_iff_not] at ht
  unfold panelLog
  omega

/-- The tile whose ring it is lies in the panel the ring belongs to. -/
theorem State.ringOwner_tile {s : State} {g p j : Nat} (hg : g < 245760) (ho : (s.ringOwner g).job = some (p, j)) :
    s.tilePanel (g / 24) = some p := by
  simp only [State.ringOwner, hg, if_true, Owner.job] at ho
  split at ho
  · next hp hj => cases ho; exact hp
  · cases ho

section
variable {g : Nat} (ht : isTraceRing g = false)
include ht

theorem State.emit_tail (s : State) (e : Event) : ((s.emit e).ring g).tail = (s.ring g).tail := by
  rw [State.emit_ring s e g (fun p _ _ => ne_panelLog ht p)]

theorem State.faultTile_tail (s : State) (t j : Nat) (e : Event) : ((s.faultTile t j e).ring g).tail = (s.ring g).tail := by
  obtain ⟨n, h⟩ := State.faultTile_ring s t j g e (ne_panelLog ht)
  rw [h]

theorem State.faultJob_tail (s : State) (p j : Nat) (e : Event) : ((s.faultJob p j e).ring g).tail = (s.ring g).tail := by
  obtain ⟨n, h⟩ := State.faultJob_ring s p j g e (ne_panelLog ht p)
  rw [h]

/-- Whatever an overflow does to the ring and its job, no entry is published. -/
theorem State.bellOverflow_tail (s : State) (t : Count) : ((s.bellOverflow g t).ring g).tail = (s.ring g).tail := by
  have stopped : ((s.modRing g (fun r => { r with stopped := true })).ring g).tail = (s.ring g).tail := by
    rw [State.modRing_eq, State.ring_setRing]
  unfold State.bellOverflow
  dsimp only
  split
  · rw [State.emit_tail ht, State.modRing_eq, State.ring_setRing]
  · split
    · split
      · exact (State.emit_tail ht ..).trans stopped
      · split
        · exact (State.faultTile_tail ht ..).trans stopped
        · exact (State.faultJob_tail ht ..).trans stopped
    · exact (State.emit_tail ht ..).trans stopped

end

/-- The running job of the ring ends, by a fault on its tile or in its panel. -/
theorem State.bellOverflow_job {s : State} {g p j : Nat} (t : Count) (ho : (s.ringOwner g).job = some (p, j))
    (hm : isMailbox g = false) (hs : (s.job p j).jstate = 1) (hf : (s.job p j).faulted = false) :
    ((s.bellOverflow g t).job p j).jstate = 2 ∧ ((s.bellOverflow g t).job p j).ecause = 2 := by
  have hrun : ¬ (s.job p j).jstate = 0 := by rw [hs]; decide
  have onTile := State.faultTile_job (s.setRing g { s.ring g with stopped := true }) (g / 24) p j
  have inPanel := State.faultJob_job (s.setRing g { s.ring g with stopped := true }) p j
  simp only [State.bellOverflow, hm, ho, State.modRing_eq, State.setRing_jobR, hrun, Bool.false_eq_true, if_false]
  split
  · next hg => exact onTile _ (State.ringOwner_tile hg ho) hs hf
  · exact (inPanel _ hs hf).imp_right And.left

/-- Settles O10: each clause is one answer of the count to the ring's pointers. -/
theorem doorbellRule : Obligations.DoorbellRule := by
  unfold Obligations.DoorbellRule
  intro s g T auth hh hr hm he ht
  have hexec : exec (.ringDoorbell g T auth) s = .next (s.doorbell g T auth) := rfl
  rw [State.doorbell_enabled hh hr hm he ht] at hexec
  refine ⟨fun hT => ?duplicate, fun hT => ?stale, fun hne hT hfit => ?accept, fun hne hT hfit => ?overflow⟩
  case duplicate =>
    subst hT
    rwa [bellOf_duplicate] at hexec
  case stale =>
    rw [bellOf_stale hT] at hexec
    exact ⟨_, hexec, State.countStale_panels s g _⟩
  case accept =>
    rw [bellOf_accept hne hT hfit] at hexec
    refine ⟨_, hexec, ⟨rfl, fun v hv => State.ring_setRing_ne _ _ _ _ hv⟩, ?_, ?_⟩ <;> simp [State.rung]
  case overflow =>
    rw [bellOf_overflow hne hT hfit] at hexec
    exact ⟨_, hexec, State.bellOverflow_tail ht s T, fun p j ho hmb hs hf => State.bellOverflow_job T ho hmb hs hf⟩

/-! ### A fetch (R201) -/

theorem State.fetchEntry_nothing {s : State} {g : Nat} (h : s.ringLive g = false ∨ (s.ring g).fetchCount = 0) :
    s.fetchEntry g = s := by
  unfold State.fetchEntry
  dsimp only
  rw [if_pos]
  simpa using h

theorem count_succ (pos : Count) (i : Nat) : pos + 1 + BitVec.ofNat 32 i = pos + BitVec.ofNat 32 (i + 1) := by
  rw [Nat.add_comm i, BitVec.ofNat_add, ← BitVec.add_assoc]
  rfl

/-- The `n` entries of a ring from position `pos`, as memory holds them. -/
def State.entriesAt (s : State) (r : Ring) (pos : Count) (n : Nat) : List Nat :=
  (List.range n).map (fun i => s.readNat 64 (r.entryAddr (pos + BitVec.ofNat 32 i)))

theorem State.entriesAt_succ (s : State) (r : Ring) (pos : Count) (n : Nat) :
    s.entriesAt r pos (n + 1) = s.readNat 64 (r.entryAddr pos) :: s.entriesAt r (pos + 1) n := by
  have hrest : ∀ i, s.readNat 64 (r.entryAddr (pos + BitVec.ofNat 32 (i + 1))) =
      s.readNat 64 (r.entryAddr (pos + 1 + BitVec.ofNat 32 i)) := fun i => by rw [count_succ]
  simp [State.entriesAt, List.range_succ_eq_map, hrest]

theorem State.badEntry_none {s : State} {r : Ring} {n : Nat} : ∀ {pos : Count},
    (∀ i, i < n → s.readResp (r.entryAddr (pos + BitVec.ofNat 32 i)) 64 = .ok) → s.badEntry r pos n = none := by
  induction n with
  | zero => intro pos _; rfl
  | succ n ih =>
    intro pos h
    have h0 : s.readResp (r.entryAddr pos) 64 = .ok := by simpa using h 0 (Nat.succ_pos n)
    rw [State.badEntry, h0]
    exact ih (fun i hi => by rw [count_succ]; exact h (i + 1) (Nat.succ_lt_succ hi))

theorem State.readEntries_plain {s : State} {r : Ring} {n : Nat} : ∀ {pos : Count},
    (∀ i, i < n → s.plain (r.entryAddr (pos + BitVec.ofNat 32 i))) → s.readEntries r pos n = (s.entriesAt r pos n, s) := by
  induction n with
  | zero => intro pos _; rfl
  | succ n ih =>
    intro pos h
    have h0 : s.plain (r.entryAddr pos) := by simpa using h 0 (Nat.succ_pos n)
    have hrest := ih (pos := pos + 1) (fun i hi => by rw [count_succ]; exact h (i + 1) (Nat.succ_lt_succ hi))
    rw [State.readEntries, State.cohRead_of_plain s 64 _ h0, State.entriesAt_succ]
    dsimp only
    rw [hrest]
    rfl

/-- The ring with more entries fetched and not yet consumed. -/
def Ring.hold (r : Ring) (es : List Nat) : Ring := { r with fetched := r.fetched ++ es }

theorem Ring.hold_hold (r : Ring) (es fs : List Nat) : (r.hold es).hold fs = r.hold (es ++ fs) := by
  simp [Ring.hold]

section
variable {g : Nat}

/-- A unit other than a course port holds the entry it takes without a check. -/
theorem State.takeEntries_cons {s : State} (pos : Count) (e : Nat) (es : List Nat) (hport : ∀ n, (s.ringOwner g).unit ≠ .port n) :
    s.takeEntries g pos (e :: es) = (s.setRing g ((s.ring g).hold [e])).takeEntries g (pos + 1) es := by
  rw [State.takeEntries]
  split
  · next n p j hn _ => exact absurd hn (hport n)
  · rfl

theorem State.takeEntries_held (es : List Nat) : ∀ {s : State} (pos : Count) (e : Nat), (∀ n, (s.ringOwner g).unit ≠ .port n) →
    s.takeEntries g pos (e :: es) = s.setRing g ((s.ring g).hold (e :: es)) := by
  induction es with
  | nil => intro s pos e hport; rw [State.takeEntries_cons pos e [] hport]; rfl
  | cons x es ih =>
    intro s pos e hport
    rw [State.takeEntries_cons pos e _ hport, ih (s := s.setRing g ((s.ring g).hold [e])) (pos + 1) x hport,
      State.setRing_setRing, State.ring_setRing, Ring.hold_hold]
    rfl

end

theorem State.fetchEntry_takes {s : State} {g : Nat} (hl : s.ringLive g = true) (hn : 0 < (s.ring g).fetchCount)
    (hport : ∀ n, (s.ringOwner g).unit ≠ .port n) :
    let r := s.ring g
    let pos := r.head + BitVec.ofNat 32 r.fetched.length
    (∀ i, i < r.fetchCount → s.readResp (r.entryAddr (pos + BitVec.ofNat 32 i)) 64 = .ok ∧
      s.plain (r.entryAddr (pos + BitVec.ofNat 32 i))) →
    s.fetchEntry g = s.setRing g (r.hold (s.entriesAt r pos r.fetchCount)) := by
  intro r pos h
  have hgo : (!s.ringLive g || decide (r.fetchCount = 0)) = false := by simp [hl, Nat.ne_of_gt hn, r]
  have hbad : s.badEntry r pos r.fetchCount = none := State.badEntry_none (fun i hi => (h i hi).1)
  have hread : s.readEntries r pos r.fetchCount = (s.entriesAt r pos r.fetchCount, s) :=
    State.readEntries_plain (fun i hi => (h i hi).2)
  obtain ⟨k, hk⟩ : ∃ k, r.fetchCount = k + 1 := ⟨_, (Nat.succ_pred_eq_of_pos hn).symm⟩
  unfold State.fetchEntry
  dsimp only
  rw [hgo, hbad, hread, hk, State.entriesAt_succ]
  exact State.takeEntries_held _ pos _ hport

/-- Settles O11: a served ring's sound entries are read and held, in order. -/
theorem ringFetchTakesTheNextEntries : Obligations.RingFetchTakesTheNextEntries := by
  unfold Obligations.RingFetchTakesTheNextEntries
  intro s g r pos
  refine ⟨fun h => ?nothing, fun hl hn hport h => ?takes⟩
  case nothing => exact congrArg Host.Outcome.next (State.fetchEntry_nothing h)
  case takes => exact congrArg Host.Outcome.next (State.fetchEntry_takes hl hn hport h)

end Sys2Proof.Machine
end

section
/-!
An engine takes the one command of its FIFO (07 R221, R222, R226, R233; 05 R158 to R160; 15 R510): why it is the one chosen, what
becomes of the FIFO, how it starts; and the settling of EngineTakesTheReadyCommand.
-/
namespace Sys2Proof.Machine
open Sys2Proof

/-! ### A FIFO of one command -/

/-- The FIFO holds the command `x` alone, in its lane, and no command has started. -/
def Engine.holdsOnly (e : Engine) (x : Cmd) : Prop :=
  (if x.cmd.urg then e.urgent = [x] ∧ e.normal = [] else e.urgent = [] ∧ e.normal = [x]) ∧ e.active = []

/-- The engine once `x` has left the FIFO, the pointer past its slot. -/
def Engine.took (e : Engine) (x : Cmd) : Engine := { e with urgent := [], normal := [], engPtr := (x.cmd.slot + 1) % 8 }

section
variable {e : Engine} {x : Cmd} (h : e.holdsOnly x)
include h

theorem Engine.holdsOnly.lanes : (x.cmd.urg = true ∧ e.urgent = [x] ∧ e.normal = []) ∨
    (x.cmd.urg = false ∧ e.urgent = [] ∧ e.normal = [x]) := by
  obtain ⟨hlane, -⟩ := h
  cases hu : x.cmd.urg <;> simpa [hu] using hlane

theorem Engine.holdsOnly.started (j : Nat) : e.started j = none := by
  rw [Engine.started, h.2]
  rfl

theorem Engine.holdsOnly.oldest (j : Nat) : e.oldest j = if x.cmd.slot = j then some (x.cmd.urg, x) else none := by
  obtain ⟨hu, hurg, hnorm⟩ | ⟨hu, hurg, hnorm⟩ := h.lanes <;>
  · by_cases hj : x.cmd.slot = j <;> simp [Engine.oldest, hurg, hnorm, hu, hj]

theorem Engine.holdsOnly.removeEntry :
    { e.removeEntry x with engPtr := (x.cmd.slot + 1) % 8 } = e.took x := by
  obtain ⟨-, hurg, hnorm⟩ | ⟨-, hurg, hnorm⟩ := h.lanes <;> simp [Engine.removeEntry, Engine.took, hurg, hnorm]

end

/-! ### The choice (R221, R222) -/

theorem WorkCmd.slot_lt (w : WorkCmd) : w.slot < 8 := Nat.mod_lt _ (by decide)

theorem mem_rotate {n k j : Nat} (hj : j < n) : j ∈ rotate n k := by
  have hk : k % n < n := Nat.mod_lt _ (by omega)
  refine List.mem_map.mpr ⟨(j + (n - k % n)) % n, List.mem_range.mpr (Nat.mod_lt _ (by omega)), ?_⟩
  rw [Nat.add_mod_mod, ← Nat.mod_add_mod, show k % n + (j + (n - k % n)) = j + n by omega, Nat.add_mod_right, Nat.mod_eq_of_lt hj]

/-- In a list of one value, whichever element is looked for first, the value is found. -/
theorem find?_or_head?_of_all_eq {α : Type} {l : List α} {v : α} (p : α → Bool) (hv : v ∈ l) (h : ∀ y ∈ l, y = v) :
    (l.find? p).or l.head? = some v := by
  cases hf : l.find? p with
  | some y => rw [h y (List.mem_of_find?_eq_some hf)]; rfl
  | none =>
    cases l with
    | nil => cases hv
    | cons y l => exact congrArg some (h y List.mem_cons_self)

section
variable {s : State} {t c p : Nat} {x : Cmd} (h : (s.engine t c).holdsOnly x) (hw : (s.tile t).waitMet x.cmd = true)
include h hw

/-- A command whose wait is met and not noted as begun leaves no note. -/
theorem State.noteWaits_ready (hn : x.noted ≠ 1) : s.noteWaits t c = s := by
  have one : ∀ j, s.noteWait t c j = s := by
    intro j
    rw [State.noteWait]
    dsimp only
    rw [h.started j, h.oldest j]
    by_cases hj : x.cmd.slot = j <;> simp [hj, hw, hn]
  unfold State.noteWaits
  induction List.range 8 with
  | nil => rfl
  | cons j js ih => rw [List.foldl_cons, one, ih]

variable (hp : s.tilePanel t = some p) (hs : (s.panel p).susp.getLsbD x.cmd.slot = false)
include hp hs

theorem State.candidate_only (j : Nat) :
    s.candidate t c j = if x.cmd.slot = j then some (.entry x.cmd.urg x) else none := by
  rw [State.candidate, hp, h.started j, h.oldest j]
  by_cases hj : x.cmd.slot = j
  · subst hj
    simp [hs, hw]
  · simp [hj]

theorem State.choose_only : s.choose t c = some (x.cmd.slot, .entry x.cmd.urg x) := by
  refine find?_or_head?_of_all_eq _ ?_ fun y hy => ?_
  · refine List.mem_filterMap.mpr ⟨x.cmd.slot, mem_rotate x.cmd.slot_lt, ?_⟩
    simp [State.candidate_only h hw hp hs]
  · obtain ⟨j, -, hj⟩ := List.mem_filterMap.mp hy
    rw [State.candidate_only h hw hp hs] at hj
    split at hj
    · next he => cases he; cases hj; rfl
    · cases hj

/-- An open engine starts the one command it has; its FIFO then holds nothing whose wait could be noted. -/
theorem State.take_only {v : State} (ho : s.engineOpen t c = true) (hn : x.noted ≠ 1)
    (hv : (s.setEngine t c ((s.engine t c).took x)).start t c x = v) (hu : (v.engine t c).urgent = [])
    (hm : (v.engine t c).normal = []) : s.take t c = v := by
  simp only [State.take, ho, Bool.not_true, Bool.false_eq_true, if_false, State.noteWaits_ready h hw hn, State.takeReady,
    State.choose_only h hw hp hs, State.takeCand, State.modEngine_eq, h.removeEntry, hv, State.noteWaits_empty hu hm]

end

/-! ### The start (R158 to R160, R226, R233) -/

/-- A tile's panel that does not trace the slot takes no record of it. -/
theorem State.traceTile_off {s : State} {t p : Nat} {rec : Trace} (hp : s.tilePanel t = some p)
    (h : bit (s.panel p).trcCtl rec.slot = false) : s.traceTile t rec = s := by
  simp [State.traceTile, hp, Panel.traces, h]

/-- The record of a command at its taking. -/
def State.takenNow (s : State) (x : Cmd) : Active := { c := x, at_ := s.now, effM := x.cmd.m }

section
variable {s : State} {t c p : Nat} {x : Cmd} (hp : s.tilePanel t = some p) (ht : bit (s.panel p).trcCtl x.cmd.slot = false)
include hp ht

/-- Under CSKIP the command is skipped and counted. -/
theorem State.start_cskip (hk : 0 < (s.ring (tileRing t x.cmd.slot c)).cskip) : s.start t c x =
    (s.modRing (tileRing t x.cmd.slot c) (fun r => { r with cskip := r.cskip - 1 })).addActive t c
      { (s.takenNow x).finish with outcome := 2 } false := by
  simp [State.start, State.traceTile_off hp, ht, hk, State.takenNow]

variable (hk : (s.ring (tileRing t x.cmd.slot c)).cskip = 0)
include hk

theorem State.start_chunk (hc : x.cmd.condSrc = 0) (hctl : isControlOp x.cmd.op = false) (hws : isWsOp x.cmd.op = false) :
    s.start t c x = s.addActive t c { s.takenNow x with chunks := 1 } true := by
  simp [State.start, State.traceTile_off hp, ht, hk, hc, hctl, hws, State.condValue, condRuns, State.takenNow]

theorem State.start_control (hc : x.cmd.condSrc = 0) (hctl : isControlOp x.cmd.op = true) :
    s.start t c x = s.addActive t c { s.takenNow x with fence := s.fenceList t x.cmd.slot } false := by
  simp [State.start, State.traceTile_off hp, ht, hk, hc, hctl, State.condValue, condRuns, State.takenNow]

theorem State.start_predicate (hc : x.cmd.condSrc = 1)
    (hz : ((s.tile t).ctr x.cmd.slot (x.cmd.condArg % 64)).val.toNat = 0 ↔ x.cmd.condZ = false) :
    s.start t c x = s.addActive t c { (s.takenNow x).finish with outcome := 1 } false := by
  have hskip : (decide (((s.tile t).ctr x.cmd.slot (x.cmd.condArg % 64)).val.toNat = 0) != x.cmd.condZ) = true := by
    cases hcz : x.cmd.condZ <;> simp [hcz] at hz ⊢ <;> exact hz
  simp [State.start, State.traceTile_off hp, ht, hk, hc, hskip, State.condValue, condRuns, State.takenNow]

end

/-! ### The taken command's record beside the FIFO left behind -/

theorem State.fenceList_setEngine {s : State} {t c : Nat} {e : Engine} (he : e.active = (s.engine t c).active) (j : Nat) :
    (s.setEngine t c e).fenceList t j = s.fenceList t j := by
  have same : ∀ d, ((s.setEngine t c e).engine t d).active = (s.engine t d).active := by
    intro d
    by_cases hd : d = c
    · rw [hd, State.engine_setEngine, he]
    · rw [State.setEngine_eq, State.engine_setTile, Table.get_set_ne _ _ _ hd]
      rfl
  simp only [State.fenceList, same]

/-- The FIFO's one command taken, with its record `b`; `run` says whether a chunk of it begins. -/
def Engine.tookWith (e : Engine) (x : Cmd) (b : Active) (run : Bool) : Engine :=
  { e.took x with active := [b], running := if run then some b.c.cmd.slot else e.running }

theorem State.addActive_took {s : State} {t c : Nat} {x : Cmd} (b : Active) (run : Bool) (h : (s.engine t c).holdsOnly x) :
    (s.setEngine t c ((s.engine t c).took x)).addActive t c b run = s.setEngine t c ((s.engine t c).tookWith x b run) := by
  simp [State.addActive, State.modEngine_setEngine, Engine.tookWith, Engine.took, h.2]

/-- Settles O15: the FIFO's one command is the one chosen, and each clause is one way it starts. -/
theorem engineTakesTheReadyCommand : Obligations.EngineTakesTheReadyCommand := by
  unfold Obligations.EngineTakesTheReadyCommand
  intro s t c p x e j g a hh hrun harr hfifo hact hn hw hp hs htr taken
  have h : e.holdsOnly x := ⟨hfifo, hact⟩
  have ho : s.engineOpen t c = true := by
    by_cases hc : c.val = 0
    · simp [State.engineOpen, hh, hrun, harr hc, e]
    · simp [State.engineOpen, hh, hrun, hc, e]
  let u := s.setEngine t c taken
  have take {b : Active} {run : Bool} (hst : u.start t c x = u.addActive t c b run) :
      exec (.engineTakeCommand t c) s = .next (s.setEngine t c (e.tookWith x b run)) := by
    refine congrArg Host.Outcome.next (State.take_only h hw hp hs ho hn (hst.trans (State.addActive_took b run h)) ?_ ?_) <;>
      rw [State.engine_setEngine]
    · rfl
    · rfl
  refine ⟨fun hk => ?skip, fun hk hc hctl hws => ?chunk, fun hk hc hctl => ?control, fun hk hc hz => ?predicate⟩
  case skip =>
    let r : Ring := { s.ring g with cskip := (s.ring g).cskip - 1 }
    let b : Active := { a with issued := true, done := true, outcome := 2 }
    have hst : u.start t c x = (s.setEngine t c (e.tookWith x b false)).setRing g r :=
      (State.start_cskip (s := u) hp htr hk).trans (congrArg (fun v : State => v.setRing g r) (State.addActive_took b false h))
    refine congrArg Host.Outcome.next (State.take_only h hw hp hs ho hn hst ?_ ?_) <;>
      rw [State.setRing_engineR, State.engine_setEngine]
  case chunk => exact take (State.start_chunk (s := u) hp htr hk hc hctl hws)
  case control =>
    have hst := State.start_control (s := u) hp htr hk hc hctl
    rw [State.fenceList_setEngine (s := s) (e := taken) rfl] at hst
    exact take hst
  case predicate =>
    have hctr : u.tile t = { s.tile t with eng := (u.tile t).eng } := (State.setEngine_enginesOnly s t c taken).2
    exact take (State.start_predicate (s := u) hp htr hk hc (by rw [hctr]; exact hz))

end Sys2Proof.Machine
end

section
/-!
The vector opcodes' rows (07 R224 to R226, R236 to R238, Table 7.9): a row performs one unit of its command after another, to the
command's last unit or the end of its chunk; and the settling of VectorRowsPerformUnits.
-/
namespace Sys2Proof.Machine
open Sys2Proof

theorem exec_vecRow {t : Tile} {op : Nat} {c : Instr} (h : (op, c) ∈ vecRows t) (s : State) :
    exec c s = .next (s.runVec t op) := by
  simp only [vecRows, List.mem_cons, Prod.mk.injEq, List.not_mem_nil, or_false] at h
  obtain ⟨rfl, rfl⟩ | ⟨rfl, rfl⟩ | ⟨rfl, rfl⟩ | ⟨rfl, rfl⟩ | ⟨rfl, rfl⟩ | ⟨rfl, rfl⟩ := h <;> rfl

/-- The row runs its command, with units enough for all that are left. -/
theorem State.runVec_current {s : State} {t op : Nat} {a : Active} (hi : s.noInjection) (hh : s.halted = false)
    (hc : (s.engine t 1).current = some a) (ho : a.c.cmd.op = op) : s.runVec t op = vecRun (vecUnits a.c.cmd) t s := by
  simp [State.runVec, hh, hc, ho, State.fireSram_noInjection hi]

/-- The command's record once its next unit has been performed with flags `f`. -/
def Active.pastUnit (a : Active) (f : NFlags) : Active :=
  { a.gather f with prog := a.prog + 1, chunkLen := a.chunkLen + vecUnitTime a.c.cmd }

/-- A unit's record in place, its chunk over: the vector unit is free. -/
def State.stopVec (s : State) (t : Nat) (b : Active) : State :=
  (s.putActive t 1 b).modEngine t 1 (fun e => e.stop b.c.cmd.slot)

section
variable {s : State} {t n : Nat} {a : Active} (hh : s.halted = false) (hc : (s.engine t 1).current = some a)
  (hp : s.unitPoison a a.prog = none)
include hh hc hp

theorem vecRun_last (hl : vecUnits a.c.cmd ≤ a.prog + 1) :
    vecRun (n + 1) t s = (s.vecUnit a a.prog).1.stopVec t (a.pastUnit (s.vecUnit a a.prog).2).finish := by
  simp only [vecRun, hh, hc, hp, Bool.false_eq_true, if_false]
  exact if_pos hl

theorem vecRun_chunkEnd (hl : a.prog + 1 < vecUnits a.c.cmd) (hk : 512 < a.chunkLen + vecUnitTime a.c.cmd + vecUnitTime a.c.cmd) :
    vecRun (n + 1) t s =
      (s.vecUnit a a.prog).1.stopVec t { a.pastUnit (s.vecUnit a a.prog).2 with chunkLen := 0 } := by
  simp only [vecRun, hh, hc, hp, Bool.false_eq_true, if_false]
  exact (if_neg (Nat.not_le.mpr hl)).trans (if_pos hk)

theorem vecRun_goesOn (hl : a.prog + 1 < vecUnits a.c.cmd)
    (hk : a.chunkLen + vecUnitTime a.c.cmd + vecUnitTime a.c.cmd ≤ 512) : vecRun (n + 1) t s =
      vecRun n t ((s.vecUnit a a.prog).1.putActive t 1 (a.pastUnit (s.vecUnit a a.prog).2)) := by
  simp only [vecRun, hh, hc, hp, Bool.false_eq_true, if_false]
  exact (if_neg (Nat.not_le.mpr hl)).trans (if_neg (Nat.not_lt.mpr hk))

end

/-- A new record of the running command, its last work not issued, is the running command. -/
theorem State.current_putActive {s : State} {t c : Nat} {a b : Active} (hc : (s.engine t c).current = some a) (hb : b.c = a.c)
    (hi : b.issued = a.issued) : ((s.putActive t c b).engine t c).current = some b := by
  obtain ⟨-, hiss, -⟩ := current_mem hc
  rw [State.engine_putActive]
  exact Engine.current_putActive _ a b hc (by rw [hb]) (by rw [hb]) (hi.trans hiss)

/-- Settles O21: the row's first unit is the command's next, and what is left after it is a run of the same row. -/
theorem vectorRowsPerformUnits : Obligations.VectorRowsPerformUnits := by
  unfold Obligations.VectorRowsPerformUnits
  intro s t op c a hrow hi hh hc ho hp hlt w r b stop
  obtain ⟨n, hn⟩ : ∃ n, vecUnits a.c.cmd = n + 1 := ⟨vecUnits a.c.cmd - 1, by omega⟩
  have hexec : exec c s = .next (vecRun (n + 1) t s) := by
    rw [exec_vecRow hrow, State.runVec_current hi hh hc ho, hn]
  refine ⟨fun hl => ?last, fun hl hk => ?chunkEnd, fun hl hk => ?goesOn⟩
  case last => rw [hexec, vecRun_last hh hc hp (Nat.le_of_eq hl)]; rfl
  case chunkEnd => rw [hexec, vecRun_chunkEnd hh hc hp hl hk]; rfl
  case goesOn =>
    have hmem := State.vecUnit_memOnly s a a.prog
    let v := r.1.putActive t 1 b
    have hrc : (r.1.engine t 1).current = some a := by
      rw [State.engine, State.tile, hmem.tiles]
      exact hc
    have hcur : (v.engine t 1).current = some b := State.current_putActive hrc rfl rfl
    have hv : v.noInjection := hmem.inj.trans hi
    have hvh : v.halted = false := by
      rw [← hh]
      exact congrArg Dbg.halt hmem.dbg
    rw [hexec, vecRun_goesOn hh hc hp hl hk, exec_vecRow hrow, State.runVec_current hv hvh hcur ho]
    refine congrArg Host.Outcome.next (vecRun_enough t n v b _ hcur hl ?_ ?_).symm
    · show vecUnits a.c.cmd ≤ a.prog + 1 + n
      omega
    · show n ≤ vecUnits a.c.cmd
      omega

end Sys2Proof.Machine
end

section
/-!
The mover inside its tile's own SRAM (07 R239, Table 7.9): a command planned as one piece that reaches no other unit is performed at
once and finishes; and the settling of MoverFillsAndCopiesItsOwnMemory.
-/
namespace Sys2Proof.Machine
open Sys2Proof

/-! ### A piece of work that stays in the tile -/

theorem patternBytes_length (d ph n : Nat) : (patternBytes d ph n).length = n := by simp [patternBytes]

theorem Active.reach_fillOwn {a : Active} {t dst : Nat} (n ph : Nat) (hd : inOwn t dst = true) :
    a.reach t (.fill dst n ph) = none := by simp [Active.reach, hd]

theorem Active.reach_copyOwn {a : Active} {t src dst : Nat} (n : Nat) (hs : inOwn t src = true) (hd : inOwn t dst = true) :
    a.reach t (.copy src dst n) = none := by simp [Active.reach, hs, hd]

/-- A fill of memory outside the coherence domain writes the pattern. -/
theorem State.doWork_fill {s : State} {t dst n : Nat} (a : Active) (ph : Nat) (hd : isCoherent dst = false)
    (hw : s.writeResp dst n = .ok) :
    s.doWork t a (.fill dst n ph) none false = (s.writeBytes dst (patternBytes a.c.cmd.d0 ph n), a, none) := by
  have hwrite := State.moverWrite_plain (bs := patternBytes a.c.cmd.d0 ph n) t (.inl hd : s.plain dst)
    (by rw [patternBytes_length]; exact hw)
  simp only [State.doWork, Bool.false_and, hwrite]

/-- Work that reaches no other unit is performed at once; the command goes on to the rest. -/
theorem State.issueWork_own {s u : State} {t : Nat} {a b : Active} {w : Work} {rest : List Work} (hp : a.plan = some (w :: rest))
    (hr : a.reach t w = none) (hd : s.doWork t a w none false = (u, b, none)) :
    s.issueWork t a = u.putActive t 2 { b with plan := some rest, prog := b.prog + 1 } := by
  unfold State.issueWork
  rw [hp]
  dsimp only
  rw [hr, hd]

/-! ### A command of one such piece -/

/-- The command's record once its one piece of work is done. -/
def Active.movedOnce (a : Active) : Active := { a with plan := some [], prog := a.prog + 1 }

/-- The mover with the command finished, free. -/
def Engine.finishMoved (e : Engine) (a : Active) : Engine :=
  { e.putActive { a.movedOnce.finish with bytes := [], elems := [] } with running := none }

section
variable {s : State} {t : Nat} {a : Active} (hc : (s.engine t 2).current = some a)
  (ht : (s.tile t).txns.any (fun x => x.slot = a.c.cmd.slot && x.pos = a.c.pos) = false) (hd : a.done = false)
  (h81 : a.c.cmd.op ≠ 0x81) (h8D : a.c.cmd.op ≠ 0x8D)
include hc ht hd h81 h8D

/-- With nothing more to issue and nothing unanswered the command is finished. -/
theorem State.issueWork_movedOnce : (s.putActive t 2 a.movedOnce).issueWork t a.movedOnce =
    s.setEngine t 2 ((s.engine t 2).finishMoved a) := by
  have htx : ((s.putActive t 2 a.movedOnce).tile t).txns.any (fun x => x.slot = a.c.cmd.slot && x.pos = a.c.pos) = false := by
    rw [State.putActive_txns]
    exact ht
  have hput := Engine.putActive_putActive (s.engine t 2) a.movedOnce { a.movedOnce.finish with bytes := [], elems := [] } rfl rfl
  rw [State.issueWork_end _ t a.movedOnce (State.current_putActive hc rfl rfl) rfl htx hd h8D (fun h => absurd h h81),
    State.engine_putActive, hput, State.putActive_eq, State.modEngine_eq, State.setEngine_setEngine]
  rfl

variable (hh : s.halted = false) {w : Work} {dst : Nat} {bs : List Byte} (hr : a.reach t w = none)
  (hdo : ∀ b : Active, b.c = a.c →
    (s.putActive t 2 b).doWork t b w none false = ((s.putActive t 2 b).writeBytes dst bs, b, none))
include hh hr hdo

/-- The run of a command of one piece: its bytes are written and it is finished. -/
theorem issueRun_onePiece : issueRun 2 t (s.putActive t 2 { a with plan := some [w] }) =
    (s.writeBytes dst bs).setEngine t 2 ((s.engine t 2).finishMoved a) := by
  let m := s.writeBytes dst bs
  let b : Active := { a with plan := some [w] }
  have hm : (m.engine t 2).current = some a := hc
  have hwork : (s.putActive t 2 b).issueWork t b = m.putActive t 2 a.movedOnce :=
    (State.issueWork_own (a := b) (rest := []) rfl hr (hdo b rfl)).trans (State.putActive_putActive m t 2 b a.movedOnce rfl rfl)
  rw [issueRun_succ (s := s.putActive t 2 b) hh (State.current_putActive hc rfl rfl), hwork,
    issueRun_succ (s := m.putActive t 2 a.movedOnce) hh (State.current_putActive hm rfl rfl),
    State.issueWork_movedOnce hm ht hd h81 h8D]
  rfl

/-- A first run of the row plans the command as that piece and performs it. -/
theorem State.runMove_onePiece {op : Nat} (hi : s.noInjection) (ho : a.c.cmd.op = op) (h4 : op ≠ 4) (h88 : op ≠ 0x88)
    (hp : a.plan = none) (hw : s.planMove t a = (s, .ok [w])) :
    s.runMove t op = (s.writeBytes dst bs).setEngine t 2 ((s.engine t 2).finishMoved a) := by
  rw [← issueRun_onePiece hc ht hd h81 h8D hh hr hdo]
  simp [State.runMove, hh, hc, ho, h4, h88, hp, hw, State.fireSram_noInjection hi]

end

/-- Settles O25: each command is planned as its one piece, whose bytes are written in the tile. -/
theorem moverFillsAndCopiesItsOwnMemory : Obligations.MoverFillsAndCopiesItsOwnMemory := by
  unfold Obligations.MoverFillsAndCopiesItsOwnMemory
  intro s t a src dst n hi hh hc hp hd ht hdst hdc hw e rest
  have moved {bs : List Byte} (hlen : bs.length = n) :
      let u := (s.writeBytes dst bs).setEngine t 2 ((s.engine t 2).finishMoved a)
      u.readBytes n dst = bs ∧ rest u := by
    subst hlen
    exact ⟨State.readBytes_writeBytes s dst bs, State.writeBytes_outside s dst bs, rfl, rfl, rfl⟩
  refine ⟨fun ho hplan => ?fill, fun ho hplan hsrc hsc hr => ?copy⟩
  case fill =>
    have hpw : s.planMove t a = (s, .ok [.fill dst n 0]) := by simp [State.planMove, ho, hplan]
    have hrun := State.runMove_onePiece hc ht hd (by omega) (by omega) hh (Active.reach_fillOwn n 0 hdst)
      (bs := patternBytes a.c.cmd.d0 0 n) (fun b hb => by rw [← hb]; exact State.doWork_fill b 0 hdc hw) hi ho (by decide)
      (by decide) hp hpw
    exact ⟨_, congrArg Host.Outcome.next hrun, moved (patternBytes_length ..)⟩
  case copy =>
    have hpw : s.planMove t a = (s, .ok [.copy src dst n]) := by simp [State.planMove, ho, hplan]
    have hrun := State.runMove_onePiece hc ht hd (by omega) (by omega) hh (Active.reach_copyOwn n hsrc hdst)
      (bs := s.readBytes n src) (fun b _ => State.doWork_copyIn b hi hsc hdc hr hw) hi ho (by decide) (by decide) hp hpw
    exact ⟨_, congrArg Host.Outcome.next hrun, moved (by simp [State.readBytes])⟩

end Sys2Proof.Machine
end

section
/-!
Remote adds, their acknowledgements and corrected words at a tile (03 R75; 07 R219, R220; 19 R604): what each arrival does, and the
settling of RemoteAddsAndAcks.
-/
namespace Sys2Proof.Machine
open Sys2Proof

/-! ### A remote add arrives (R219) -/

/-- The add has left the network, and its acknowledgement is on its way to the source tile. -/
def State.arrived (s : State) (src : Tile) (x : RemoteAdd) : State :=
  { s with adds := s.adds.erase x, addAcks := s.addAcks.modify 0 src (· + 1) }

/-- Three engines with nothing in their FIFOs have no wait to note. -/
theorem State.noteAllWaits_empty {s : State} {t : Nat}
    (h : ∀ c, (s.engine t c).urgent = [] ∧ (s.engine t c).normal = []) :
    ((s.noteWaits t 0).noteWaits t 1).noteWaits t 2 = s := by
  rw [State.noteWaits_empty (h 0).1 (h 0).2, State.noteWaits_empty (h 1).1 (h 1).2, State.noteWaits_empty (h 2).1 (h 2).2]

theorem State.not_frozen {s : State} (hh : s.halted = false) : s.frozen = false := by
  rw [State.frozen, show s.dbg.halt = false from hh]
  rfl

section
variable {s : State} {src : Tile} {t : Nat} {x : RemoteAdd}
  (hx : s.adds.find? (fun y => y.src = .tile src && y.dst = t) = some x)
include hx

/-- An add at a running tile is applied; with no command waiting there that is all. -/
theorem State.remoteAdd_running {v : State} (hh : s.halted = false) (hv : (s.arrived src x).applyAdd x = v)
    (he : ∀ c, (v.engine t c).urgent = [] ∧ (v.engine t c).normal = []) : s.remoteAdd (.tile src) t = v := by
  have hh' : (s.arrived src x).halted = false := hh
  unfold State.arrived at hv hh'
  unfold State.remoteAdd
  simp only [State.not_frozen hh, hx, hh', hv, Bool.false_eq_true, if_false, State.noteAllWaits_empty he]

/-- A thawed tile holds it (R604). -/
theorem State.remoteAdd_held (hh : s.halted = true) (hf : s.frozen = false) : s.remoteAdd (.tile src) t =
    (s.arrived src x).setTile t { s.tile t with heldAdds := (s.tile t).heldAdds ++ [x] } := by
  have hh' : (s.arrived src x).halted = true := hh
  unfold State.arrived at hh'
  unfold State.remoteAdd
  simp only [hf, hx, hh', Bool.false_eq_true, if_false, if_true]
  rfl

end

/-- An add of the job's generation goes to its counter. -/
theorem State.applyAdd_adds {s : State} {src : Tile} {x : RemoteAdd} (hn : s.noTrace)
    (hg : (s.job x.panel x.slot).gen % 256 = x.gen % 256) (hs : x.src = .tile src) :
    let sum : SyncCtr := ⟨((s.tile x.dst).ctr x.slot x.ctr).val + BitVec.ofNat 16 x.val, src, x.eng, true⟩
    s.applyAdd x = s.setTile x.dst { s.tile x.dst with sync := (s.tile x.dst).sync.set {} (ctrKey x.slot x.ctr) sum } := by
  simp [State.applyAdd, hg, hs, State.setCtr, State.modTile_eq, State.traceTile_noTrace (State.setTile_noTrace hn _ _)]

/-- An add of another generation is counted by its panel. -/
theorem State.applyAdd_discards {s : State} {x : RemoteAdd} (hg : (s.job x.panel x.slot).gen % 256 ≠ x.gen % 256) :
    s.applyAdd x = s.setPanel x.panel { s.panel x.panel with gendis := min 0xFFFF ((s.panel x.panel).gendis + 1) } :=
  if_pos hg

/-! ### Acknowledgements (R220) and corrected words (R75) -/

theorem exec_remoteAddAck_frees {s : State} {t : Tile} (ha : 0 < s.addAcks.get 0 t) (hf : s.frozen = false) :
    exec (.remoteAddAck t) s = .next { (s.setTile t { s.tile t with unacked := (s.tile t).unacked - 1 }) with
      addAcks := s.addAcks.modify 0 t (· - 1) } := by
  show execRemoteAddAck t s = _
  simp only [execRemoteAddAck, hf, Nat.ne_of_gt ha, decide_false, Bool.or_self, Bool.false_eq_true, if_false]
  rfl

theorem exec_sramCorrectedWriteback_oldest {s : State} {t : Tile} {b : Fin 24} {w : Nat × Nat} (hh : s.halted = false)
    (hw : (s.tile t).corrected.find? (fun z => z.1 = b.val) = some w) : exec (.sramCorrectedWriteback t b) s =
      .next (s.setTile t { s.tile t with corrected := (s.tile t).corrected.erase w }) := by
  show execSramCorrectedWriteback t b s = _
  simp [execSramCorrectedWriteback, hh, State.modTile_eq, hw]

/-- Settles O29: an arriving add is applied, discarded or held; an acknowledgement and a corrected word take their tile's next. -/
theorem remoteAddsAndAcks : Obligations.RemoteAddsAndAcks := by
  unfold Obligations.RemoteAddsAndAcks
  intro s src t x hn hx he y u sum q
  refine ⟨fun hh hg hs hd => ?adds, fun hh hg => ?discards, fun hh hf => ?held, fun ha hf => ?ack, fun b w hh hw => ?corrected⟩
  case adds =>
    have hv := State.applyAdd_adds (s := s.arrived src x) hn hg hs
    rw [hd] at hv
    refine congrArg Host.Outcome.next (State.remoteAdd_running hx hh hv fun c => ?_)
    rw [State.engine_setTile]
    exact he c
  case discards =>
    exact congrArg Host.Outcome.next
      (State.remoteAdd_running hx hh (State.applyAdd_discards (s := s.arrived src x) hg) he)
  case held => exact congrArg Host.Outcome.next (State.remoteAdd_held hx hh hf)
  case ack => exact exec_remoteAddAck_frees ha hf
  case corrected => exact exec_sramCorrectedWriteback_oldest hh hw

end Sys2Proof.Machine
end

section
/-!
What a record, a fault of jobs and the end of every job leave alone (15 R506 to R508; 19 R587, R590): the links, the start-up
registers, the reference time, the power state.
-/
namespace Sys2Proof.Machine
open Sys2Proof

/-- From `s` to `u` only what a record, an ABORT or the end of a job touches may differ. -/
def State.EndOnly (s u : State) : Prop :=
  ∃ a b c d e f g h i j k l m n o p q r t, u = { s with
    mem := a, poison := b, injPoison := c, linePoison := d, tiles := e, hosts := f, homes := g, grants := h, rings := i, evt := j,
    panels := k, dbg := l, adds := m, conns := n, hods := o, intakes := p, ports := q, courseTx := r, aborts := t }

theorem State.EndOnly.refl (s : State) : s.EndOnly s := ⟨_, _, _, _, _, _, _, _, _, _, _, _, _, _, _, _, _, _, _, rfl⟩

theorem State.EndOnly.trans {s u v : State} (h : s.EndOnly u) (k : u.EndOnly v) : s.EndOnly v := by
  obtain ⟨_, _, _, _, _, _, _, _, _, _, _, _, _, _, _, _, _, _, _, rfl⟩ := h
  obtain ⟨_, _, _, _, _, _, _, _, _, _, _, _, _, _, _, _, _, _, _, rfl⟩ := k
  exact ⟨_, _, _, _, _, _, _, _, _, _, _, _, _, _, _, _, _, _, _, rfl⟩

theorem State.EndOnly.foldl {α} {f : State → α → State} (hf : ∀ (s : State) a, s.EndOnly (f s a)) (l : List α) (s : State) :
    s.EndOnly (l.foldl f s) := by
  induction l generalizing s with
  | nil => exact .refl s
  | cons a l ih => exact (hf s a).trans (ih _)

theorem State.RecOnly.endOnly {s u : State} (h : s.RecOnly u) : s.EndOnly u := by
  obtain ⟨_, _, _, _, _, _, _, _, _, _, _, _, rfl⟩ := h
  exact ⟨_, _, _, _, _, _, _, _, _, _, _, _, _, _, _, _, _, _, _, rfl⟩

theorem State.SendOnly.endOnly {s u : State} (h : s.SendOnly u) : s.EndOnly u := by
  obtain ⟨_, _, _, rfl⟩ := h
  exact ⟨_, _, _, _, _, _, _, _, _, _, _, _, _, _, _, _, _, _, _, rfl⟩

theorem State.setPanel_endOnly (s : State) (p : Nat) (x : Panel) : s.EndOnly (s.setPanel p x) :=
  ⟨_, _, _, _, _, _, _, _, _, _, _, _, _, _, _, _, _, _, _, rfl⟩

theorem State.setJob_endOnly (s : State) (p j : Nat) (b : Job) : s.EndOnly (s.setJob p j b) :=
  s.setPanel_endOnly p _

theorem State.modTile_endOnly (s : State) (t : Nat) (f : TileS → TileS) : s.EndOnly (s.modTile t f) :=
  ⟨_, _, _, _, _, _, _, _, _, _, _, _, _, _, _, _, _, _, _, rfl⟩

theorem State.stopSlot_endOnly (s : State) (p j : Nat) : s.EndOnly (s.stopSlot p j) := by
  unfold State.stopSlot
  dsimp only
  generalize hu : List.foldl _ _ _ = u
  have freed : s.EndOnly u := by
    subst hu
    refine State.EndOnly.trans ?_ (.foldl (fun s a => ?_) _ _)
    · exact ⟨_, _, _, _, _, _, _, _, _, _, _, _, _, _, _, _, _, _, _, rfl⟩
    · split
      · exact s.modTile_endOnly _ _
      · exact .refl s
  exact freed.trans ⟨_, _, _, _, _, _, _, _, _, _, _, _, _, _, _, _, _, _, _, rfl⟩

theorem State.endJob_endOnly (s : State) (p j ecause : Nat) : s.EndOnly (s.endJob p j ecause) := by
  unfold State.endJob
  dsimp only
  split
  · exact (s.setJob_endOnly p j _).trans (State.stopSlot_endOnly _ p j)
  · split
    · exact s.setJob_endOnly p j _
    · exact .refl s

theorem State.faultJob_endOnly (s : State) (p j : Nat) (e : Event) : s.EndOnly (s.faultJob p j e) := by
  unfold State.faultJob
  dsimp only
  split
  · exact .refl s
  · split
    · exact .refl s
    · refine State.EndOnly.trans ?_ (State.endJob_endOnly _ p j 2)
      have recorded := (s.setJob_endOnly p j { s.job p j with faulted := true }).trans
        (State.emit_rec _ { e with job := some (p, j), jend := decide ((s.job p j).jstate = 1) }).endOnly
      split
      · exact recorded.trans (State.sendAbort_send ..).endOnly
      · exact recorded

theorem State.faultJobs_endOnly (s : State) (js : List (Nat × Nat)) (e : Event) : s.EndOnly (s.faultJobs js e) := by
  unfold State.faultJobs
  split
  · exact (s.emit_rec e).endOnly
  · exact .foldl (fun s j => s.faultJob_endOnly j.1 j.2 e) js s

theorem State.endJobs_endOnly (s : State) (js : List (Nat × Nat)) (ecause : Nat) : s.EndOnly (s.endJobs js ecause) := by
  unfold State.endJobs
  refine .foldl (fun s j => ?_) js s
  have told := (s.setJob_endOnly j.1 j.2 { s.job j.1 j.2 with faulted := true }).trans
    (State.sendAbort_send _ j.1 j.2 (s.job j.1 j.2).voteStep 6 (s.job j.1 j.2).rank).endOnly
  exact told.trans (State.endJob_endOnly _ j.1 j.2 ecause)

theorem State.endAllJobs_endOnly (s : State) (ecause : Nat) : s.EndOnly (s.endAllJobs ecause) :=
  s.endJobs_endOnly s.runningJobs ecause

theorem State.EndOnly.links {s u : State} (h : s.EndOnly u) : u.links = s.links := by
  obtain ⟨_, _, _, _, _, _, _, _, _, _, _, _, _, _, _, _, _, _, _, rfl⟩ := h
  rfl

theorem State.EndOnly.boot {s u : State} (h : s.EndOnly u) : u.boot = s.boot := by
  obtain ⟨_, _, _, _, _, _, _, _, _, _, _, _, _, _, _, _, _, _, _, rfl⟩ := h
  rfl

end Sys2Proof.Machine
end

section
/-!
Links of the grout network (08 R263 to R267; 10 R366, R367; 18 R572): what a flit, a replay timeout, a retrain and a lane test do to
a link's record, and the settling of LinksReceiveReplayAndRetrain from these.
-/
namespace Sys2Proof.Machine
open Sys2Proof

/-! ### The record of a link -/

@[simp] theorem State.link_modLink (s : State) (k : Nat) (f : Link → Link) : (s.modLink k f).link k = f (s.link k) :=
  Table.get_modify_self ..

theorem State.link_modLink_ne (s : State) {k j : Nat} (f : Link → Link) (h : j ≠ k) : (s.modLink k f).link j = s.link j :=
  Table.get_modify_ne _ _ _ h

/-- Two updates of a link's record are one. -/
theorem State.modLink_modLink (s : State) (k : Nat) (f g : Link → Link) :
    (s.modLink k f).modLink k g = s.modLink k (fun l => g (f l)) := by
  simp only [State.modLink, Table.modify, Table.get_set_self, Table.set_set]

theorem State.modLink_congr {s : State} {k : Nat} {f g : Link → Link} (h : f (s.link k) = g (s.link k)) :
    s.modLink k f = s.modLink k g :=
  congrArg (fun x => { s with links := s.links.set {} k x }) h

/-- From `s` to `u` only the record of link `k` may differ. -/
def State.onlyLink (s u : State) (k : Nat) : Prop :=
  u = { s with links := u.links } ∧ ∀ j, j ≠ k → u.link j = s.link j

theorem State.modLink_onlyLink (s : State) (k : Nat) (f : Link → Link) : s.onlyLink (s.modLink k f) k :=
  ⟨rfl, fun _ hj => s.link_modLink_ne f hj⟩

theorem State.link_modBoth (s : State) (k : Nat) (f : Link → Link) : (s.modBoth k f).link k = f (s.link k) := by
  unfold State.modBoth
  split
  · exact s.link_modLink k f
  · next h => rw [State.link_modLink_ne _ f (Ne.symm h), State.link_modLink]

theorem State.link_modBoth_peer (s : State) (k : Nat) (f : Link → Link) :
    (s.modBoth k f).link (linkPeer k) = f (s.link (linkPeer k)) := by
  unfold State.modBoth
  split
  · next h => rw [h, State.link_modLink]
  · next h => rw [State.link_modLink, State.link_modLink_ne _ f h]

/-! ### Sending what waits -/

theorem Link.nextFlit_nil {l : Link} (h : l.waitq = []) : l.nextFlit = none := by
  have none_waits : ∀ c, l.candidate c = none := by
    intro c
    unfold Link.candidate
    split
    · rfl
    · split <;> simp [h]
  simp [Link.nextFlit, none_waits]

/-- A link for which no flit waits sends none. -/
theorem State.pump_nil {s : State} {k : Nat} (h : (s.link k).waitq = []) (n : Nat) : s.pump k n = s := by
  cases n with
  | zero => rfl
  | succ n => simp [State.pump, Link.nextFlit_nil h]

/-! ### Replays (R263, R264) -/

/-- The record of a link at which a counted replay begins at time `now`. -/
def Link.replayed (l : Link) (now : Nat) : Link :=
  { l with
    hold := true
    replays := satAdd 0xFFFF l.replays 1
    replayTimes := l.replayTimes.filter (fun t => decide (now < t + 1000000000)) ++ [now] }

theorem State.replay_counted (s : State) (k : Nat) : s.replay k true = s.modLink k (fun l => l.replayed s.now) := rfl

theorem Link.replayed_times_length {l : Link} (now : Nat) (h : l.replayTimes.length < 16) :
    (l.replayed now).replayTimes.length ≤ 16 := by
  have := List.length_filter_le (fun t => decide (now < t + 1000000000)) l.replayTimes
  simp only [Link.replayed, List.length_append, List.length_singleton]
  omega

/-- Below R264's bounds no retrain begins. -/
theorem State.checkReplays_below {s : State} {k : Nat} (hf : (s.link k).failedReplays < 8)
    (ht : (s.link k).replayTimes.length ≤ 16) : s.checkReplays k = s :=
  if_neg (by omega)

/-- The record of an up link after the first flit with a bad CRC: counted, a replay begun and asked for. -/
def Link.crcFailed (l : Link) (now : Nat) : Link :=
  { Link.replayed { l with crcerr := satAdd 0xFFFF l.crcerr 1 } now with waitReplay := true }

theorem State.flitBad_first {s : State} {k : Nat} (w : Nat) (hw : (s.link k).waitReplay = false)
    (hf : (s.link k).failedReplays < 8) (ht : (s.link k).replayTimes.length < 16) :
    s.flitBad k w true false = s.modLink k (fun l => (l.crcFailed s.now).idle) := by
  have below : (s.modLink k (fun l => l.crcFailed s.now)).checkReplays k = s.modLink k (fun l => l.crcFailed s.now) := by
    refine State.checkReplays_below ?_ ?_ <;> rw [State.link_modLink]
    · exact hf
    · exact Link.replayed_times_length (l := { s.link k with crcerr := satAdd 0xFFFF (s.link k).crcerr 1 }) s.now ht
  rw [← State.modLink_modLink s k (fun l => l.crcFailed s.now), ← below]
  simp only [State.flitBad, hw, Bool.not_false, if_true, State.replay_counted, State.modLink_modLink]
  rfl

/-! ### LINK_FLIT_RECEIVE -/

theorem State.linkInj_noInjection {s : State} (hi : s.noInjection) (k : Nat) : s.linkInj k = (s, false) := by
  simp [State.linkInj, State.armed_noInjection hi]

theorem State.flitReceive_down {s : State} {k : Nat} (w : Nat) (h : linkExists k = false ∨ s.linkState k ≠ 3) :
    s.flitReceive k w = s :=
  if_pos (by simpa using h)

/-- The record of a link that accepts the next body flit in order. -/
def Link.inOrder (l : Link) (w : Nat) : Link :=
  { l with rxSeq := flitSeq w, waitReplay := false, failedReplays := 0, hold := l.hold && !l.waitReplay }

section
variable {s : State} {k w : Nat} (hi : s.noInjection) (he : linkExists k = true) (hu : s.linkState k = 3)
include hi he hu

theorem State.flitReceive_badCrc (hc : flitCrc w ≠ bits w 32 32) : s.flitReceive k w = s.flitBad k w true false := by
  simp [State.flitReceive, he, hu, State.linkInj_noInjection hi, hc]

theorem State.flitReceive_idle (hc : flitCrc w = bits w 32 32) (hv : bit w 21 = false) :
    s.flitReceive k w = ((s.modLink k (fun l => l.acks w)).pump k 64).modLink k Link.idle := by
  simp [State.flitReceive, he, hu, State.linkInj_noInjection hi, hc, hv]

theorem State.flitReceive_inOrder (hc : flitCrc w = bits w 32 32) (hv : bit w 21 = true)
    (hs : flitSeq w = ((s.link k).rxSeq + 1) % 256) : s.flitReceive k w =
      (((s.modLink k (fun l => (l.acks w).inOrder w)).flitEnter k w).pump k 64).modLink k Link.idle := by
  rw [← State.modLink_modLink s k (fun l => l.acks w) (fun l => l.inOrder w)]
  simp [State.flitReceive, he, hu, State.linkInj_noInjection hi, hc, hv, ← hs, Link.inOrder]

end

/-- The record of a link after a flit with no exit entered its input buffer and left it again. -/
def Link.sunk (l : Link) (w : Nat) : Link :=
  let c := flitClass w
  { l with
    buffered := modAt (modAt l.buffered c (· + 1)) c (· - 1)
    credDue := modAt l.credDue c (· + 1)
    dropping := l.dropping.set c (!flitTail w && l.dropping.getD c false)
    exit := l.exit.set c none }

theorem State.flitEnter_noExit {s : State} {k w : Nat} (hh : flitHead w = false)
    (he : (s.link k).exit.getD (flitClass w) none = none) : s.flitEnter k w = s.modLink k (fun l => l.sunk w) := by
  simp only [State.flitEnter, hh, Bool.false_eq_true, if_false, State.link_modLink, he]
  cases hd : (s.link k).dropping.getD (flitClass w) false
  all_goals
    simp only [Bool.false_eq_true, if_false, if_true, Option.getD, ite_self, State.freeInput, State.modLink_modLink]
    refine State.modLink_congr ?_
    rw [Link.sunk, hd]
    rfl

/-- An intact body flit next in order, of a packet with no exit, is accepted and acknowledged by an idle flit. -/
theorem State.flitReceive_sunk {s : State} {k w : Nat} (hi : s.noInjection) (he : linkExists k = true) (hu : s.linkState k = 3)
    (hc : flitCrc w = bits w 32 32) (hv : bit w 21 = true) (hs : flitSeq w = ((s.link k).rxSeq + 1) % 256)
    (hh : flitHead w = false) (hq : (s.link k).waitq = []) (hx : (s.link k).exit.getD (flitClass w) none = none) :
    s.flitReceive k w = s.modLink k (fun l => (((l.acks w).inOrder w).sunk w).idle) := by
  have hx' : ((s.modLink k (fun l => (l.acks w).inOrder w)).link k).exit.getD (flitClass w) none = none := by
    rw [State.link_modLink]
    exact hx
  rw [State.flitReceive_inOrder hi he hu hc hv hs, State.flitEnter_noExit hh hx', State.modLink_modLink, State.pump_nil,
    State.modLink_modLink]
  rw [State.link_modLink]
  exact hq

/-- An intact idle flit is acknowledged, and acknowledges what it names. -/
theorem State.flitReceive_idle_nil {s : State} {k w : Nat} (hi : s.noInjection) (he : linkExists k = true)
    (hu : s.linkState k = 3) (hc : flitCrc w = bits w 32 32) (hv : bit w 21 = false) (hq : (s.link k).waitq = []) :
    s.flitReceive k w = s.modLink k (fun l => (l.acks w).idle) := by
  rw [State.flitReceive_idle hi he hu hc hv, State.pump_nil, State.modLink_modLink]
  rw [State.link_modLink]
  exact hq

/-! ### LINK_REPLAY_TIMEOUT -/

theorem State.replayTimeout_down {s : State} {k : Nat} (h : linkExists k = false ∨ s.linkState k ≠ 3) :
    s.replayTimeout k = s :=
  if_pos (by rcases h with h | h <;> simp [h])

/-- The record of a link whose replay timer expires at time `now`. -/
def Link.resent (l : Link) (now : Nat) : Link :=
  { l.replayed now with failedReplays := l.failedReplays + 1, sent := l.sent ++ l.held }

theorem State.replayTimeout_resends {s : State} {k : Nat} (he : linkExists k = true) (hu : s.linkState k = 3)
    (hh : (s.link k).held ≠ []) (hf : (s.link k).failedReplays < 7) (ht : (s.link k).replayTimes.length < 16) :
    s.replayTimeout k = s.modLink k (fun l => l.resent s.now) := by
  have below : (s.modLink k (fun l => l.resent s.now)).checkReplays k = s.modLink k (fun l => l.resent s.now) := by
    refine State.checkReplays_below ?_ ?_ <;> rw [State.link_modLink]
    · exact Nat.succ_lt_succ hf
    · exact Link.replayed_times_length s.now ht
  have hh' : (s.link k).held.isEmpty = false := by simpa using hh
  rw [← below, State.replayTimeout]
  simp only [he, hu, hh', State.replay_counted, State.modLink_modLink]
  rfl

/-! ### Retraining (R264 to R267) -/

theorem State.retrainRequest_begins {s : State} {k v : Nat} (hv : bit v 0 = true) (he : linkExists k = true)
    (hu : s.linkState k = 3) : s.retrainRequest k v .owner = s.retrain k := by
  simp [State.retrainRequest, hv, he, hu]

theorem State.linkRetrain_training {s : State} {k : Nat} (bad : Nat) (he : linkExists k = true) (hu : s.linkState k = 4) :
    s.linkRetrain k bad = if k < 2560 then s.trainMortar k bad else s.trainUcie k bad := by
  simp [State.linkRetrain, he, hu]

/-- With no bad lane a mortar link keeps its spares and its test has passed. -/
theorem State.trainMortar_passes (s : State) (k : Nat) : s.trainMortar k 0 =
    (s.modBoth k (fun l => { l with spares := (s.link k).spares })).modBoth k (fun l => { l with trial := 1 }) := by
  simp [State.trainMortar, Link.repair]

/-- With bad lanes and no spare left a mortar link at full width takes the next lower rate. -/
theorem State.trainMortar_slows {s : State} {k bad : Nat} (hb : 0 < bad) (hn : (s.link k).spares + (s.link k).withdrawn = 2)
    (hr : (s.link k).rate < 2) (hh : (s.link k).half = false) : s.trainMortar k bad =
      ((s.modBoth k (fun l => { l with spares := (s.link k).spares })).modBoth k
        (fun l => { l with rate := l.rate + 1, trial := 0 })).linkEvent k 3 := by
  simp [State.trainMortar, Link.repair, hn, hr, hh, Nat.ne_of_gt hb]

theorem State.trainUcie_passes {s : State} {k : Nat} (hr : (s.link k).rate ≤ s.boot.ufloor) :
    s.trainUcie k 0 = s.modBoth k (fun l => { l with trial := 1 }) := by
  simp [State.trainUcie, Nat.not_lt.mpr hr]

/-- A retrain that passed brings both ends up with the held flits sent again; with no flit waiting that is all. -/
theorem State.retrainDone_up {s : State} {k : Nat} (he : linkExists k = true) (hu : s.linkState k = 4)
    (ht : (s.link k).trial = 1) (hq : (s.link k).waitq = []) (hp : (s.link (linkPeer k)).waitq = []) : s.retrainDone k =
      s.modBoth k (fun l => { l with st := some 3, hold := false, trial := 0, sent := l.sent ++ l.held }) := by
  simp only [State.retrainDone, he, hu, ht, Bool.not_true, ne_eq, not_true_eq_false, decide_false, Bool.or_self,
    Bool.false_eq_true, if_false]
  rw [State.pump_nil, State.pump_nil]
  · rw [State.link_modBoth]
    exact hq
  · rw [State.pump_nil, State.link_modBoth_peer]
    · exact hp
    · rw [State.link_modBoth]
      exact hq

theorem State.retrainDone_fails {s : State} {k : Nat} (he : linkExists k = true) (hu : s.linkState k = 4)
    (ht : (s.link k).trial = 2) : s.retrainDone k = s.linkLost k 5 := by
  simp [State.retrainDone, he, hu, ht]

theorem State.panelsLose_endOnly (s : State) (k oosc cause : Nat) (hit : Panel → Bool) :
    s.EndOnly (s.panelsLose k oosc cause hit) :=
  (State.faultJobs_endOnly ..).trans (.foldl (fun s p => s.setPanel_endOnly p _) _ _)

/-- A lost mortar link has the state of its cause and no hold. -/
theorem State.linkLost_mortar (s : State) {k : Nat} (cause : Nat) (hk : k < 2560) :
    (s.linkLost k cause).link k = { s.link k with st := some cause, hold := false, trial := 0 } := by
  rw [State.linkLost, if_pos hk, State.link, (State.panelsLose_endOnly ..).links]
  exact State.link_modBoth ..

/-! ### Lane tests in service (R572) -/

theorem State.spareTest_down {s : State} {k : Nat} (err : Bool) (h : linkExists k = false ∨ s.linkState k ≠ 3) :
    s.spareTest k err = s :=
  if_pos (by rcases h with h | h <;> simp [h])

theorem State.spareTest_withdraws {s : State} {k : Nat} (he : linkExists k = true) (hu : s.linkState k = 3)
    (hn : (s.link k).spares + (s.link k).withdrawn < 2) :
    s.spareTest k true = (s.modBoth k (fun l => { l with withdrawn := l.withdrawn + 1 })).linkEvent k 9 := by
  simp [State.spareTest, he, hu, Nat.not_le.mpr hn]

theorem State.failedTest_reports {s : State} {k bad : Nat} (he : linkExists k = true) (hu : s.linkState k = 5) (hb : 0 < bad) :
    s.failedTest k bad = s.linkEvent k 5 := by
  simp [State.failedTest, he, hu, Nat.ne_of_gt hb]

/-- Settles O57: each command on a link is what the lemma on its operation says; no flit waits, so none is sent besides. -/
theorem linksReceiveReplayAndRetrain : Obligations.LinksReceiveReplayAndRetrain := by
  unfold Obligations.LinksReceiveReplayAndRetrain
  intro s l f content bad d e i v hi k x w rcv live intact rec_ begin_ only
  refine ⟨?down, ?badCrc, ?idleFlit, ?bodyFlit, ?timeout, ?request, ?training, ?spare, ?failed⟩
  case down =>
    exact fun h => ⟨congrArg Host.Outcome.next (State.flitReceive_down w h),
      congrArg Host.Outcome.next (State.replayTimeout_down h), congrArg Host.Outcome.next (State.spareTest_down true h)⟩
  case badCrc =>
    intro ⟨he, hu⟩ hc hw hf ht
    have received : s.flitReceive k w = _ := (State.flitReceive_badCrc hi he hu hc).trans (State.flitBad_first w hw hf ht)
    refine ⟨_, congrArg Host.Outcome.next received, s.modLink_onlyLink k _, ?_⟩
    rw [State.link_modLink]
    exact ⟨rfl, rfl, rfl, rfl, rfl, rfl, rfl, rfl⟩
  case idleFlit =>
    exact fun ⟨he, hu⟩ hc hv hq => congrArg Host.Outcome.next (State.flitReceive_idle_nil hi he hu hc hv hq)
  case bodyFlit =>
    intro ⟨he, hu⟩ hc hv hs hh hq hx
    refine ⟨_, congrArg Host.Outcome.next (State.flitReceive_sunk hi he hu hc hv hs hh hq hx), s.modLink_onlyLink k _, ?_⟩
    rw [State.link_modLink]
    exact ⟨rfl, rfl⟩
  case timeout =>
    intro ⟨he, hu⟩ hh hf ht
    refine ⟨_, congrArg Host.Outcome.next (State.replayTimeout_resends he hu hh hf ht), s.modLink_onlyLink k _, ?_⟩
    rw [State.link_modLink]
    exact ⟨rfl, rfl, rfl, rfl⟩
  case request => exact fun hv he hu => congrArg Host.Outcome.next (State.retrainRequest_begins hv he hu)
  case training =>
    intro he hu
    refine ⟨fun hk => ?_, fun hk hb hn hr hh => ?_, fun hk hr => ?_, fun ht hq hp => ?_, fun ht => ?_⟩
    · exact congrArg Host.Outcome.next
        ((State.linkRetrain_training 0 he hu).trans ((if_pos hk).trans (s.trainMortar_passes k)))
    · exact congrArg Host.Outcome.next
        ((State.linkRetrain_training bad he hu).trans ((if_pos hk).trans (State.trainMortar_slows hb hn hr hh)))
    · exact congrArg Host.Outcome.next
        ((State.linkRetrain_training 0 he hu).trans ((if_neg (Nat.not_lt.mpr hk)).trans (State.trainUcie_passes hr)))
    · exact congrArg Host.Outcome.next (State.retrainDone_up he hu ht hq hp)
    · refine ⟨_, congrArg Host.Outcome.next (State.retrainDone_fails he hu ht), fun hk => ?_⟩
      rw [s.linkLost_mortar 5 hk]
      exact ⟨rfl, rfl⟩
  case spare => exact fun ⟨he, hu⟩ hn => congrArg Host.Outcome.next (State.spareTest_withdraws he hu hn)
  case failed => exact fun he hu hb => congrArg Host.Outcome.next (State.failedTest_reports he hu hb)

end Sys2Proof.Machine
end

section
/-!
The reference clock, the module's time, the managers and the test access port (08 R274; 18 R560, R571, R574, R579 to R583; 19 R592;
20 R628 to R630, R634): what each command does to the start-up registers and the time, and the settling of
ReferenceTimeAndManagersAct from these.
-/
namespace Sys2Proof.Machine
open Sys2Proof

/-! ### The reference (R274, R628) -/

/-- A reference missing for more than 100 ms: only its own registers of the start-up registers change. -/
theorem State.refLost_boot {s : State} (h : s.boot.ref = 2) : s.refLost.boot =
    { s.boot with
      ref := 3, mstate := if s.boot.mstate = 1 then 2 else s.boot.mstate
      holdc := if s.boot.mstate = 1 then 6 else s.boot.holdc } := by
  have kept := ((s.endAllJobs_endOnly 6).trans (State.emit_rec _ { cls := 0x20, cause := 12 }).endOnly).boot
  rw [State.refLost, if_neg (by simp [h])]
  simp only [State.modBoot, kept]

theorem State.refLost_ne {s : State} (h : s.boot.ref ≠ 2) : s.refLost = s := if_pos h

theorem State.refBack_brief {s : State} (h : s.boot.ref = 2) : s.refBack = s.modBoot (fun b => { b with ref := 1 }) := if_pos h

theorem State.refBack_valid {s : State} (h : s.boot.ref = 1) : s.refBack = s := by simp [State.refBack, h]

/-- The reference back after a loss that lasted: a record, and a module reset with RCAUSE 4 unless one is due already. -/
theorem State.refBack_lasting {s : State} (h : s.boot.ref = 3) : s.refBack =
    { (s.emit { cls := 0x20, cause := 13 }) with boot := { s.boot with ref := 1, rst := some (s.boot.rst.getD 4) } } := by
  have kept := (s.emit_rec { cls := 0x20, cause := 13 }).endOnly.boot
  simp only [State.refBack, h, State.modBoot, kept]
  rfl

/-! ### Time (R629, R630) -/

/-- With lock kept an armed seconds value becomes the time. -/
theorem State.ppsEdge_sets {s : State} {at_ v : Nat} (hl : s.time.lock = true) (ho : offSecond (max s.now at_) ≤ 1000)
    (ha : s.time.armed = some v) : s.ppsEdge at_ =
      { s with now := v * secNs, time := { s.time with lastEdge := some (v * secNs), armed := none } } := by
  simp [State.ppsEdge, TimeS.edge, hl, ho, ha]

/-- An edge more than 1 µs from a whole second ends lock and is counted. -/
theorem State.ppsEdge_unlocks {s : State} {at_ : Nat} (hl : s.time.lock = true) (ho : 1000 < offSecond (max s.now at_))
    (ha : s.time.armed = none) : s.ppsEdge at_ =
      { s with
        now := max s.now at_
        time := { s.time with
          lock := false, streak := 0, miss := satAdd 0xFFFF s.time.miss 1, lastEdge := some (max s.now at_) } } := by
  simp [State.ppsEdge, TimeS.edge, hl, Nat.not_le.mpr ho, ha]

/-- The third good edge in a row locks, and steps the time to the whole second. -/
theorem State.ppsEdge_locks {s : State} {at_ l : Nat} (hl : s.time.lock = false) (hp : s.time.lastEdge = some l)
    (hg : edgeGood l (max s.now at_) = true) (hn : s.time.streak = 2) (ha : s.time.armed = none) : s.ppsEdge at_ =
      let sec := max s.now at_ / secNs * secNs
      { s with now := sec, time := { s.time with lock := true, streak := 3, lastEdge := some sec } } := by
  simp [State.ppsEdge, TimeS.edge, hl, hp, hg, hn, ha]

/-! ### Managers (R579 to R581, R592) -/

/-- The standby takes over: MEPOCH counted, and a record. -/
theorem State.takeover_standby {s : State} (hm : s.managed = true) (hr : s.boot.recovery = false) (hs : s.boot.stby = true) :
    s.takeover true =
      (s.modBoot (fun b => { b with active := 1 - b.active, stby := false, mepoch := b.mepoch + 1 })).emit
        { cls := 0x20, cause := 11 } := by
  simp [State.takeover, hm, hr, hs]

theorem State.takeover_none {s : State} {ok : Bool} (hm : s.managed = true) (hr : s.boot.recovery = false)
    (hs : s.boot.stby = false ∨ ok = false) : s.takeover ok = s.managersLost := by
  rcases hs with hs | hs <;> simp [State.takeover, hm, hr, hs]

theorem State.managersLost_boot (s : State) : s.managersLost.boot = { s.boot with dead := true, stby := false } :=
  congrArg (fun b : Boot => { b with dead := true, stby := false }) (s.endAllJobs_endOnly 2).boot

theorem State.masonSilent_ignored {s : State} {i : Nat} (h : s.boot.rails = false ∨ i = 0 ∨ i = 9) : s.masonSilent i = s := by
  refine if_pos ?_
  rcases h with h | h <;> simp [h]

/-- A silent core of a die other than sills 0 and 8 is fatal. -/
theorem State.masonSilent_fatal {s : State} {i : Nat} (hr : s.boot.rails = true) (h0 : i ≠ 0) (h9 : i ≠ 9) :
    s.masonSilent i = s.fatalError 2 (chainAgent i) := by
  simp [State.masonSilent, hr, h0, h9]

/-! ### The test access port (R571, R574, R583, R634) -/

theorem State.tap_unmanaged {s : State} (op : TapOp) (hm : s.managed = false) : s.tap op = s := by
  simp [State.tap, hm]

theorem State.tap_idcode {s : State} (hm : s.managed = true) :
    s.tap .idcode = { s with regRsp := Config.idcode % 2 ^ 32 } := by
  simp [State.tap, hm]

/-- In Manufacturing a repair field is written. -/
theorem State.tap_repairs {s : State} {d : Die} {c : Fin 16} {f : BitVec 5} (hm : s.managed = true) (hl : s.boot.lcs = 0)
    (hf : f.toNat ≤ 16) : s.tap (.repairWrite d c f) =
      s.modBoot (fun b => { b with repair := b.repair.set 0 (16 * d.val + c.val) (f.toNat ^^^ 0x1F) }) := by
  simp [State.tap, hm, hl, hf]

theorem State.tap_repairRefused {s : State} (d : Die) (c : Fin 16) (f : BitVec 5) (hl : s.boot.lcs ≠ 0) :
    s.tap (.repairWrite d c f) = s := by
  simp [State.tap, hl]

theorem State.tap_toManufacturing {s : State} (hm : s.managed = true) (hl : s.boot.lcs = 3) :
    s.tap .toManufacturing = s.modBoot (fun b => { b with lcs := 0 }) := by
  simp [State.tap, hm, hl]

/-- Settles O60: each command is what the lemma on its operation says; the end of every job leaves the start-up registers. -/
theorem referenceTimeAndManagersAct : Obligations.ReferenceTimeAndManagersAct := by
  unfold Obligations.ReferenceTimeAndManagersAct
  intro s at_ ok d op die c f b t e put
  refine ⟨?refNever, ?refValid, ?refBrief, ?refLasting, ?setTime, ?unlock, ?lock, ?lockLoss, ?notLocked, ?managed, ?unmanaged,
    ?standbyLoss, ?masonIgnored, ?masonFatal⟩
  case refNever => exact fun h => congrArg Host.Outcome.next (if_pos h)
  case refValid =>
    intro h
    have h0 : s.boot.ref ≠ 0 := by rw [h]; decide
    have h2 : s.boot.ref ≠ 2 := by rw [h]; decide
    exact ⟨congrArg Host.Outcome.next (if_pos h), congrArg Host.Outcome.next (State.refLost_ne h2),
      congrArg Host.Outcome.next (State.refBack_valid h), congrArg Host.Outcome.next (if_neg h0)⟩
  case refBrief => exact fun h => ⟨congrArg Host.Outcome.next (State.refBack_brief h), _, rfl, State.refLost_boot h⟩
  case refLasting => exact fun h => ⟨_, congrArg Host.Outcome.next (State.refBack_lasting h), rfl⟩
  case setTime => exact fun hl ho v ha => congrArg Host.Outcome.next (State.ppsEdge_sets hl ho ha)
  case unlock => exact fun hl ho ha => congrArg Host.Outcome.next (State.ppsEdge_unlocks hl ho ha)
  case lock => exact fun l hl hp hg hn ha => congrArg Host.Outcome.next (State.ppsEdge_locks hl hp hg hn ha)
  case lockLoss => exact fun h => congrArg Host.Outcome.next (if_pos h)
  case notLocked => exact fun h => congrArg Host.Outcome.next (if_neg (by simpa using h))
  case managed =>
    intro hm
    refine ⟨fun hs => ?_, fun hr hs => ?_, fun hr hs => ?_, ?_, fun hl hf => ?_, fun hl => ?_, fun hl => ?_⟩
    · exact congrArg Host.Outcome.next (if_pos (Bool.and_eq_true_iff.mpr ⟨hm, hs⟩))
    · exact congrArg Host.Outcome.next (State.takeover_standby hm hr hs)
    · exact ⟨_, congrArg Host.Outcome.next (State.takeover_none hm hr hs), s.managersLost_boot, rfl, rfl⟩
    · exact congrArg Host.Outcome.next (State.tap_idcode hm)
    · exact congrArg Host.Outcome.next (State.tap_repairs hm hl hf)
    · exact congrArg Host.Outcome.next (State.tap_repairRefused die c f hl)
    · exact congrArg Host.Outcome.next (State.tap_toManufacturing hm hl)
  case unmanaged =>
    exact fun hm => ⟨congrArg Host.Outcome.next (State.tap_unmanaged op hm),
      congrArg Host.Outcome.next (if_neg (by simp [hm]))⟩
  case standbyLoss => rfl
  case masonIgnored => exact fun h => congrArg Host.Outcome.next (State.masonSilent_ignored h)
  case masonFatal =>
    exact fun hr h0 h9 => ⟨_, congrArg Host.Outcome.next (State.masonSilent_fatal hr h0 h9), rfl⟩

end Sys2Proof.Machine
end

section
/-!
What every command keeps, every step keeps (Laws/KeptExec.lean says it of each command), and the settling of
StepKeepsMemoryCanonical from it.
-/
namespace Sys2Proof.Machine
open Sys2Proof

/-- Every command keeps what is watched: its row's law, arm by arm of the dispatch. -/
theorem exec_kept {w : Watch} (i : Instr) (s : State) (hm : s.Kept w) : ∀ u : State, exec i s = .next u → u.Kept w :=
  match i with
  | .nop t c => execNop_kept t c s hm
  | .fence t c => execFence_kept t c s hm
  | .cskip t c => execCskip_kept t c s hm
  | .marker t c => execMarker_kept t c s hm
  | .stamp t => execStamp_kept t s hm
  | .mm t => execMm_kept t s hm
  | .mmAcc t => execMmAcc_kept t s hm
  | .conv t => execConv_kept t s hm
  | .convAcc t => execConvAcc_kept t s hm
  | .ws8 t => execWs8_kept t s hm
  | .ws8Acc t => execWs8Acc_kept t s hm
  | .ws2 t => execWs2_kept t s hm
  | .ws2Acc t => execWs2Acc_kept t s hm
  | .vew1 t => execVew1_kept t s hm
  | .vew2 t => execVew2_kept t s hm
  | .vfma t => execVfma_kept t s hm
  | .vred t => execVred_kept t s hm
  | .vcvt t => execVcvt_kept t s hm
  | .vzmap t => execVzmap_kept t s hm
  | .moeCount t => execMoeCount_kept t s hm
  | .moeScan t => execMoeScan_kept t s hm
  | .moeSum t => execMoeSum_kept t s hm
  | .mvCopy t => execMvCopy_kept t s hm
  | .mvExpand t => execMvExpand_kept t s hm
  | .mvFill t => execMvFill_kept t s hm
  | .moeDispatch t => execMoeDispatch_kept t s hm
  | .moeGather t => execMoeGather_kept t s hm
  | .rbAdd t => execRbAdd_kept t s hm
  | .rbRead t => execRbRead_kept t s hm
  | .ringDoorbell g count auth => execRingDoorbell_kept g count auth s hm
  | .ringEntryFetch g => execRingEntryFetch_kept g s hm
  | .sequencerSelect t c => execSequencerSelect_kept t c s hm
  | .commandTranslated t c => execCommandTranslated_kept t c s hm
  | .engineTakeCommand t c => execEngineTakeCommand_kept t c s hm
  | .feederFill t col ix => execFeederFill_kept t col ix s hm
  | .arrayStepIssue t => execArrayStepIssue_kept t s hm
  | .weightLoadPass t => execWeightLoadPass_kept t s hm
  | .arrayDrain t => execArrayDrain_kept t s hm
  | .commandComplete t c u => execCommandComplete_kept t c u s hm
  | .remoteAddApply src dst => execRemoteAddApply_kept src dst s hm
  | .remoteAddAck t => execRemoteAddAck_kept t s hm
  | .moverTransactionResponse t tag r => execMoverTransactionResponse_kept t tag r s hm
  | .sramCorrectedWriteback t bank => execSramCorrectedWriteback_kept t bank s hm
  | .remoteAgentRequest t rq e => execRemoteAgentRequest_kept t rq e s hm
  | .sillHbmRequest u rq e => execSillHbmRequest_kept u rq e s hm
  | .caccReceive p => execCaccReceive_kept p s hm
  | .stagedRead t u addr len tag => execStagedRead_kept t u addr len tag s hm
  | .stagingFillComplete q line => execStagingFillComplete_kept q line s hm
  | .stagingInvalidate p v auth => execStagingInvalidate_kept p v auth s hm
  | .cohReq h line cmd age who => execCohReq_kept h line cmd age who s hm
  | .writeback h line who data => execWriteback_kept h line who data s hm
  | .homeNoncohAccess h rq e => execHomeNoncohAccess_kept h rq e s hm
  | .homeAtomic h rq => execHomeAtomic_kept h rq s hm
  | .sliceSnoop sl line k => execSliceSnoop_kept sl line k s hm
  | .sliceSnoopRsp sl line t r => execSliceSnoopRsp_kept sl line t r s hm
  | .cacheSnoop who line k => execCacheSnoop_kept who line k s hm
  | .homeSnoopRsp h line src r => execHomeSnoopRsp_kept h line src r s hm
  | .homeSnoopResend h line dst => execHomeSnoopResend_kept h line dst s hm
  | .cohGrantReceive who line g => execCohGrantReceive_kept who line g s hm
  | .cacheHoldExpiry who line => execCacheHoldExpiry_kept who line s hm
  | .cohNackReceive who line reason => execCohNackReceive_kept who line reason s hm
  | .cohRetry who line => execCohRetry_kept who line s hm
  | .reservationExpiry h r => execReservationExpiry_kept h r s hm
  | .pcieInboundRequest rp rid iova op relaxed ans => execPcieInboundRequest_kept rp rid iova op relaxed ans s hm
  | .pcieWake rp => execPcieWake_kept rp s hm
  | .mxZero c rd rs1 rs2 => execMxZero_kept c rd rs1 rs2 s hm
  | .mxOpa c rd rs1 rs2 => execMxOpa_kept c rd rs1 rs2 s hm
  | .mxOpn c rd rs1 rs2 => execMxOpn_kept c rd rs1 rs2 s hm
  | .mxLd c rd rs1 rs2 => execMxLd_kept c rd rs1 rs2 s hm
  | .mxSt c rd rs1 rs2 => execMxSt_kept c rd rs1 rs2 s hm
  | .mxStb c rd rs1 rs2 => execMxStb_kept c rd rs1 rs2 s hm
  | .mxMvr c rd rs1 rs2 => execMxMvr_kept c rd rs1 rs2 s hm
  | .sbiSystemReset c type => execSbiSystemReset_kept c type s hm
  | .tvplumbWrite c v mode => execTvplumbWrite_kept c v mode s hm
  | .plumbTurnEnd h g why => execPlumbTurnEnd_kept h g why s hm
  | .hostWarmReset => execHostWarmReset_kept s hm
  | .hostCoreRelease => execHostCoreRelease_kept s hm
  | .cNop n ix => execCNop_kept n ix s hm
  | .cWrite n ix => execCWrite_kept n ix s hm
  | .cAcc n ix => execCAcc_kept n ix s hm
  | .cPut n ix => execCPut_kept n ix s hm
  | .cBcast n ix => execCBcast_kept n ix s hm
  | .cAllreduce n ix => execCAllreduce_kept n ix s hm
  | .cRscatter n ix => execCRscatter_kept n ix s hm
  | .cVote n ix => execCVote_kept n ix s hm
  | .cAbort n ix => execCAbort_kept n ix s hm
  | .collectivePhaseAdvance n ix => execCollectivePhaseAdvance_kept n ix s hm
  | .courseCommandComplete n ix => execCourseCommandComplete_kept n ix s hm
  | .courseDataReceive n f => execCourseDataReceive_kept n f s hm
  | .courseFrameApplied k seq => execCourseFrameApplied_kept k seq s hm
  | .courseAckReceive n f => execCourseAckReceive_kept n f s hm
  | .courseAckTimer k => execCourseAckTimer_kept k s hm
  | .courseRetxTimer k seq => execCourseRetxTimer_kept k seq s hm
  | .coursePathSkipExpiry k path => execCoursePathSkipExpiry_kept k path s hm
  | .courseConnFailTimer k seq => execCourseConnFailTimer_kept k seq s hm
  | .voteFrameReceive n f => execVoteFrameReceive_kept n f s hm
  | .voteTimeout p u => execVoteTimeout_kept p u s hm
  | .courseAbortReceive n f => execCourseAbortReceive_kept n f s hm
  | .abortResend p u => execAbortResend_kept p u s hm
  | .courseLinkDown n => execCourseLinkDown_kept n s hm
  | .courseLinkHoldExpiry n => execCourseLinkHoldExpiry_kept n s hm
  | .coursePortRetrain n v auth => execCoursePortRetrain_kept n v auth s hm
  | .ethFrameReceive n f => execEthFrameReceive_kept n f s hm
  | .ethFrameTransmit n q => execEthFrameTransmit_kept n q s hm
  | .hNop h ix => execHNop_kept h ix s hm
  | .hGather h ix => execHGather_kept h ix s hm
  | .hMerge h ix => execHMerge_kept h ix s hm
  | .hUpdate h ix => execHUpdate_kept h ix s hm
  | .hodCommandComplete h ix => execHodCommandComplete_kept h ix s hm
  | .iNop n ix => execINop_kept n ix s hm
  | .iImage n ix => execIImage_kept n ix s hm
  | .iVideo n ix => execIVideo_kept n ix s hm
  | .iAlign n ix => execIAlign_kept n ix s hm
  | .iShuffle n ix => execIShuffle_kept n ix s hm
  | .intakeCommandComplete n ix => execIntakeCommandComplete_kept n ix s hm
  | .mailboxEntryFetch p ix => execMailboxEntryFetch_kept p ix s hm
  | .mgmtDatagramReceive d => execMgmtDatagramReceive_kept d s hm
  | .i3cPrivateWrite bytes => execI3cPrivateWrite_kept bytes s hm
  | .i3cPrivateRead => execI3cPrivateRead_kept s hm
  | .sessionIdleExpiry ip port => execSessionIdleExpiry_kept ip port s hm
  | .reassemblyExpiry ip ident => execReassemblyExpiry_kept ip ident s hm
  | .idQuery q => execIdQuery_kept q s hm
  | .setModuleId q => execSetModuleId_kept q s hm
  | .statusQuery q => execStatusQuery_kept q s hm
  | .telemetry q => execTelemetry_kept q s hm
  | .setPowerLimit q => execSetPowerLimit_kept q s hm
  | .setFabric q => execSetFabric_kept q s hm
  | .hostReset q => execHostReset_kept q s hm
  | .moduleReset q => execModuleReset_kept q s hm
  | .lifecycleTransition q => execLifecycleTransition_kept q s hm
  | .lifecycleStageImage q => execLifecycleStageImage_kept q s hm
  | .lifecycleActivateImage q => execLifecycleActivateImage_kept q s hm
  | .lifecycleRecoveryBlock q => execLifecycleRecoveryBlock_kept q s hm
  | .lifecycleRecoveryCommit q => execLifecycleRecoveryCommit_kept q s hm
  | .imageStageDone ok => execImageStageDone_kept ok s hm
  | .panelCreate q => execPanelCreate_kept q s hm
  | .panelDestroy q => execPanelDestroy_kept q s hm
  | .panelReset q => execPanelReset_kept q s hm
  | .panelResetComplete p => execPanelResetComplete_kept p s hm
  | .grant q => execGrant_kept q s hm
  | .grantRevoke q => execGrantRevoke_kept q s hm
  | .keepDefine q => execKeepDefine_kept q s hm
  | .keepRelease q => execKeepRelease_kept q s hm
  | .keepAssign q => execKeepAssign_kept q s hm
  | .keepUnassign q => execKeepUnassign_kept q s hm
  | .poolMap q => execPoolMap_kept q s hm
  | .poolUnmap q => execPoolUnmap_kept q s hm
  | .staging q => execStaging_kept q s hm
  | .ringConfig q => execRingConfig_kept q s hm
  | .segment q => execSegment_kept q s hm
  | .segmentRead q => execSegmentRead_kept q s hm
  | .segmentUpdateComplete p u e => execSegmentUpdateComplete_kept p u e s hm
  | .window q => execWindow_kept q s hm
  | .windowRead q => execWindowRead_kept q s hm
  | .rtableWrite q => execRtableWrite_kept q s hm
  | .rtableRead q => execRtableRead_kept q s hm
  | .rtableArm q => execRtableArm_kept q s hm
  | .coursePort q => execCoursePort_kept q s hm
  | .mgmtNet q => execMgmtNet_kept q s hm
  | .jobStart q => execJobStart_kept q s hm
  | .jobEnd q => execJobEnd_kept q s hm
  | .inject q => execInject_kept q s hm
  | .injectDisarm q => execInjectDisarm_kept q s hm
  | .jobSlotIdle p u => execJobSlotIdle_kept p u s hm
  | .jobWatchdogExpiry p u => execJobWatchdogExpiry_kept p u s hm
  | .transactionTimeout a tag => execTransactionTimeout_kept a tag s hm
  | .t3AccessTimeout a tag => execT3AccessTimeout_kept a tag s hm
  | .hostWatchdogExpiry h => execHostWatchdogExpiry_kept h s hm
  | .hwdogPeriodWrite h v auth => execHwdogPeriodWrite_kept h v auth s hm
  | .hwdogKick h v auth => execHwdogKick_kept h v auth s hm
  | .tileSyncWrite t u c v auth => execTileSyncWrite_kept t u c v auth s hm
  | .tileSlotPauseWrite t v auth => execTileSlotPauseWrite_kept t v auth s hm
  | .panelSuspendWrite p v auth => execPanelSuspendWrite_kept p v auth s hm
  | .linkRetrainRequest d e ix v auth => execLinkRetrainRequest_kept d e ix v auth s hm
  | .icrRingConfigWrite p ix r v auth => execIcrRingConfigWrite_kept p ix r v auth s hm
  | .modEvtCfgWrite v auth => execModEvtCfgWrite_kept v auth s hm
  | .eventLogDoorbell g count auth => execEventLogDoorbell_kept g count auth s hm
  | .halt v auth => execHalt_kept v auth s hm
  | .haltRelease v auth => execHaltRelease_kept v auth s hm
  | .thaw v auth => execThaw_kept v auth s hm
  | .skimLive v auth => execSkimLive_kept v auth s hm
  | .skimHalted v auth => execSkimHalted_kept v auth s hm
  | .traceMark p v auth => execTraceMark_kept p v auth s hm
  | .timeSetWrite v auth => execTimeSetWrite_kept v auth s hm
  | .timeSetExpiry => execTimeSetExpiry_kept s hm
  | .registerReadClear addr wide auth => execRegisterReadClear_kept addr wide auth s hm
  | .registerWrite addr wide v auth => execRegisterWrite_kept addr wide v auth s hm
  | .linkFlitReceive l field content => execLinkFlitReceive_kept l field content s hm
  | .linkReplayTimeout l => execLinkReplayTimeout_kept l s hm
  | .linkRetrain l badLanes => execLinkRetrain_kept l badLanes s hm
  | .linkRetrainComplete l => execLinkRetrainComplete_kept l s hm
  | .spareLaneTest l err => execSpareLaneTest_kept l err s hm
  | .failedLinkLaneTest l badLanes => execFailedLinkLaneTest_kept l badLanes s hm
  | .powerManagerTick inputW rails estimate => execPowerManagerTick_kept inputW rails estimate s hm
  | .droopDetect t mv => execDroopDetect_kept t mv s hm
  | .tileTempSample t quarterC => execTileTempSample_kept t quarterC s hm
  | .hbmTempSample u degC => execHbmTempSample_kept u degC s hm
  | .lpddrPatrolScrub h pkg addr e passDone => execLpddrPatrolScrub_kept h pkg addr e passDone s hm
  | .arrayPatternTest t pass => execArrayPatternTest_kept t pass s hm
  | .suspicionExpiry t => execSuspicionExpiry_kept t s hm
  | .wipeComplete id => execWipeComplete_kept id s hm
  | .standbyPowerOn sill0Ok => execStandbyPowerOn_kept sill0Ok s hm
  | .standbyPowerLoss => execStandbyPowerLoss_kept s hm
  | .mainPowerValid => execMainPowerValid_kept s hm
  | .mainPowerLoss overV => execMainPowerLoss_kept overV s hm
  | .mainStart => execMainStart_kept s hm
  | .bootPhaseComplete ph => execBootPhaseComplete_kept ph s hm
  | .rstNAssert usec => execRstNAssert_kept usec s hm
  | .rstNRelease => execRstNRelease_kept s hm
  | .moduleResetBegin => execModuleResetBegin_kept s hm
  | .refclkValid => execRefclkValid_kept s hm
  | .refclkLoss => execRefclkLoss_kept s hm
  | .refclkLossTimeout => execRefclkLossTimeout_kept s hm
  | .refclkReturn => execRefclkReturn_kept s hm
  | .ppsEdge at_ => execPpsEdge_kept at_ s hm
  | .ppsLockLoss => execPpsLockLoss_kept s hm
  | .managerHeartbeat => execManagerHeartbeat_kept s hm
  | .managerHeartbeatTimeout standbyOk => execManagerHeartbeatTimeout_kept standbyOk s hm
  | .masonCoreTimeout d => execMasonCoreTimeout_kept d s hm
  | .courseLinkUp n half => execCourseLinkUp_kept n half s hm
  | .waitWordPoll g => execWaitWordPoll_kept g s hm
  | .droopRecovery t => execDroopRecovery_kept t s hm
  | .writebackAckReceive who line => execWritebackAckReceive_kept who line s hm
  | .homeMemoryReadDone h line => execHomeMemoryReadDone_kept h line s hm
  | .pciePresenceChange rp present => execPciePresenceChange_kept rp present s hm
  | .i3cDynamicAddressAssign addr => execI3cDynamicAddressAssign_kept addr s hm
  | .dhcpLeaseTimer ans => execDhcpLeaseTimer_kept ans s hm
  | .resumeCheckTimeout p u => execResumeCheckTimeout_kept p u s hm
  | .hodAccessResponse h write r => execHodAccessResponse_kept h write r s hm
  | .intakeAccessResponse n write r => execIntakeAccessResponse_kept n write r s hm
  | .skimComplete => execSkimComplete_kept s hm
  | .testAccessPortOperation op => execTestAccessPortOperation_kept op s hm
  | .standbyManagerLoss => execStandbyManagerLoss_kept s hm
  | .dieTempSample sill unit quarterC => execDieTempSample_kept sill unit quarterC s hm

/-- A step takes the front command off the queue and keeps what is watched; an idle step moves the time alone. -/
theorem step_kept {w : Watch} (s : State) (hm : State.Kept w { s with pending := s.pending.tail }) (u : State)
    (hu : step s = .next u) : u.Kept w := by
  unfold step at hu
  split at hu
  next hp =>
    cases hu
    rw [hp] at hm
    simpa [State.Kept, hp] using hm
  next c rest hp =>
    rw [hp] at hm
    exact exec_kept c _ hm u hu

/-- Watches the canonical form of memory alone, with `q` the queue that is left. -/
def Watch.memory (q : List Instr) : Watch := ⟨q, 0, 0, True, False, False, False⟩

theorem State.kept_memory {q : List Instr} {s : State} :
    s.Kept (.memory q) ↔ Memory.wf s.mem = true ∧ s.pending = q := by
  simp [State.Kept, Watched, Watch.memory]

/-- Settles O5: every step keeps what is watched, the canonical form of memory with it. -/
theorem stepKeepsMemoryCanonical : Obligations.StepKeepsMemoryCanonical := by
  unfold Obligations.StepKeepsMemoryCanonical
  intro s u hs hu
  exact (State.kept_memory.mp (step_kept s (State.kept_memory.mpr ⟨hs, rfl⟩) u hu)).1

end Sys2Proof.Machine
end

section
/-!
The staging windows of tier 4 (09 R304 to R309): a read served or made to wait, the end of a fill, an invalidation, and the
settling of StagingServesFillsAndInvalidates from these.
-/
namespace Sys2Proof.Machine
open Sys2Proof

/-! ### The window of one half -/

@[simp] theorem State.modStage_window (s : State) (p q : Nat) (f : StageWin → StageWin) :
    ((s.modStage p q f).panel p).stage.get {} q = f ((s.panel p).stage.get {} q) := by
  simp [State.modStage, State.modPanel_eq]

theorem State.modStage_only (s : State) (p q : Nat) (f : StageWin → StageWin) : s.onlyPanel (s.modStage p q f) p :=
  ⟨rfl, fun _ hv => State.panel_setPanel_ne _ _ _ _ hv⟩

theorem StageWin.has_empty (wl n : Nat) : ({} : StageWin).has wl n = false := by
  simp [StageWin.has]

theorem StageWin.startFills_idle {w : StageWin} (hq : w.queue = []) (n : Nat) : w.startFills n = w := by
  cases n <;> simp [StageWin.startFills, hq]

/-- Into an empty window a read brings the demand fill of its line, which starts at once (R307, R308). -/
theorem StageWin.demand_empty (wl n : Nat) (rd : StagedWait) :
    (((({} : StageWin).demand n).prefetch wl n 0).wait rd).startFills 16 = { waits := [rd], fills := [⟨n, false, false⟩] } := by
  simp [StageWin.demand, StageWin.prefetch, StageWin.wait, StageWin.startFills]

/-! ### A staged read (R306, R307) -/

/-- A staged read whose transaction awaits it, and which does not wait already, is judged at its window. -/
theorem State.stagedRead_arrives {s : State} {t : Tile} {j ad n tag p : Nat} {x : Txn} (hp : s.tilePanel t = some p)
    (hx : (s.tile t).txns.find? (fun y => decide (y.tag = tag)) = some x) (hs : x.staged = true) (hw : x.waiting = true)
    (hj : x.slot = j) (hl : 0 < (s.panel p).wl) (h1 : ⟨t, j, ad, n, tag⟩ ∉ ((s.panel p).stage.get {} (tileSpan t)).waits)
    (h2 : ⟨t, j, ad, n, tag⟩ ∉ ((s.panel p).stage.get {} (tileSpan t)).class_) :
    s.stagedRead t j ad n tag = s.stagedArrive p (tileSpan t) ⟨t, j, ad, n, tag⟩ := by
  simp [State.stagedRead, hp, hx, hs, hw, hj, Nat.pos_iff_ne_zero.mp hl, h1, h2]

/-- Without prefetch, a read that reaches an empty window waits alone on the fill of its line. -/
theorem State.stagedArrive_empty {s : State} {p q : Nat} {rd : StagedWait} (hw : (s.panel p).stage.get {} q = {})
    (hf : (s.panel p).pf = 0) : s.stagedArrive p q rd =
      s.modStage p q (fun _ => { waits := [rd], fills := [⟨rd.addr / 65536, false, false⟩] }) := by
  have hhas (wl n : Nat) : ((s.panel p).stage.get {} q).has wl n = false := by rw [hw, StageWin.has_empty]
  have hmod (f : StageWin → StageWin) : s.modStage p q f = s.modStage p q (fun _ => f {}) := by rw [← hw]; rfl
  rw [State.stagedArrive, hhas, hmod, hf, StageWin.demand_empty]
  rfl

/-- A read that memory answers OK hands its bytes to its transaction. -/
theorem State.serveStaged_ok {s : State} {q wl : Nat} {x : StagedWait} (hi : s.noInjection)
    (hr : s.readResp (s.stageBase q wl + x.addr / 65536 % wl * 65536 + x.addr % 65536) x.len = .ok) :
    s.serveStaged q wl x = s.setTile x.tile { s.tile x.tile with
      txns := (s.tile x.tile).txns.map (fun y => if y.tag = x.tag then
        { y with waiting := false, bad := .ok
                 data := s.readBytes x.len (s.stageBase q wl + x.addr / 65536 % wl * 65536 + x.addr % 65536) } else y) } := by
  simp [State.serveStaged, lineSize, State.fireRead_noInjection hi, hr, State.modTile_eq]

/-! ### The end of a fill (R308) -/

theorem State.length_readBytes (s : State) (n a : Nat) : (s.readBytes n a).length = n := by simp [State.readBytes]

/-- With no cache holding a line, taking lines changes the home agents' directories alone. -/
theorem State.takeLines_unheld {s : State} (inv : Bool) (hh : ∀ l, s.holders l = []) (ls : List Nat) :
    ∃ h, s.takeLines inv ls = { s with homes := h } := by
  induction ls generalizing s with
  | nil => exact ⟨s.homes, rfl⟩
  | cons l ls ih =>
    have one : ∃ h, s.takeLines inv [l] = { s with homes := h } := by
      simp only [State.takeLines, List.foldl_cons, List.foldl_nil, hh l]
      split
      · exact ⟨s.homes, rfl⟩
      · exact ⟨_, rfl⟩
    obtain ⟨h, he⟩ := one
    obtain ⟨g, hg⟩ := ih (s := { s with homes := h }) hh
    exact ⟨g, (congrArg (State.takeLines · inv ls) he).trans hg⟩

/-- With no cache holding a line, a coherent read answers memory's bytes. -/
theorem State.cohRead_unheld {s : State} (hh : ∀ l, s.holders l = []) (n a : Nat) :
    ∃ h, s.cohRead n a = (s.readBytes n a, { s with homes := h }) := by
  unfold State.cohRead
  split
  · obtain ⟨h, he⟩ := State.takeLines_unheld false hh (linesOf a n)
    exact ⟨h, by rw [he]; rfl⟩
  · exact ⟨s.homes, rfl⟩

/-- A sound line is copied as it stands: directories apart, the fill writes the line's bytes into its set. -/
theorem State.fillLine_sound {s : State} {n : Nat} (q wl : Nat) (hh : ∀ l, s.holders l = [])
    (hp : ∀ i, s.poisoned (n * 65536 + 32 * i) 32 = false) :
    ∃ h, s.fillLine q wl n = State.writeBytes { s with homes := h } (s.stageBase q wl + n % wl * 65536)
      (s.readBytes 65536 (n * 65536)) := by
  obtain ⟨h, hread⟩ := State.cohRead_unheld hh lineSize (n * lineSize)
  have hclean : (List.range (lineSize / 32)).filter
      (fun i => State.poisoned { s with homes := h } (n * lineSize + 32 * i) 32) = [] :=
    List.filter_eq_nil_iff.mpr fun i _ => Bool.eq_false_iff.mp (hp i)
  refine ⟨h, ?_⟩
  unfold State.fillLine
  dsimp only
  rw [hread]
  dsimp only
  rw [hclean]
  rfl

/-- The window's only fill ends, with no read and no other fill waiting: its set holds the line. -/
theorem State.fillDone_only {s : State} {q n p : Nat} {f : Fill} {w : StageWin} (hq : s.spanPanel q = some p)
    (hs : (s.panel p).stage.get {} q = w) (hw : w = { w with fills := [f], queue := [], waits := [], class_ := [] })
    (hf : f.line = n) (hv : (s.fillLine q (s.panel p).wl n).panel p = s.panel p) :
    s.fillDone q n = (s.fillLine q (s.panel p).wl n).modStage p q (fun _ =>
      { w with held := w.held.set none (n % (s.panel p).wl) (some (n, f.stale)), fills := [] }) := by
  have hfills : w.fills = [f] := congrArg StageWin.fills hw
  have hqueue : w.queue = [] := congrArg StageWin.queue hw
  have hwaits : w.waits = [] := congrArg StageWin.waits hw
  have hclass : w.class_ = [] := congrArg StageWin.class_ hw
  simp [State.fillDone, hq, hv, hs, hfills, hqueue, hwaits, hclass, hf, StageWin.startFills_idle]

/-- Bytes written, directories changed and a window replaced: what each read sees. -/
theorem State.writeBytes_modStage (s : State) (h : Table Home) (a : Nat) (bs : List Byte) (p q : Nat) (w : StageWin) :
    let u := (State.writeBytes { s with homes := h } a bs).modStage p q (fun _ => w)
    u.readBytes bs.length a = bs ∧ s.bytesOutside u a bs.length ∧ u.rings = s.rings ∧ u.tiles = s.tiles ∧
      (u.panel p).stage.get {} q = w :=
  ⟨State.readBytes_writeBytes { s with homes := h } a bs, State.writeBytes_outside { s with homes := h } a bs, rfl, rfl,
    State.modStage_window ..⟩

/-! ### STAGING_INVALIDATE (R309) -/

/-- A window after its invalidation: each line held and each fill in progress is stale. -/
def StageWin.invalidate (w : StageWin) : StageWin :=
  { w with
    held := w.held.update none (fun _ h => h.map (fun x => (x.1, true)))
    fills := w.fills.map (fun f => { f with stale := true }) }

theorem Panel.invalidateStaging_window (x : Panel) (k : Nat) :
    x.invalidateStaging.stage.get {} k = (x.stage.get {} k).invalidate :=
  Table.get_update x.stage {} (fun _ w => w.invalidate) (fun _ => rfl) k

theorem StageWin.invalidate_has (w : StageWin) (wl n : Nat) : w.invalidate.has wl n = false := by
  have hget := Table.get_update w.held none (fun _ h => h.map (fun x => (x.1, true))) (fun _ => rfl) (n % wl)
  simp [StageWin.has, StageWin.invalidate, hget]

theorem State.stageInvalidate_owner (s : State) (p v : Nat) :
    s.stageInvalidate p v .owner = if bit v 0 then s.setPanel p (s.panel p).invalidateStaging else s := rfl

theorem bit_toNat {n : Nat} (v : BitVec n) (i : Nat) : bit v.toNat i = v.getLsbD i := by
  rw [BitVec.getLsbD, Nat.testBit_eq_decide_div_mod_eq]
  rfl

/-! ### Settling -/

/-- Settles O33: a read by what its window holds, the end of the only fill by the copy of its line, an invalidation window
by window. -/
theorem stagingServesFillsAndInvalidates : Obligations.StagingServesFillsAndInvalidates := by
  unfold Obligations.StagingServesFillsAndInvalidates
  refine ⟨?read, ?window⟩
  case read =>
    intro s t j ad n tag p x q wl w line rd hp hx hs hw hj hl h1 h2 hi a bs
    have harrive : s.stagedRead t j ad n tag.toNat = s.stagedArrive p q rd := State.stagedRead_arrives hp hx hs hw hj hl h1 h2
    refine ⟨fun hhas hr => congrArg Host.Outcome.next ?_, fun hempty hpf => ?_⟩
    · rw [harrive, State.stagedArrive]
      exact (if_pos hhas).trans (State.serveStaged_ok hi hr)
    · obtain ⟨hpanels, hother⟩ := s.modStage_only p q (fun _ => { waits := [rd], fills := [⟨line, false, false⟩] })
      refine ⟨_, congrArg Host.Outcome.next (harrive.trans (State.stagedArrive_empty hempty hpf)), hpanels, hother, ?_⟩
      rw [State.modStage_window, hempty]
  case window =>
    intro s q n p f wl w src dst
    refine ⟨?fill, ?invalidate, ?keep⟩
    case fill =>
      intro hq hw hf hh hp
      obtain ⟨h, hline⟩ := State.fillLine_sound q wl hh hp
      have hdone : s.fillDone q n = (s.fillLine q wl n).modStage p q (fun _ =>
          { w with held := w.held.set none (n % wl) (some (n, f.stale)), fills := [] }) :=
        State.fillDone_only hq rfl hw hf ((congrArg (State.panel · p) hline).trans (State.writeBytes_panelR ..))
      have hcopy := s.writeBytes_modStage h dst (s.readBytes 65536 src) p q
        { w with held := w.held.set none (n % wl) (some (n, f.stale)), fills := [] }
      rw [State.length_readBytes] at hcopy
      rw [hline] at hdone
      exact ⟨_, congrArg Host.Outcome.next hdone, hcopy⟩
    case invalidate =>
      intro v P hv
      have hset : s.stageInvalidate P v.toNat .owner = s.setPanel P (s.panel P).invalidateStaging :=
        (State.stageInvalidate_owner s P v.toNat).trans (if_pos (by rw [bit_toNat, hv]))
      refine ⟨_, congrArg Host.Outcome.next hset, ⟨rfl, fun _ hne => State.panel_setPanel_ne _ _ _ _ hne⟩, fun k => ?_⟩
      rw [State.panel_setPanel, Panel.invalidateStaging_window]
      exact ⟨fun m => StageWin.invalidate_has _ _ m, by simp [StageWin.invalidate], by simp [StageWin.invalidate], rfl, rfl⟩
    case keep =>
      intro v P hv
      exact congrArg Host.Outcome.next ((State.stageInvalidate_owner s P v.toNat).trans (if_neg (by rw [bit_toNat, hv]; decide)))

end Sys2Proof.Machine
end

section
/-!
The end of a wipe and of a panel's reset (09 R322, R323; 15 R515 to R517, Tables 15.9, 15.10), and the settling of
WipesAndPanelResetsEnd from these.
-/
namespace Sys2Proof.Machine
open Sys2Proof

/-! ### WIPE_COMPLETE (R323) -/

theorem Table.get_keep {α} (t : Table α) (d : α) (p : Nat → Bool) (k : Nat) :
    Table.get (t.keep (fun j _ => p j)) d k = if p k then Table.get t d k else d := by
  induction t with
  | nil => simp [Table.keep]
  | cons x r ih =>
    obtain ⟨j, v⟩ := x
    have hstep : Table.keep ((j, v) :: r) (fun j _ => p j) =
        if p j then (j, v) :: Table.keep r (fun j _ => p j) else Table.keep r (fun j _ => p j) := List.filter_cons
    rw [hstep]
    by_cases h : j = k
    · subst h
      cases hj : p j <;> simp [Table.get, ih, hj]
    · cases p j <;> simp [Table.get, ih, h]

/-- A wiped byte reads 0; any other reads as before. -/
theorem State.readByte_wipeRange (s : State) (a n c : Nat) :
    (s.wipeRange a n).readByte c = if a ≤ c ∧ c < a + n then 0 else s.readByte c := by
  refine (Table.get_keep s.mem 0 (fun k => !decide (a ≤ k ∧ k < a + n)) c).trans ?_
  by_cases h : a ≤ c ∧ c < a + n <;> simp [h, State.readByte]

theorem State.release_none {s : State} (w : Wait) (rp : State → IcralReq → List Byte) (h : s.mgmt.accepted = []) :
    s.release w rp = s := by
  simp [State.release, h]

/-- A wipe of one range, of no keep region, with no packet waiting: its zeros stand and its number is gone. -/
theorem State.wipeDone_single {s : State} {id b n : Nat} {w : Wipe}
    (hf : s.wipes.find? (fun w => decide (w.id = id)) = some w) (hr : w.ranges = [(b, n)]) (hk : w.keep = none)
    (ha : s.mgmt.accepted = []) :
    s.wipeDone id = State.wipeRange { s with wipes := s.wipes.filter (fun x => decide (x.id ≠ id)) } b n := by
  rw [State.wipeDone, hf]
  simp only [hr, hk, List.foldl_cons, List.foldl_nil]
  exact State.release_none _ _ ha

/-! ### PANEL_RESET_COMPLETE (Table 15.9, steps 6 and 7) -/

/-- In a panel reset every tile of the panel takes the reset values of the panel's domain, and no other changes. -/
theorem State.tile_panelRegs (s : State) (p t : Nat) :
    (s.panelRegs p).tile t = if (s.panel p).holdsTile t then (s.tile t).panelReset else s.tile t :=
  Table.get_update s.tiles {} (fun t y => if (s.panel p).holdsTile t then y.panelReset else y) (fun t => by split <;> rfl) t

/-- The panel's own registers and tables after a panel reset. -/
theorem State.panel_panelRegs (s : State) (p : Nat) : (s.panelRegs p).panel p = { s.panel p with
    susp := 0, iso := 0, jend := 0, segs := [], wins := [], rtab := [], stage := [], trcCtl := 0, stale := 0, gendis := 0
    tdrop := 0, edrop := 0, jobs := (s.panel p).jobs.update {} (fun _ b => { ({} : Job) with gen := b.gen }) } :=
  State.panel_setPanel ..

/-- A reset whose wipe and pattern tests have ended, with no tile to retire and not of a panel being destroyed. -/
theorem State.panelResetDone_serves {s : State} {p : Nat} (h1 : (s.panel p).state = 1) (hw : (s.panel p).wiped = true)
    (hz : s.wipes.any (fun w => decide (w.panel = some p)) = false)
    (ht : s.tiles.any (fun t => (s.panel p).holdsTile t.1 && t.2.patternDue && !t.2.retire) = false)
    (hr : s.tiles.filter (fun t => (s.panel p).holdsTile t.1 && t.2.retire) = []) (ha : (s.panel p).after ≠ 2) :
    let v := s.panelRegs p
    let c := v.outOfService p
    let y : Panel := { v.panel p with state := if c = 0 then 2 else 3, oosc := c, wiped := false, after := 0 }
    s.panelResetDone p = (State.emit (v.setPanel p y) { cls := 0x20, cause := 10, unit := .manager, detail := p }).release
      (.panel p) noParams := by
  simp [State.panelResetDone, h1, hw, hz, ht, hr, ha, State.modPanel_eq]

/-! ### Settling -/

/-- Settles O52: a wipe by what its range then reads, a panel's reset by the registers it leaves. -/
theorem wipesAndPanelResetsEnd : Obligations.WipesAndPanelResetsEnd := by
  unfold Obligations.WipesAndPanelResetsEnd
  intro s id p
  refine ⟨?wipe, ?reset⟩
  case wipe =>
    intro w b n hf hr hk ha
    have hdone := State.wipeDone_single hf hr hk ha
    refine ⟨_, congrArg Host.Outcome.next hdone, fun c hb hn => ?_, fun c hc => ?_, fun z hz => ?_, rfl, rfl⟩
    · rw [State.readByte_wipeRange, if_pos ⟨hb, hn⟩]
    · rw [State.readByte_wipeRange, if_neg (by omega)]
      rfl
    · exact of_decide_eq_true (List.mem_filter.mp hz).2
  case reset =>
    intro x h1 hw hz ht hr ha v c y e
    have hdone := State.panelResetDone_serves h1 hw hz ht hr ha
    have hpanel := s.panel_panelRegs p
    refine ⟨congrArg Host.Outcome.next hdone, congrArg Panel.segs hpanel, congrArg Panel.wins hpanel, congrArg Panel.rtab hpanel,
      congrArg Panel.susp hpanel, fun t hx => ?_, fun t hx => ?_, rfl⟩
    · have htile : v.tile t = (s.tile t).panelReset := (s.tile_panelRegs p t).trans (if_pos hx)
      rw [htile]
      exact ⟨rfl, rfl, rfl⟩
    · exact (s.tile_panelRegs p t).trans (if_neg (by rw [hx]; decide))

end Sys2Proof.Machine
end

section
/-!
Atomics (10 R354, Table 10.5): the ten operations as operations on bit vectors of the operand's width, and the settling of
AtomicsComputeTheirTable from them.
-/
namespace Sys2Proof.Machine
open Sys2Proof

/-- The two's complement reading of a code is that of its bit vector. -/
theorem signed_toNat {n : Nat} (hn : 0 < n) (v : BitVec n) : signed n v.toNat = v.toInt := by
  obtain ⟨m, rfl⟩ : ∃ m, n = m + 1 := ⟨n - 1, by omega⟩
  have hpow : 2 ^ (m + 1) = 2 * 2 ^ m := by rw [Nat.pow_succ, Nat.mul_comm]
  have hsign : v.toNat < 2 ^ m ↔ 2 * v.toNat < 2 ^ (m + 1) := by omega
  simp [signed, Nat.mod_eq_of_lt v.isLt, BitVec.toInt_eq_toNat_cond, hsign]

/-- Table 10.5's new value from the old value, the operand and the comparand. -/
def atomicWord {n : Nat} (op : AtomicOp) (o v c : BitVec n) : BitVec n :=
  match op with
  | .add => o + v
  | .swap => v
  | .cas => if o = c then v else o
  | .and => o &&& v
  | .or => o ||| v
  | .xor => o ^^^ v
  | .min => if o.toInt < v.toInt then o else v
  | .max => if v.toInt < o.toInt then o else v
  | .minu => if o < v then o else v
  | .maxu => if v < o then o else v

/-- Operands of the width are their own low bits, so each operation acts on them as they are. -/
theorem atomicNew_toNat {wide : Bool} {n : Nat} (hn : n = if wide then 64 else 32) (o v c : BitVec n) (op : AtomicOp) :
    atomicNew op wide o.toNat v.toNat c.toNat = (atomicWord op o v c).toNat := by
  have hpos : 0 < n := by rw [hn]; split <;> decide
  simp only [atomicNew, ← hn, Nat.mod_eq_of_lt (BitVec.isLt _), signed_toNat hpos]
  cases op
  case add => exact (BitVec.toNat_add o v).symm
  case swap => rfl
  case cas => simp only [atomicWord, ← BitVec.toNat_inj, apply_ite BitVec.toNat]
  case and => exact (BitVec.toNat_and ..).symm
  case or => exact (BitVec.toNat_or ..).symm
  case xor => exact (BitVec.toNat_xor ..).symm
  case min => exact (apply_ite BitVec.toNat _ o v).symm
  case max => exact (apply_ite BitVec.toNat _ o v).symm
  case minu => simp only [atomicWord, apply_ite BitVec.toNat, BitVec.lt_def]; split <;> omega
  case maxu => simp only [atomicWord, apply_ite BitVec.toNat, BitVec.lt_def]; split <;> omega

/-- Settles O30: both widths by one table. -/
theorem atomicsComputeTheirTable : Obligations.AtomicsComputeTheirTable := by
  unfold Obligations.AtomicsComputeTheirTable
  constructor
  case left =>
    intro o v c f
    have h := atomicNew_toNat (wide := true) rfl o v c
    exact ⟨h .add, h .swap, h .cas, h .and, h .or, h .xor, h .min, h .max, h .minu, h .maxu⟩
  case right =>
    intro o v c f
    have h := atomicNew_toNat (wide := false) rfl o v c
    exact ⟨h .add, h .swap, h .cas, h .and, h .or, h .xor, h .min, h .max, h .minu, h .maxu⟩

end Sys2Proof.Machine
end

section
/-!
The caches' side of coherence (10 R342, R348 to R351): what each message changes at the cache it reaches, and the settling of
CachesActOnWhatReachesThem from it.
-/
namespace Sys2Proof.Machine
open Sys2Proof

/-! ### Grants, NACKs and acknowledgements -/

/-- Nothing stops a cache of a running module. -/
theorem State.cacheStopped_running {s : State} (hh : s.halted = false) (w : Holder) : s.cacheStopped w = false := by
  cases w
  case tile => exact State.not_frozen hh
  case host => rfl

theorem State.grantReceive_sent {s : State} {w : Holder} {l : Nat} {g : Grant} (hh : s.halted = false)
    (hg : (w, l, g) ∈ s.grants) : s.grantReceive w l g =
      { (s.setCacheLine w l ((s.cacheLine w l).install g (s.poisoned (64 * l) 64))) with grants := s.grants.erase (w, l, g) } := by
  have hc : s.grants.contains (w, l, g) = true := List.contains_iff_mem.mpr hg
  simp only [State.grantReceive, State.cacheStopped_running hh, hc, Bool.not_true, Bool.or_self, Bool.false_eq_true, if_false]
  cases w <;> rfl

theorem State.nackReceive_sent {s : State} {w : Holder} {l r : Nat} (hh : s.halted = false) (hn : (w, l, r) ∈ s.nacks) :
    s.nackReceive w l r =
      { (s.setCacheLine w l { s.cacheLine w l with nacked := true }) with nacks := s.nacks.erase (w, l, r) } := by
  have hc : s.nacks.contains (w, l, r) = true := List.contains_iff_mem.mpr hn
  simp only [State.nackReceive, State.cacheStopped_running hh, hc, Bool.not_true, Bool.or_self, Bool.false_eq_true, if_false]
  cases w <;> rfl

/-- The acknowledgement of a line that the cache still holds leaves its data. -/
theorem State.wbAck_held {s : State} {w : Holder} {l : Nat} (hh : s.halted = false) (ha : (w, l) ∈ s.wbAcks)
    (hx : (s.cacheLine w l).st ≠ .I) : s.wbAck w l =
      { (s.setCacheLine w l { s.cacheLine w l with wb := false }) with wbAcks := s.wbAcks.erase (w, l) } := by
  have hc : s.wbAcks.contains (w, l) = true := List.contains_iff_mem.mpr ha
  have hline : ({ s.cacheLine w l with
      wb := false, data := if (s.cacheLine w l).st = .I then 0 else (s.cacheLine w l).data
      pz := (s.cacheLine w l).pz && decide ((s.cacheLine w l).st ≠ .I) } : Line) = { s.cacheLine w l with wb := false } := by
    simp [hx]
  simp only [State.wbAck, State.cacheStopped_running hh, hc, Bool.not_true, Bool.or_self, Bool.false_eq_true, if_false]
  rw [← hline]
  cases w <;> rfl

theorem exec_cacheHoldExpiry_running {s : State} (hh : s.halted = false) (w : Holder) (l : Nat) :
    exec (.cacheHoldExpiry w l) s = .next (s.setCacheLine w l { s.cacheLine w l with hold := false }) := by
  show Host.Outcome.next (if s.cacheStopped w then s else _) = _
  rw [State.cacheStopped_running hh]
  rfl

theorem exec_cohRetry_nacked {s : State} {w : Holder} {l : Nat} (hh : s.halted = false) (hn : (s.cacheLine w l).nacked = true) :
    exec (.cohRetry w l) s = .next (s.setCacheLine w l
      { s.cacheLine w l with nacked := false, age := min 255 ((s.cacheLine w l).age + 1) }) := by
  cases w
  all_goals
    refine congrArg Host.Outcome.next (if_neg ?_)
    simp [hn, hh]

/-! ### Snoops (R350) -/

/-- A snoop that its slice has sent, with no grant of the line on its way, is answered by the line as it stands. -/
theorem State.cacheSnoop_due {s : State} {t : Tile} {l : Nat} {y : SliceTxn} (hh : s.halted = false)
    (hy : (s.slice (sliceOf t)).txns.get none l = some y) (ht : t.val ∈ y.waits)
    (hr : s.rspOut (.inl (.tile t)) l = none) (hg : ∀ z ∈ s.grants, z.1 = .tile t → z.2.1 ≠ l) :
    s.cacheSnoop (.tile t) l y.kind =
      (s.setCacheLine (.tile t) l ((s.cacheLine (.tile t) l).snoop y.kind).2).pushRsp (.inl (.tile t)) l
        ((s.cacheLine (.tile t) l).snoop y.kind).1 := by
  have hgrants : s.grants.any (fun g => g.1 = .tile t && g.2.1 = l) = false := by
    rw [List.any_eq_false]
    intro z hz hq
    simp only [Bool.and_eq_true, decide_eq_true_eq] at hq
    exact hg z hz hq.1 hq.2
  simp [State.cacheSnoop, State.not_frozen hh, hy, ht, hr, hgrants]

/-- A line that is requested or in its hold, and not being written back, answers Hold and stays. -/
theorem Line.snoop_hold {x : Line} (k : SnoopKind) (hb : x.wb = false) (h : x.req ≠ none ∨ x.hold = true) :
    x.snoop k = (.hold, x) := by
  have hw : (x.req.isSome || x.hold) = true := by
    rcases h with h | h
    · rw [Option.isSome_iff_ne_none.mpr h, Bool.true_or]
    · rw [h, Bool.or_true]
  simp [Line.snoop, hb, hw]

section
variable {x : Line} (hb : x.wb = false) (hq : x.req = none) (hd : x.hold = false)
include hb hq hd

theorem Line.snoop_modified_inv (hm : x.st = .M) : x.snoop .inv = (.invData x.data, {}) := by
  simp [Line.snoop, hb, hq, hd, hm]

theorem Line.snoop_modified_shr (hm : x.st = .M) : x.snoop .shr = (.shrData x.data, { x with st := .S }) := by
  simp [Line.snoop, hb, hq, hd, hm]

theorem Line.snoop_shared_inv (hm : x.st = .S) : x.snoop .inv = (.inv, {}) := by
  simp [Line.snoop, hb, hq, hd, hm]

end

/-- Settles O34: each message by its lemma, a snoop by the answer of the line it meets. -/
theorem cachesActOnWhatReachesThem : Obligations.CachesActOnWhatReachesThem := by
  unfold Obligations.CachesActOnWhatReachesThem
  intro s who l g r k x took nacked acked pz hh
  refine ⟨?grant, exec_cacheHoldExpiry_running hh who l, ?nack, fun hn => exec_cohRetry_nacked hh hn, ?ack, ?snoop⟩
  case grant =>
    intro hg
    have hgrant : exec (.cohGrantReceive who l g) s = .next (took (s.setCacheLine who l (x.install g pz))) :=
      congrArg Host.Outcome.next (State.grantReceive_sent hh hg)
    exact ⟨fun d hd => by subst hd; exact hgrant, fun d hd => by subst hd; exact hgrant, fun hd => by subst hd; exact hgrant⟩
  case nack => exact fun hn => congrArg Host.Outcome.next (State.nackReceive_sent hh hn)
  case ack => exact fun ha hx => congrArg Host.Outcome.next (State.wbAck_held hh ha hx)
  case snoop =>
    intro t y ht hy hw hk hr hg hb answer
    subst ht hk
    have hans : ∀ a z, x.snoop y.kind = (a, z) → exec (.cacheSnoop (.tile t) l y.kind) s = .next (answer z a) := by
      intro a z hs
      refine congrArg Host.Outcome.next ((State.cacheSnoop_due hh hy hw hr hg).trans ?_)
      rw [hs]
      rfl
    refine ⟨fun hq => hans _ _ (Line.snoop_hold _ hb hq), fun hq hd hm hk => hans _ _ ?_, fun hq hd hm hk => hans _ _ ?_,
      fun hq hd hm hk => hans _ _ ?_⟩
    all_goals rw [hk]
    · exact Line.snoop_modified_inv hb hq hd hm
    · exact Line.snoop_modified_shr hb hq hd hm
    · exact Line.snoop_shared_inv hb hq hd hm

end Sys2Proof.Machine
end

section
/-!
Slices and home agents collect the answers to snoops (10 R344 to R350): what each answer changes, and the settling of
SlicesAndHomesCollectAnswers from it.
-/
namespace Sys2Proof.Machine
open Sys2Proof

/-! ### Slices (R344, R345) -/

@[simp] theorem State.slice_modSlice (s : State) (k : SliceId) (f : Slice → Slice) : (s.modSlice k f).slice k = f (s.slice k) :=
  Table.get_set_self ..

theorem State.modSlice_modSlice (s : State) (k : SliceId) (f g : Slice → Slice) :
    (s.modSlice k f).modSlice k g = s.modSlice k (fun x => g (f x)) := by
  rw [State.modSlice, State.slice_modSlice]
  simp [State.modSlice]

section
variable {s : State} {sl : SliceId} {l : Nat} {k : SnoopKind} (ho : s.snoopOut (.inr sl) l k = true)
  (hn : (s.slice sl).txns.get none l = none)
include ho hn

theorem State.sliceSnoop_noCopy
    (hc : ((s.slice sl).ents.get [] l).filter (fun v => decide (s.requester l ≠ some (toHolderTile v))) = []) :
    s.sliceSnoop sl l k = s.pushRsp (.inr sl) l .inv := by
  simp only [State.sliceSnoop, ho, hn, hc, Bool.not_true, Option.isSome_none, Bool.or_self, Bool.false_eq_true, if_false,
    List.isEmpty_nil, if_true]

theorem State.sliceSnoop_copies {ts : List Nat} (hts : ts ≠ [])
    (hc : ((s.slice sl).ents.get [] l).filter (fun v => decide (s.requester l ≠ some (toHolderTile v))) = ts) :
    s.sliceSnoop sl l k = s.modSlice sl (fun x => { x with txns := x.txns.set none l (some { kind := k, waits := ts }) }) := by
  have he : ts.isEmpty = false := List.isEmpty_eq_false_iff.mpr hts
  simp only [State.sliceSnoop, ho, hn, hc, he, Bool.not_true, Option.isSome_none, Bool.or_self, Bool.false_eq_true, if_false]

end

theorem toHolderTile_val (t : Tile) : toHolderTile t.val = .tile t := congrArg Holder.tile (Fin.ofNat_val_eq_self t)

/-- The last tile's answer Inv, none before it having kept a copy, sends the slice's answer Inv. -/
theorem State.sliceSnoopRsp_lastInv {s : State} {sl : SliceId} {l : Nat} {t : Tile} {y : SliceTxn}
    (hy : (s.slice sl).txns.get none l = some y) (hw : y.waits = [t.val]) (hh : y.hold = false) (hd : y.dirty = none)
    (hs : y.shared = false) (hr : s.rspOut (.inl (.tile t)) l = some .inv) : s.sliceSnoopRsp sl l t .inv =
      ((s.popRsp (.inl (.tile t)) l .inv).modSlice sl (fun x => { x with
        ents := x.ents.modify [] l (fun ts => ts.erase t.val), txns := x.txns.set none l none })).pushRsp (.inr sl) l .inv := by
  have hans : (y.take t.val .inv).answer = .inv := by simp [SliceTxn.take, SliceTxn.answer, hh, hd, hs]
  have hlast : (y.take t.val .inv).waits.isEmpty = true := by simp [SliceTxn.take, hw]
  simp only [State.sliceSnoopRsp, hy, hw, hr, toHolderTile_val, List.contains_cons, beq_self_eq_true, Bool.true_or, Bool.not_true,
    ne_eq, not_true_eq_false, decide_false, Bool.or_self, Bool.false_eq_true, if_false, leaves, if_true, hlast, hans,
    State.modSlice_modSlice]

/-! ### Home agents (R347, R350) -/

@[simp] theorem State.txns_setTrans (s : State) (h l : Nat) (t : Option Trans) :
    ((s.setTrans h l t).home h).txns.get none l = t := by
  rw [State.setTrans, State.home_modHome, Table.get_set_self]

/-- A transaction with a snoop unanswered goes on. -/
theorem State.settle_snooping {s : State} {h l : Nat} {t : Trans} (ht : (s.home h).txns.get none l = some t)
    (hs : t.snoops ≠ []) : s.settle h l = s := by
  have hr : t.ready = false := by
    rw [Trans.ready, List.isEmpty_eq_false_iff.mpr hs, Bool.false_and]
  simp only [State.settle, ht, hr, Bool.false_and, Bool.false_eq_true, if_false]

section
variable {s : State} {h l : Nat} {src : Holder ⊕ SliceId} {tr : Trans} (ht : (s.home h).txns.get none l = some tr)
include ht

/-- An answer to a snoop that is out is taken into the transaction, which then settles; an answer Hold is counted. -/
theorem State.homeSnoopRsp_taken {r : SnoopRsp} {y : SnoopOut} (hy : y ∈ tr.snoops) (hd : y.dst = src) (hf : y.held = false)
    (hr : s.rspOut src l = some r) : s.homeSnoopRsp h l src r =
      ((if r = .hold then (s.popRsp src l r).modHost (h / 8) (fun x => { x with holds := satAdd 0xFFFF x.holds 1 })
        else s.popRsp src l r).setTrans h l (some (tr.take src r))).settle h l := by
  have hany : tr.snoops.any (fun x => decide (x.dst = src) && !x.held) = true :=
    List.any_eq_true.mpr ⟨y, hy, by rw [hd, hf]; simp⟩
  simp only [State.homeSnoopRsp, ht, hany, hr, Bool.not_true, ne_eq, not_true_eq_false, decide_false, Bool.or_self,
    Bool.false_eq_true, if_false]

theorem State.homeSnoopRsp_hold {y : SnoopOut} (hy : y ∈ tr.snoops) (hd : y.dst = src) (hf : y.held = false)
    (hr : s.rspOut src l = some .hold) : s.homeSnoopRsp h l src .hold =
      ((s.popRsp src l .hold).modHost (h / 8) (fun x => { x with holds := satAdd 0xFFFF x.holds 1 })).setTrans h l
        (some (tr.take src .hold)) := by
  rw [State.homeSnoopRsp_taken ht hy hd hf hr, if_pos rfl]
  refine State.settle_snooping (State.txns_setTrans ..) (fun hm => ?_)
  rw [List.map_eq_nil_iff.mp hm] at hy
  cases hy

theorem State.homeSnoopRsp_inv {y z : SnoopOut} (hy : y ∈ tr.snoops) (hd : y.dst = src) (hf : y.held = false)
    (hr : s.rspOut src l = some .inv) (hz : z ∈ tr.snoops) (hne : z.dst ≠ src) : s.homeSnoopRsp h l src .inv =
      (s.popRsp src l .inv).setTrans h l (some (tr.take src .inv)) := by
  rw [State.homeSnoopRsp_taken ht hy hd hf hr, if_neg (by decide)]
  refine State.settle_snooping (State.txns_setTrans ..) (fun hm => ?_)
  exact List.filter_eq_nil_iff.mp hm z hz (decide_eq_true hne)

theorem State.resend_open (dst : Holder ⊕ SliceId) : s.resend h l dst = s.setTrans h l (some { tr with
    snoops := tr.snoops.map (fun x => if x.dst = dst then { x with held := false } else x) }) := by
  rw [State.resend, ht]

end

/-- Settles O35: a slice's and a home agent's answers by their lemmas; a reservation's end by its entry. -/
theorem slicesAndHomesCollectAnswers : Obligations.SlicesAndHomesCollectAnswers := by
  unfold Obligations.SlicesAndHomesCollectAnswers
  intro s sl l k t h src tr x copies putSlice
  refine ⟨?snoop, ?last, ?home, rfl, fun n => rfl, ?line⟩
  case snoop =>
    exact fun ho hn => ⟨fun hc => congrArg Host.Outcome.next (State.sliceSnoop_noCopy ho hn hc),
      fun hc => congrArg Host.Outcome.next (State.sliceSnoop_copies ho hn hc rfl)⟩
  case last =>
    exact fun y hy hw hh hd hs hr => congrArg Host.Outcome.next (State.sliceSnoopRsp_lastInv hy hw hh hd hs hr)
  case home =>
    intro ht
    refine ⟨fun y hy hd hf hr => ?hold, fun y hy hd hf hr ⟨z, hz, hne⟩ => ?inv,
      congrArg Host.Outcome.next (State.resend_open ht src)⟩
    case hold =>
      refine ⟨_, congrArg Host.Outcome.next (State.homeSnoopRsp_hold ht hy hd hf hr), rfl, State.txns_setTrans .., ?_, rfl, rfl⟩
      exact congrArg HostS.holds (State.host_modHost (s.popRsp src l .hold) (h.val / 8)
        (fun x => { x with holds := satAdd 0xFFFF x.holds 1 }))
    case inv => exact congrArg Host.Outcome.next (State.homeSnoopRsp_inv ht hy hd hf hr hz hne)
  case line =>
    intro hb
    refine ⟨_, rfl, ?_, rfl⟩
    rw [State.home_modHome]
    simp [hb]

end Sys2Proof.Machine
end

section
/-!
The home agent (10 R345 to R348, R351, R354, R355): what it does with a request, a finished memory read, a writeback and an access
from outside the caches, and the settling of HomeServesRequests from it.
-/
namespace Sys2Proof.Machine
open Sys2Proof

theorem State.modHome_modHome (s : State) (h : Nat) (f g : Home → Home) :
    (s.modHome h f).modHome h g = s.modHome h (fun x => g (f x)) := by
  rw [State.modHome, State.home_modHome]
  simp [State.modHome]

/-! ### COH_REQ (R347, R348) -/

section
variable {s : State} {h l age : Nat} {cmd : CohCmd} {t : Tile} (ho : s.requestOut h l cmd age (.tile t) = true)
  (hc : cmd ≠ .evictE)
include ho hc

theorem State.cohReq_refused {r : Nat} (hr : s.nackReason h l (holderCode (.tile t)) = some r) :
    s.cohReq h l cmd age (.tile t) = (s.keepRes h l r age (holderCode (.tile t))).nack h l r (.tile t) := by
  simp [State.cohReq, ho, hc, State.hostAsks, hr]

theorem State.cohReq_accepted (hr : s.nackReason h l (holderCode (.tile t)) = none) : s.cohReq h l cmd age (.tile t) =
    ((s.dropRes h l (holderCode (.tile t))).makeWay h l).openGrant h l cmd (.tile t) := by
  simp [State.cohReq, ho, hc, State.hostAsks, hr]

end

theorem State.nackReason_busy {s : State} {h l : Nat} (hb : (s.home h).busy l = true) (code : Nat) :
    s.nackReason h l code = some 0 := by
  simp [State.nackReason, hb]

theorem State.nackReason_idle {s : State} {h : Nat} (ht : (s.home h).txns = []) (hd : (s.home h).dir = []) (l code : Nat) :
    s.nackReason h l code = none := by
  simp [State.nackReason, Home.busy, Home.tracked, Home.wayCount, Home.ways, heldByOther, ht, hd]

/-- A home agent that tracks no line has no reservation of one to drop. -/
theorem State.dir_dropRes {s : State} {h : Nat} (hd : (s.home h).dir = []) (l code : Nat) :
    ((s.dropRes h l code).home h).dir = [] := by
  rw [State.dropRes, State.home_modHome]
  simp [hd, Table.modify, Table.set, unreserve]

theorem State.makeWay_untracked {s : State} {h : Nat} (hd : (s.home h).dir = []) (l : Nat) : s.makeWay h l = s := by
  simp [State.makeWay, Home.ways, hd]

/-- A read of a line that no cache holds waits for memory alone. -/
theorem State.openGrant_untracked {s : State} {h : Nat} {cmd : CohCmd} (hd : (s.home h).dir = []) (hc : cmd = .rdS ∨ cmd = .rdU)
    (l : Nat) (who : Holder) : s.openGrant h l cmd who = s.setTrans h l (some { kind := .grant who cmd }) := by
  have hserved : servedCmd {} cmd who = cmd := if_neg (by rcases hc with rfl | rfl <;> decide)
  have hsnoops : ∀ inv, dirSnoops {} (some who) inv = [] := by
    intro inv
    cases inv <;> rfl
  have hready : Trans.ready { kind := .grant who cmd } = false := by rcases hc with rfl | rfl <;> rfl
  simp only [State.openGrant, hd, Table.get_nil, hserved, hsnoops]
  simp [State.settle, hready]

/-! ### The end of a transaction (R347 step 4) -/

@[simp] theorem State.setTrans_setTrans (s : State) (h l : Nat) (a b : Option Trans) :
    (s.setTrans h l a).setTrans h l b = s.setTrans h l b := by
  simp [State.setTrans, State.modHome_modHome]

/-- A transaction with its answers in and a way for its line ends; only an eviction lets another end with it. -/
theorem State.settle_ready {s : State} {h l : Nat} {tr : Trans} (ht : (s.home h).txns.get none l = some tr)
    (hr : tr.ready = true) (hw : (s.home h).hasWay l tr = true) (hk : tr.kind ≠ .evict) : s.settle h l = s.finish h l tr := by
  simp [State.settle, ht, hr, hw, hk]

theorem Home.hasWay_untracked {x : Home} (hd : x.dir = []) (l : Nat) (tr : Trans) : x.hasWay l tr = true := by
  unfold Home.hasWay
  split
  · simp [Home.ways, hd]
  · rfl

/-- The state once a line that no cache holds is granted to a tile, exclusive. -/
def State.grantedAlone (s : State) (h l : Nat) (t : Tile) : State :=
  State.touch (State.sliceAdd { (s.modDir h l (fun _ => { owner := some (.tile t) })) with
    grants := s.grants ++ [(.tile t, l, .exclusive (s.readNat 64 (64 * l)))] } t l) h l

theorem State.sendGrant_untracked {s : State} {h : Nat} {cmd : CohCmd} (hd : (s.home h).dir = [])
    (hc : cmd = .rdS ∨ cmd = .rdU) (l : Nat) (t : Tile) (kept : Bool) :
    s.sendGrant h l (.tile t) cmd kept = s.grantedAlone h l t := by
  have hdir : (s.home h).dir.get {} l = {} := by rw [hd]; rfl
  rcases hc with rfl | rfl <;> simp only [State.sendGrant, hdir] <;> rfl

/-- A line's use is noted in its directory entry; its owner and the transactions stay. -/
theorem State.owner_touch (s : State) (h l : Nat) :
    (((s.touch h l).home h).dir.get {} l).owner = (((s.home h).dir.get {} l)).owner := by
  rw [State.touch, State.home_modHome, Table.get_modify_self]

theorem State.txns_touch (s : State) (h l : Nat) : ((s.touch h l).home h).txns = (s.home h).txns := by
  rw [State.touch, State.home_modHome]

@[simp] theorem State.dir_modDir (s : State) (h l : Nat) (f : DirEnt → DirEnt) :
    ((s.modDir h l f).home h).dir.get {} l = f ((s.home h).dir.get {} l) := by
  rw [State.modDir, State.home_modHome, Table.get_modify_self]

theorem State.txns_modDir (s : State) (h l : Nat) (f : DirEnt → DirEnt) : ((s.modDir h l f).home h).txns = (s.home h).txns := by
  rw [State.modDir, State.home_modHome]

theorem State.owner_grantedAlone (s : State) (h l : Nat) (t : Tile) :
    (((s.grantedAlone h l t).home h).dir.get {} l).owner = some (.tile t) :=
  (State.owner_touch ..).trans (congrArg DirEnt.owner (State.dir_modDir s h l (fun _ => { owner := some (.tile t) })))

theorem State.txns_grantedAlone (s : State) (h l : Nat) (t : Tile) : ((s.grantedAlone h l t).home h).txns = (s.home h).txns :=
  (State.txns_touch ..).trans (State.txns_modDir s h l _)

/-- Beside the home agent and the tile's slice, only the grant is new. -/
theorem State.grantedAlone_only (s : State) (h l : Nat) (t : Tile) : ∃ hs sls, s.grantedAlone h l t = { s with
    homes := hs, slices := sls, grants := s.grants ++ [(.tile t, l, .exclusive (s.readNat 64 (64 * l)))] } := ⟨_, _, rfl⟩

/-- HOME_MEMORY_READ_DONE ends the request's transaction with its grant. -/
theorem State.memRead_untracked {s : State} {h l : Nat} {t : Tile} {cmd : CohCmd}
    (ht : (s.home h).txns.get none l = some { kind := .grant (.tile t) cmd }) (hc : cmd = .rdS ∨ cmd = .rdU)
    (hd : (s.home h).dir = []) : s.memRead h l = (s.setTrans h l none).grantedAlone h l t := by
  have hdir : ∀ tr, ((s.setTrans h l tr).home h).dir = [] := fun tr => by rw [State.setTrans, State.home_modHome]; exact hd
  simp only [State.memRead, ht]
  rw [State.settle_ready (State.txns_setTrans ..) rfl (Home.hasWay_untracked (hdir _) ..) (by simp)]
  simp only [State.finish, State.setTrans_setTrans]
  exact State.sendGrant_untracked (hdir none) hc l t _

/-! ### WRITEBACK (R351) -/

/-- A tile's writeback of a line it owns: the slice and the entry forget the tile, memory takes the data. -/
theorem State.writeback_owned {s : State} {h l : Nat} {t : Tile} (hw : (s.cacheLine (.tile t) l).wb = true)
    (ha : (.tile t, l) ∉ s.wbAcks) (hh : s.homeOf (64 * l) = h) (ho : ((s.home h).dir.get {} l).owner = some (.tile t))
    (hp : (s.cacheLine (.tile t) l).pz = false) : s.writeback h l (.tile t) (s.cacheLine (.tile t) l).data =
      { (((s.sliceDrop t l).writeNat 64 (64 * l) ((s.cacheLine (.tile t) l).data % 2 ^ 512)).modDir h l
          (fun d => { d with owner := none })) with wbAcks := s.wbAcks ++ [(.tile t, l)] } := by
  have hack : s.wbAcks.all (fun a => !decide (a = (.tile t, l))) = true := by
    rw [List.all_eq_true]
    intro a hm
    simp only [Bool.not_eq_true', decide_eq_false_iff_not]
    exact fun he => ha (he ▸ hm)
  have howner : (((s.sliceDrop t l).home h).dir.get {} l).owner = some (.tile t) := ho
  simp only [State.writeback, hw, hack, hh, howner, hp, State.writeLine, decide_true, Bool.and_self, Bool.not_true, ne_eq,
    not_true_eq_false, decide_false, Bool.or_self, Bool.false_eq_true, if_false, if_true]
  rfl

/-! ### Accesses from outside the caches (R354, R355) -/

/-- A request that touches one line is its own part in that line. -/
theorem reqInLine_whole {rq : MemReq} {l : Nat} (hn : 0 < opSize rq.op) (hl : linesOf rq.addr (opSize rq.op) = [l]) :
    reqInLine rq l = rq := by
  rw [linesOf, if_neg (by omega)] at hl
  have hlast : lineOf (rq.addr + opSize rq.op - 1) - lineOf rq.addr + 1 = 1 := by
    have hlen := congrArg List.length hl
    rwa [List.length_map, List.length_range] at hlen
  have hfirst : lineOf rq.addr = l := by
    rw [hlast] at hl
    exact (List.cons.inj hl).1
  unfold lineOf at hlast hfirst
  have hlo : max rq.addr (64 * l) = rq.addr := by omega
  have hhi : min (rq.addr + opSize rq.op) (64 * l + 64) = rq.addr + opSize rq.op := by omega
  unfold reqInLine
  rw [hlo, hhi]
  obtain ⟨src, job, addr, op, tag⟩ := rq
  cases op
  case read n => simp [opSize]
  case write bs => simp [opSize]
  case atomic => rfl

/-- An access whose answers are in is performed on memory as it stands; home agents alone change beside it. -/
theorem State.finish_access (s : State) (h l : Nat) (rq : MemReq) : ∃ hs,
    s.finish h l { kind := .access rq, memDone := true } = (State.perform { s with homes := hs } rq).touch h l := by
  unfold State.finish
  dsimp only
  cases opWrites rq.op
  · exact ⟨_, rfl⟩
  · exact ⟨_, rfl⟩

theorem State.lpddrCode_clean (s : State) (a : Nat) : s.lpddrCode a .clean = s := by
  unfold State.lpddrCode
  cases regionOf a <;> rfl

section
variable {s : State} {h l : Nat} {rq : MemReq} (hi : s.noInjection) (hc : isCoherent rq.addr = true) (hh : s.homeOf rq.addr = h)
  (hl : linesOf rq.addr (opSize rq.op) = [l]) (hb : s.lineBusy l = false) (ht : (s.home h).txns = []) (hd : (s.home h).dir = [])
  (hn : 0 < opSize rq.op) (hlo : s.mapped rq.addr = true) (hhi : s.mapped (rq.addr + opSize rq.op - 1) = true)
include hi hc hh hl hb ht hd hn hlo hhi

/-- A request of one line that no cache holds is a transaction with nothing to wait for. -/
theorem State.homeAccess_opens :
    s.homeAccess h rq .clean = (s.setTrans h l (some { kind := .access rq, memDone := true })).settle h l := by
  have hsnoops : ∀ inv, dirSnoops {} none inv = [] := by
    intro inv
    cases inv <;> rfl
  unfold State.homeAccess
  simp only [hl, hc, hh, hb, ht, hlo, hhi, Nat.ne_of_gt hn, List.any_cons, List.any_nil, List.length_nil, List.length_singleton,
    State.lpddrCode_clean, State.fireLpddr_noInjection hi, decide_false, Bool.not_true, ne_eq, not_true_eq_false, Bool.or_self,
    Bool.false_eq_true, if_false, List.foldl_cons, List.foldl_nil, reqInLine_whole hn hl]
  cases ho : rq.op
  all_goals simp [hd, hsnoops]

/-- The access is then performed on memory as it stands, and home agents alone change beside it. -/
theorem State.homeAccess_untracked : ∃ hs,
    s.homeAccess h rq .clean = (State.perform { s with homes := hs } rq).touch h l := by
  have hdir : ∀ tr, ((s.setTrans h l tr).home h).dir = [] := fun tr => by rw [State.setTrans, State.home_modHome]; exact hd
  obtain ⟨hs, he⟩ := State.finish_access (s.setTrans h l (some { kind := .access rq, memDone := true })) h l rq
  refine ⟨hs, ?_⟩
  rw [State.homeAccess_opens hi hc hh hl hb ht hd hn hlo hhi,
    State.settle_ready (State.txns_setTrans ..) rfl (Home.hasWay_untracked (hdir _) ..) (by simp), he]
  rfl

end

theorem exec_homeNoncohAccess {s : State} {h : HomeId} {rq : MemReq} (ho : ∀ op w v c, rq.op ≠ .atomic op w v c) :
    exec (.homeNoncohAccess h rq .clean) s = .next (s.homeAccess h rq .clean) := by
  show execHomeNoncohAccess h rq .clean s = _
  rw [execHomeNoncohAccess]
  cases hop : rq.op
  case read => rfl
  case write => rfl
  case atomic op w v c => exact absurd hop (ho op w v c)

theorem exec_homeAtomic {s : State} {h : HomeId} {rq : MemReq} {op : AtomicOp} {w : Bool} {v c : Nat}
    (ho : rq.op = .atomic op w v c) (ha : rq.addr % atomicSize w = 0) :
    exec (.homeAtomic h rq) s = .next (s.homeAccess h rq .clean) := by
  show execHomeAtomic h rq s = _
  simp only [execHomeAtomic, ho, if_pos ha]

/-- Settles O36: requests and memory reads by the transaction they open or end, writebacks and accesses by the memory they
leave. -/
theorem homeServesRequests : Obligations.HomeServesRequests := by
  unfold Obligations.HomeServesRequests
  intro s h l t age rq who x
  refine ⟨fun cmd ho hc => ⟨fun ht hd => ?opens, fun hb => ?refused⟩, fun cmd ht hc hd => ?memory,
    fun d hw hdata ha hh ho hp => ?writeback, ?access⟩
  case opens =>
    have hdir := State.dir_dropRes hd l (holderCode who)
    have hreq : s.cohReq h l cmd age.toNat who = (s.dropRes h l (holderCode who)).setTrans h l (some { kind := .grant who cmd }) := by
      rw [State.cohReq_accepted ho (by rcases hc with rfl | rfl <;> decide) (State.nackReason_idle ht hd ..),
        State.makeWay_untracked hdir, State.openGrant_untracked hdir hc]
    exact ⟨_, congrArg Host.Outcome.next hreq, State.txns_setTrans .., rfl⟩
  case refused =>
    have hreq := State.cohReq_refused ho (by rcases hc with rfl | rfl <;> decide) (State.nackReason_busy hb _)
    exact ⟨_, congrArg Host.Outcome.next hreq, rfl, rfl⟩
  case memory =>
    have htxns := State.txns_grantedAlone (s.setTrans h l none) h l t
    have howner := State.owner_grantedAlone (s.setTrans h l none) h l t
    obtain ⟨hs, sls, hu⟩ := State.grantedAlone_only (s.setTrans h l none) h l t
    refine ⟨_, congrArg Host.Outcome.next (State.memRead_untracked ht hc hd), ?_, howner, ?_, ?_⟩
    · rw [htxns, State.txns_setTrans]
    · rw [hu]
      rfl
    · rw [hu]
      rfl
  case writeback =>
    subst hdata
    have hpow : (256 : Nat) ^ 64 = 2 ^ 512 := (Nat.pow_mul 2 8 64).symm
    refine ⟨_, congrArg Host.Outcome.next (State.writeback_owned hw ha hh ho hp), rfl, ?_, ?_, ?_, rfl⟩
    · refine (State.readNat_writeNat (s.sliceDrop t l) 64 (64 * l) _).trans ?_
      rw [← hpow, Nat.mod_mod]
    · exact (State.writeNat_onlyBytes (s.sliceDrop t l) 64 (64 * l) _).2
    · show (((State.modDir _ h l _).home h).dir.get {} l).owner = none
      rw [State.dir_modDir]
  case access =>
    intro hc hh hl hb ht hd hr hn hlo hhi hi answer
    obtain ⟨hs, he⟩ := State.homeAccess_untracked hi hc hh hl hb ht hd hn hlo hhi
    refine ⟨fun n ho => ?read, fun bs ho => ?write, fun op w v c ho hal => ?atomic⟩
    all_goals rw [ho] at hr
    case read =>
      rw [exec_homeNoncohAccess (by simp [ho]), he, State.perform_read (s := { s with homes := hs }) ho hr]
      exact ⟨_, rfl, ⟨rfl, rfl, rfl, rfl⟩, rfl⟩
    case write =>
      rw [exec_homeNoncohAccess (by simp [ho]), he, State.perform_write (s := { s with homes := hs }) ho hr]
      exact ⟨_, rfl, ⟨rfl, rfl, rfl, rfl⟩, State.readBytes_writeBytes { s with homes := hs } ..,
        State.writeBytes_outside { s with homes := hs } _ _⟩
    case atomic =>
      rw [exec_homeAtomic ho hal, he, State.perform_atomic (s := { s with homes := hs }) ho hr]
      exact ⟨_, rfl, ⟨rfl, rfl, rfl, rfl⟩, State.readNat_writeNat { s with homes := hs } ..,
        (State.writeNat_onlyBytes { s with homes := hs } ..).2⟩

end Sys2Proof.Machine
end

section
/-!
The registers of the matrix extension (10 R334 to R338): accumulator elements and vector registers after the writes of Xtvmx, and
when an instruction of it is legal.
-/
namespace Sys2Proof.Machine
open Sys2Proof

/-! ### Accumulator elements -/

theorem accKey_inj {a b i j k m : Nat} (hi : i < 32) (hj : j < 32) (hk : k < 32) (hm : m < 32) :
    accKey a i j = accKey b k m ↔ a = b ∧ i = k ∧ j = m := by
  unfold accKey
  omega

theorem HostCore.elem_setElem (x : HostCore) {a b i j k m : Nat} (v : Nat) (hi : i < 32) (hj : j < 32) (hk : k < 32) (hm : m < 32) :
    (x.setElem a i j v).elem b k m = if b = a ∧ k = i ∧ m = j then v % 2 ^ 32 else x.elem b k m := by
  simp only [HostCore.elem, HostCore.setElem, Table.get_set, accKey_inj hk hm hi hj]
  split <;> simp

/-- Elements of one accumulator written at the places `ps`. -/
def HostCore.setElems (x : HostCore) (acc : Nat) (v : Nat → Nat → Nat) (ps : List (Nat × Nat)) : HostCore :=
  ps.foldl (fun x p => x.setElem acc p.1 p.2 (v p.1 p.2)) x

theorem HostCore.elem_setElems {acc b k m : Nat} (v : Nat → Nat → Nat) {ps : List (Nat × Nat)}
    (hp : ∀ p ∈ ps, p.1 < 32 ∧ p.2 < 32) (hk : k < 32) (hm : m < 32) (x : HostCore) :
    (x.setElems acc v ps).elem b k m = if b = acc ∧ (k, m) ∈ ps then v k m % 2 ^ 32 else x.elem b k m := by
  induction ps generalizing x with
  | nil => simp [HostCore.setElems]
  | cons p ps ih =>
    obtain ⟨i, j⟩ := p
    obtain ⟨hi, hj⟩ := hp (i, j) List.mem_cons_self
    have hrest : (x.setElems acc v ((i, j) :: ps)) = (x.setElem acc i j (v i j)).setElems acc v ps := rfl
    rw [hrest, ih (fun p h => hp p (List.mem_cons_of_mem _ h)), HostCore.elem_setElem x _ hi hj hk hm]
    by_cases hb : b = acc
    · subst hb
      by_cases hq : k = i ∧ m = j
      · obtain ⟨rfl, rfl⟩ := hq
        simp
      · simp [hq]
    · simp [hb]

theorem mem_grid32 {i j : Nat} : (i, j) ∈ grid32 ↔ i < 32 ∧ j < 32 := by simp [grid32]

theorem grid32_lt (p : Nat × Nat) (h : p ∈ grid32) : p.1 < 32 ∧ p.2 < 32 := mem_grid32.mp h

/-- A write of the whole of one accumulator. -/
theorem HostCore.elem_setGrid {acc b i j : Nat} (x : HostCore) (v : Nat → Nat → Nat) (hi : i < 32) (hj : j < 32) :
    (x.setElems acc v grid32).elem b i j = if b = acc then v i j % 2 ^ 32 else x.elem b i j := by
  rw [HostCore.elem_setElems v grid32_lt hi hj]
  simp [mem_grid32, hi, hj]

/-! ### Outer products (R336) -/

theorem HostCore.elem_dirty (x : HostCore) (a i j : Nat) : x.dirty.elem a i j = x.elem a i j := rfl

/-- Beside the flags, an outer product writes one rounded sum into each element of its accumulator. -/
theorem HostCore.outer_eq (x : HostCore) (neg : Bool) (acc vs1 vs2 : Nat) : x.outer neg acc vs1 vs2 =
    { (x.setElems acc (fun i j => (mxElem neg (x.elem acc i j) (bits (x.vreg vs1) (16 * i) 16) (bits (x.vreg vs2) (16 * j) 16)).1)
        grid32).dirty with fflags := (x.outer neg acc vs1 vs2).fflags } := by
  simp only [HostCore.outer, HostCore.setElems, List.foldl_map]

theorem HostCore.elem_outer (x : HostCore) (neg : Bool) {acc b i j : Nat} (vs1 vs2 : Nat) (hi : i < 32) (hj : j < 32) :
    (x.outer neg acc vs1 vs2).elem b i j = if b = acc then
      (mxElem neg (x.elem acc i j) (bits (x.vreg vs1) (16 * i) 16) (bits (x.vreg vs2) (16 * j) 16)).1 % 2 ^ 32
    else x.elem b i j := by
  have hflags : ∀ (y : HostCore) fl, ({ y.dirty with fflags := fl } : HostCore).elem b i j = y.elem b i j := fun _ _ => rfl
  rw [HostCore.outer_eq, hflags, HostCore.elem_setGrid _ _ hi hj]

theorem HostCore.ms_outer (x : HostCore) (neg : Bool) (acc vs1 vs2 : Nat) : (x.outer neg acc vs1 vs2).ms = 3 := by
  rw [HostCore.outer_eq]
  rfl

/-! ### Rows of memory into an accumulator (R337) -/

theorem bits_lt (w lo n : Nat) : bits w lo n < 2 ^ n := Nat.mod_lt _ (Nat.two_pow_pos n)

/-- Row `i` of the accumulator takes the 32 words of `w`. -/
def HostCore.loadRow (x : HostCore) (acc i w : Nat) : HostCore :=
  ((List.range 32).foldl (fun x j => x.setElem acc i j (bits w (32 * j) 32)) x).dirty

theorem HostCore.elem_loadRow (x : HostCore) {acc b i k j : Nat} (w : Nat) (hi : i < 32) (hk : k < 32) (hj : j < 32) :
    (x.loadRow acc i w).elem b k j = if b = acc ∧ k = i then bits w (32 * j) 32 else x.elem b k j := by
  have hfold : (List.range 32).foldl (fun x j => x.setElem acc i j (bits w (32 * j) 32)) x =
      x.setElems acc (fun _ j => bits w (32 * j) 32) ((List.range 32).map (fun j => (i, j))) := by
    rw [HostCore.setElems, List.foldl_map]
  show ((List.range 32).foldl (fun x j => x.setElem acc i j (bits w (32 * j) 32)) x).elem b k j = _
  rw [hfold, HostCore.elem_setElems _ (by simp [hi]) hk hj, Nat.mod_eq_of_lt (bits_lt ..)]
  have hmem : (k, j) ∈ (List.range 32).map (fun j => (i, j)) ↔ k = i := by simp [hj, eq_comm]
  simp only [hmem]

/-- Rows `is` of the accumulator take their words. -/
theorem HostCore.elem_loadRows {acc b k j : Nat} (w : Nat → Nat) (hk : k < 32) (hj : j < 32) {is : List Nat} (his : ∀ i ∈ is, i < 32)
    (x : HostCore) : (is.foldl (fun x i => x.loadRow acc i (w i)) x).elem b k j =
      if b = acc ∧ k ∈ is then bits (w k) (32 * j) 32 else x.elem b k j := by
  induction is generalizing x with
  | nil => simp
  | cons i is ih =>
    rw [List.foldl_cons, ih (fun i h => his i (List.mem_cons_of_mem _ h)), HostCore.elem_loadRow x _ (his i List.mem_cons_self) hk hj]
    by_cases hb : b = acc
    · subst hb
      by_cases hq : k = i
      · subst hq
        simp
      · simp [hq]
    · simp [hb]

theorem HostCore.ms_loadRow (x : HostCore) (acc i w : Nat) : (x.loadRow acc i w).ms = 3 := rfl

theorem HostCore.ms_loadRows {acc : Nat} (w : Nat → Nat) {x : HostCore} (hx : x.ms = 3) (is : List Nat) :
    (is.foldl (fun x i => x.loadRow acc i (w i)) x).ms = 3 := by
  induction is generalizing x with
  | nil => exact hx
  | cons i is ih =>
    rw [List.foldl_cons]
    exact ih (HostCore.ms_loadRow x acc i (w i))

/-- A whole accumulator loaded, row by row, is Dirty. -/
theorem HostCore.ms_loadRange (x : HostCore) (acc : Nat) (w : Nat → Nat) :
    ((List.range 32).foldl (fun x i => x.loadRow acc i (w i)) x).ms = 3 := by
  rw [List.range_succ_eq_map, List.foldl_cons]
  exact HostCore.ms_loadRows w (HostCore.ms_loadRow ..) _

/-! ### MX_MVR (R338) -/

/-- Words of 32 bits, the first lowest. -/
def packWords (f : Nat → Nat) (n : Nat) : Nat := (List.range n).foldl (fun w j => w + f j * 2 ^ (32 * j)) 0

theorem packWords_succ (f : Nat → Nat) (n : Nat) : packWords f (n + 1) = packWords f n + f n * 2 ^ (32 * n) := by
  simp [packWords, List.range_succ]

section
variable {f : Nat → Nat} (hf : ∀ j, f j < 2 ^ 32)
include hf

theorem packWords_lt (n : Nat) : packWords f n < 2 ^ (32 * n) := by
  induction n with
  | zero => exact Nat.one_pos
  | succ n ih =>
    have hword : f n * 2 ^ (32 * n) + 2 ^ (32 * n) ≤ 2 ^ 32 * 2 ^ (32 * n) := by
      rw [← Nat.succ_mul]
      exact Nat.mul_le_mul_right _ (hf n)
    rw [packWords_succ, Nat.mul_succ, Nat.add_comm (32 * n), Nat.pow_add]
    omega

/-- Each word stands in its field. -/
theorem bits_packWords {j n : Nat} (hj : j < n) : bits (packWords f n) (32 * j) 32 = f j := by
  induction n with
  | zero => omega
  | succ n ih =>
    rw [packWords_succ, bits]
    rcases Nat.lt_succ_iff_lt_or_eq.mp hj with h | rfl
    · have hpow : f n * 2 ^ (32 * n) = f n * 2 ^ (32 * (n - j - 1)) * 2 ^ 32 * 2 ^ (32 * j) := by
        rw [Nat.mul_assoc, Nat.mul_assoc, ← Nat.pow_add, ← Nat.pow_add]
        congr 2
        omega
      rw [hpow, Nat.add_mul_div_right _ _ (Nat.two_pow_pos _), Nat.add_mul_mod_self_right]
      exact ih h
    · rw [Nat.add_mul_div_right _ _ (Nat.two_pow_pos _), Nat.div_eq_of_lt (packWords_lt hf j), Nat.zero_add, Nat.mod_eq_of_lt (hf j)]

end

/-- A register of the pair takes its half of the row, modulo 32. -/
theorem HostCore.bits_mvr (x : HostCore) (vd row acc : Nat) {h j : Nat} (hh : h < 2) (hj : j < 16) :
    bits ((x.mvr vd row acc).vreg (vd + h)) (32 * j) 32 = x.elem acc (row % 32) (16 * h + j) := by
  have hhalf : (x.mvr vd row acc).vreg (vd + h) = packWords (fun j => x.elem acc (row % 32) (16 * h + j)) 16 % 2 ^ 512 := by
    have hcase : h = 0 ∨ h = 1 := by omega
    rcases hcase with rfl | rfl
    · rw [HostCore.vreg, HostCore.mvr, Table.get_set_ne _ _ _ (by omega), Nat.add_zero, Table.get_set_self]
      exact BitVec.toNat_ofNat ..
    · rw [HostCore.vreg, HostCore.mvr, Table.get_set_self]
      exact BitVec.toNat_ofNat ..
  have hlt : ∀ j, x.elem acc (row % 32) (16 * h + j) < 2 ^ 32 := fun j => BitVec.isLt _
  rw [hhalf, Nat.mod_eq_of_lt (packWords_lt hlt 16), bits_packWords hlt hj]

theorem HostCore.acc_mvr (x : HostCore) (vd row acc : Nat) : (x.mvr vd row acc).acc = x.acc := by
  rw [HostCore.mvr]

theorem HostCore.v_mvr (x : HostCore) {vd r : Nat} (row acc : Nat) (h0 : r ≠ vd) (h1 : r ≠ vd + 1) :
    (x.mvr vd row acc).v.get 0 r = x.v.get 0 r := by
  rw [HostCore.mvr, Table.get_set_ne _ _ _ h1, Table.get_set_ne _ _ _ h0]

/-! ### Legality (R334, R335, R361) -/

section
variable {s : State} {c : Nat} (hm : s.mayRetire c = true)
include hm

theorem State.runMx_legal {legal : Bool} (f : State → State) (hs : (s.core c).ms ≠ 0) (hl : legal = true) :
    s.runMx c legal f = f s := by
  simp [State.runMx, hm, hs, hl]

theorem State.runMx_illegal {legal : Bool} (f : State → State) (h : (s.core c).ms = 0 ∨ legal = false) :
    s.runMx c legal f = s.trap c illegalInst 0 := by
  have hcond : (decide ((s.core c).ms = 0) || !legal) = true := by simpa using h
  simp only [State.runMx, hm, hcond, Bool.not_true, Bool.false_eq_true, if_false, if_true]

end

end Sys2Proof.Machine
end

section
/-!
Rows of the matrix extension in memory (10 R330, R337): loads and stores that reach memory alone, what each instruction of Xtvmx
does on a core that may retire, and the settling of MatrixExtension from it.
-/
namespace Sys2Proof.Machine
open Sys2Proof

theorem State.modCore_modCore (s : State) (c : Nat) (f g : HostCore → HostCore) :
    (s.modCore c f).modCore c g = s.modCore c (fun x => g (f x)) := by
  rw [State.modCore, State.core_modCore]
  simp [State.modCore]

/-- An update of a core leaves the other cores, and all else. -/
theorem State.modCore_only (s : State) (c : Nat) (f : HostCore → HostCore) :
    s.modCore c f = { s with cores := (s.modCore c f).cores } ∧ ∀ d, d ≠ c → (s.modCore c f).core d = s.core d :=
  ⟨rfl, fun _ hd => State.core_modCore_ne s c _ f hd⟩

/-! ### MX_LD -/

/-- One row read from memory into the core. -/
def State.loadRow (u : State) (c acc : Nat) (pos : Nat → Nat) (i : Nat) : State :=
  (u.cohRead 128 (pos i)).2.modCore c (fun x => x.loadRow acc i (ofBytes (u.cohRead 128 (pos i)).1))

theorem State.loadRow_plain {u : State} {pos : Nat → Nat} {i : Nat} (hp : u.plain (pos i)) (c acc : Nat) :
    u.loadRow c acc pos i = u.modCore c (fun x => x.loadRow acc i (u.readNat 128 (pos i))) := by
  rw [State.loadRow, State.cohRead_of_plain u 128 (pos i) hp]
  rfl

/-- An update of the core leaves memory, so that rows read after it are memory's as it was. -/
theorem State.loadRows_modCore {s : State} {pos : Nat → Nat} {is : List Nat} (hp : ∀ i ∈ is, s.plain (pos i)) (c acc : Nat)
    (f : HostCore → HostCore) : is.foldl (fun u i => u.loadRow c acc pos i) (s.modCore c f) =
      s.modCore c (fun x => is.foldl (fun x i => x.loadRow acc i (s.readNat 128 (pos i))) (f x)) := by
  induction is generalizing f with
  | nil => rfl
  | cons i is ih =>
    have hrow : (s.modCore c f).loadRow c acc pos i = s.modCore c (fun x => (f x).loadRow acc i (s.readNat 128 (pos i))) := by
      rw [State.loadRow_plain (u := s.modCore c f) (hp i List.mem_cons_self), State.modCore_modCore]
      rfl
    simp only [List.foldl_cons, hrow]
    exact ih (fun i h => hp i (List.mem_cons_of_mem _ h)) _

/-- Rows whose lines no cache holds are read one after the other. -/
theorem State.loadRows_plain {s : State} {pos : Nat → Nat} {i : Nat} {is : List Nat} (hp : ∀ k ∈ i :: is, s.plain (pos k))
    (c acc : Nat) : (i :: is).foldl (fun u i => u.loadRow c acc pos i) s =
      s.modCore c (fun x => (i :: is).foldl (fun x i => x.loadRow acc i (s.readNat 128 (pos i))) x) := by
  simp only [List.foldl_cons, State.loadRow_plain (hp i List.mem_cons_self)]
  exact State.loadRows_modCore (fun k h => hp k (List.mem_cons_of_mem _ h)) c acc _

section
variable {s : State} {b st : Nat} (hb : b % 128 = 0) (hst : st % 128 = 0)
include hb hst

theorem State.mxLd_rows (c acc : Nat)
    (hr : ∀ i, i < 32 → s.coreMay (rowAddr b st i) 128 = true ∧ s.readResp (rowAddr b st i) 128 = .ok) :
    s.mxLd c acc b st = (List.range 32).foldl (fun u i => u.loadRow c acc (rowAddr b st) i) s := by
  have hnone : (List.range 32).find? (fun i =>
      !s.coreMay (rowAddr b st i) 128 || decide (s.readResp (rowAddr b st i) 128 ≠ .ok)) = none := by
    rw [List.find?_eq_none]
    intro i hi
    obtain ⟨hmay, hok⟩ := hr i (List.mem_range.mp hi)
    simp [hmay, hok]
  simp only [State.mxLd, hb, hst, ne_eq, not_true_eq_false, if_false, hnone]
  rfl

/-- MX_LD of aligned rows that can be read. -/
theorem State.mxLd_plain (c acc : Nat)
    (hr : ∀ i, i < 32 → s.plain (rowAddr b st i) ∧ s.coreMay (rowAddr b st i) 128 = true ∧ s.readResp (rowAddr b st i) 128 = .ok) :
    s.mxLd c acc b st = s.modCore c (fun x =>
      (List.range 32).foldl (fun x i => x.loadRow acc i (s.readNat 128 (rowAddr b st i))) x) := by
  have hplain : ∀ i ∈ List.range 32, s.plain (rowAddr b st i) := fun i hi => (hr i (List.mem_range.mp hi)).1
  rw [State.mxLd_rows hb hst c acc (fun i hi => (hr i hi).2)]
  rw [List.range_succ_eq_map] at hplain ⊢
  exact State.loadRows_plain hplain c acc

end

/-! ### Stores of rows -/

/-- Poison does not stop a write: only the map, the wipes and the channels decide how it ends. -/
theorem State.writeResp_eq (s : State) (a n : Nat) : s.writeResp a n =
    if n = 0 then .ok
    else if !s.mapped a || !s.mapped (a + n - 1) || s.wiping a then .unmapped
    else if s.hbmDown a || s.hbmDown (a + n - 1) then .errOther
    else .ok := by
  unfold State.writeResp State.readResp
  by_cases h0 : n = 0
  · rw [if_pos h0, if_pos h0]
  · rw [if_neg h0, if_neg h0]
    cases !s.mapped a || !s.mapped (a + n - 1) || s.wiping a
    case true => rfl
    case false =>
      cases s.hbmDown a || s.hbmDown (a + n - 1)
      case true => rfl
      case false => cases s.poisoned a n <;> rfl

/-- So no earlier write changes how a write ends. -/
theorem State.writeResp_writeBytes (s : State) (b : Nat) (bs : List Byte) (a n : Nat) :
    (s.writeBytes b bs).writeResp a n = s.writeResp a n := by
  rw [State.writeResp_eq, State.writeResp_eq]
  rfl

/-- Rows `is` written at their addresses, in order. -/
def State.writeRows (s : State) (pos : Nat → Nat) (row : Nat → List Byte) (is : List Nat) : State :=
  is.foldl (fun u i => u.writeBytes (pos i) (row i)) s

theorem State.writeRows_only (s : State) (pos : Nat → Nat) (row : Nat → List Byte) (is : List Nat) : ∃ a b c d,
    s.writeRows pos row is = { s with mem := a, poison := b, injPoison := c, linePoison := d } := by
  induction is generalizing s with
  | nil => exact ⟨_, _, _, _, rfl⟩
  | cons i is ih =>
    obtain ⟨a, b, c, d, h⟩ := ih (s.writeBytes (pos i) (row i))
    exact ⟨a, b, c, d, h⟩

section
variable {pos : Nat → Nat} {row : Nat → List Byte} {n : Nat} (hlen : ∀ i, (row i).length = n)
include hlen

theorem State.readByte_writeRows {is : List Nat} {k : Nat} (hk : ∀ i ∈ is, k < pos i ∨ pos i + n ≤ k) (s : State) :
    (s.writeRows pos row is).readByte k = s.readByte k := by
  induction is generalizing s with
  | nil => rfl
  | cons i is ih =>
    have hout := s.writeBytes_outside (pos i) (row i) k (by rw [hlen]; exact hk i List.mem_cons_self)
    exact (ih (fun i h => hk i (List.mem_cons_of_mem _ h)) _).trans hout

/-- Rows that lie apart read back as written. -/
theorem State.readBytes_writeRows {is : List Nat} (hnd : is.Nodup)
    (hap : ∀ i ∈ is, ∀ j ∈ is, i ≠ j → pos i + n ≤ pos j ∨ pos j + n ≤ pos i) {i : Nat} (hi : i ∈ is) (s : State) :
    (s.writeRows pos row is).readBytes n (pos i) = row i := by
  induction is generalizing s with
  | nil => cases hi
  | cons j is ih =>
    obtain ⟨hj, hnd⟩ := List.nodup_cons.mp hnd
    rcases List.mem_cons.mp hi with rfl | hmem
    · have hkeep : ((s.writeBytes (pos i) (row i)).writeRows pos row is).readBytes n (pos i) =
          (s.writeBytes (pos i) (row i)).readBytes n (pos i) := by
        refine List.map_congr_left (fun k hk => State.readByte_writeRows hlen (fun m hm => ?_) _)
        have hk := List.mem_range.mp hk
        have hne : i ≠ m := fun he => hj (he ▸ hm)
        have := hap i List.mem_cons_self m (List.mem_cons_of_mem _ hm) hne
        omega
      have hrow := State.readBytes_writeBytes s (pos i) (row i)
      rw [hlen] at hrow
      exact hkeep.trans hrow
    · exact ih hnd (fun a ha b hb => hap a (List.mem_cons_of_mem _ ha) b (List.mem_cons_of_mem _ hb)) hmem _

end

/-- Rows that can be written and whose lines no cache holds are stored in order. -/
theorem State.storeRows_plain {s : State} {c acc b st n : Nat} {conv : Nat → List Byte} {is : List Nat}
    (hr : ∀ i ∈ is, s.plain (rowAddr b st i) ∧ s.coreMay (rowAddr b st i) n = true ∧ s.writeResp (rowAddr b st i) n = .ok) :
    s.storeRows c acc b st n conv is =
      s.writeRows (rowAddr b st) (fun i => (List.range 32).flatMap (fun j => conv ((s.core c).elem acc i j))) is := by
  induction is generalizing s with
  | nil => rfl
  | cons i is ih =>
    obtain ⟨hplain, hmay, hok⟩ := hr i List.mem_cons_self
    simp only [State.storeRows, hmay, hok, decide_true, Bool.and_self, if_true, State.cohWrite_of_plain _ _ _ hplain]
    rw [ih]
    · rfl
    · intro k hk
      obtain ⟨hplain, hmay, hok⟩ := hr k (List.mem_cons_of_mem _ hk)
      exact ⟨State.plain_writeBytes hplain _ _, hmay, (State.writeResp_writeBytes ..).trans hok⟩

/-- A store of aligned rows that lie apart, each value `k` bytes: every row holds its element's bytes, no other byte changes. -/
theorem State.mxStore_plain {s : State} {c acc b st n k : Nat} {conv : Nat → List Byte} (hconv : ∀ v, (conv v).length = k)
    (hn : n = 32 * k) (hb : b % n = 0) (hst : st % n = 0) (hle : n ≤ st) (hlt : b + 31 * st < 2 ^ 64)
    (hr : ∀ i, i < 32 → s.plain (b + i * st) ∧ s.coreMay (b + i * st) n = true ∧ s.writeResp (b + i * st) n = .ok) :
    let u := s.mxStore c acc b st n conv
    u.tiles = s.tiles ∧ u.cores = s.cores ∧ u.panels = s.panels ∧
    (∀ i, i < 32 → u.readBytes n (b + i * st) = (List.range 32).flatMap (fun j => conv ((s.core c).elem acc i j))) ∧
    ∀ a, (∀ i, i < 32 → a < b + i * st ∨ b + i * st + n ≤ a) → u.readByte a = s.readByte a := by
  have haddr : ∀ i, i < 32 → rowAddr b st i = b + i * st := by
    intro i hi
    have hmul : i * st ≤ 31 * st := Nat.mul_le_mul_right st (by omega)
    exact Nat.mod_eq_of_lt (by omega)
  have hlen : ∀ i, ((List.range 32).flatMap (fun j => conv ((s.core c).elem acc i j))).length = n := by
    intro i
    simp only [List.length_flatMap, hconv, List.map_const', List.length_range, List.sum_replicate_nat, hn]
  have hapart : ∀ i j, i < j → b + i * st + n ≤ b + j * st := by
    intro i j hij
    have hmul : (i + 1) * st ≤ j * st := Nat.mul_le_mul_right st hij
    rw [Nat.succ_mul] at hmul
    omega
  have hstore : s.mxStore c acc b st n conv = s.writeRows (rowAddr b st)
      (fun i => (List.range 32).flatMap (fun j => conv ((s.core c).elem acc i j))) (List.range 32) := by
    simp only [State.mxStore, hb, hst, ne_eq, not_true_eq_false, if_false]
    refine State.storeRows_plain (fun i hi => ?_)
    rw [haddr i (List.mem_range.mp hi)]
    exact hr i (List.mem_range.mp hi)
  intro u
  have hu : u = _ := hstore
  obtain ⟨_, _, _, _, honly⟩ := s.writeRows_only (rowAddr b st)
    (fun i => (List.range 32).flatMap (fun j => conv ((s.core c).elem acc i j))) (List.range 32)
  refine ⟨by rw [hu, honly], by rw [hu, honly], by rw [hu, honly], fun i hi => ?_, fun a ha => ?_⟩
  · rw [hu, ← haddr i hi]
    refine State.readBytes_writeRows hlen List.nodup_range (fun i hi j hj hne => ?_) (List.mem_range.mpr hi) s
    rw [haddr i (List.mem_range.mp hi), haddr j (List.mem_range.mp hj)]
    exact (Nat.lt_or_gt_of_ne hne).imp (hapart i j) (hapart j i)
  · rw [hu]
    refine State.readByte_writeRows hlen (fun i hi => ?_) s
    rw [haddr i (List.mem_range.mp hi)]
    exact ha i (List.mem_range.mp hi)

/-! ### The instructions -/

section
variable {s : State} {c : CoreId} (hm : s.mayRetire c = true)
include hm

theorem exec_mx_illegal {rd : BitVec 5} (rs1 rs2 : BitVec 5) (h : (s.core c).ms = 0 ∨ 4 ≤ rd.toNat) :
    ∀ i ∈ [Instr.mxZero c rd rs1 rs2, .mxOpa c rd rs1 rs2, .mxOpn c rd rs1 rs2, .mxLd c rd rs1 rs2, .mxSt c rd rs1 rs2,
      .mxStb c rd rs1 rs2], exec i s = .next (s.trap c illegalInst 0) := by
  have hzero : (s.core c).ms = 0 ∨ decide (rd.toNat < 4 ∧ rs1 = 0 ∧ rs2 = 0) = false :=
    h.imp_right (fun h4 => decide_eq_false (fun hl => absurd hl.1 (Nat.not_lt.mpr h4)))
  have hother : (s.core c).ms = 0 ∨ decide (rd.toNat < 4) = false :=
    h.imp_right (fun h4 => decide_eq_false (Nat.not_lt.mpr h4))
  simp only [List.forall_mem_cons, List.not_mem_nil, false_imp_iff, implies_true, and_true]
  refine ⟨congrArg Host.Outcome.next (State.runMx_illegal hm _ hzero), ?_, ?_, ?_, ?_, ?_⟩
  all_goals exact congrArg Host.Outcome.next (State.runMx_illegal hm _ hother)

theorem exec_mxMvr_illegal {rd rs2 : BitVec 5} (rs1 : BitVec 5)
    (h : (s.core c).ms = 0 ∨ 4 ≤ rs2.toNat ∨ rd.toNat % 2 = 1 ∨ (s.core c).vstart ≠ 0) :
    exec (.mxMvr c rd rs1 rs2) s = .next (s.trap c illegalInst 0) := by
  refine congrArg Host.Outcome.next (State.runMx_illegal hm _ (h.imp_right (fun hb => decide_eq_false ?_)))
  rintro ⟨h4, heven, hstart⟩
  rcases hb with hb | hb | hb
  · omega
  · omega
  · exact hb hstart

variable (hs : (s.core c).ms ≠ 0)
include hs

theorem exec_mxZero_legal {rd : BitVec 5} (hrd : rd.toNat < 4) : exec (.mxZero c rd 0 0) s =
    .next (s.modCore c (fun x => (x.setElems rd.toNat (fun _ _ => 0) grid32).dirty)) :=
  congrArg Host.Outcome.next (State.runMx_legal hm _ hs (decide_eq_true ⟨hrd, rfl, rfl⟩))

theorem exec_mxOp_legal (neg : Bool) {rd : BitVec 5} (rs1 rs2 : BitVec 5) (hrd : rd.toNat < 4) :
    exec (if neg then .mxOpn c rd rs1 rs2 else .mxOpa c rd rs1 rs2) s =
      .next (s.modCore c (fun x => x.outer neg rd.toNat rs1.toNat rs2.toNat)) := by
  cases neg
  all_goals exact congrArg Host.Outcome.next (State.runMx_legal hm _ hs (decide_eq_true hrd))

theorem exec_mxMvr_legal {rd rs2 : BitVec 5} (rs1 : BitVec 5) (h2 : rs2.toNat < 4) (hrd : rd.toNat % 2 = 0)
    (hv : (s.core c).vstart = 0) : exec (.mxMvr c rd rs1 rs2) s =
      .next (s.modCore c (fun x => x.mvr rd.toNat (x.xreg rs1) rs2.toNat)) :=
  congrArg Host.Outcome.next (State.runMx_legal hm _ hs (decide_eq_true ⟨h2, hrd, hv⟩))

theorem exec_mxLd_legal {rd : BitVec 5} (rs1 rs2 : BitVec 5) (hrd : rd.toNat < 4) : exec (.mxLd c rd rs1 rs2) s =
    .next (s.mxLd c rd.toNat ((s.core c).xreg rs1) ((s.core c).xreg rs2)) :=
  congrArg Host.Outcome.next (State.runMx_legal hm _ hs (decide_eq_true hrd))

theorem exec_mxSt_legal {rd : BitVec 5} (rs1 rs2 : BitVec 5) (hrd : rd.toNat < 4) : exec (.mxSt c rd rs1 rs2) s =
    .next (s.mxStore c rd.toNat ((s.core c).xreg rs1) ((s.core c).xreg rs2) 128 (toBytes 4)) :=
  congrArg Host.Outcome.next (State.runMx_legal hm _ hs (decide_eq_true hrd))

theorem exec_mxStb_legal {rd : BitVec 5} (rs1 rs2 : BitVec 5) (hrd : rd.toNat < 4) : exec (.mxStb c rd rs1 rs2) s =
    .next (s.mxStore c rd.toNat ((s.core c).xreg rs1) ((s.core c).xreg rs2) 64 toBF16) :=
  congrArg Host.Outcome.next (State.runMx_legal hm _ hs (decide_eq_true hrd))

end

theorem State.mxStore_misaligned (s : State) (c acc st : Nat) {b n : Nat} (conv : Nat → List Byte) (hb : b % n ≠ 0) :
    s.mxStore c acc b st n conv = s.trap c 6 b := if_pos hb

theorem State.mxLd_misaligned (s : State) (c acc st : Nat) {b : Nat} (hb : b % 128 ≠ 0) :
    s.mxLd c acc b st = s.trap c 4 b := if_pos hb

/-- Settles O37: each instruction by what it writes into the core or into memory. -/
theorem matrixExtension : Obligations.MatrixExtension := by
  unfold Obligations.MatrixExtension
  intro s c rd rs1 rs2 hm x only others trap b st
  refine ⟨fun h => exec_mx_illegal hm rs1 rs2 h, fun h => exec_mxMvr_illegal hm rs1 h, ?zero, ?outer, ?mvr,
    fun hs hrd hb => ⟨?ldTrap, ?stTrap⟩, fun hs hrd hb => ?stbTrap, ?ld, ?st, ?stb⟩
  case zero =>
    rintro hs hrd rfl rfl
    refine ⟨_, exec_mxZero_legal hm hs hrd, State.modCore_only .., ?_, ?_, ?_⟩
    · rw [State.core_modCore]
      rfl
    · intro a i j _ ha hi hj
      rw [State.core_modCore, HostCore.elem_dirty, HostCore.elem_setGrid _ _ hi hj, if_neg ha]
    · intro i j hi hj
      rw [State.core_modCore, HostCore.elem_dirty, HostCore.elem_setGrid _ _ hi hj, if_pos rfl, Nat.zero_mod]
  case outer =>
    intro neg hs hrd
    refine ⟨_, exec_mxOp_legal hm hs neg rs1 rs2 hrd, State.modCore_only .., ?_, ?_, ?_⟩
    · rw [State.core_modCore]
      exact HostCore.ms_outer ..
    · intro a i j _ ha hi hj
      rw [State.core_modCore, HostCore.elem_outer _ _ _ _ hi hj, if_neg ha]
    · intro i j hi hj
      rw [State.core_modCore, HostCore.elem_outer _ _ _ _ hi hj, if_pos rfl]
  case mvr =>
    intro hs h2 hrd hv
    refine ⟨_, exec_mxMvr_legal hm hs rs1 h2 hrd hv, State.modCore_only .., ?_, ?_, ?_⟩
    · rw [State.core_modCore]
      exact HostCore.acc_mvr ..
    · intro r h0 h1
      rw [State.core_modCore]
      exact HostCore.v_mvr x _ _ h0 h1
    · intro h j hh hj
      rw [State.core_modCore]
      exact HostCore.bits_mvr x _ _ _ hh hj
  case ldTrap =>
    rw [exec_mxLd_legal hm hs rs1 rs2 hrd, State.mxLd_misaligned s c _ _ hb]
    rfl
  case stTrap =>
    rw [exec_mxSt_legal hm hs rs1 rs2 hrd, State.mxStore_misaligned s c _ _ _ hb]
    rfl
  case stbTrap =>
    rw [exec_mxStb_legal hm hs rs1 rs2 hrd, State.mxStore_misaligned s c _ _ _ hb]
    rfl
  case ld =>
    intro hs hrd hb hst hr
    have hexec := exec_mxLd_legal hm hs rs1 rs2 hrd
    rw [State.mxLd_plain hb hst c rd.toNat hr] at hexec
    have hlt : ∀ i ∈ List.range 32, i < 32 := fun i => List.mem_range.mp
    refine ⟨_, hexec, State.modCore_only .., ?_, ?_, ?_⟩
    · rw [State.core_modCore]
      exact HostCore.ms_loadRange ..
    · intro a i j _ ha hi hj
      rw [State.core_modCore, HostCore.elem_loadRows _ hi hj hlt, if_neg (fun h => ha h.1)]
    · intro i j hi hj
      rw [State.core_modCore, HostCore.elem_loadRows _ hi hj hlt, if_pos ⟨rfl, List.mem_range.mpr hi⟩]
  case st =>
    intro hs hrd hb hst hle hlt hr
    exact ⟨_, exec_mxSt_legal hm hs rs1 rs2 hrd, State.mxStore_plain (toBytes_length 4) rfl hb hst hle hlt hr⟩
  case stb =>
    intro hs hrd hb hst hle hlt hr
    exact ⟨_, exec_mxStb_legal hm hs rs1 rs2 hrd, State.mxStore_plain (k := 2) (fun _ => toBytes_length 2 _) rfl hb hst hle hlt hr⟩

end Sys2Proof.Machine
end

section
/-!
The reduction engine (11 R376 to R380, Table 11.2): a packet's elements are added one after another, each to the six bytes after
the last one's, and the settling of ReductionEngineAdds from this.
-/
namespace Sys2Proof.Machine
open Sys2Proof

/-! ### Ranges of bytes -/

theorem State.onlyBytes_refl (s : State) (a n : Nat) : s.onlyBytes s a n := ⟨rfl, fun _ _ => rfl⟩

/-- Two writes one after another, each inside a range, change that range alone. -/
theorem State.onlyBytes.trans {s u v : State} {a n b m c l : Nat} (h : s.onlyBytes u a n) (k : u.onlyBytes v b m)
    (ha : c ≤ a ∧ a + n ≤ c + l) (hb : c ≤ b ∧ b + m ≤ c + l) : s.onlyBytes v c l := by
  obtain ⟨hu, hbytes⟩ := h
  obtain ⟨kv, kbytes⟩ := k
  exact ⟨by rw [kv, hu], fun i hi => (kbytes i (by omega)).trans (hbytes i (by omega))⟩

/-- A number beside a range that alone changed reads as before. -/
theorem State.bytesOutside.readNat {s u : State} {a n b m : Nat} (h : s.bytesOutside u a n) (hb : b + m ≤ a ∨ a + n ≤ b) :
    u.readNat m b = s.readNat m b :=
  congrArg ofBytes (List.map_congr_left (fun i hi => h (b + i) (by have := List.mem_range.mp hi; omega)))

/-! ### Elements added in a row (R377) -/

/-- The values `vs` added to the elements that lie one after another from `a` on. -/
def State.addRun (s : State) (a : Nat) : List Int → State
  | [] => s
  | v :: vs => (s.addElem a v).addRun (a + 6) vs

/-- The engine's loop over a packet's numbered elements is such a row. -/
theorem State.foldl_addElem {α} (g : α → Int) (a : Nat) (l : List α) (s : State) (k : Nat) :
    (l.zipIdx k).foldl (fun s v => s.addElem (a + 6 * v.2) (g v.1)) s = s.addRun (a + 6 * k) (l.map g) := by
  induction l generalizing s k with
  | nil => rfl
  | cons x l ih =>
    rw [List.zipIdx_cons, List.foldl_cons, ih]
    rfl

theorem State.addElem_onlyBytes (s : State) (a : Nat) (v : Int) : s.onlyBytes (s.addElem a v) a 6 := s.writeNat_onlyBytes ..

theorem unsigned_lt (n : Nat) (v : Int) : unsigned n v < 2 ^ n := by
  have hpos : (0 : Int) < (2 ^ n : Nat) := by exact_mod_cast Nat.two_pow_pos n
  exact (Int.toNat_lt (Int.emod_nonneg v hpos.ne')).mpr (Int.emod_lt_of_pos v hpos)

theorem State.readNat_addElem (s : State) (a : Nat) (v : Int) :
    (s.addElem a v).readNat 6 a = unsigned 48 (signed 48 (s.readNat 6 a) + v) :=
  (s.readNat_writeNat 6 a _).trans (Nat.mod_eq_of_lt (unsigned_lt 48 _))

theorem State.addRun_onlyBytes (s : State) (a : Nat) (vs : List Int) : s.onlyBytes (s.addRun a vs) a (6 * vs.length) := by
  induction vs generalizing s a with
  | nil => exact s.onlyBytes_refl ..
  | cons v vs ih =>
    have hlen : (v :: vs).length = vs.length + 1 := rfl
    exact (s.addElem_onlyBytes a v).trans (ih _ _) (by omega) (by omega)

/-- Each element of the row ends with its own value added and no other. -/
theorem State.readNat_addRun {s : State} {a i : Nat} {vs : List Int} {v : Int} (hv : vs[i]? = some v) :
    (s.addRun a vs).readNat 6 (a + 6 * i) = unsigned 48 (signed 48 (s.readNat 6 (a + 6 * i)) + v) := by
  induction vs generalizing s a i with
  | nil => simp at hv
  | cons w vs ih =>
    cases i with
    | zero =>
      obtain rfl : w = v := by simpa using hv
      have hrest := ((s.addElem a w).addRun_onlyBytes (a + 6) vs).2
      exact (hrest.readNat (.inl (Nat.le_refl _))).trans (s.readNat_addElem a w)
    | succ i =>
      have hat : a + 6 * (i + 1) = a + 6 + 6 * i := by omega
      rw [hat, ← (s.addElem_onlyBytes a w).2.readNat (.inr (by omega))]
      exact ih (by simpa using hv)

/-! ### A packet (R376, R379, R380) -/

/-- What a packet adds for its value `v` under entry `e`: a sum as it stands, an FP32 value as its contribution. -/
def caccElem (p : CaccPacket) (e v : Nat) : Int := if p.kind1 then signed 48 v else (contribution e v).1

/-- The status a packet brings to entry `e`. -/
def caccStatus (p : CaccPacket) (e : Nat) : RStat :=
  if p.kind1 then ⟨p.cof, p.cnf, if p.cmv then some p.cmaxe else none⟩
  else p.vals.foldl (fun a v => a.or (contribution e v).2) {}

theorem caccElem_sum {p : CaccPacket} (hk : p.kind1 = true) (e : Nat) : caccElem p e = signed 48 :=
  funext (fun _ => if_pos hk)

theorem caccElem_fp32 {p : CaccPacket} (hk : p.kind1 = false) (e : Nat) : caccElem p e = Prod.fst ∘ contribution e :=
  funext (fun _ => if_neg (by rw [hk]; decide))

theorem State.fireReduction_noInjection {s : State} (hi : s.noInjection) (p rtid j : Nat) :
    s.fireReduction p rtid j = (s, none) := by
  simp only [State.fireReduction, State.armed_noInjection hi]

/-- Either kind of packet adds its row of values and merges its status into the entry. -/
theorem State.caccApply_noInjection {s : State} (hi : s.noInjection) (p : CaccPacket) :
    let e := (s.panel p.panel).rtab.get 0 p.rtid.val
    s.caccApply p = (s.addRun p.addr (p.vals.map (caccElem p e))).modPanel p.panel
      (fun q => { q with rtab := q.rtab.set 0 p.rtid.val (rtMerge e (caccStatus p e)) }) := by
  intro e
  cases hk : p.kind1
  case true =>
    simp only [State.caccApply, caccStatus, hk, if_true, caccElem_sum hk]
    rw [State.foldl_addElem (signed 48) p.addr p.vals s 0]
    rfl
  case false =>
    have hcs : p.vals.zipIdx.map (fun v => contribution e v.1) = p.vals.map (contribution e) := by
      rw [show (fun v : Nat × Nat => contribution e v.1) = contribution e ∘ Prod.fst from rfl, ← List.map_map,
        List.zipIdx_map_fst]
    simp only [State.caccApply, caccStatus, hk, caccElem_fp32 hk, State.fireReduction_noInjection hi, Bool.false_eq_true, if_false]
    rw [show (s.panel p.panel).rtab.get 0 p.rtid.val = e from rfl, hcs, List.foldl_map,
      State.foldl_addElem Prod.fst p.addr (p.vals.map (contribution e)) s 0, List.map_map]
    rfl

theorem State.caccReceive_added {s : State} {p : CaccPacket}
    (hr : rtRefuse ((s.panel p.panel).rtab.get 0 p.rtid.val) p.addr p.vals.length = none)
    (hw : s.writeResp p.addr (6 * p.vals.length) = .ok) :
    s.caccReceive p = { s with caccs := s.caccs.erase p }.caccApply p := by
  simp only [State.caccReceive, hr]
  exact if_pos hw

theorem State.caccReceive_refused {s : State} {p : CaccPacket} {k : Nat}
    (hr : rtRefuse ((s.panel p.panel).rtab.get 0 p.rtid.val) p.addr p.vals.length = some k) (hx : s.caccTxn p = none) :
    s.caccReceive p = { s with caccs := s.caccs.erase p }.faultJob p.panel p.slot
      { cls := 0x0A, cause := k, addr := p.addr, detail := p.rtid.val, unit := p.src } := by
  have hx' : { s with caccs := s.caccs.erase p }.caccTxn p = none := hx
  simp only [State.caccReceive, hr, State.caccFault, hx']

/-- Settles O32: an admitted packet is a row of additions and a merge, a refused one a fault of its job. -/
theorem reductionEngineAdds : Obligations.ReductionEngineAdds := by
  unfold Obligations.ReductionEngineAdds
  intro s p e n elem status
  refine ⟨fun hr hw hi => ?added, fun k hr hx hj hf => ?refused⟩
  case added =>
    let s0 : State := { s with caccs := s.caccs.erase p }
    have hrecv : s.caccReceive p = _ :=
      (State.caccReceive_added hr hw).trans (State.caccApply_noInjection (s := s0) hi p)
    obtain ⟨honly, hbytes⟩ := s0.addRun_onlyBytes p.addr (p.vals.map (caccElem p e))
    rw [List.length_map] at hbytes
    have hcaccs := congrArg State.caccs honly
    have hrings := congrArg State.rings honly
    have htiles := congrArg State.tiles honly
    refine ⟨_, congrArg Host.Outcome.next hrecv, hcaccs, fun i v hv => ?_, hbytes, hrings, htiles, ?_⟩
    · exact State.readNat_addRun (s := s0) (by rw [List.getElem?_map, hv]; rfl)
    · rw [State.modPanel_eq, State.panel_setPanel, Table.get_set_self]
      rfl
  case refused =>
    let s0 : State := { s with caccs := s.caccs.erase p }
    obtain ⟨hstate, hcause, _⟩ := s0.faultJob_job p.panel p.slot
      { cls := 0x0A, cause := k, addr := p.addr, detail := p.rtid.val, unit := p.src } hj hf
    exact ⟨_, congrArg Host.Outcome.next (State.caccReceive_refused hr hx), hstate, hcause⟩

end Sys2Proof.Machine
end

section
/-!
Vote frames (11 R399, R400, 12 R419 to R421, R439, R440): what reception, classification and application do with the one frame a
connection awaits, and the settling of VoteFrameIsHeld from these.
-/
namespace Sys2Proof.Machine
open Sys2Proof

/-! ### Sequence numbers (R419) -/

@[simp] theorem seqSub_self (q : Nat) : seqSub q q = 0 := by unfold seqSub; omega

theorem seqSub_succ (q : Nat) : seqSub (q + 1) q = 1 := by unfold seqSub; omega

theorem seqInc_of_lt {q : Nat} (h : q < 2 ^ 32 - 1) : seqInc q = q + 1 := by unfold seqInc; omega

/-! ### A connection that awaits a frame -/

/-- Every frame before `q` has been accepted, applied and acknowledged, and none after it has come. -/
structure Conn.Awaits (c : Conn) (q : Nat) : Prop where
  p : c.p = q
  a : c.a = q
  bitmap : c.bitmap = 0
  rx : c.rx = []
  ackP : c.ackP = q
  ackA : c.ackA = q

/-- The connection after it accepted frame `q`, which it holds as `r`. -/
def Conn.held (c : Conn) (q : Nat) (r : RxFrame) : Conn := { c with p := q + 1, rx := c.rx.set none q (some r) }

theorem Conn.rx_held (c : Conn) (q : Nat) (r : RxFrame) : (c.held q r).rx.get none q = some r :=
  Table.get_set_self c.rx none (some r) q

/-- The connection after it accepted and applied frame `q`. -/
def Conn.passed (c : Conn) (q : Nat) : Conn := { c with p := q + 1, a := q + 1 }

@[simp] theorem Conn.passed_a (c : Conn) (q : Nat) : (c.passed q).a = q + 1 := rfl
@[simp] theorem Conn.passed_p (c : Conn) (q : Nat) : (c.passed q).p = q + 1 := rfl

section
variable {c : Conn} {q : Nat} (h : c.Awaits q)
include h

theorem Conn.Awaits.duplicate : c.duplicate q = false := by
  simp [Conn.duplicate, h.p, h.bitmap, bit]

theorem Conn.Awaits.beyond : c.beyond q = false := by
  simp [Conn.beyond, h.p]

theorem Conn.Awaits.nackNow (now : Nat) : c.nackNow q now = false := by
  simp [Conn.nackNow, h.p]

/-- P passes the frame, and no bit of the bitmap is left (R421). -/
theorem Conn.Awaits.holdFrame (hq : q < 2 ^ 32 - 1) (n : Nat) (f : CourseFrame) :
    c.holdFrame q n f = c.held q ⟨f.hdr, f.payload, n, false⟩ := by
  have hadv : advanceP 1025 c.p (c.bitmap + 2 ^ seqSub q c.p) = (q + 1, c.bitmap) := by
    rw [h.p, h.bitmap, seqSub_self, ← seqInc_of_lt hq]
    rfl
  simp only [Conn.holdFrame, hadv, Conn.held]

end

/-! ### Reception (R416, R418, R420) -/

theorem State.fireCourse_noInjection {s : State} (hi : s.noInjection) (n : Nat) : s.fireCourse n = (s, false) := by
  simp only [State.fireCourse, State.armed_noInjection hi]

/-- Port `n` has counted a received frame. -/
def State.countRx (s : State) (n : Nat) : State := s.modPort n (fun x => { x with rxf := satAdd 0xFFFFFFFF x.rxf 1 })

/-- An intact frame of a connection is counted and goes to it. -/
theorem State.receive_intact {s : State} {n k : Nat} {f : CourseFrame} (hi : s.noInjection) (hf : s.frameIntact n f = true)
    (hk : s.connOf f.hdr = some k) : s.receive n f = (s.countRx n, some k) := by
  have hk' : (s.countRx n).connOf f.hdr = some k := hk
  simp only [State.receive, State.fireCourse_noInjection hi, hf, Bool.not_true, Bool.or_self, Bool.false_eq_true, if_false]
  rw [← State.countRx, hk']

theorem State.voteReceive_intact {s : State} {n k : Nat} {f : CourseFrame} (ho : s.portOpen n = true) (hi : s.noInjection)
    (hf : s.frameIntact n f = true) (ht : fhType f.hdr = 3) (hk : s.connOf f.hdr = some k) :
    s.voteReceive n f = ((s.countRx n).setConn k ((s.conn k).acknowledge (fhAckseq f.hdr))).voteSorted n k f := by
  simp only [State.voteReceive, ho, ht, State.receive_intact hi hf hk]
  simp [State.modConn_eq, State.countRx]

/-- The awaited frame is accepted when the port has room for it. -/
theorem State.classify_awaited {s : State} {n k : Nat} {f : CourseFrame} (h : (s.conn k).Awaits (fhSeq f.hdr))
    (hq : fhSeq f.hdr < 2 ^ 32 - 1) (hroom : s.rxFull n f.payload.length = false) :
    s.classify n k f = (s.setConn k ((s.conn k).held (fhSeq f.hdr) ⟨f.hdr, f.payload, n, false⟩), true) := by
  simp only [State.classify, h.duplicate, h.beyond, hroom, h.nackNow, State.modConn_eq, h.holdFrame hq, Bool.false_eq_true,
    if_false]

/-- No ACK is due one frame after the last (R421). -/
theorem State.ackIfDue_early {s : State} {k : Nat} (n : Nat) (hp : seqSub (s.conn k).p (s.conn k).ackP < 16)
    (ha : seqSub (s.conn k).a (s.conn k).ackA < 16) : s.ackIfDue k n = s := by
  refine if_neg (fun hdue => ?_)
  simp only [Bool.and_eq_true, decide_eq_true_eq] at hdue
  omega

/-! ### Application (R420, R440) -/

/-- A passes the applied VOTE frame it stands at, and stops where no frame is held. -/
theorem State.advanceA_vote {s : State} {k : Nat} {r : RxFrame} (m : Nat) (hr : (s.conn k).rx.get none (s.conn k).a = some r)
    (ha : r.applied = true) (ht : fhType r.hdr ≠ 0)
    (hnext : ((s.conn k).rx.set none (s.conn k).a none).get none (seqInc (s.conn k).a) = none) :
    State.advanceA k (m + 2) s =
      s.setConn k { s.conn k with a := seqInc (s.conn k).a, rx := (s.conn k).rx.set none (s.conn k).a none } := by
  rw [State.advanceA]
  simp only [hr, ha, ht, decide_false, Bool.false_and, Bool.not_true, Bool.false_eq_true, if_false]
  rw [State.advanceA]
  simp only [State.conn_setConn, hnext]

/-- A held VOTE frame that A stands at is marked applied, A advances, and the frame's record goes to the table. -/
theorem State.frameApplied_vote {s : State} {k q : Nat} {r : RxFrame} (hr : (s.conn k).rx.get none q = some r)
    (hat : (s.conn k).a = q) (ha : r.applied = false) (ht : fhType r.hdr = 3) :
    s.frameApplied k q = ((State.advanceA k 1025 (s.setConn k { s.conn k with
      rx := (s.conn k).rx.set none q (some { r with applied := true }) })).ackIfDue k r.port).applyVote k r := by
  simp [State.frameApplied, hr, hat, ha, ht, State.modConn_eq]

/-- A passes an awaited VOTE frame that has been held and applied. -/
theorem State.advanceA_awaited {s : State} {c : Conn} {k q : Nat} {r : RxFrame} (h : c.Awaits q) (hq : q < 2 ^ 32 - 1)
    (hc : s.conn k = c.held q r) (ha : r.applied = true) (ht : fhType r.hdr = 3) :
    State.advanceA k 1025 s = s.setConn k (c.passed q) := by
  have hat : (s.conn k).a = q := by rw [hc]; exact h.a
  have hget : (s.conn k).rx.get none q = some r := by rw [hc]; exact c.rx_held q r
  have hleft : (s.conn k).rx.set none q none = c.rx := by
    rw [hc, Conn.held, Table.set_set, h.rx]
    rfl
  have htype : fhType r.hdr ≠ 0 := by rw [ht]; decide
  rw [State.advanceA_vote 1023 (by rw [hat, hget]) ha htype (by rw [hat, hleft, h.rx]; rfl), hat, hleft, seqInc_of_lt hq, hc]
  rfl

theorem State.ackIfDue_held {s : State} {c : Conn} {k q : Nat} {r : RxFrame} (h : c.Awaits q) (hc : s.conn k = c.held q r)
    (n : Nat) : s.ackIfDue k n = s := by
  apply State.ackIfDue_early <;> rw [hc] <;> simp [Conn.held, h.a, h.ackP, h.ackA, seqSub_succ]

theorem State.ackIfDue_passed {s : State} {c : Conn} {k q : Nat} (h : c.Awaits q) (hc : s.conn k = c.passed q)
    (n : Nat) : s.ackIfDue k n = s := by
  apply State.ackIfDue_early <;> rw [hc] <;> simp [Conn.passed, h.ackP, h.ackA, seqSub_succ]

/-- The awaited VOTE frame is accepted and applied at once. -/
theorem State.voteSorted_awaited {s : State} {n k : Nat} {f : CourseFrame} (h : (s.conn k).Awaits (fhSeq f.hdr))
    (hq : fhSeq f.hdr < 2 ^ 32 - 1) (hroom : s.rxFull n f.payload.length = false) (ht : fhType f.hdr = 3) :
    s.voteSorted n k f = (s.setConn k ((s.conn k).passed (fhSeq f.hdr))).applyVote k ⟨f.hdr, f.payload, n, false⟩ := by
  let r : RxFrame := ⟨f.hdr, f.payload, n, false⟩
  let u := s.setConn k ((s.conn k).held (fhSeq f.hdr) r)
  have hu : u.conn k = (s.conn k).held (fhSeq f.hdr) r := State.conn_setConn ..
  have hget : (u.conn k).rx.get none (fhSeq f.hdr) = some r := by rw [hu]; exact Conn.rx_held ..
  have hat : (u.conn k).a = fhSeq f.hdr := by rw [hu]; exact h.a
  have hmark : u.setConn k { u.conn k with rx := (u.conn k).rx.set none (fhSeq f.hdr) (some { r with applied := true }) } =
      s.setConn k ((s.conn k).held (fhSeq f.hdr) { r with applied := true }) := by
    rw [State.setConn_setConn, hu]
    simp only [Conn.held, Table.set_set]
  simp only [State.voteSorted, State.classify_awaited h hq hroom, if_true]
  rw [State.ackIfDue_held h hu, State.frameApplied_vote hget hat rfl ht, hmark,
    State.advanceA_awaited h hq (State.conn_setConn ..) rfl ht, State.setConn_setConn,
    State.ackIfDue_passed h (State.conn_setConn ..)]

theorem State.voteReceive_awaited {s : State} {n k : Nat} {f : CourseFrame} (ho : s.portOpen n = true) (hi : s.noInjection)
    (hf : s.frameIntact n f = true) (hk : s.connOf f.hdr = some k) (ht : fhType f.hdr = 3)
    (h : ((s.conn k).acknowledge (fhAckseq f.hdr)).Awaits (fhSeq f.hdr)) (hq : fhSeq f.hdr < 2 ^ 32 - 1)
    (hroom : ((s.countRx n).setConn k ((s.conn k).acknowledge (fhAckseq f.hdr))).rxFull n f.payload.length = false) :
    s.voteReceive n f = ((s.countRx n).setConn k (((s.conn k).acknowledge (fhAckseq f.hdr)).passed (fhSeq f.hdr))).applyVote k
      ⟨f.hdr, f.payload, n, false⟩ := by
  have hconn := State.conn_setConn (s.countRx n) k ((s.conn k).acknowledge (fhAckseq f.hdr))
  rw [State.voteReceive_intact ho hi hf ht hk, State.voteSorted_awaited (by rwa [hconn]) hq hroom ht, hconn, State.setConn_setConn]

/-! ### The vote table (R399, R400, R439) -/

/-- With the module's own READY not waiting there is nothing to decide. -/
theorem State.voteCheck_idle {s : State} {p j : Nat} (h : (s.job p j).vote = none) : s.voteCheck p j = s := by
  simp only [State.voteCheck, h]

/-- Address of a rank's record of a STEP in a job's vote table. -/
def State.voteSlot (s : State) (p j r step : Nat) : Nat := (s.job p j).vtab + 128 * r + 64 * (step % 2)

/-- A job's READY of rank `r` for `step` takes the place of the rank's READY of the same parity. -/
def Job.readied (b : Job) (r step : Nat) : Job :=
  { b with ready := b.ready.filter (fun x => !(x.1 = r && x.2 % 2 = step % 2)) ++ [(r, step)] }

theorem Job.mem_ready_readied (b : Job) (r step : Nat) : (r, step) ∈ (b.readied r step).ready :=
  List.mem_append_right _ List.mem_cons_self

theorem State.holdReady_plain {s : State} {p j r : Nat} {bs : List Byte} (hlen : bs.length = 64)
    (hp : s.plain (s.voteSlot p j r (ofBytes (bs.take 8)))) :
    s.holdReady p j r bs = (s.writeBytes (s.voteSlot p j r (ofBytes (bs.take 8))) bs).setJob p j
      ((s.job p j).readied r (ofBytes (bs.take 8))) := by
  have hwrite := State.cohWrite_of_plain s _ (bs.take 64) hp
  rw [List.take_of_length_le (Nat.le_of_eq hlen)] at hwrite
  simp only [State.holdReady, List.take_of_length_le (Nat.le_of_eq hlen)]
  rw [← State.voteSlot, hwrite]
  rfl

theorem State.applyVote_idle {s : State} {k : Nat} {r : RxFrame} (hv : (s.job (keyPanel k) (keySlot k)).vote = none)
    (hlen : r.payload.length = 64)
    (hp : s.plain (s.voteSlot (keyPanel k) (keySlot k) (keyRank k) (ofBytes (r.payload.take 8)))) :
    s.applyVote k r = (s.writeBytes (s.voteSlot (keyPanel k) (keySlot k) (keyRank k) (ofBytes (r.payload.take 8))) r.payload).setJob
      (keyPanel k) (keySlot k) ((s.job (keyPanel k) (keySlot k)).readied (keyRank k) (ofBytes (r.payload.take 8))) := by
  rw [State.applyVote, State.holdReady_plain hlen hp, State.voteCheck_idle (by rw [State.job_setJob]; exact hv)]

theorem State.setJob_conn (s : State) (p j : Nat) (v : Job) (k : Nat) : (s.setJob p j v).conn k = s.conn k := rfl

/-- Settles O43: the frame is the one its connection awaits, so it is held, applied, and its record written. -/
theorem voteFrameIsHeld : Obligations.VoteFrameIsHeld := by
  unfold Obligations.VoteFrameIsHeld
  intro s n f key ho hi got c p j step a hf hk ht hlen hv hplain hseq hpa hq hbm hrx hroom hackP hackA _
  have hawaits : c.Awaits (fhSeq f.hdr) :=
    ⟨hseq.symm, (hseq.trans hpa).symm, hbm, hrx, hackP.trans hseq.symm, hackA.trans (hseq.trans hpa).symm⟩
  have hrecv := State.voteReceive_awaited ho hi hf hk ht hawaits (by rwa [hseq]) (by rwa [hlen])
  let v : State := got.setConn key (c.passed (fhSeq f.hdr))
  have hvote := State.applyVote_idle (s := v) (r := ⟨f.hdr, f.payload, n, false⟩) hv hlen hplain
  have hconn : v.conn key = c.passed (fhSeq f.hdr) := State.conn_setConn ..
  have hbytes := v.readBytes_writeBytes a f.payload
  have hout := v.writeBytes_outside a f.payload
  rw [hlen] at hbytes hout
  refine ⟨_, congrArg Host.Outcome.next (hrecv.trans hvote), ?ready, ?bytes, ?outside, ?passA, ?passP⟩
  case ready =>
    rw [State.job_setJob]
    exact Job.mem_ready_readied ..
  case bytes => exact hbytes
  case outside => exact hout
  case passA =>
    rw [State.setJob_conn, State.writeBytes_connR, hconn, Conn.passed_a, hseq, hpa]
  case passP =>
    rw [State.setJob_conn, State.writeBytes_connR, hconn, Conn.passed_p, hseq]

end Sys2Proof.Machine
end

section
/-!
Course commands and the vote (11 R402, 12 R431, R432, R436, R438): sound accesses of the units outside the tile plane, the end of
a job by the vote, how a command starts and completes, and the settling of CourseCommandsStartAndComplete from these.
-/
namespace Sys2Proof.Machine
open Sys2Proof

/-! ### Sound accesses of a port or engine -/

/-- A sound read, with no injection armed, that reaches memory alone gives the bytes. -/
theorem State.unitRead_plain {s : State} {n a : Nat} (job : Option (Nat × Nat)) (hi : s.noInjection) (hn : 0 < n)
    (hp : s.plain a) (hr : s.readResp a n = .ok) : s.unitRead job n a = (s, .ok (s.readBytes n a)) := by
  simp [State.unitRead, Nat.ne_of_gt hn, State.fireRead_noInjection hi, State.cohRead_of_plain s n a hp, hr]

/-- A sound write that reaches memory alone stores the bytes. -/
theorem State.unitWrite_plain {s : State} {a : Nat} {bs : List Byte} (hp : s.plain a) (hr : s.writeResp a bs.length = .ok) :
    s.unitWrite a bs = (s.writeBytes a bs, none) := by
  simp only [State.unitWrite, hr, State.cohWrite_of_plain s a bs hp]

/-! ### Tracing off (R608) -/

theorem State.traceUnit_noTrace {s : State} (hn : s.noTrace) (p : Nat) (q : Option Nat) (rec : Trace) :
    s.traceUnit p q rec = s := by
  simp [State.traceUnit, Panel.traces, hn p, bit]

/-- Without a record, a command's completion sends its remote add, where it has one. -/
theorem State.unitDone_unrecorded {s : State} (hn : s.noTrace) (unit : Agent) (q : Option Nat) (g p j : Nat) (pos : Count)
    (sigen : Bool) (tile ctr val outcome flags : Nat) :
    s.unitDone unit q g p j pos false sigen tile ctr val outcome flags =
      if sigen then s.sendAdd unit p tile j ctr val else s := by
  have hu : (if sigen then s.sendAdd unit p tile j ctr val else s).noTrace := by
    split <;> exact hn
  exact State.traceUnit_noTrace hu ..

/-! ### The end of a job by the vote (R402, R441) -/

@[simp] theorem State.putOutcome_job (s : State) (p j step outcome peer q k : Nat) :
    (s.putOutcome p j step outcome peer).job q k = s.job q k := by
  have h := (State.cohWrite_cohOnly s (s.job p j).outr
    (toBytes 16 (step % 2 ^ 64 + outcome * 2 ^ 64 + peer % 1024 * 2 ^ 80))).panels
  exact congrArg (fun t : Table Panel => (t.get {} q).jobs.get {} k) h

/-- A running job with no fault on record ends with ECAUSE 3 when another module told of the ABORT, else with ECAUSE 2. -/
theorem State.voteAbort_job {s : State} {p j : Nat} (hs : (s.job p j).jstate = 1) (hf : (s.job p j).faulted = false)
    (step outcome peer : Nat) : ((s.voteAbort p j step outcome peer).job p j).jstate = 2 ∧
    ((s.voteAbort p j step outcome peer).job p j).ecause = if outcome = 4 then 3 else 2 := by
  have hrun : ∀ u : State, (u.job p j).jstate = 1 → ∀ c,
      ((u.endJob p j c).job p j).jstate = 2 ∧ ((u.endJob p j c).job p j).ecause = c := by
    intro u hu c
    rw [State.endJob_job u p j c hu]
    exact ⟨rfl, rfl⟩
  rw [State.voteAbort, if_neg (not_not.mpr hs)]
  refine hrun _ ?_ _
  by_cases ho : outcome = 4 <;> simp [ho, hf, hs, State.modJob_eq]

/-! ### Started commands a port may lose, and none it gains -/

/-- From `s` to `u` no port gains a started command. -/
structure State.CmdsFrom (s u : State) : Prop where
  mem : ∀ n, ∀ x ∈ (u.port n).cmds, x ∈ (s.port n).cmds

theorem State.CmdsFrom.trans {s u v : State} (h : s.CmdsFrom u) (k : u.CmdsFrom v) : s.CmdsFrom v :=
  ⟨fun n x hx => h.mem n x (k.mem n x hx)⟩

theorem State.CmdsFrom.of_ports {s u : State} (h : u.ports = s.ports) : s.CmdsFrom u := by
  refine ⟨fun n x hx => ?_⟩
  rwa [State.port, h] at hx

theorem State.CmdsFrom.foldl {α} {f : State → α → State} (hf : ∀ (s : State) a, s.CmdsFrom (f s a)) (l : List α) (s : State) :
    s.CmdsFrom (l.foldl f s) := by
  induction l generalizing s with
  | nil => exact .of_ports rfl
  | cons a l ih => exact (hf s a).trans (ih _)

theorem State.RecOnly.ports {s u : State} (h : s.RecOnly u) : u.ports = s.ports := by
  obtain ⟨_, _, _, _, _, _, _, _, _, _, _, _, rfl⟩ := h
  rfl

/-- An update of a port that leaves its commands. -/
theorem State.modPort_cmdsFrom (s : State) (n : Nat) (f : CPort → CPort) (hf : ∀ x, (f x).cmds = x.cmds) :
    s.CmdsFrom (s.modPort n f) := by
  refine ⟨fun m x hx => ?_⟩
  by_cases h : m = n
  · rwa [h, State.port_modPort, hf, ← h] at hx
  · rwa [State.port_modPort_ne _ _ _ _ h] at hx

theorem State.sendFrame_cmdsFrom (s : State) (port remote : Nat) (h : CHdr) (bs : List Byte) :
    s.CmdsFrom (s.sendFrame port remote h bs) := by
  unfold State.sendFrame
  refine State.CmdsFrom.trans ?_ (State.modPort_cmdsFrom _ port _ ?_)
  · exact .of_ports rfl
  · exact fun _ => rfl

theorem State.sendAbort_cmdsFrom (s : State) (p j step outcome peer : Nat) : s.CmdsFrom (s.sendAbort p j step outcome peer) := by
  unfold State.sendAbort
  dsimp only
  split
  · exact .of_ports rfl
  · exact State.CmdsFrom.trans (.foldl (fun s f => s.sendFrame_cmdsFrom ..) _ s) (.of_ports rfl)

/-- Stopping a slot drops its commands. -/
theorem State.stopSlot_cmdsFrom (s : State) (p j : Nat) : s.CmdsFrom (s.stopSlot p j) := by
  unfold State.stopSlot
  dsimp only
  generalize hu : List.foldl _ _ _ = u
  have freed : s.CmdsFrom u := by
    subst hu
    refine State.CmdsFrom.trans ?_ (.foldl (fun s a => ?_) _ _)
    · exact .of_ports rfl
    · split <;> exact .of_ports rfl
  refine freed.trans ⟨fun n x hx => ?_⟩
  rw [State.port, Table.get_update _ _ _ (fun _ => rfl)] at hx
  exact (List.mem_filter.mp hx).1

theorem State.endJob_cmdsFrom (s : State) (p j ecause : Nat) : s.CmdsFrom (s.endJob p j ecause) := by
  unfold State.endJob
  dsimp only
  split
  · refine State.CmdsFrom.trans ?_ (State.stopSlot_cmdsFrom _ p j)
    exact .of_ports rfl
  · split <;> exact .of_ports rfl

theorem State.putOutcome_cmdsFrom (s : State) (p j step outcome peer : Nat) :
    s.CmdsFrom (s.putOutcome p j step outcome peer) :=
  .of_ports (State.cohWrite_cohOnly ..).rec.ports

theorem State.voteAbort_cmdsFrom (s : State) (p j step outcome peer : Nat) :
    s.CmdsFrom (s.voteAbort p j step outcome peer) := by
  unfold State.voteAbort
  dsimp only
  split
  · exact .of_ports rfl
  · refine State.CmdsFrom.trans ?_ (State.endJob_cmdsFrom ..)
    have hrecorded : s.CmdsFrom (if (s.job p j).faulted then s.putOutcome p j step outcome peer else
        ((s.putOutcome p j step outcome peer).modJob p j (fun b => { b with faulted := true })).emit
          { cls := 0x0F, cause := outcome, jend := true, job := some (p, j), unit := .manager, detail := step % 2 ^ 64 }) := by
      split
      · exact s.putOutcome_cmdsFrom ..
      · exact (s.putOutcome_cmdsFrom ..).trans (.of_ports (State.emit_rec ..).ports)
    split
    · exact hrecorded
    · exact hrecorded.trans (State.sendAbort_cmdsFrom ..)

/-- A ring with no command on its way stays so when its port gains none. -/
theorem State.CmdsFrom.courseActive {s u : State} (h : s.CmdsFrom u) {n i : Nat} (ha : s.courseActive n i = none) :
    u.courseActive n i = none :=
  List.find?_eq_none.mpr (fun x hx => List.find?_eq_none.mp ha x (h.mem n x hx))

/-! ### Starting (R430, R431) -/

/-- A command at the head of its ring, with no wait, starts; it sends nothing when no command is then on its way. -/
theorem State.courseRow_begins {s : State} {n i op w : Nat} (ha : s.courseActive n i = none) (hw : s.courseHead n i = some w)
    (hwait : ccWaddr w = 0) (ho : ccOp w = op) (hidle : (s.courseBegin n i w).courseActive n i = none) :
    s.courseRow n i op = s.courseBegin n i w := by
  simp [State.courseRow, ha, hw, ho, State.courseStart, hwait, hidle]

/-- HEAD of a course ring has passed one entry. -/
def State.coursePassed (s : State) (n i : Nat) : State := s.setRing (crsRing n i) ((s.ring (crsRing n i)).pass 1)

theorem State.unitStarts_coursePassed {s : State} (hn : s.noTrace) (n i : Nat) (unit : Agent) (q : Option Nat) (p j : Nat)
    (pos : Count) (op : Nat) :
    (s.modRing (crsRing n i) (fun r => r.pass 1)).unitStarts unit q p j pos op = s.coursePassed n i :=
  State.traceUnit_noTrace (s := s.coursePassed n i) hn ..

theorem State.courseBegin_nop {s : State} {n i w : Nat} (hn : s.noTrace) (ho : ccOp w = 0) :
    s.courseBegin n i w = (s.coursePassed n i).modPort n (fun y => { y with
      cmds := y.cmds ++ [{ ring := i, pos := (s.ring (crsRing n i)).head, w := w, sent := true }] }) := by
  simp [State.courseBegin, State.unitStarts_coursePassed hn, ho]

theorem State.courseBegin_abort {s : State} {n i w : Nat} (hn : s.noTrace) (ho : ccOp w = 0x21) :
    s.courseBegin n i w = (s.coursePassed n i).voteAbort (crsPanel i) (crsSlot i) (s.job (crsPanel i) (crsSlot i)).voteStep 6
      (s.job (crsPanel i) (crsSlot i)).rank := by
  simp only [State.courseBegin, State.unitStarts_coursePassed hn, ho, if_true]
  rfl

/-- A command that starts sent is not on its way. -/
theorem State.courseActive_append_sent {s : State} {n i : Nat} {x : CourseCmd} (ha : s.courseActive n i = none)
    (hx : x.sent = true) : (s.modPort n (fun y => { y with cmds := y.cmds ++ [x] })).courseActive n i = none := by
  have hold := List.find?_eq_none.mp ha
  rw [State.courseActive, State.port_modPort, List.find?_append, List.find?_eq_none.mpr hold]
  simp [hx]

/-! ### Collectives and completion (R431, R436, R438) -/

/-- The word that counts the arrivals a collective waits for in its phase. -/
def State.arrivalsAt (s : State) (i : Nat) (x : CourseCmd) : Nat :=
  wnAddr ((s.panel (crsPanel i)).wins.get 0 (ccWin x.w)) + if x.phase = 1 then 8 else 16

/-- How many arrivals it waits for. -/
def CourseCmd.awaited (x : CourseCmd) : Nat := if x.phase = 1 then ccTacc x.w else ccTput x.w

theorem State.phaseAdvance_reads {s : State} {n i : Nat} {x : CourseCmd}
    (hx : (s.port n).cmds.find? (fun c => decide (c.ring = i) && decide (c.phase = 1 ∨ c.phase = 3)) = some x)
    (hna : wnAddr ((s.panel (crsPanel i)).wins.get 0 (ccWin x.w)) ≠ 0) (hi : s.noInjection) (hp : s.plain (s.arrivalsAt i x))
    (hr : s.readResp (s.arrivalsAt i x) 8 = .ok) :
    s.phaseAdvance n i = if seqSub (s.readNat 8 (s.arrivalsAt i x) % 2 ^ 32) x.awaited < 2 ^ 31 then
        s.modCmd n i x.pos (fun y => { y with phase := if y.phase = 1 ∧ ccOp y.w = 0x10 then 2 else 4 })
      else s := by
  have hread := State.unitRead_plain (some (crsPanel i, crsSlot i)) hi (by decide) hp hr
  unfold State.arrivalsAt at hread
  simp only [State.phaseAdvance, hx, if_neg hna, hread]
  rfl

theorem State.courseComplete_done {s : State} {n i : Nat} {x : CourseCmd}
    (hx : (s.port n).cmds.find? (fun c => c.ring = i) = some x) (hs : x.sent = true)
    (hc : ccCollective (ccOp x.w) = false ∨ x.phase = 4) (hg : s.framesGone n (crsPanel i) (crsSlot i) x = true) :
    s.courseComplete n i = (s.modPort n (fun y => { y with cmds := y.cmds.erase x })).unitDone (portAgent n) (some n)
      (crsRing n i) (crsPanel i) (crsSlot i) x.pos (ccRec x.w) (ccSigen x.w) (ccSigtile x.w) (ccSigctr x.w) (ccSigval x.w) 0 0 := by
  have hdone : (!ccCollective (ccOp x.w) || decide (x.phase = 4)) = true := by
    simpa using hc
  simp only [State.courseComplete, hx, hs, hdone, hg, Bool.and_self, if_true]

/-! ### Settling -/

/-- Settles O41: a command without a wait starts at once, and what it then does is its start's, its phase's or its completion's. -/
theorem courseCommandsStartAndComplete : Obligations.CourseCommandsStartAndComplete := by
  unfold Obligations.CourseCommandsStartAndComplete
  intro s n i hn g p j pt
  refine ⟨?nop, ?abort, ?phase, ?complete⟩
  case nop =>
    intro w ha hw hwait ho
    have hb := State.courseBegin_nop (n := n) (i := i) hn ho
    have hidle : (s.courseBegin n i w).courseActive n i = none := by
      rw [hb]
      exact State.courseActive_append_sent (s := s.coursePassed n i) ha rfl
    exact congrArg Host.Outcome.next ((State.courseRow_begins ha hw hwait ho hidle).trans hb)
  case abort =>
    intro w ha hw hwait ho hs hf
    have hb := State.courseBegin_abort (n := n) (i := i) hn ho
    have hidle : (s.courseBegin n i w).courseActive n i = none := by
      rw [hb]
      exact (State.voteAbort_cmdsFrom ..).courseActive (s := s.coursePassed n i) ha
    refine ⟨_, congrArg Host.Outcome.next ((State.courseRow_begins ha hw hwait ho hidle).trans hb), ?_⟩
    exact State.voteAbort_job (s := s.coursePassed n i) hs hf _ 6 _
  case phase =>
    intro x hx na a target hna hi hp hr
    have hrun := State.phaseAdvance_reads hx hna hi hp hr
    refine ⟨fun hmet => ?_, fun hmiss => ?_⟩
    · exact congrArg Host.Outcome.next (hrun.trans (if_pos hmet))
    · exact congrArg Host.Outcome.next (hrun.trans (if_neg (Nat.not_lt.mpr hmiss)))
  case complete =>
    intro x hx hs hc hg hrec add u
    have hrun : s.courseComplete n i = if ccSigen x.w then
        u.sendAdd (portAgent n) p (ccSigtile x.w) j (ccSigctr x.w) (ccSigval x.w) else u := by
      rw [State.courseComplete_done hx hs hc hg, hrec]
      exact State.unitDone_unrecorded (s := u) hn ..
    refine ⟨fun hadd => ?_, fun hnone => ?_⟩
    · exact congrArg Host.Outcome.next (hrun.trans (if_pos hadd))
    · exact congrArg Host.Outcome.next (hrun.trans (if_neg (by simp [hnone])))

end Sys2Proof.Machine
end

section
/-!
Frames that a course command sends (12 R417 to R420, R432, R436, R440): what goes out with one frame, on its connection and from
its command, and the settling of CourseCommandSendsItsFrame from these.
-/
namespace Sys2Proof.Machine
open Sys2Proof

/-! ### A frame leaves on a port (R418) -/

@[simp] theorem State.sendFrame_courseTx (s : State) (n r : Nat) (h : CHdr) (bs : List Byte) :
    (s.sendFrame n r h bs).courseTx = s.courseTx ++ [⟨n, r, s.courseHdr h bs, bs⟩] := rfl
@[simp] theorem State.sendFrame_conns (s : State) (n r : Nat) (h : CHdr) (bs : List Byte) :
    (s.sendFrame n r h bs).conns = s.conns := rfl
@[simp] theorem State.sendFrame_mem (s : State) (n r : Nat) (h : CHdr) (bs : List Byte) :
    (s.sendFrame n r h bs).mem = s.mem := rfl
@[simp] theorem State.sendFrame_tiles (s : State) (n r : Nat) (h : CHdr) (bs : List Byte) :
    (s.sendFrame n r h bs).tiles = s.tiles := rfl
@[simp] theorem State.sendFrame_panels (s : State) (n r : Nat) (h : CHdr) (bs : List Byte) :
    (s.sendFrame n r h bs).panels = s.panels := rfl
@[simp] theorem State.sendFrame_rings (s : State) (n r : Nat) (h : CHdr) (bs : List Byte) :
    (s.sendFrame n r h bs).rings = s.rings := rfl
@[simp] theorem State.sendFrame_conn (s : State) (n r : Nat) (h : CHdr) (bs : List Byte) (k : Nat) :
    (s.sendFrame n r h bs).conn k = s.conn k := rfl

theorem State.courseHdr_setConn (s : State) (k : Nat) (c : Conn) (h : CHdr) (bs : List Byte) :
    (s.setConn k c).courseHdr h bs = s.courseHdr h bs := by
  unfold State.courseHdr
  rfl

/-- The port counts the frame, and no port's commands change. -/
@[simp] theorem State.sendFrame_cmds (s : State) (n r : Nat) (h : CHdr) (bs : List Byte) (m : Nat) :
    ((s.sendFrame n r h bs).port m).cmds = (s.port m).cmds := by
  unfold State.sendFrame
  by_cases hm : m = n
  · rw [hm, State.port_modPort]
    rfl
  · rw [State.port_modPort_ne _ _ _ _ hm]
    rfl

/-! ### What a frame carries (R419, R440) -/

/-- The payload of a frame: a vote frame's record, or the bytes of its source, which can be read. -/
def State.Carries (s : State) (f : SentFrame) (bs : List Byte) : Prop :=
  (f.vote = true ∧ bs = f.payload) ∨
  (f.vote = false ∧ 0 < f.len ∧ s.plain f.src ∧ s.readResp f.src f.len = .ok ∧ bs = s.readBytes f.len f.src)

/-- A frame whose payload can be read goes out on its path. -/
theorem State.transmit_carries {s : State} {f : SentFrame} {bs : List Byte} (k : Nat)
    (hi : f.vote = false → s.noInjection) (h : s.Carries f bs) :
    s.transmit k f = (s.sendFrame ((s.conn k).paths.getD f.path (0, 0)).1 ((s.conn k).paths.getD f.path (0, 0)).2
      (s.frameHdr k (s.conn k) f) bs, none) := by
  obtain ⟨hv, rfl⟩ | ⟨hv, hn, hp, hr, rfl⟩ := h
  · simp [State.transmit, hv]
  · simp [State.transmit, hv, State.unitRead_plain _ (hi hv) hn hp hr]

/-! ### The first transmission of a frame (R419) -/

/-- The connection after the first transmission of `f` on path `m`: the frame stands on it until it is accepted. -/
def Conn.sentOn (c : Conn) (f : SentFrame) (m : Nat) : Conn :=
  { c with seq := seqInc c.seq, rr := (m + 1) % c.paths.length, frames := c.frames ++ [{ f with seq := c.seq, path := m }] }

/-- A frame goes out when its connection's window, a path and the path's port have room for it. -/
theorem State.sendNew_goes {s : State} {k m : Nat} {f : SentFrame} {bs : List Byte} (hm : s.nextPath (s.conn k) (s.conn k).rr = some m)
    (hl : (s.conn k).live = true) (hw : seqSub (s.conn k).seq (s.conn k).acked < 1024)
    (hroom : s.inFlight ((s.conn k).paths.getD m (0, 0)).1 < 16384) (hi : s.noInjection) (hc : s.Carries f bs) :
    s.sendNew k f = ((s.setConn k ((s.conn k).sentOn f m)).sendFrame ((s.conn k).paths.getD m (0, 0)).1
      ((s.conn k).paths.getD m (0, 0)).2 (s.frameHdr k (s.conn k) { f with seq := (s.conn k).seq, path := m }) bs, .done) := by
  have hsent := State.transmit_carries (s := s.setConn k ((s.conn k).sentOn f m))
    (f := { f with seq := (s.conn k).seq, path := m }) k (fun _ => hi) hc
  rw [State.conn_setConn] at hsent
  have hopen : (!(s.conn k).live || decide (1024 ≤ seqSub (s.conn k).seq (s.conn k).acked) ||
      decide (16384 ≤ s.inFlight ((s.conn k).paths.getD m (0, 0)).1)) = false := by
    rw [hl, decide_eq_false (Nat.not_le.mpr hw), decide_eq_false (Nat.not_le.mpr hroom)]
    rfl
  simp only [State.sendNew, hm, hopen, Bool.false_eq_true, if_false]
  unfold Conn.sentOn at hsent ⊢
  rw [hsent]
  rfl

/-! ### The command sends (R432) -/

/-- A phase of one frame, which goes out, leaves the command one frame further. -/
theorem State.courseSend_one {s u : State} {n i k : Nat} {x : CourseCmd} {f : SentFrame}
    (hf : s.cmdFrames n (crsPanel i) (crsSlot i) x = [(k, f)]) (h0 : x.prog = 0) (hu : s.sendNew k f = (u, .done)) :
    s.courseSend n i x = u.modCmd n i x.pos (fun y => y.advance 1 1) := by
  simp [State.courseSend, hf, h0, State.sendList, hu]

theorem State.courseRow_sends {s : State} {n i op : Nat} {x : CourseCmd} (ha : s.courseActive n i = some x)
    (ho : ccOp x.w = op) : s.courseRow n i op = s.courseSend n i x := by
  simp only [State.courseRow, ha, if_pos ho]

theorem exec_courseRow {n : Port} {i : Fin 256} {op : Nat} {c : Instr} (h : (op, c) ∈ courseRows n i) (s : State) :
    exec c s = .next (s.courseRow n i op) := by
  simp only [courseRows, List.mem_cons, Prod.mk.injEq, List.not_mem_nil, or_false] at h
  obtain ⟨rfl, rfl⟩ | ⟨rfl, rfl⟩ | ⟨rfl, rfl⟩ | ⟨rfl, rfl⟩ | ⟨rfl, rfl⟩ | ⟨rfl, rfl⟩ | ⟨rfl, rfl⟩ := h <;> rfl

/-- Settles O40: the command's one frame goes out on its connection, and the command advances by it. -/
theorem courseCommandSendsItsFrame : Obligations.CourseCommandSendsItsFrame := by
  unfold Obligations.CourseCommandSendsItsFrame
  intro s n i op k m c x f bs cn q g hc ha ho hf h0 hl hw hm hroom hi hpay
  have hsent := State.courseSend_one hf h0 (State.sendNew_goes hm hl hw hroom hi hpay)
  refine ⟨_, (exec_courseRow hc s).trans (congrArg Host.Outcome.next ((State.courseRow_sends ha ho).trans hsent)),
    ?tx, ?conn, ?others, ?mem, ?tiles, ?panels, ?rings, ?cmds⟩
  case tx =>
    rw [State.modCmd, State.modPort_courseTx, State.sendFrame_courseTx, State.setConn_courseTx, State.courseHdr_setConn]
  case conn =>
    rw [State.modCmd, State.modPort_connR, State.sendFrame_conn, State.conn_setConn]
    rfl
  case others =>
    intro y hy
    rw [State.modCmd, State.modPort_connR, State.sendFrame_conn, State.conn_setConn_ne _ _ _ _ hy]
  case cmds =>
    rw [State.modCmd, State.port_modPort, State.sendFrame_cmds]
    rfl
  case mem | tiles | panels | rings => simp [State.modCmd]

end Sys2Proof.Machine
end

section
/-!
Frames received on a Course port (12 R415, R416, R419 to R421, R425, R427, 11 R402): what becomes of a frame that fails its checks
and of an intact one of each type, how a held write is applied, and the settling of CourseFramesAreReceived from these.
-/
namespace Sys2Proof.Machine
open Sys2Proof

/-! ### Checks at the port (R416) -/

section
variable {s : State} {n : Nat} {f : CourseFrame} (hi : s.noInjection)
include hi

theorem State.receive_bad (hf : s.frameIntact n f = false) : s.receive n f = (s.badFrame n, none) := by
  simp [State.receive, State.fireCourse_noInjection hi, hf]

variable (ho : s.portOpen n = true)
include ho

theorem State.dataReceive_bad (hf : s.frameIntact n f = false) : s.dataReceive n f = s.badFrame n := by
  simp [State.dataReceive, ho, hf, State.receive_bad hi]

theorem State.voteReceive_bad (hf : s.frameIntact n f = false) : s.voteReceive n f = s.badFrame n := by
  simp [State.voteReceive, ho, hf, State.receive_bad hi]

theorem State.ackReceive_bad (hf : s.frameIntact n f = false) : s.ackReceive n f = s.badFrame n := by
  simp [State.ackReceive, ho, hf, State.receive_bad hi]

theorem State.abortReceive_bad (hf : s.frameIntact n f = false) : s.abortReceive n f = s.badFrame n := by
  simp [State.abortReceive, ho, hf, State.receive_bad hi]

/-! ### An intact frame of a connection (R418, R419, R421, R402) -/

variable {k : Nat} (hf : s.frameIntact n f = true) (hk : s.connOf f.hdr = some k)
include hf hk

theorem State.dataReceive_intact (ht : fhType f.hdr = 0) :
    s.dataReceive n f = ((s.countRx n).setConn k ((s.conn k).acknowledge (fhAckseq f.hdr))).dataSorted n k f := by
  simp only [State.dataReceive, ho, ht, State.receive_intact hi hf hk]
  simp [State.modConn_eq, State.countRx]

/-- An ACK marks the frames it names and releases those below its ACKSEQ. -/
theorem State.ackReceive_ack (ht : fhType f.hdr = 1) : s.ackReceive n f = (s.countRx n).setConn k
    (((s.conn k).mark (fhSeq f.hdr) (ofBytes f.payload % 2 ^ 1024)).acknowledge (fhAckseq f.hdr)) := by
  simp only [State.ackReceive, ho, ht, State.receive_intact hi hf hk]
  simp [State.modConn_eq, State.countRx]

/-- An ABORT of its connection's job, of a STEP not committed, aborts the vote. -/
theorem State.abortReceive_uncommitted (ht : fhType f.hdr = 4) (hj : (s.conn k).jtag = fhJtag f.hdr)
    (hc : (s.job (keyPanel k) (keySlot k)).committed (ofBytes (f.payload.take 8)) = false) :
    s.abortReceive n f = (s.countRx n).voteAbort (keyPanel k) (keySlot k) (ofBytes (f.payload.take 8)) 4 (keyRank k) := by
  have hj' : ((s.countRx n).conn k).jtag = fhJtag f.hdr := hj
  have hc' : ((s.countRx n).job (keyPanel k) (keySlot k)).committed (ofBytes (f.payload.take 8)) = false := hc
  simp only [State.abortReceive, ho, ht, State.receive_intact hi hf hk, hj', hc']
  simp

end

/-! ### Data frames (R420, R427) -/

/-- A port's counters and a connection are apart. -/
theorem State.setConn_modPort_setConn (s : State) (k : Nat) (c : Conn) (n : Nat) (g : CPort → CPort) (d : Conn) :
    ((s.setConn k c).modPort n g).setConn k d = (s.modPort n g).setConn k d :=
  State.setConn_setConn (s.modPort n g) k c d

section
variable {s : State} {n k : Nat} {f : CourseFrame}

theorem State.dataSorted_duplicate (hd : (s.conn k).duplicate (fhSeq f.hdr) = true) : s.dataSorted n k f =
    (s.modPort n (fun x => { x with dup := satAdd 0xFFFF x.dup 1 })).setConn k { s.conn k with ackSoon := true } := by
  simp [State.dataSorted, State.classify, hd, State.modConn_eq]

/-- Holding a frame changes P, the bitmap and what is held alone. -/
theorem Conn.holdFrame_only (c : Conn) (q n : Nat) (f : CourseFrame) : ∃ p b rx, c.holdFrame q n f =
    { c with p := p, bitmap := b, rx := rx } := ⟨_, _, _, rfl⟩

theorem Conn.holdFrame_a (c : Conn) (q n : Nat) (f : CourseFrame) : (c.holdFrame q n f).a = c.a := by
  obtain ⟨_, _, _, h⟩ := c.holdFrame_only q n f
  rw [h]

theorem Conn.holdFrame_ackP (c : Conn) (q n : Nat) (f : CourseFrame) : (c.holdFrame q n f).ackP = c.ackP := by
  obtain ⟨_, _, _, h⟩ := c.holdFrame_only q n f
  rw [h]

theorem Conn.holdFrame_ackA (c : Conn) (q n : Nat) (f : CourseFrame) : (c.holdFrame q n f).ackA = c.ackA := by
  obtain ⟨_, _, _, h⟩ := c.holdFrame_only q n f
  rw [h]

/-- A frame inside the bitmap that the port has room for, and that calls for no NACK, is held. -/
theorem State.classify_holds (hd : (s.conn k).duplicate (fhSeq f.hdr) = false) (hb : (s.conn k).beyond (fhSeq f.hdr) = false)
    (hroom : s.rxFull n f.payload.length = false) (hnack : (s.conn k).nackNow (fhSeq f.hdr) s.now = false) :
    s.classify n k f = (s.setConn k ((s.conn k).holdFrame (fhSeq f.hdr) n f), true) := by
  simp only [State.classify, hd, hb, hroom, hnack, State.modConn_eq, Bool.false_eq_true, if_false]

/-- What a window admits depends on the panels alone. -/
theorem State.windowFault_panels {u : State} (h : u.panels = s.panels) (p hdr : Nat) : u.windowFault p hdr = s.windowFault p hdr := by
  unfold State.windowFault State.panel
  rw [h]

theorem State.dataHeld_admitted (hw : s.windowFault (keyPanel k) f.hdr = none) : s.dataHeld n k f = s.ackIfDue k n := by
  rw [State.dataHeld, hw]

/-- A held frame that its window admits, with no ACK due, does nothing more. -/
theorem State.dataSorted_held (hd : (s.conn k).duplicate (fhSeq f.hdr) = false) (hb : (s.conn k).beyond (fhSeq f.hdr) = false)
    (hroom : s.rxFull n f.payload.length = false) (hnack : (s.conn k).nackNow (fhSeq f.hdr) s.now = false)
    (hw : s.windowFault (keyPanel k) f.hdr = none)
    (hp : seqSub ((s.conn k).holdFrame (fhSeq f.hdr) n f).p (s.conn k).ackP < 16)
    (ha : seqSub (s.conn k).a (s.conn k).ackA < 16) :
    s.dataSorted n k f = s.setConn k ((s.conn k).holdFrame (fhSeq f.hdr) n f) := by
  have hw' := State.windowFault_panels (State.setConn_panels s k ((s.conn k).holdFrame (fhSeq f.hdr) n f)) (keyPanel k) f.hdr
  have hearly := State.ackIfDue_early (s := s.setConn k ((s.conn k).holdFrame (fhSeq f.hdr) n f)) (k := k) n
  rw [State.conn_setConn, Conn.holdFrame_a, Conn.holdFrame_ackP, Conn.holdFrame_ackA] at hearly
  rw [State.dataSorted, State.classify_holds hd hb hroom hnack, if_pos rfl, State.dataHeld_admitted (hw'.trans hw), hearly hp ha]

end

/-! ### Application of a write (R420, R425) -/

theorem seqInc_ne (q : Nat) : seqInc q ≠ q := by
  unfold seqInc
  omega

/-- A passes the applied frame it stands at when that ends no message to notify, and stops where no frame is held. -/
theorem State.advanceA_silent {s : State} {k : Nat} {r : RxFrame} (m : Nat)
    (hr : (s.conn k).rx.get none (s.conn k).a = some r) (ha : r.applied = true)
    (hs : (fhType r.hdr = 0 && fhLast r.hdr && fhNotify r.hdr) = false)
    (hnext : (s.conn k).rx.get none (seqInc (s.conn k).a) = none) :
    State.advanceA k (m + 2) s =
      s.setConn k { s.conn k with a := seqInc (s.conn k).a, rx := (s.conn k).rx.set none (s.conn k).a none } := by
  have hstop : ((s.conn k).rx.set none (s.conn k).a none).get none (seqInc (s.conn k).a) = none := by
    rw [Table.get_set_ne _ _ _ (seqInc_ne _), hnext]
  rw [State.advanceA]
  simp only [hr, ha, hs, Bool.not_true, Bool.false_eq_true, if_false]
  rw [State.advanceA]
  simp only [State.conn_setConn, hstop]

/-- The connection with the frame A stands at marked applied. -/
def Conn.marked (c : Conn) (r : RxFrame) : Conn := { c with rx := c.rx.set none c.a (some { r with applied := true }) }

/-- The connection after A passed the frame it stood at. -/
def Conn.advanced (c : Conn) : Conn := { c with a := seqInc c.a, rx := c.rx.set none c.a none }

/-- A passes a frame that has been applied and ends no message, and no frame after it is held. -/
theorem State.advanceA_marked {s : State} {c : Conn} {k : Nat} {r : RxFrame} (hc : s.conn k = c.marked r)
    (hl : fhLast r.hdr = false) (hnext : c.rx.get none (seqInc c.a) = none) :
    State.advanceA k 1025 s = s.setConn k c.advanced := by
  have hat : (c.marked r).rx.get none c.a = some { r with applied := true } :=
    Table.get_set_self c.rx none (some { r with applied := true }) c.a
  have hafter : (c.marked r).rx.get none (seqInc c.a) = none :=
    (Table.get_set_ne c.rx none (some { r with applied := true }) (seqInc_ne c.a)).trans hnext
  rw [State.advanceA_silent (r := { r with applied := true }) 1023 (by rw [hc]; exact hat) rfl (by simp [hl])
    (by rw [hc]; exact hafter), hc]
  simp only [Conn.marked, Conn.advanced, Table.set_set]

section
variable {s : State} {k : Nat} {r : RxFrame}

/-- Address that a DATA frame's window and offset name. -/
def State.frameAddr (s : State) (k : Nat) (r : RxFrame) : Nat :=
  wnBase ((s.panel (keyPanel k)).wins.get 0 (fhWin r.hdr)) + fhOff r.hdr

variable (hr : (s.conn k).rx.get none (s.conn k).a = some r) (ha : r.applied = false) (ht : fhType r.hdr = 0)
  (hop : fhOp r.hdr = 0) (hs : s.windowStopped (s.frameAddr k r) = false) (hp : s.plain (s.frameAddr k r))
  (hw : s.writeResp (s.frameAddr k r) r.payload.length = .ok)
include hr ha ht hop hs hp hw

/-- A held write that A stands at is stored and marked applied, and A advances. -/
theorem State.frameApplied_write : s.frameApplied k (s.conn k).a =
    (State.advanceA k 1025 ((s.writeBytes (s.frameAddr k r) r.payload).setConn k ((s.conn k).marked r))).ackIfDue k r.port := by
  have hstore : s.applyData k r = (s.writeBytes (s.frameAddr k r) r.payload, none) := by
    simp only [State.applyData, hop, if_true]
    exact State.unitWrite_plain hp hw
  unfold State.frameAddr at hs
  simp [State.frameApplied, hr, ha, ht, hs, hstore, State.modConn_eq, Conn.marked]

/-- With no frame after it held and no ACK due, A passes the write alone. -/
theorem State.frameApplied_writeAlone (hl : fhLast r.hdr = false) (hnext : (s.conn k).rx.get none (seqInc (s.conn k).a) = none)
    (hackP : seqSub (s.conn k).p (s.conn k).ackP < 16) (hackA : seqSub (seqInc (s.conn k).a) (s.conn k).ackA < 16) :
    s.frameApplied k (s.conn k).a = (s.writeBytes (s.frameAddr k r) r.payload).setConn k (s.conn k).advanced := by
  have hearly := State.ackIfDue_early (s := (s.writeBytes (s.frameAddr k r) r.payload).setConn k (s.conn k).advanced) (k := k)
    r.port (by rwa [State.conn_setConn]) (by rwa [State.conn_setConn])
  rw [State.frameApplied_write hr ha ht hop hs hp hw, State.advanceA_marked (State.conn_setConn ..) hl hnext,
    State.setConn_setConn, hearly]

end

/-! ### Settling -/

/-- Settles O42: every frame goes the way its checks, its type and its place in the connection send it. -/
theorem courseFramesAreReceived : Obligations.CourseFramesAreReceived := by
  unfold Obligations.CourseFramesAreReceived
  intro s n f k ho hi key q cn got
  refine ⟨?bad, ?data, ?ack, ?abort, ?applied⟩
  case bad =>
    intro hf c hc
    simp only [List.mem_cons, List.not_mem_nil, or_false] at hc
    obtain rfl | rfl | rfl | rfl := hc
    · exact congrArg Host.Outcome.next (State.dataReceive_bad hi ho hf)
    · exact congrArg Host.Outcome.next (State.voteReceive_bad hi ho hf)
    · exact congrArg Host.Outcome.next (State.ackReceive_bad hi ho hf)
    · exact congrArg Host.Outcome.next (State.abortReceive_bad hi ho hf)
  case data =>
    intro hf hk ht
    have hrecv := State.dataReceive_intact hi ho hf hk ht
    have hconn : (got.setConn key cn).conn key = cn := State.conn_setConn ..
    have hnow : (got.setConn key cn).now = s.now := by
      rw [State.setConn_now, State.modPort_now]
    have hpanels : (got.setConn key cn).panels = s.panels := by
      rw [State.setConn_panels, State.modPort_panels]
    refine ⟨fun hd hb hroom hnack hwin hack => ?_, fun hd => ?_⟩
    · have hearly : seqSub (cn.holdFrame q n f).p cn.ackP < 16 ∧ seqSub cn.a cn.ackA < 16 := by
        simpa only [not_or, Nat.not_le] using hack
      have hheld := State.dataSorted_held (s := got.setConn key cn) (k := key) (n := n) (f := f)
      rw [hconn, hnow, State.windowFault_panels hpanels, State.setConn_setConn] at hheld
      exact congrArg Host.Outcome.next (hrecv.trans (hheld hd hb hroom hnack hwin hearly.1 hearly.2))
    · have hdrop := State.dataSorted_duplicate (s := got.setConn key cn) (k := key) (n := n) (f := f)
      rw [hconn, State.setConn_modPort_setConn] at hdrop
      exact congrArg Host.Outcome.next (hrecv.trans (hdrop hd))
  case ack =>
    intro hf hk ht bm
    exact congrArg Host.Outcome.next (State.ackReceive_ack hi ho hf hk ht)
  case abort =>
    intro hf hk ht hj p j hs hfault hc
    refine ⟨_, congrArg Host.Outcome.next (State.abortReceive_uncommitted hi ho hf hk ht hj hc), ?_⟩
    exact State.voteAbort_job (s := s.countRx n) hs hfault _ 4 _
  case applied =>
    intro r h c a hr ha ht hop hlt hstop hp hw hl hnext hack
    have hearly : seqSub c.p c.ackP < 16 ∧ seqSub (seqInc c.a) c.ackA < 16 := by
      simpa [not_or] using hack
    have hseq : (BitVec.ofNat 32 c.a).toNat = c.a := by
      rw [BitVec.toNat_ofNat, Nat.mod_eq_of_lt hlt]
    have hrun : exec (.courseFrameApplied k (BitVec.ofNat 32 c.a)) s =
        .next ((s.writeBytes a r.payload).setConn key c.advanced) := by
      refine congrArg Host.Outcome.next ?_
      rw [hseq]
      exact State.frameApplied_writeAlone hr ha ht hop hstop hp hw hl hnext hearly.1 hearly.2
    refine ⟨_, hrun, s.readBytes_writeBytes a r.payload, s.writeBytes_outside a r.payload, ?passA, ?released, ?keepsP, rfl, rfl⟩
    case passA => rw [State.conn_setConn, Conn.advanced]
    case released =>
      rw [State.conn_setConn]
      exact Table.get_set_self c.rx none none c.a
    case keepsP => rw [State.conn_setConn, Conn.advanced]

end Sys2Proof.Machine
end

section
/-!
Timers, link states and Ethernet mode of the Course ports (11 R402, 12 R414, R421 to R423, R443, R444, R446): what each timer sends
or ends, the states a link passes through, how an Ethernet frame enters and leaves its ring, and the settling of
CourseTimersLinksAndEthernet from these.
-/
namespace Sys2Proof.Machine
open Sys2Proof

/-! ### Acknowledgement (R421) -/

/-- The header of an ACK that the connection sends: its P and its A. -/
def Conn.ackHdr (c : Conn) (k : Nat) : CHdr :=
  { type := 1, dst := c.peerMod, spanel := keyPanel k, dpanel := c.peerPanel, ch := keyCh k, slot := keySlot k,
    jtag := c.jtag, seq := c.p, ackseq := c.a }

/-- The connection after its ACK went out. -/
def Conn.ackSent (c : Conn) : Conn := { c with ackP := c.p, ackA := c.a, ackSoon := false }

/-- An owed ACK goes out on the first path whose port is up, when none is on the port asked for. -/
theorem State.ackTimer_owed {s : State} {k : Nat} {q : Nat × Nat} (hl : (s.conn k).live = true) (ho : (s.conn k).ackSoon = true)
    (hn : (s.conn k).paths.find? (fun z => decide (z.1 = 32 ∧ (s.port z.1).st = 2)) = none)
    (hq : (s.conn k).paths.find? (fun z => decide ((s.port z.1).st = 2)) = some q) :
    s.ackTimer k = (s.sendFrame q.1 q.2 ((s.conn k).ackHdr k) (toBytes 128 (s.conn k).bitmap)).setConn k (s.conn k).ackSent := by
  have hdue : ((s.conn k).live && ((s.conn k).ackSoon ||
      decide ((s.conn k).p ≠ (s.conn k).ackP ∨ (s.conn k).a ≠ (s.conn k).ackA))) = true := by
    rw [hl, ho]
    rfl
  rw [State.ackTimer, if_pos hdue]
  simp only [State.sendAck, hn, Option.none_or, hq, if_true]
  rfl

/-! ### Retransmission (R422, R423) -/

/-- The connection after the timer of a frame on path `i` expired. -/
def Conn.expired (c : Conn) (i : Nat) : Conn := { c with expiries := c.expiries.modify 0 i (fun e => min 2 (e + 1)) }

/-- The connection after its frame `f` went out again, on path `i`. -/
def Conn.resent (c : Conn) (f : SentFrame) (i : Nat) : Conn :=
  { c with frames := c.frames.map (fun g => if g.seq = f.seq then { f with path := i, sends := f.sends + 1 } else g) }

/-- A vote frame, which carries its record with it, goes out again on the path chosen. -/
theorem State.resendFrame_vote {s : State} {k i : Nat} {f : SentFrame} (hv : f.vote = true) : ∃ n r h, s.resendFrame k f i =
    ((s.setConn k ((s.conn k).resent f i)).modPort n (fun x => { x with retx := satAdd 0xFFFF x.retx 1 })).sendFrame n r h
      f.payload := by
  have hsent : ∀ u : State, u.transmit k { f with path := i, sends := f.sends + 1 } = _ :=
    fun u => State.transmit_carries k (fun h => absurd (hv.symm.trans h) (by decide)) (.inl ⟨hv, rfl⟩)
  simp only [State.resendFrame, hsent, State.modPort_connR, State.conn_setConn]
  exact ⟨_, _, _, rfl⟩

section
variable {s : State} {k q : Nat} {f : SentFrame} (hf : (s.conn k).frames.find? (fun f => decide (f.seq = q) && !f.accepted) = some f)
include hf

theorem State.retxTimer_noPath
    (hn : (s.setConn k ((s.conn k).expired f.path)).nextPath ((s.conn k).expired f.path) (f.path + 1) = none) :
    s.retxTimer k q = s.setConn k ((s.conn k).expired f.path) := by
  unfold Conn.expired at hn ⊢
  simp only [State.retxTimer, hf, State.conn_setConn, hn]

theorem State.retxTimer_resends {m : Nat}
    (hm : (s.setConn k ((s.conn k).expired f.path)).nextPath ((s.conn k).expired f.path) (f.path + 1) = some m) :
    s.retxTimer k q = (s.setConn k ((s.conn k).expired f.path)).resendFrame k f m := by
  unfold Conn.expired at hm ⊢
  simp only [State.retxTimer, hf, State.conn_setConn, hm]

theorem State.connTimer_fails (hs : s.failStopped (s.conn k) = false) : s.connTimer k q = s.connFails k f := by
  simp only [State.connTimer, hf, hs, Bool.false_eq_true, if_false]

end

/-! ### The vote timer and the copies of an ABORT (R402, R403) -/

theorem State.voteTimeout_aborts {s : State} {p j step : Nat} (hv : (s.job p j).vote = some (step, false))
    (ht : (s.job p j).vtimer = true) (hc : s.courseHold = false) (hl : s.linkHold = false) (hh : s.halted = false) :
    ∃ r, s.voteTimeout p j = s.voteAbort p j step 2 r := by
  simp only [State.voteTimeout, hv, ht, hc, hl, hh, Bool.not_true, Bool.or_self, Bool.false_eq_true, if_false]
  exact ⟨_, rfl⟩

theorem State.abortResend_last {s : State} {p j : Nat} {a : AbortOut}
    (ha : s.aborts.find? (fun a => decide (a.panel = p ∧ a.slot = j)) = some a) (hl : a.left = 1) (hf : a.frames = []) :
    s.abortResend p j = { s with aborts := s.aborts.erase a } := by
  rw [State.abortResend, ha]
  simp [hl, hf]

/-! ### Link states (R414, R423, R446) -/

/-- With no packet waiting, a change of a port's mode answers none. -/
theorem State.portModeDone_none {s : State} (n : Nat) (h : s.mgmt.accepted = []) : s.portModeDone n = s := by
  simp [State.portModeDone, h]

theorem State.portFails_alone {s : State} {n : Nat} (hst : (s.port n).st = 3) (hh : (s.port n).hold = true)
    (ha : s.mgmt.accepted = []) (hc : s.conns = []) : s.portFails n =
      (s.modPort n (fun x => { x with st := 4, hold := false })).emit { cls := 0x17, cause := 8, unit := portAgent n, detail := n } := by
  have hnone : (s.modPort n (fun x => { x with st := 4, hold := false })).strandedJobs = [] := by
    rw [State.strandedJobs, State.modPort_conns, hc]
    rfl
  rw [State.portFails, if_pos ⟨hst, hh⟩]
  dsimp only
  rw [State.portModeDone_none n (by rwa [State.modPort_mgmt]), hnone]
  rfl

theorem State.retrainPort_up {s : State} {n v : Nat} (hv : bit v 0 = true) (hst : 2 ≤ (s.port n).st) :
    s.retrainPort n v .owner = (s.modPort n (fun x => { x with st := 3, hold := true })).portEvent n 1 := by
  simp [State.retrainPort, hv, Nat.not_le.mpr hst]

theorem State.portUp_trained {s : State} {n : Nat} (half : Bool) (hst : (s.port n).st = 1 ∨ (s.port n).st = 3)
    (ha : s.mgmt.accepted = []) : s.portUp n half =
      if half then (s.modPort n (fun x => { x with st := 2, hold := false, half := half })).portEvent n 7
      else s.modPort n (fun x => { x with st := 2, hold := false, half := half }) := by
  rw [State.portUp]
  dsimp only
  rw [if_pos hst, State.portModeDone_none n (by rwa [State.modPort_mgmt])]

/-! ### Ethernet rings (R443, R444) -/

theorem State.bytesOutside.readBytes {s u : State} {a n b m : Nat} (h : s.bytesOutside u a n) (hb : b + m ≤ a ∨ a + n ≤ b) :
    u.readBytes m b = s.readBytes m b :=
  List.map_congr_left (fun i hi => h (b + i) (by have := List.mem_range.mp hi; omega))

/-- Address of the half of the head entry that is written back. -/
def Ring.backAddr (r : Ring) : Nat := r.entryAddr r.head + 32

/-- What is written back of a received frame, with the time of its reception. -/
def State.ethStatus (s : State) (len : Nat) : Nat := len + b2n s.time.lock * 2 ^ 16 + s.now % 2 ^ 64 * 2 ^ 64

theorem State.ethStatus_lt (s : State) {len : Nat} (h : len < 2 ^ 14) : s.ethStatus len < 256 ^ 32 := by
  have hlock : b2n s.time.lock ≤ 1 := by
    cases s.time.lock <;> decide
  have hnow : s.now % 2 ^ 64 < 2 ^ 64 := Nat.mod_lt _ (by decide)
  unfold State.ethStatus
  omega

/-- A write ends alike whatever a port's registers are. -/
theorem State.writeResp_modPort (s : State) (n : Nat) (g : CPort → CPort) (a m : Nat) :
    (s.modPort n g).writeResp a m = s.writeResp a m := by
  rw [State.writeResp_eq, State.writeResp_eq]
  rfl

/-- Port `n` has sent an Ethernet frame and counted it. -/
def State.ethSent (s : State) (n : Nat) (bs : List Byte) : State :=
  State.modPort { s with ethTx := s.ethTx ++ [(n, bs)] } n (fun x => { x with txf := satAdd 0xFFFFFFFF x.txf 1 })

theorem State.writeResp_ethSent (s : State) (n : Nat) (bs : List Byte) (a m : Nat) :
    (s.ethSent n bs).writeResp a m = s.writeResp a m := by
  rw [State.writeResp_eq, State.writeResp_eq]
  rfl

section
variable {s : State} {g : Nat}

theorem State.ethEntry_disabled (he : (s.ring g).en = false) : s.ethEntry g = (s, none) := by
  simp [State.ethEntry, he]

theorem State.ethEntry_read (he : (s.ring g).en = true) (hs : (s.ring g).stopped = false) (hc : (s.ring g).count ≠ 0)
    (hi : s.noInjection) (hp : s.plain ((s.ring g).entryAddr (s.ring g).head))
    (hr : s.readResp ((s.ring g).entryAddr (s.ring g).head) 64 = .ok) :
    s.ethEntry g = (s, some (s.readNat 64 ((s.ring g).entryAddr (s.ring g).head))) := by
  simp only [State.ethEntry, he, hs, hc, State.unitRead_plain none hi (by decide) hp hr]
  simp [State.readNat]

theorem State.ethWriteBack_plain (len code : Nat) (stamp : Bool) (hp : s.plain (s.ring g).backAddr)
    (hw : s.writeResp (s.ring g).backAddr 32 = .ok) : ∃ v, (stamp = true → code = 0 → v = s.ethStatus len) ∧
    s.ethWriteBack g len code stamp = (s.writeNat 32 (s.ring g).backAddr v).setRing g ((s.ring g).pass 1) := by
  refine ⟨len + code * 2 ^ 14 + (if stamp then b2n s.time.lock * 2 ^ 16 + s.now % 2 ^ 64 * 2 ^ 64 else 0), ?_, ?_⟩
  · rintro rfl rfl
    rw [if_pos rfl, State.ethStatus]
    omega
  · have hwrite := fun v => State.unitWrite_plain (bs := toBytes 32 v) hp (by rwa [toBytes_length])
    unfold Ring.backAddr at hwrite
    simp only [State.ethWriteBack, hwrite]
    rfl

end

section
variable {s : State} {n : Nat} (he : (s.port n).eth = true) (hst : (s.port n).st = 2)
include he hst

variable {f : EthFrame} (hv : (s.port n).ethAccepts f.bytes = true)

include hv in
theorem State.ethReceive_dropped (hd : (s.ring (crsRing n (128 + flowHash f.bytes % (s.port n).nrxq))).en = false) :
    s.ethReceive n f = s.modPort n (fun x => { x with rxdrop := satAdd 0xFFFF x.rxdrop 1 }) := by
  simp [State.ethReceive, he, hst, hv, State.ethEntry_disabled hd]

include hv in
/-- A sound frame that its head entry's buffer has room for is stored there and its entry written back. -/
theorem State.ethReceive_stored {g e : Nat} (hg : g = crsRing n (128 + flowHash f.bytes % (s.port n).nrxq))
    (hentry : s.ethEntry g = (s, some e)) (hroom : f.bytes.length ≤ bits e 64 14) (hfcs : f.fcsOk = true)
    (hp : s.plain (bits e 0 52)) (hw : s.writeResp (bits e 0 52) f.bytes.length = .ok) :
    s.ethReceive n f = ((s.countRx n).writeBytes (bits e 0 52) f.bytes).ethWriteBack g f.bytes.length 0 true := by
  have hstore := State.unitWrite_plain (s := s.countRx n) hp (by rwa [State.countRx, State.writeResp_modPort])
  unfold State.countRx at hstore ⊢
  rw [hg] at hentry ⊢
  simp [State.ethReceive, he, hst, hv, hentry, hfcs, Nat.not_lt.mpr hroom, hstore]

/-- A frame of the head entry goes out and its entry is written back. -/
theorem State.ethTransmit_sent {q e : Nat} (hentry : s.ethEntry (crsRing n q) = (s, some e)) (hi : s.noInjection)
    (hl : 0 < bits e 64 14) (hp : s.plain (bits e 0 52)) (hr : s.readResp (bits e 0 52) (bits e 64 14) = .ok) :
    s.ethTransmit n q = (s.ethSent n ((s.port n).addTag (s.readBytes (bits e 64 14) (bits e 0 52)))).ethWriteBack (crsRing n q)
      (bits e 64 14) 0 (bit e 78) := by
  simp [State.ethTransmit, he, hst, hentry, State.unitRead_plain none hi hl hp hr, State.ethSent]

end

/-! ### Settling -/

/-- Settles O44: each timer, link state and Ethernet ring does what its rule, met, makes it do. -/
theorem courseTimersLinksAndEthernet : Obligations.CourseTimersLinksAndEthernet := by
  unfold Obligations.CourseTimersLinksAndEthernet
  intro s n k seq path p j v half key c pt down
  refine ⟨?ack, ?frame, ?skip, ?vote, ?abort, ?linkDown, ?linkFails, ?retrain, ?linkUp, ?received, ?transmitted⟩
  case ack =>
    intro q hl ho hn hq
    refine ⟨_, congrArg Host.Outcome.next (State.ackTimer_owed hl ho hn hq), ?sent, ?acked, rfl⟩
    case sent => rw [State.setConn_courseTx, State.sendFrame_courseTx, List.length_append, List.length_singleton]
    case acked => rw [State.conn_setConn, Conn.ackSent]
  case frame =>
    intro f hf e
    refine ⟨fun hn => ?none, fun m hv hm => ?again, fun hs hj hfault => ?fails⟩
    case none => exact congrArg Host.Outcome.next (State.retxTimer_noPath hf hn)
    case again =>
      obtain ⟨a, r, h, hsent⟩ := State.resendFrame_vote (s := s.setConn key e) (k := key) (i := m) hv
      refine ⟨_, congrArg Host.Outcome.next ((State.retxTimer_resends hf hm).trans hsent), ?tx, ?expiries, ?frames⟩
      case tx =>
        rw [State.sendFrame_courseTx, List.length_append, List.length_singleton, State.modPort_courseTx, State.setConn_courseTx,
          State.setConn_courseTx]
      case expiries =>
        rw [State.sendFrame_conn, State.modPort_connR, State.conn_setConn, State.conn_setConn, Conn.resent]
      case frames =>
        rw [State.sendFrame_conn, State.modPort_connR, State.conn_setConn, State.conn_setConn, Conn.resent]
    case fails =>
      obtain ⟨hstate, hcause, -⟩ := State.faultJob_job s (keyPanel key) (keySlot key)
        { cls := 0x0E, cause := 1, unit := portAgent f.cmd.1, ring := crsRing f.cmd.1 f.cmd.2.1, pos := f.cmd.2.2.toNat,
          detail := keyRank key + keyCh key * 2 ^ 10 } hj hfault
      exact ⟨_, congrArg Host.Outcome.next (State.connTimer_fails hf hs), hstate, hcause⟩
  case skip => exact fun he => congrArg Host.Outcome.next (if_pos he)
  case vote =>
    intro step hv ht hc hl hh hs hfault
    obtain ⟨r, hrun⟩ := State.voteTimeout_aborts hv ht hc hl hh
    exact ⟨_, congrArg Host.Outcome.next hrun, State.voteAbort_job hs hfault step 2 r⟩
  case abort => exact fun a ha hl hf => congrArg Host.Outcome.next (State.abortResend_last ha hl hf)
  case linkDown => exact fun hst => congrArg Host.Outcome.next (if_pos hst)
  case linkFails => exact fun hst hh ha hc => congrArg Host.Outcome.next (State.portFails_alone hst hh ha hc)
  case retrain =>
    intro hv hst
    exact congrArg Host.Outcome.next (State.retrainPort_up ((bit_toNat v 0).trans hv) hst)
  case linkUp => exact fun hst ha => congrArg Host.Outcome.next (State.portUp_trained half hst ha)
  case received =>
    intro f he hst hv g r e a w
    refine ⟨fun hd => congrArg Host.Outcome.next (State.ethReceive_dropped he hst hv hd), ?_⟩
    intro hen hstop hc hi hp hr hroom hfcs hlen hpa hpw hwa hww hapart
    have hentry := State.ethEntry_read hen hstop hc hi hp hr
    have hrun := State.ethReceive_stored he hst hv rfl hentry hroom hfcs hpa hwa
    let u := (s.countRx n).writeBytes a f.bytes
    have hring : u.ring g = r := by
      rw [State.writeBytes_ringR, State.countRx, State.modPort_ringR]
    obtain ⟨x, hx, hback⟩ := State.ethWriteBack_plain (s := u) (g := g) f.bytes.length 0 true
      (by rw [hring]; exact State.plain_writeBytes hpw a f.bytes)
      (by rw [hring, State.writeResp_writeBytes, State.countRx, State.writeResp_modPort]; exact hww)
    have hstatus : x = s.ethStatus f.bytes.length := hx rfl rfl
    rw [hring] at hback
    obtain ⟨hread, hout, hpass, -⟩ := State.writeNat_setRing u g 32 r.backAddr x (r.pass 1)
    refine ⟨_, congrArg Host.Outcome.next (hrun.trans hback), ?bytes, hpass, ?status⟩
    case bytes => exact (hout.readBytes hapart).trans (State.readBytes_writeBytes _ a f.bytes)
    case status =>
      have hlt := s.ethStatus_lt (Nat.lt_of_le_of_lt hroom (bits_lt e 64 14))
      refine (congrArg ofBytes hread).trans ?_
      rw [ofBytes_toBytes, hstatus, Nat.mod_eq_of_lt hlt, State.ethStatus]
  case transmitted =>
    intro q g r e a w he hst hen hstop hc hi hp hr hlen hpa hra hpw hww
    have hentry := State.ethEntry_read hen hstop hc hi hp hr
    have hrun := State.ethTransmit_sent he hst hentry hi hlen hpa hra
    obtain ⟨x, -, hback⟩ := State.ethWriteBack_plain (s := s.ethSent n (pt.addTag (s.readBytes (bits e 64 14) a))) (g := g)
      (bits e 64 14) 0 (bit e 78) hpw (by rw [State.writeResp_ethSent]; exact hww)
    obtain ⟨-, hout, hpass, -⟩ :=
      State.writeNat_setRing (s.ethSent n (pt.addTag (s.readBytes (bits e 64 14) a))) g 32 w x (r.pass 1)
    exact ⟨_, congrArg Host.Outcome.next (hrun.trans hback), rfl, hpass, hout⟩

end Sys2Proof.Machine
end

section
/-!
One step of the block (log 3, log 4), the reset state (18 R561, R562; 20 R619), and what every step keeps of the life cycle
(18 R578, R582, R583): the settling of StepRunsTheFrontCommand, StepTakesOnlyTheFrontCommand, EveryCommandAnswersANextState,
ResetLeavesTheModuleUnpowered and LifeCycleCodesStayLegal.
-/
namespace Sys2Proof.Machine
open Sys2Proof

/-! ### The step -/

theorem step_cons {s : State} {c : Instr} {rest : List Instr} (h : s.pending = c :: rest) :
    step s = exec c { s with pending := rest } := by
  unfold step
  rw [h]

theorem step_idle {s : State} (h : s.pending = []) : step s = .next { s with now := s.now + 1 } := by
  unfold step
  rw [h]

/-- Settles O1. -/
theorem stepRunsTheFrontCommand : Obligations.StepRunsTheFrontCommand := fun _ _ _ => step_cons

/-- Watches the queue alone. -/
def Watch.queueOnly (q : List Instr) : Watch := ⟨q, 0, 0, False, False, False, False⟩

theorem State.kept_queueOnly {q : List Instr} {s : State} : s.Kept (.queueOnly q) ↔ s.pending = q := by
  simp [State.Kept, Watched, Watch.queueOnly]

/-- Settles O2: every command keeps the queue's rest. -/
theorem stepTakesOnlyTheFrontCommand : Obligations.StepTakesOnlyTheFrontCommand := by
  unfold Obligations.StepTakesOnlyTheFrontCommand
  refine fun s u => ⟨fun hu => ?_, step_idle⟩
  exact State.kept_queueOnly.mp (step_kept s (State.kept_queueOnly.mpr rfl) u hu)

/-- No command is refused or faults (log 4). -/
theorem exec_next (c : Instr) (s : State) : ∃ u, exec c s = .next u := by
  cases c <;> exact ⟨_, rfl⟩

/-- Settles O3: every row of the dispatch answers a next state. -/
theorem everyCommandAnswersANextState : Obligations.EveryCommandAnswersANextState := exec_next

/-! ### Reset -/

/-- Settles O4: no supply, ring, panel or job; an unlisted entry of a table is its reset value. -/
theorem resetLeavesTheModuleUnpowered : Obligations.ResetLeavesTheModuleUnpowered :=
  ⟨rfl, rfl, rfl, rfl, rfl, rfl, rfl, rfl, rfl, fun _ => rfl, fun _ => rfl, fun _ _ => rfl, fun _ _ _ => rfl⟩

/-! ### Life cycle -/

/-- Watches the codes of MSTATE and LCS, and whether Decommissioned is final, with `q` the queue that is left. -/
def Watch.life (q : List Instr) (legal gone : Prop) : Watch := ⟨q, 0, 0, False, False, legal, gone⟩

theorem State.kept_life {q : List Instr} {legal gone : Prop} {s : State} : s.Kept (.life q legal gone) ↔
    s.pending = q ∧ (legal → s.boot.codesLegal) ∧ (gone → s.boot.lcs = 4 ∧ s.boot.target = none) := by
  simp [State.Kept, Watched, Watch.life, Boot.codesLegal]

/-- Settles O7: every step keeps the codes and the end of the life cycle among what is watched. -/
theorem lifeCycleCodesStayLegal : Obligations.LifeCycleCodesStayLegal := by
  unfold Obligations.LifeCycleCodesStayLegal
  refine ⟨by simp [Boot.codesLegal, State.reset], fun s u hu => ⟨fun legal => ?_, fun gone => ?_⟩⟩
  · have kept := step_kept s (State.kept_life (legal := True) (gone := False).mpr ⟨rfl, fun _ => legal, False.elim⟩) u hu
    exact (State.kept_life.mp kept).2.1 trivial
  · have kept := step_kept s (State.kept_life (legal := False) (gone := True).mpr ⟨rfl, False.elim, fun _ => gone⟩) u hu
    exact (State.kept_life.mp kept).2.2 trivial

end Sys2Proof.Machine
end

section
/-!
Packets on panels and their memory (09 R286, R289, R305, R318 to R321; 15 R498, R499, R515; 16 R534, R543): what each opcode's rule,
met, does, and the settling of PanelPacketsAct from it.
-/
namespace Sys2Proof.Machine
open Sys2Proof

/-! ### Packets and their answers -/

theorem State.acceptedOf_q (s : State) (q : IcralReq) : (s.acceptedOf q).q = q := by
  unfold State.acceptedOf
  cases h : s.mgmt.accepted.find? (fun a => a.q = q) with
  | none => rfl
  | some a => simpa using List.find?_some h

/-- A packet of opcode `op` whose rule ends well is answered OK with the reply parameters of the state after it. -/
theorem State.performReq_done {s u : State} {q : IcralReq} {op w : Nat} {o : OpSpec} {cl : List Nat} {here : Bool}
    (h : s.taken q op o w cl) (hh : here = true) (hd : o.run s q w = .ok u) :
    s.performReq q here o = u.answer (s.acceptedOf q) stOk 0 (o.rp u q) cl :=
  State.performReq_taken h hh hd

theorem State.performReq_refused {s : State} {q : IcralReq} {op w st d : Nat} {o : OpSpec} {cl : List Nat} {here : Bool}
    (h : s.taken q op o w cl) (hh : here = true) (hd : o.run s q w = .refuse st d) :
    s.performReq q here o = s.answer (s.acceptedOf q) st d [] [] :=
  State.performReq_taken h hh hd

theorem State.performReq_waits {s u : State} {q : IcralReq} {op w : Nat} {o : OpSpec} {cl : List Nat} {here : Bool} {x : Wait}
    (h : s.taken q op o w cl) (hh : here = true) (hd : o.run s q w = .wait u x) :
    s.performReq q here o = u.waiting q x cl :=
  State.performReq_taken h hh hd

/-- The reply parameters of a KEEP packet. -/
theorem keepRp_keep {q : IcralReq} (s : State) (h : q.opcode.toNat = 0x14) : keepRp s q = s.keepReply (bits q.params 0 5) :=
  if_pos h

/-! ### Creation, destruction, reset (R499, R515) -/

theorem specPanelCreate_run {s : State} {q : IcralReq} {w : Nat} (hx : (s.panel q.panel).state = 0)
    (hc : ∀ i, i < bits w 4 5 → s.colPanel (8 * (bits w 0 4 + i)) = none) : specPanelCreate.run s q w =
      .wait ((s.setPanel q.panel { s.panel q.panel with state := 1, b0 := bits w 0 4, wb := bits w 4 5 }).panelResetBegin
        q.panel 1) (.panel q.panel) := by
  refine need_true ?_ ..
  simpa [hx] using hc

theorem specPanelDestroy_run {s : State} {q : IcralReq} (w : Nat) (hx : (s.panel q.panel).state ≠ 0) :
    specPanelDestroy.run s q w = .wait (s.panelResetBegin q.panel 2) (.panel q.panel) :=
  need_true (decide_eq_true hx) ..

theorem specPanelReset_run {s : State} {q : IcralReq} (w : Nat) (hx : (s.panel q.panel).state ≠ 0) : specPanelReset.run s q w =
    .wait (if (s.panel q.panel).state = 1 then s else s.panelResetBegin q.panel 0) (.panel q.panel) :=
  need_true (decide_eq_true hx) ..

/-! ### Grants (R289, R534) -/

theorem specGrant_run {s : State} {q : IcralReq} {w : Nat} (hx : (s.panel q.panel).state ≠ 0)
    (hc : s.grantConflict q.panel (bits w 64 52) (bits w 128 52 + 1) = false) : specGrant.run s q w =
      .ok (s.setPanel q.panel { s.panel q.panel with
        grants := (s.panel q.panel).grants ++ [(bits w 64 52, bits w 128 52 + 1)] }) :=
  (need_true (decide_eq_true hx) ..).trans (need_true (by simp [hc]) ..)

theorem specGrantRevoke_run {s : State} {q : IcralReq} {w : Nat} (hx : (s.panel q.panel).state ≠ 0)
    (hg : (bits w 64 52, bits w 128 52 + 1) ∈ (s.panel q.panel).grants)
    (hu : s.rangeUsed q.panel (bits w 64 52) (bits w 128 52 + 1) = false) : specGrantRevoke.run s q w =
      let u := s.setPanel q.panel { s.panel q.panel with
        grants := (s.panel q.panel).grants.erase (bits w 64 52, bits w 128 52 + 1) }
      .wait (u.beginWipe 2 (u.lessKeeps [(bits w 64 52, bits w 128 52 + 1)]) none none).1 (.wipe s.wipeNext) :=
  (need_true (decide_eq_true hx) ..).trans (need_true (by simp [hg, hu]) ..)

/-! ### Keep regions (R318 to R321, R543) -/

theorem specKeepDefine_run {s : State} {w : Nat} (q : IcralReq) (hk : (s.keep (bits w 0 5)).defined = false)
    (ho : s.keepRanges.any (fun z => overlaps z.1 z.2 (bits w 64 52) (bits w 128 52 + 1)) = false)
    (hd : s.t2Dead (bits w 64 52) (bits w 128 52 + 1) = false) (ht : s.keepTotal + (bits w 128 52 + 1) ≤ 1792 * gib) :
    specKeepDefine.run s q w = .ok { s with
      keeps := s.keeps.set {} (bits w 0 5) { defined := true, base := bits w 64 52, len := bits w 128 52 + 1 } } :=
  (need_true (by simp [hk]) ..).trans ((need_true (by simp [ho, hd]) ..).trans (need_true (decide_eq_true ht) ..))

theorem specKeepRelease_run {s : State} {w : Nat} (q : IcralReq) (hk : (s.keep (bits w 0 5)).defined = true)
    (hp : (s.keep (bits w 0 5)).panel = none) : specKeepRelease.run s q w =
      let u := s.modKeep (bits w 0 5) (fun k => { k with wiping := true })
      .wait (u.beginWipe 2 [((s.keep (bits w 0 5)).base, (s.keep (bits w 0 5)).len)] none (some (bits w 0 5))).1
        (.wipe s.wipeNext) := by
  refine (if_neg (by simp [hk])).trans (need_true ?_ ..)
  rw [hp]
  rfl

theorem specKeepAssign_run {s : State} {w : Nat} (q : IcralReq) (hx : (s.panel (bits w 7 4)).state ≠ 0)
    (hk : (s.keep (bits w 0 5)).defined = true)
    (hp : (s.keep (bits w 0 5)).panel = none ∨ (s.keep (bits w 0 5)).panel = some (bits w 7 4)) : specKeepAssign.run s q w =
      .ok (s.modKeep (bits w 0 5) (fun k => { k with panel := some (bits w 7 4) })) :=
  (need_true (decide_eq_true hx) ..).trans (need_true (by simp [hk, hp]) ..)

theorem specKeepUnassign_run {s : State} {w : Nat} (q : IcralReq) (hk : (s.keep (bits w 0 5)).defined = true)
    (hu : ∀ o, (s.keep (bits w 0 5)).panel = some o →
      s.rangeUsed o (s.keep (bits w 0 5)).base (s.keep (bits w 0 5)).len = false) : specKeepUnassign.run s q w =
      .ok (s.modKeep (bits w 0 5) (fun k => { k with panel := none })) := by
  refine (need_true ?_ ..).trans (congrArg Done.ok (if_pos hk))
  cases hp : (s.keep (bits w 0 5)).panel with
  | none => rfl
  | some o => simp [hu o hp]

/-! ### The pool and staging settings (R286, R305) -/

theorem specPoolMap_run {s : State} {w : Nat} (q : IcralReq)
    (hc : (setPositions 8 (poolPorts (bits w 0 4))).all (bit s.cxl) = true)
    (ho : s.pool.any (fun e => overlaps e.1 e.2.1 (bits w 64 52) (bits w 128 52 + 1)) = false) : specPoolMap.run s q w =
      .ok { s with
        pool := s.pool ++ [(bits w 64 52, bits w 128 52 + 1, poolPorts (bits w 0 4), bits w 4 2, bits w 6 4)] } :=
  (need_true hc ..).trans (need_true (by simp [ho]) ..)

theorem specPoolUnmap_run {s : State} {w : Nat} (q : IcralReq) (he : ∃ e ∈ s.pool, e.1 = bits w 64 52) :
    specPoolUnmap.run s q w = .ok { s with pool := s.pool.filter (fun e => decide (e.1 ≠ bits w 64 52)) } :=
  need_true (by simpa using he) ..

theorem specStaging_run {s : State} {q : IcralReq} {w : Nat} (hx : (s.panel q.panel).state = 2)
    (hs : (s.panel q.panel).segs.any (fun e => sgValid e.2 && decide (sgTier e.2 = 4)) = false) : specStaging.run s q w =
      .ok (s.setPanel q.panel { s.panel q.panel with
        wl := bits w 0 19, pf := bits w 19 3
        stage := if bits w 0 19 = (s.panel q.panel).wl then (s.panel q.panel).stage else [] }) :=
  (need_true (decide_eq_true hx) ..).trans (need_true (by simp [hs]) ..)

/-! ### Settling -/

/-- Settles O51: each packet in its turn does what its opcode's rule, met, makes it do. -/
theorem panelPacketsAct : Obligations.PanelPacketsAct := by
  unfold Obligations.PanelPacketsAct
  intro s q w cl a p x b n r k
  refine ⟨fun h hx hc => ?create, fun h hx => ?destroy, fun h hx => ?reset, fun h h0 hx hc => ?grant,
    fun h h0 hx hg hu => ?revoke, fun h ha hk ho hd ht => ?keepDefine, fun h ha hk hp => ?keepRelease,
    fun h ha hx hk hp => ?keepAssign, fun h ha hk hu => ?keepUnassign, fun h h10 hc ho => ?poolMap, fun h h10 he => ?poolUnmap,
    fun h hx hs => ?staging⟩
  case create =>
    exact congrArg Host.Outcome.next (State.performReq_waits h (by simp [h.opcode]) (specPanelCreate_run hx hc))
  case destroy =>
    exact congrArg Host.Outcome.next (State.performReq_waits h (by simp [h.opcode]) (specPanelDestroy_run w hx))
  case reset =>
    exact congrArg Host.Outcome.next (State.performReq_waits h (by simp [h.opcode]) (specPanelReset_run w hx))
  case grant =>
    exact congrArg Host.Outcome.next (State.performReq_done h (by simp [h.opcode, h0]) (specGrant_run hx hc))
  case revoke =>
    exact congrArg Host.Outcome.next (State.performReq_waits h (by simp [h.opcode, h0]) (specGrantRevoke_run hx hg hu))
  case keepDefine =>
    intro u
    rw [← keepRp_keep u h.opcode]
    exact congrArg Host.Outcome.next (State.performReq_done h (by simp [h.opcode, ha]) (specKeepDefine_run q hk ho hd ht))
  case keepRelease =>
    exact congrArg Host.Outcome.next (State.performReq_waits h (by simp [h.opcode, ha]) (specKeepRelease_run q hk hp))
  case keepAssign =>
    intro u
    rw [← keepRp_keep u h.opcode]
    exact congrArg Host.Outcome.next (State.performReq_done h (by simp [h.opcode, ha]) (specKeepAssign_run q hx hk hp))
  case keepUnassign =>
    intro u
    rw [← keepRp_keep u h.opcode]
    exact congrArg Host.Outcome.next (State.performReq_done h (by simp [h.opcode, ha]) (specKeepUnassign_run q hk hu))
  case poolMap =>
    exact congrArg Host.Outcome.next (State.performReq_done h (by simp [h.opcode, h10]) (specPoolMap_run q hc ho))
  case poolUnmap =>
    exact congrArg Host.Outcome.next (State.performReq_done h (by simp [h.opcode, h10]) (specPoolUnmap_run q he))
  case staging =>
    exact congrArg Host.Outcome.next (State.performReq_done h (by simp [h.opcode]) (specStaging_run hx hs))

end Sys2Proof.Machine
end

section
/-!
LIFECYCLE packets and the end of an image's staging (18 R566 to R569, R583, R584): what each action's rule, met, does, what an answer
leaves of the start-up registers, and the settling of LifecyclePacketsAct from it.
-/
namespace Sys2Proof.Machine
open Sys2Proof

/-! ### An answer leaves the start-up registers -/

theorem State.CohOnly.boot {s u : State} (h : s.CohOnly u) : u.boot = s.boot := by
  obtain ⟨_, _, _, _, _, _, _, _, rfl⟩ := h
  rfl

theorem State.mailboxDone_boot (s : State) (g : Nat) (pos : Count) (msi : Bool) (status : Nat) (dup : Bool) :
    (s.mailboxDone g pos msi status dup).boot = s.boot := by
  unfold State.mailboxDone
  dsimp only
  split
  · rfl
  · have h := (s.cohWrite_cohOnly ((s.ring g).clog + pos.toNat % (s.ring g).size * 8)
      (toBytes 8 (pos.toNat + status * 2 ^ 32 + b2n dup * 2 ^ 48))).boot
    cases msi <;> exact h

theorem State.deliver_boot (s : State) (a : Accepted) (reply : List Byte) (dup : Bool) : (s.deliver a reply dup).boot = s.boot := by
  unfold State.deliver
  split
  case h_1 p i hs =>
    dsimp only
    rw [State.mailboxDone_boot]
    split
    · exact (s.cohWrite_cohOnly _ _).boot
    · rfl
  case h_2 => rfl
  case h_3 => rfl

@[simp] theorem State.answer_boot (s : State) (a : Accepted) (status detail : Nat) (rp : List Byte) (clamps : List Nat) :
    (s.answer a status detail rp clamps).boot = s.boot :=
  State.deliver_boot _ a _ false

/-! ### What each action does -/

theorem State.epochOk_of {s : State} {w : Nat} (h : bits w 0 32 = s.boot.mepoch % 2 ^ 32) : s.epochOk w = true :=
  decide_eq_true h

theorem specTransition_run_moves {s : State} {w : Nat} (q : IcralReq) (he : s.epochOk w = true)
    (hm : moveOk s.boot.lcs (bits w 35 3) = true) : specTransition.run s q w =
      .ok (s.modBoot (fun b => { b with target := some (bits w 35 3), rst := some 6 })) :=
  (need_true he ..).trans (need_true hm ..)

theorem specTransition_run_refuses {s : State} {w : Nat} (q : IcralReq) (he : s.epochOk w = true)
    (hm : moveOk s.boot.lcs (bits w 35 3) = false) : specTransition.run s q w = .refuse stConflict 35 :=
  (need_true he ..).trans (if_neg (by simp [hm]))

/-- An image read whole from memory alone is staged if R566 accepts it. -/
theorem specStage_run {s : State} {w : Nat} (q : IcralReq) (he : s.epochOk w = true) (hf : s.boot.fwst ≠ 1)
    (hp : s.plain (bits w 64 52)) (hr : s.readResp (bits w 64 52) (bits w 128 32 + 1) = .ok) : specStage.run s q w =
      let bs := s.readBytes (bits w 128 32 + 1) (bits w 64 52)
      if s.boot.accepts bs = true then .ok (s.modBoot (fun b => { b with fwst := 1, staged := bs }))
      else .refuse stBadField 64 := by
  refine (need_true he ..).trans ((need_true (decide_eq_true hf) ..).trans ?_)
  simp only [State.cohRead_of_plain s _ _ hp, hr, decide_true, Bool.true_and]
  rfl

theorem specActivate_run {s : State} {w : Nat} (q : IcralReq) (he : s.epochOk w = true) (hf : s.boot.fwst = 2) :
    specActivate.run s q w = .ok (s.modBoot (fun b => { b with rst := some 7, attempts := some 1 })) :=
  (need_true he ..).trans (need_true (decide_eq_true hf) ..)

theorem specBlock_run {s : State} {w : Nat} (q : IcralReq) (he : s.epochOk w = true) (hr : s.boot.recovery = true) :
    specBlock.run s q w =
      .ok (s.modBoot (fun b => { b with blocks := b.blocks.set none (bits w 64 32) (some (bits w 128 384)) })) :=
  (need_true hr ..).trans (need_true he ..)

theorem specCommit_run {s : State} {w : Nat} (q : IcralReq) (he : s.epochOk w = true) (hr : s.boot.recovery = true) :
    specCommit.run s q w = need (s.boot.accepts (s.boot.assembled s.free (bits w 64 32 + 1))) stBadField 64
      (.ok (s.commitImage (s.boot.assembled s.free (bits w 64 32 + 1)))) :=
  (need_true hr ..).trans (need_true he ..)

/-- The commit of a packet in its turn draws the free bytes of its blocks. -/
theorem State.recoveryCommit_taken {s : State} {q : IcralReq} {w : Nat} {cl : List Nat} {d : Done}
    (h : s.taken q 0x09 specCommit w cl) (ha : lcAction q = 4) (hd : specCommit.run s q w = d) : s.recoveryCommit q =
      { s.concluded q specCommit cl d with
        free := (s.concluded q specCommit cl d).free + 48 * (bits q.params 64 32 + 1) } := by
  have here : decide (q.opcode.toNat = 0x09 ∧ lcAction q = 4) = true := by simp [h.opcode, ha]
  unfold State.recoveryCommit
  dsimp only
  rw [State.performReq_taken h here hd, here, Bool.true_and]
  exact if_pos h.2.1

/-! ### Image slots (R565, R567) -/

theorem Boot.image_program_same (b : Boot) {f k : Nat} (bs : List Byte) (hf : f ≤ 1) :
    (b.program k bs).image f k = bs := by
  have hfk : 2 * f + k = 2 + k ∨ 2 * f + k = k ∧ k ≠ 2 + k := by omega
  unfold Boot.image Boot.program
  dsimp only
  rcases hfk with h | ⟨h, hne⟩
  · rw [h, Table.get_set_self]
  · rw [h, Table.get_set_ne _ _ _ hne, Table.get_set_self]

theorem Boot.image_program_other (b : Boot) {f k j : Nat} (bs : List Byte) (hk : k ≤ 1) (hj : j ≤ 1) (hne : j ≠ k) :
    (b.program k bs).image f j = b.image f j := by
  have h2 : 2 * f + j ≠ 2 + k := by omega
  have h0 : 2 * f + j ≠ k := by omega
  unfold Boot.image Boot.program
  dsimp only
  rw [Table.get_set_ne _ _ _ h2, Table.get_set_ne _ _ _ h0]

/-- A committed image stands in every slot of both flashes. -/
theorem State.commitImage_image (s : State) (bs : List Byte) {f k : Nat} (hf : f ≤ 1) (hk : k ≤ 1) :
    (s.commitImage bs).boot.image f k = bs := by
  show ((s.boot.program 0 bs).program 1 bs).image f k = bs
  obtain rfl | rfl : k = 0 ∨ k = 1 := by omega
  · rw [Boot.image_program_other _ bs (by decide) (by decide) (by decide), Boot.image_program_same _ bs hf]
  · exact Boot.image_program_same _ bs hf

theorem Boot.preferred_of_pref {b : Boot} {f k : Nat} (h : b.pref.get none f = some k) (hk : k ≤ 1) : b.preferred f = k := by
  unfold Boot.preferred
  rw [h]
  exact Nat.mod_eq_of_lt (Nat.lt_succ_of_le hk)

/-- The image's writes ended well: the slot not running holds it and is preferred. -/
theorem State.stageDone_written {s : State} (h : s.boot.fwst = 1) : s.stageDone true =
    s.modBoot (fun b => { (b.program (1 - b.slot) b.staged) with
      fwst := 2, staged := [], prevPref := some (b.preferred 0, b.preferred 1)
      pref := (b.pref.set none 0 (some (1 - s.boot.slot))).set none 1 (some (1 - s.boot.slot)) }) := by
  simp [State.stageDone, h]

theorem State.drawBytes_boot (n : Nat) (s : State) : (s.drawBytes n).1.boot = s.boot := by
  induction n generalizing s with
  | zero => rfl
  | succ n ih => exact ih _

theorem State.stageDone_failed {s : State} (h : s.boot.fwst = 1) :
    (s.stageDone false).boot.fwst = 3 ∧ (s.stageDone false).boot.pref = s.boot.pref := by
  have hs : s.stageDone false = (s.drawBytes s.boot.staged.length).1.modBoot (fun b =>
      { (b.program (1 - s.boot.slot) (s.drawBytes s.boot.staged.length).2) with fwst := 3, staged := [] }) := by
    simp [State.stageDone, h]
  have hpref : (s.drawBytes s.boot.staged.length).1.boot.pref = s.boot.pref := by rw [State.drawBytes_boot]
  rw [hs]
  exact ⟨rfl, hpref⟩

/-! ### Settling -/

/-- Settles O50: each action in its turn does what its rule, met, makes it do; staging ends in the slot not running. -/
theorem lifecyclePacketsAct : Obligations.LifecyclePacketsAct := by
  unfold Obligations.LifecyclePacketsAct
  intro s q w cl a b epoch
  refine ⟨fun h ha he => ?transition, fun h ha he hf => ?stage, fun h => ?staged, fun h ha he hf => ?activate,
    fun h ha he hr => ?block, fun h ha he hr => ?commit⟩
  case transition =>
    have here : decide (q.opcode.toNat = 0x09 ∧ (lcAction q = 0 ∨ 5 ≤ lcAction q)) = true := by simp [h.opcode, ha]
    exact ⟨fun hm =>
        congrArg Host.Outcome.next (State.performReq_done h here (specTransition_run_moves q (State.epochOk_of he) hm)),
      fun hm =>
        congrArg Host.Outcome.next (State.performReq_refused h here (specTransition_run_refuses q (State.epochOk_of he) hm))⟩
  case stage =>
    intro n bs hp hr
    have here : decide (q.opcode.toNat = 0x09 ∧ lcAction q = 1) = true := by simp [h.opcode, ha]
    have hrun := specStage_run q (State.epochOk_of he) hf hp hr
    refine congrArg Host.Outcome.next ?_
    split
    next hok => exact State.performReq_done h here (hrun.trans (if_pos hok))
    next hbad => exact State.performReq_refused h here (hrun.trans (if_neg hbad))
  case staged =>
    intro k
    refine ⟨⟨_, congrArg Host.Outcome.next (State.stageDone_written h), rfl, rfl, fun hk => ?_, rfl⟩,
      _, rfl, State.stageDone_failed h⟩
    have first : ((b.pref.set none 0 (some k)).set none 1 (some k)).get none 0 = some k :=
      (Table.get_set_ne _ _ _ (by decide)).trans (Table.get_set_self ..)
    have second : ((b.pref.set none 0 (some k)).set none 1 (some k)).get none 1 = some k := Table.get_set_self ..
    exact ⟨Boot.image_program_same b _ (by decide), Boot.image_program_same b _ (by decide),
      Boot.preferred_of_pref first hk, Boot.preferred_of_pref second hk⟩
  case activate =>
    exact congrArg Host.Outcome.next
      (State.performReq_done h (by simp [h.opcode, ha]) (specActivate_run q (State.epochOk_of he) hf))
  case block =>
    exact congrArg Host.Outcome.next
      (State.performReq_done h (by simp [h.opcode, ha]) (specBlock_run q (State.epochOk_of he) hr))
  case commit =>
    intro bs
    have hrun := specCommit_run q (State.epochOk_of he) hr
    refine ⟨_, congrArg Host.Outcome.next (State.recoveryCommit_taken h ha hrun), fun hok => ?_, fun hbad => ?_⟩
    · rw [need_true hok]
      have hb : (State.concluded s q specCommit cl (.ok (s.commitImage bs))).boot = (s.commitImage bs).boot :=
        State.answer_boot ..
      exact ⟨congrArg Boot.rst hb, fun f k hf hk =>
        (congrArg (fun b : Boot => b.image f k) hb).trans (State.commitImage_image s bs hf hk)⟩
    · rw [show need (s.boot.accepts bs) stBadField 64 _ = .refuse stBadField 64 from if_neg (by simp [b, hbad])]
      exact State.answer_boot ..

end Sys2Proof.Machine
end

section
/-!
The Icral paths (16 R520 to R528): sessions, the judgement of a packet, its delivery over I3C, and what ends on its own; the settling of
PacketsAreAccepted and ReplyReadsAndExpiries from these.
-/
namespace Sys2Proof.Machine
open Sys2Proof

/-! ### Association lists -/

section
variable {κ α : Type} [DecidableEq κ]

/-- A change of the values under `k` changes what stands first under it. -/
theorem assoc_map_key (l : List (κ × α)) (k : κ) (g : α → α) :
    assoc (l.map (fun p => if p.1 = k then (k, g p.2) else p)) k = (assoc l k).map g := by
  induction l with
  | nil => rfl
  | cons p l ih =>
    unfold assoc at ih ⊢
    by_cases h : p.1 = k
    · simp [h]
    · simpa [h] using ih

theorem assoc_putAssoc (l : List (κ × α)) (k : κ) (v : α) : assoc (putAssoc l k v) k = some v := by
  unfold putAssoc
  split
  case isTrue h =>
    have hsome : (assoc l k).isSome := by
      simpa [assoc, List.find?_isSome] using h
    obtain ⟨x, hx⟩ := Option.isSome_iff_exists.mp hsome
    rw [assoc_map_key l k (fun _ => v), hx]
    rfl
  case isFalse h =>
    have hnone : l.find? (fun p => decide (p.1 = k)) = none :=
      List.find?_eq_none.mpr fun p hp hk => h (List.any_eq_true.mpr ⟨p, hp, hk⟩)
    simp [assoc, List.find?_append, hnone]

end

/-! ### Sessions -/

theorem State.session_setSession (s : State) (k : SessKey) (v : Session) : (s.setSession k v).session k = v := by
  unfold State.session State.setSession State.modMgmt
  dsimp only
  rw [assoc_putAssoc]
  rfl

/-- A session that exists takes the time of its last packet. -/
theorem State.session_touchSession {s : State} {k : SessKey} {x : Session} (h : assoc s.mgmt.sessions k = some x) :
    (s.touchSession k).session k = { x with last := s.now } := by
  unfold State.session State.touchSession State.modMgmt
  dsimp only
  rw [assoc_map_key s.mgmt.sessions k (fun x => { x with last := s.now }), h]
  rfl

/-! ### Judgement (R526 steps 1 to 6, R527) -/

/-- The session's highest SEQ is the packet's, and the packet stands last among the accepted ones. -/
def State.taking (s : State) (k : SessKey) (a : Accepted) : State :=
  (s.setSession k { s.session k with high := some a.q.seq }).modMgmt (fun m => { m with accepted := m.accepted ++ [a] })

theorem State.judgeOpcode_known {s : State} {a : Accepted} {o : Nat × OpAuth × Nat}
    (hf : opcodeTable.find? (fun o => o.1 = a.q.opcode.toNat) = some o) (ha : opAllowed o.2.1 a.q.auth a.q.panel = true)
    (hn : a.q.plen = o.2.2) : s.judgeOpcode a = s := by
  unfold State.judgeOpcode
  rw [hf]
  simp [ha, hn]

theorem State.judgePacket_passes {s : State} {k : SessKey} {auth : Auth} {bytes : List Byte} {mk : IcralReq → Accepted}
    (h : s.passes k auth bytes) (hmk : ∀ q, (mk q).q = q) :
    s.judgePacket k auth bytes mk = s.taking k (mk (readPacket k auth bytes)) := by
  obtain ⟨hheader, hcrc, hfree, hnew, hahead, hroom, o, hopcode, hallowed, hlength⟩ := h
  unfold State.judgePacket
  simp only [hheader, hcrc, hfree, hnew, hahead, hroom, Bool.not_true, Bool.false_eq_true, if_false]
  rw [State.judgeOpcode_known (by rw [hmk]; exact hopcode) (by rw [hmk]; exact hallowed) (by rw [hmk]; exact hlength),
    State.taking, hmk]

/-- A packet of session `k` taken and its session's time noted is accepted. -/
theorem State.taking_accepts (s : State) {k : SessKey} {a : Accepted} (hk : a.q.sess = k) :
    s.accepts ((s.taking k a).touchSession k) a := by
  subst hk
  have hx : assoc (s.taking a.q.sess a).mgmt.sessions a.q.sess = some { s.session a.q.sess with high := some a.q.seq } :=
    assoc_putAssoc ..
  have hs := State.session_touchSession hx
  exact ⟨rfl, rfl, by rw [hs], by rw [hs]; rfl, by rw [hs]⟩

/-! ### I3C (R523) -/

theorem State.deliver_i3c {a : Accepted} (h : a.q.sess = .i3c) (s : State) (reply : List Byte) (dup : Bool) :
    s.deliver a reply dup = s.modMgmt (fun m => { m with i3cReply := some reply, ibi := m.ibi ++ [0xA1] }) := by
  unfold State.deliver
  rw [h]

/-- The state with an unread reply discarded. -/
def State.noReply (s : State) : State := { s with mgmt := { s.mgmt with i3cReply := none } }

theorem State.i3cWrite_judged {s : State} (bytes : List Byte) (hm : s.managed = true) (hl : s.boot.lcs ≠ 4) :
    s.i3cWrite bytes = (s.noReply.judgePacket .i3c .owner bytes (fun q => { q := q })).touchSession .i3c := by
  unfold State.i3cWrite
  simp only [hm, Bool.not_true, Bool.false_eq_true, if_false]
  exact if_neg fun h => hl h.1

theorem State.judgePacket_badCrc {s : State} {k : SessKey} {auth : Auth} {bytes : List Byte} (mk : IcralReq → Accepted)
    (hh : headerOk bytes = true) (hc : packetCrcOk bytes = false) :
    s.judgePacket k auth bytes mk = s.replyOnly (mk (readPacket k auth bytes)) stBadCrc := by
  unfold State.judgePacket
  simp [hh, hc]

/-! ### Management Ethernet (R522) -/

theorem mapM_eq_some_map {α β : Type} {f : α → Option β} {g : α → β} {l : List α} (h : ∀ x ∈ l, f x = some (g x)) :
    l.mapM f = some (l.map g) := by
  induction l with
  | nil => rfl
  | cons x l ih => simp [List.mapM_cons, h x List.mem_cons_self, ih fun y hy => h y (List.mem_cons_of_mem x hy)]

/-- A datagram that came in one fragment is whole. -/
theorem Reasm.whole_single (ip : BitVec 32) (port ident : BitVec 16) (bs : List Byte) (h : bs.length ≤ 8224) :
    Reasm.whole { ip := ip, port := port, ident := ident, parts := [(0, bs)], total := some bs.length } = some bs := by
  have hbyte : ∀ i ∈ List.range bs.length,
      Reasm.byteAt { ip := ip, port := port, ident := ident, parts := [(0, bs)], total := some bs.length } i =
        some (bs.getD i 0) := by
    intro i hi
    simp [Reasm.byteAt, List.mem_range.mp hi]
  have hall : (List.range bs.length).map (fun i => bs.getD i 0) = bs :=
    List.ext_getElem (by simp) (fun i h1 h2 => by simp [h2])
  exact (if_pos h).trans ((mapM_eq_some_map hbyte).trans (congrArg some hall))

theorem reassemble_single {d : Datagram} (ho : d.offset = 0) (hm : d.more = false) (hl : d.bytes.length ≤ 8224) :
    reassemble [] d = ([], some (d.srcPort, d.bytes)) := by
  have hw := Reasm.whole_single d.srcIp d.srcPort d.ident d.bytes hl
  simp [reassemble, Reasm.add, ho, hm, hw, Nat.not_lt.mpr hl]

/-- A whole datagram of an allowed source is judged, nothing being in reassembly. -/
theorem State.datagram_judged {s : State} {d : Datagram} (hm : s.managed = true) (hr : s.boot.recovery = false)
    (hl : s.boot.lcs ≠ 4) (ha : s.allowed d.srcIp = true) (ho : d.offset = 0) (hmore : d.more = false)
    (hlen : d.bytes.length ≤ 8224) (hf : s.mgmt.frags = []) : s.datagram d =
      (s.judgePacket (.eth d.srcIp d.srcPort) .owner d.bytes (fun q => { q := q })).touchSession (.eth d.srcIp d.srcPort) := by
  have hkept : s.modMgmt (fun m => { m with frags := [] }) = s := by
    unfold State.modMgmt
    rw [← hf]
  unfold State.datagram
  simp only [hm, hr, hl, ha, hf, reassemble_single ho hmore hlen, hkept]
  rfl

/-! ### Mailbox rings (R520, R521) -/

/-- What becomes of the entry at HEAD, of value `e` and authority `auth`, once it is read: its packet is judged, or it is answered
ENTRY_BAD. -/
def State.entryRead (s : State) (p : PanelId) (i : Fin 64) (pos : Count) (auth : Auth) (e : Nat) : State :=
  let pkt := bits e 0 52
  let bad := fun (s : State) => s.mailboxDone (mailboxRing p i) pos (bit e 135) stEntryBad false
  if !s.entryOk auth e then bad s
  else if s.readResp pkt 32 ≠ .ok then bad s
  else
    let (hd, s) := s.cohRead 32 pkt
    let n := 32 + bits (ofBytes hd) 64 13
    if !s.t2Reach auth pkt n then bad s
    else if s.readResp pkt n ≠ .ok then bad s
    else
      let (bs, s) := s.cohRead n pkt
      (s.judgePacket (.mailbox p i) auth bs (fun q =>
        { q := q, pos := pos, rpy := bits e 64 52, rblk := bits e 128 7, msi := bit e 135 })).touchSession (.mailbox p i)

/-- An enabled mailbox ring with an entry, no packet of its session being performed, has the entry at HEAD read. -/
theorem State.mailboxFetch_reads {s : State} {p : PanelId} {i : Fin 64} {r : Ring} (hring : s.ring (mailboxRing p i) = r)
    (hm : s.managed = true) (he : r.en = true) (hc : r.count ≠ 0) (hf : s.performing (.mailbox p i) = none)
    (hn : s.mgmt.accepted.length < 256) (hp : s.plain (r.entryAddr r.head)) (hr : s.readResp (r.entryAddr r.head) 64 = .ok) :
    s.mailboxFetch p i = s.entryRead p i r.head (r.authAt r.head) (s.readNat 64 (r.entryAddr r.head)) := by
  unfold State.mailboxFetch
  simp only [hring, hm, he, hc, hf, Nat.not_le.mpr hn, hr, State.cohRead_of_plain s _ _ hp]
  rfl

theorem State.entryRead_bad {s : State} {auth : Auth} {e : Nat} (p : PanelId) (i : Fin 64) (pos : Count)
    (h : s.entryOk auth e = false) :
    s.entryRead p i pos auth e = s.mailboxDone (mailboxRing p i) pos (bit e 135) stEntryBad false := by
  simp [State.entryRead, h]

/-- An entry whose packet its authority reaches is judged as the bytes the packet's header counts. -/
theorem State.entryRead_judged {s : State} {auth : Auth} {e n : Nat} (p : PanelId) (i : Fin 64) (pos : Count)
    (h : s.entryOk auth e = true) (hp : s.plain (bits e 0 52)) (hh : s.readResp (bits e 0 52) 32 = .ok)
    (hlen : 32 + bits (s.readNat 32 (bits e 0 52)) 64 13 = n) (ht : s.t2Reach auth (bits e 0 52) n = true)
    (hb : s.readResp (bits e 0 52) n = .ok) : s.entryRead p i pos auth e =
      (s.judgePacket (.mailbox p i) auth (s.readBytes n (bits e 0 52)) (fun q =>
        { q := q, pos := pos, rpy := bits e 64 52, rblk := bits e 128 7, msi := bit e 135 })).touchSession (.mailbox p i) := by
  have hn : 32 + bits (ofBytes (s.readBytes 32 (bits e 0 52))) 64 13 = n := hlen
  unfold State.entryRead
  simp only [h, hh, hn, ht, hb, State.cohRead_of_plain s _ _ hp, Bool.not_true, Bool.false_eq_true, ne_eq,
    not_true_eq_false, if_false]

/-- The completion record `v` of the entry at HEAD, without an MSI, and HEAD past it. -/
theorem State.mailboxDone_head {s : State} {g v status : Nat} {r : Ring} (hring : s.ring g = r) (he : r.en = true)
    (hv : r.head.toNat + status * 2 ^ 32 + b2n false * 2 ^ 48 = v) (hp : s.plain (r.clog + r.head.toNat % r.size * 8)) :
    s.mailboxDone g r.head false status false = (s.writeNat 8 (r.clog + r.head.toNat % r.size * 8) v).setRing g
      { r with head := r.head + 1, avail := r.avail.filter (fun a => decide (a.1 ≠ r.head + 1)) } := by
  have hgo : (!r.en || decide (r.head ≠ r.head)) = false := by simp [he]
  unfold State.mailboxDone
  simp only [hring, hgo, hv, State.cohWriteNat, State.cohWrite_of_plain s _ _ hp, Bool.false_eq_true, if_false]
  rw [State.modRing_eq, State.writeNat, ← hring]
  rfl

/-- A completion record and HEAD past its entry: what stands in memory, in the ring and with the manager. -/
theorem State.record_read (s : State) {g a v : Nat} (r : Ring) (hv : v < 256 ^ 8) :
    let t := (s.writeNat 8 a v).setRing g r
    t.readNat 8 a = v ∧ s.bytesOutside t a 8 ∧ (t.ring g).head = r.head ∧ t.mgmt = s.mgmt := by
  obtain ⟨hread, hout, hring, -⟩ := State.writeNat_setRing s g 8 a v r
  exact ⟨(congrArg ofBytes hread).trans ((ofBytes_toBytes ..).trans (Nat.mod_eq_of_lt hv)), hout, congrArg Ring.head hring, rfl⟩

/-- The value of an ENTRY_BAD record is its position and status, and fits 8 B. -/
theorem entryBad_record (pos : Count) : pos.toNat + stEntryBad * 2 ^ 32 + b2n false * 2 ^ 48 = pos.toNat + stEntryBad * 2 ^ 32 ∧
    pos.toNat + stEntryBad * 2 ^ 32 < 256 ^ 8 := by
  have hpos := pos.isLt
  have hs : stEntryBad = 514 := rfl
  refine ⟨by rw [show b2n false = 0 from rfl, Nat.zero_mul, Nat.add_zero], ?_⟩
  rw [hs]
  omega

/-! ### What ends on its own -/

theorem State.sessionIdle_gone {s : State} {ip : BitVec 32} {port : BitVec 16} {x : Session}
    (hx : assoc s.mgmt.sessions (.eth ip port) = some x) (hw : s.mgmt.want = true) (hf : s.performing (.eth ip port) = none) :
    s.sessionIdle ip port = (s.dropSession (.eth ip port)).modMgmt (fun m => { m with want := false }) := by
  simp [State.sessionIdle, hx, hw, hf]

/-! ### Settling -/

/-- Settles O47: each path judges the packet, and one that passes is taken into its session. -/
theorem packetsAreAccepted : Obligations.PacketsAreAccepted := by
  unfold Obligations.PacketsAreAccepted
  intro s bytes d p i hm u
  refine ⟨fun hl hpass => ?i3c, fun hl hh hc => ?badCrc, fun hr hl ha ho hmore hlen hf hpass => ?datagram, ?mailbox⟩
  case i3c =>
    have hrun := State.i3cWrite_judged bytes hm hl
    rw [State.judgePacket_passes (s := s.noReply) hpass fun _ => rfl] at hrun
    exact ⟨_, congrArg Host.Outcome.next hrun, rfl, State.taking_accepts s.noReply rfl⟩
  case badCrc =>
    have hrun := State.i3cWrite_judged bytes hm hl
    rw [State.judgePacket_badCrc _ hh hc, State.replyOnly, State.deliver_i3c rfl] at hrun
    exact ⟨_, congrArg Host.Outcome.next hrun, rfl, rfl, rfl⟩
  case datagram =>
    have hrun := State.datagram_judged hm hr hl ha ho hmore hlen hf
    rw [State.judgePacket_passes hpass fun _ => rfl] at hrun
    exact ⟨_, congrArg Host.Outcome.next hrun, State.taking_accepts s rfl⟩
  case mailbox =>
    intro g r ea e pkt n k auth he hc hf hn hp hr
    have hfetch := State.mailboxFetch_reads rfl hm he hc hf hn hp hr
    refine ⟨fun hok hpp hh ht hb hpass => ?_, fun hok hmsi => ?_⟩
    · rw [State.entryRead_judged p i r.head hok hpp hh rfl ht hb, State.judgePacket_passes hpass fun _ => rfl] at hfetch
      exact ⟨_, congrArg Host.Outcome.next hfetch, State.taking_accepts s rfl⟩
    · intro a hpa
      obtain ⟨hv, hlt⟩ := entryBad_record r.head
      rw [State.entryRead_bad p i r.head hok, hmsi, State.mailboxDone_head rfl he hv hpa] at hfetch
      exact ⟨_, congrArg Host.Outcome.next hfetch, State.record_read s _ hlt⟩

/-- Settles O48: each is what its command does to the manager's state. -/
theorem replyReadsAndExpiries : Obligations.ReplyReadsAndExpiries := by
  unfold Obligations.ReplyReadsAndExpiries
  intro s ip port ident addr ans m
  refine ⟨fun r hr => ?read, fun hr => ?noReply, fun x hx hw hf => ?session, ⟨_, rfl, rfl, ?gone, ?stay⟩, fun hm => ?address,
    fun hm hs => ?lease⟩
  case read => exact congrArg Host.Outcome.next (by rw [hr]; rfl)
  case noReply => exact congrArg Host.Outcome.next (by rw [hr])
  case session => exact congrArg Host.Outcome.next (State.sessionIdle_gone hx hw hf)
  case gone => exact fun r hr => of_decide_eq_false ((Bool.not_eq_true' _).mp (List.mem_filter.mp hr).2)
  case stay => exact fun r hr hne => List.mem_filter.mpr ⟨hr, (Bool.not_eq_true' _).mpr (decide_eq_false hne)⟩
  case address => exact congrArg Host.Outcome.next (if_pos hm)
  case lease => exact congrArg Host.Outcome.next (if_pos (by rw [hm, hs]; rfl))

end Sys2Proof.Machine
end

section
/-!
Queries and settings of the module (16 R526, R530 to R535; 10 R362; 18 R533, R560): what an answer over I3C leaves, the power limit
that its field gives, and the settling of ModuleQueriesAndSettings from these.
-/
namespace Sys2Proof.Machine
open Sys2Proof

/-! ### An answer over I3C (R523, R525 to R527) -/

/-- The reply is cached under its packet's SEQ, and the packet is forgotten. -/
def State.replied (s : State) (a : Accepted) (reply : List Byte) : State :=
  let x := s.session a.q.sess
  (s.setSession a.q.sess { x with replies := (x.replies ++ [(a.q.seq, reply)]).drop (x.replies.length - 15) }).modMgmt
    (fun m => { m with accepted := m.accepted.filter (fun b => b.q ≠ a.q) })

theorem State.answer_ok (s : State) (a : Accepted) (detail : Nat) (rp : List Byte) (cl : List Nat) :
    s.answer a stOk detail rp cl =
      (s.replied a (s.formReply a.q stOk detail rp cl)).deliver a (s.formReply a.q stOk detail rp cl) false := rfl

theorem State.replied_replies (s : State) (a : Accepted) (reply : List Byte) :
    (a.q.seq, reply) ∈ ((s.replied a reply).session a.q.sess).replies := by
  have hs : (s.replied a reply).session a.q.sess = _ := State.session_setSession s a.q.sess _
  rw [hs]
  dsimp only
  rw [List.drop_append_of_le_length (Nat.sub_le _ _)]
  simp

theorem State.replied_accepted {s : State} {a b : Accepted} {reply : List Byte} (h : b ∈ (s.replied a reply).mgmt.accepted) :
    b.q ≠ a.q := by
  simpa using (List.mem_filter.mp h).2

/-- Over I3C the reply is left to be read, with an in-band interrupt. -/
theorem State.answer_i3c {s : State} {a : Accepted} (h : a.q.sess = .i3c) (detail : Nat) (rp : List Byte) (cl : List Nat) :
    let u := s.answer a stOk detail rp cl
    let rep := s.formReply a.q stOk detail rp cl
    u.mgmt.i3cReply = some rep ∧ u.mgmt.ibi = s.mgmt.ibi ++ [0xA1] ∧ (a.q.seq, rep) ∈ (u.session .i3c).replies ∧
      (∀ b ∈ u.mgmt.accepted, b.q ≠ a.q) ∧ u = { s with mgmt := u.mgmt } := by
  intro u rep
  have hu : u = _ := (s.answer_ok a detail rp cl).trans (State.deliver_i3c h ..)
  have hcached := s.replied_replies a rep
  rw [h] at hcached
  rw [hu]
  exact ⟨rfl, rfl, hcached, fun b hb => State.replied_accepted hb, rfl⟩

/-! ### Fields (R531, R532) -/

/-- A field replaced reads as its new value. -/
theorem bits_setBits_same (w lo n v : Nat) : bits (setBits w lo n v) lo n = v % 2 ^ n := by
  have hlow : w % 2 ^ lo < 2 ^ lo := Nat.mod_lt _ (Nat.two_pow_pos lo)
  have hform : setBits w lo n v = w % 2 ^ lo + 2 ^ lo * (v % 2 ^ n + 2 ^ n * (w / 2 ^ (lo + n))) := by
    unfold setBits
    rw [Nat.pow_add]
    ring
  rw [bits, hform, Nat.add_mul_div_left _ _ (Nat.two_pow_pos lo), Nat.div_eq_of_lt hlow, Nat.zero_add, Nat.add_mul_mod_self_left,
    Nat.mod_mod]

/-- A field replaced leaves the bits below it. -/
theorem bits_setBits_below (w lo n v : Nat) : bits (setBits w lo n v) 0 lo = bits w 0 lo := by
  have hform : setBits w lo n v = w % 2 ^ lo + 2 ^ lo * (v % 2 ^ n + 2 ^ n * (w / 2 ^ (lo + n))) := by
    unfold setBits
    rw [Nat.pow_add]
    ring
  rw [bits_zero, bits_zero, hform, Nat.add_mul_mod_self_left, Nat.mod_mod]

/-- The clamp of SET_POWER_LIMIT gives 7.0 to 16.0 kW in steps of 10 W, whatever was asked. -/
theorem powerField_judge {w v : Nat} {cl : List Nat}
    (h : Field.judge ⟨0, 32, .clamp 7000 16000 10 false⟩ w = some (v, cl)) :
    7000 ≤ bits v 0 32 ∧ bits v 0 32 ≤ 16000 ∧ bits v 0 32 % 10 = 0 := by
  have hput (x : Nat) : bits (setBits w 0 32 x) 0 32 = x % 4294967296 := bits_setBits_same w 0 32 x
  simp only [Field.judge, Bool.false_eq_true, false_and, if_false] at h
  split at h
  next hlo =>
    obtain rfl : _ = v := congrArg Prod.fst (Option.some.inj h)
    rw [hput]
    decide
  next hlo =>
    split at h
    next hhi =>
      obtain rfl : _ = v := congrArg Prod.fst (Option.some.inj h)
      rw [hput]
      decide
    next hhi =>
      split at h
      next hstep =>
        obtain rfl : _ = v := congrArg Prod.fst (Option.some.inj h)
        rw [hput, Nat.mod_eq_of_lt (by omega)]
        omega
      next hstep =>
        obtain rfl : w = v := congrArg Prod.fst (Option.some.inj h)
        omega

theorem specSetPowerLimit_judged {s : State} {q : IcralReq} {w : Nat} {cl : List Nat}
    (h : judgeFields (specSetPowerLimit.fields s q) q.params = .ok (w, cl)) :
    7000 ≤ bits w 0 32 ∧ bits w 0 32 ≤ 16000 ∧ bits w 0 32 % 10 = 0 := by
  unfold specSetPowerLimit at h
  simp only [judgeFields] at h
  cases hf : Field.judge ⟨0, 32, .clamp 7000 16000 10 false⟩ q.params with
  | none => rw [hf] at h; cases h
  | some r =>
    rw [hf] at h
    obtain rfl : setBits r.1 32 32 0 = w := congrArg Prod.fst (Except.ok.inj h)
    rw [bits_setBits_below]
    exact powerField_judge hf

/-! ### Module settings -/

theorem specSetModuleId_run {s : State} (q : IcralReq) (w : Nat) (h : s.anyJob = false) :
    specSetModuleId.run s q w = .ok { s with modId := bits w 0 10, midset := true } :=
  need_true (by simp [h]) ..

theorem specStatusQuery_run {s : State} {q : IcralReq} (w : Nat) (h : (s.panel q.panel).state ≠ 0) :
    specStatusQuery.run s q w = .ok s :=
  need_true (decide_eq_true h) ..

theorem specModuleReset_run {s : State} {w : Nat} (q : IcralReq) (h : s.epochOk w = true) :
    specModuleReset.run s q w = .ok (s.resetDue 1) :=
  need_true h ..

/-- TELEMETRY in its turn answers the readings, then begins a new maximum and has drawn the reply's free values. -/
theorem State.telemetry_taken {s : State} {q : IcralReq} {w : Nat} {cl : List Nat} (h : s.taken q 0x04 specTelemetry w cl) :
    s.telemetry q =
      let t := s.answer (s.acceptedOf q) stOk 0 s.telemetryReply cl
      { t with power := { t.power with pmax := 0 }, free := t.free + 18 } := by
  have hrun := State.performReq_done h (decide_eq_true h.opcode) rfl
  obtain ⟨hop, hturn, hcheck, -, -, hserve, -⟩ := h
  have mine : (decide (q.opcode.toNat = 0x04) && s.turnOf q && s.serves .up) = true := by
    rw [hop, hturn, show s.serves .up = true from hserve]
    rfl
  unfold State.telemetry
  simp only [hrun, mine, hcheck, Bool.false_eq_true, if_false, if_true]
  rfl

/-- Settles O49: each packet in its turn does what its opcode's rule, met, makes it do. -/
theorem moduleQueriesAndSettings : Obligations.ModuleQueriesAndSettings := by
  unfold Obligations.ModuleQueriesAndSettings
  intro s q w cl a
  refine ⟨fun h hi => ?idQuery, fun h hj => ?moduleId, fun h hx => ?statusQuery, fun h => ?telemetry, fun h => ⟨?limit, ?inRange⟩,
    fun h => ?fabric, fun h => ?net, fun h => ?hostReset, fun h he => ?moduleReset⟩
  case idQuery =>
    have ha : a.q = q := s.acceptedOf_q q
    refine ⟨_, congrArg Host.Outcome.next (State.performReq_done h (decide_eq_true h.opcode) rfl), ?_⟩
    have hsent := State.answer_i3c (s := s) (a := a) (by rw [ha]; exact hi) 0 s.idReply cl
    rw [ha] at hsent
    exact hsent
  case moduleId =>
    exact congrArg Host.Outcome.next (State.performReq_done h (decide_eq_true h.opcode) (specSetModuleId_run q w hj))
  case statusQuery =>
    exact congrArg Host.Outcome.next (State.performReq_done h (decide_eq_true h.opcode) (specStatusQuery_run w hx))
  case telemetry => exact congrArg Host.Outcome.next (State.telemetry_taken h)
  case limit => exact congrArg Host.Outcome.next (State.performReq_done h (decide_eq_true h.opcode) rfl)
  case inRange =>
    obtain ⟨-, -, -, -, hjudge, -⟩ := h
    exact specSetPowerLimit_judged hjudge
  case fabric => exact congrArg Host.Outcome.next (State.performReq_done h (decide_eq_true h.opcode) rfl)
  case net => exact congrArg Host.Outcome.next (State.performReq_done h (decide_eq_true h.opcode) rfl)
  case hostReset => exact congrArg Host.Outcome.next (State.performReq_waits h (decide_eq_true h.opcode) rfl)
  case moduleReset =>
    exact congrArg Host.Outcome.next
      (State.performReq_done h (decide_eq_true h.opcode) (specModuleReset_run q (State.epochOk_of he)))

end Sys2Proof.Machine
end

section
/-!
The life of a job (15 R506 to R509; 16 R536; 19 R590, R597, R598): its start, its end, the idle slot and the watchdog, and the
settling of JobsStartEndAndIdle from these.
-/
namespace Sys2Proof.Machine
open Sys2Proof

/-! ### The start (R506, R536) -/

theorem State.setConns_panels (s : State) (cs : List (Nat × Conn)) : (cs.foldl (fun s c => s.setConn c.1 c.2) s).panels = s.panels := by
  induction cs generalizing s with
  | nil => rfl
  | cons c cs ih => exact ih _

/-- The start leaves the job's record as its parameters give it. -/
theorem State.jobBegins_job (s : State) (p j w : Nat) (cs : List (Nat × Conn)) :
    (s.jobBegins p j w cs).job p j = (s.job p j).begin w := by
  have hp : (s.jobBegins p j w cs).panels = ((s.unstopSlot p j).modJob p j (fun b => b.begin w)).panels :=
    State.setConns_panels _ cs
  rw [State.job, State.panel, hp]
  exact State.job_setJob ..

/-- With every condition of R536 met and no resume check the job starts. -/
theorem specJobStart_run {s : State} {q : IcralReq} {w : Nat} {rd : List Byte × State} {tab : List Nat} {cs : List (Nat × Conn)}
    (hrd : s.cohRead (72 * (bits w 16 10 + 1)) (bits w 384 52) = rd) (htab : peerTable (bits w 16 10) rd.1 = tab)
    (hcs : peerConns q.panel.val (bits w 0 3) (bits w 16 10) tab = cs) (hmid : s.midset = true) (hx : (s.panel q.panel).state = 2)
    (hptab : s.readResp (bits w 384 52) (72 * (bits w 16 10 + 1)) = .ok) (hmod : bits (tab.getD (bits w 6 10) 0) 0 10 = s.modId)
    (hpanel : bits (tab.getD (bits w 6 10) 0) 10 4 = q.panel.val) (hslot : bits (tab.getD (bits w 6 10) 0) 14 3 = bits w 0 3)
    (hidle : (s.job q.panel (bits w 0 3)).jstate = 0)
    (htag : (s.panel q.panel).jobs.all (fun x => decide (x.2.jstate = 0 ∨ x.2.tag = bits w 32 32)) = true)
    (hports : cs.all (fun c => c.2.paths.all (fun x => !(s.port x.1).eth)) = true)
    (hroom : 2 * s.conns.length + 2 * cs.length ≤ 8192) (hres : bit w 5 = false) :
    specJobStart.run s q w = .ok (rd.2.jobBegins q.panel.val (bits w 0 3) w cs) := by
  subst hrd htab hcs
  unfold specJobStart
  dsimp only
  rw [need_true hmid, State.inService_of hx, need_true (decide_eq_true ⟨hptab, hmod, hpanel, hslot⟩),
    need_true (decide_eq_true hidle), need_true htag, need_true hports, need_true (decide_eq_true hroom), hres]
  rfl

/-- A packet without a resume check draws no free value. -/
theorem State.jobStart_taken {s u : State} {q : IcralReq} {w : Nat} {cl : List Nat} (h : s.taken q 0x30 specJobStart w cl)
    (ho : s.patternOwed q.panel = false) (hres : bit q.params 5 = false) (hrun : specJobStart.run s q w = .ok u) :
    s.jobStart q = u.answer (s.acceptedOf q) stOk 0 [] cl := by
  have here : (decide (q.opcode.toNat = 0x30) && !s.patternOwed q.panel) = true := by simp [h.opcode, ho]
  have hdone := State.performReq_done h here hrun
  unfold State.jobStart
  simp only [hres, Bool.and_false, Bool.false_eq_true, if_false]
  exact hdone

/-! ### The end (R507, R508) -/

theorem specJobEnd_run_idle {s : State} {q : IcralReq} {w : Nat} (hx : (s.panel q.panel).state ≠ 0)
    (hj : (s.job q.panel (bits w 0 3)).jstate = 0) : specJobEnd.run s q w = .ok s :=
  (need_true (decide_eq_true hx) ..).trans (if_pos hj)

theorem specJobEnd_run_busy {s : State} {q : IcralReq} {w : Nat} (hx : (s.panel q.panel).state ≠ 0)
    (hj : (s.job q.panel (bits w 0 3)).jstate ≠ 0) :
    specJobEnd.run s q w = .wait (s.endJob q.panel (bits w 0 3) 1) (.slot q.panel (bits w 0 3)) :=
  (need_true (decide_eq_true hx) ..).trans (if_neg hj)

theorem State.endJob_running {s : State} {p j : Nat} (c : Nat) (h : (s.job p j).jstate = 1) :
    ((s.endJob p j c).job p j).jstate = 2 ∧ ((s.endJob p j c).job p j).ecause = c := by
  rw [State.endJob_job s p j c h]
  exact ⟨rfl, rfl⟩

/-- The watchdog ends a running job with ECAUSE 4, whether or not a fault of it is on record. -/
theorem State.watchdogEnds_running {s : State} {p j : Nat} (inj : Bool) (h : (s.job p j).jstate = 1) :
    ((s.watchdogEnds p j inj).job p j).jstate = 2 ∧ ((s.watchdogEnds p j inj).job p j).ecause = 4 := by
  rw [State.watchdogEnds, if_neg (not_not.mpr h)]
  refine State.endJob_running 4 ?_
  rw [State.sendAbort_job]
  split
  · exact h
  · rw [State.emit_job, State.job_setJob]
    exact h

/-! ### The idle slot (R508 step 4) -/

/-- The slot idle, before its record: its counters cleared, its job record idle, the end counted. -/
def State.idled (s : State) (p j : Nat) : State :=
  ((s.clearSlot p j).setJob p j { s.job p j with jstate := 0, faulted := false, vote := none, voted := [], ready := [] }).modPanel p
    (fun x => { x with jend := satAdd 0xFFFF x.jend 1 })

theorem State.RecOnly.mgmt {s u : State} (h : s.RecOnly u) : u.mgmt = s.mgmt := by
  obtain ⟨_, _, _, _, _, _, _, _, _, _, _, _, rfl⟩ := h
  rfl

theorem State.panelAdvance_standing {s : State} {p : Nat} (h : (s.panel p).state ≠ 1) : s.panelAdvance p = s :=
  if_pos (.inl h)

theorem State.idled_panel (s : State) (p j : Nat) : (s.idled p j).panel p = { s.panel p with
    jobs := (s.panel p).jobs.set {} j { s.job p j with jstate := 0, faulted := false, vote := none, voted := [], ready := [] }
    jend := satAdd 0xFFFF (s.panel p).jend 1 } := by
  rw [State.idled, State.modPanel_eq, State.panel_setPanel, State.setJob_eq, State.panel_setPanel]
  rfl

/-- A quiet slot of an ending job becomes idle with its record; no packet waits, and its panel does not reset. -/
theorem State.slotIdle_quiet {s : State} {p j : Nat} (hj : (s.job p j).jstate = 2) (hq : s.slotQuiet p j = true)
    (hh : s.halted = false) (hx : (s.panel p).state ≠ 1) (ha : s.mgmt.accepted = []) : s.slotIdle p j = (s.idled p j).emit
      { cls := 0x20, cause := 9, job := some (p, j), unit := .manager
        detail := (s.job p j).ecause + (s.job p j).gen % 256 * 2 ^ 8 } := by
  have hrun : s.slotIdle p j = (((s.idled p j).emit
      { cls := 0x20, cause := 9, job := some (p, j), unit := .manager
        detail := (s.job p j).ecause + (s.job p j).gen % 256 * 2 ^ 8 }).release (.slot p j) noParams).panelAdvance p :=
    if_neg (by simp [hj, hq, hh])
  generalize ({ cls := 0x20, cause := 9, job := some (p, j), unit := .manager, detail := _ } : Event) = e at hrun ⊢
  have hnone : ((s.idled p j).emit e).mgmt.accepted = [] := by rw [(State.emit_rec _ e).mgmt]; exact ha
  obtain ⟨n, hpanel⟩ := State.emit_panel (s.idled p j) e p
  rw [hrun, State.release_none _ _ hnone, State.panelAdvance_standing]
  rw [hpanel, State.idled_panel]
  exact hx

theorem State.idled_tile (s : State) (p j t : Nat) :
    (s.idled p j).tile t = if (s.panel p).holdsTile t then (s.tile t).idleSlot j else s.tile t :=
  Table.get_update s.tiles {} (fun t y => if (s.panel p).holdsTile t then y.idleSlot j else y) (fun t => by split <;> rfl) t

theorem TileS.idleSlot_ctr (x : TileS) {j c : Nat} (hc : c < 64) : (x.idleSlot j).sync.get {} (64 * j + c) = {} := by
  have hk : (64 * j + c) / 64 = j := by omega
  refine (Table.get_keep x.sync {} (fun k => decide (k / 64 ≠ j)) (64 * j + c)).trans (if_neg ?_)
  simp [hk]

/-! ### Settling -/

/-- Settles O54: each packet in its turn does what its opcode's rule, met, makes it do; the slot and the watchdog by their lemmas. -/
theorem jobsStartEndAndIdle : Obligations.JobsStartEndAndIdle := by
  unfold Obligations.JobsStartEndAndIdle
  intro s q w cl p j a pn k nmod ptab rd tab own cs b
  refine ⟨?start, fun h hx => ⟨fun hj => ?endIdle, fun hj => ?endBusy⟩, fun hj hq hh hx ha => ?idle, fun hw hl hh hj => ?watchdog,
    fun hw => ?noWatchdog⟩
  case start =>
    intro h ho hmid hx hptab hmod hpanel hslot hidle htag hports hroom hw hq u
    have hrun : specJobStart.run s q w = .ok u :=
      specJobStart_run rfl rfl rfl hmid hx hptab hmod hpanel hslot hidle htag hports hroom hw
    have hjob : u.job pn k = (rd.2.job pn k).begin w := State.jobBegins_job ..
    refine ⟨congrArg Host.Outcome.next (State.jobStart_taken h ho hq hrun), ?_⟩
    rw [hjob]
    exact ⟨rfl, rfl, rfl, rfl⟩
  case endIdle =>
    exact congrArg Host.Outcome.next (State.performReq_done h (decide_eq_true h.opcode) (specJobEnd_run_idle hx hj))
  case endBusy =>
    have hbusy : (s.job pn k).jstate ≠ 0 := by rw [hj]; decide
    exact ⟨congrArg Host.Outcome.next (State.performReq_waits h (decide_eq_true h.opcode) (specJobEnd_run_busy hx hbusy)),
      State.endJob_running 1 hj⟩
  case idle =>
    intro e
    have hpanel := s.idled_panel p j
    refine ⟨s.idled p j, congrArg Host.Outcome.next (State.slotIdle_quiet hj hq hh hx ha), ?_, congrArg Panel.jend hpanel,
      fun v hv => ?_, rfl, fun t c ht hc => ?_, fun t ht => ?_⟩
    · rw [State.job, hpanel]
      exact Table.get_set_self ..
    · exact (State.panel_setPanel_ne _ _ _ _ hv).trans (State.panel_setPanel_ne _ _ _ _ hv)
    · rw [s.idled_tile p j t, if_pos ht]
      exact TileS.idleSlot_ctr _ hc
    · rw [s.idled_tile p j t, if_neg (by simp [ht])]
  case watchdog =>
    have hrun : exec (.jobWatchdogExpiry p j) s = .next (s.watchdogEnds p j false) :=
      congrArg Host.Outcome.next (if_neg (by simp [show (s.job p j).wdog ≠ 0 from hw, hl, hh]))
    exact ⟨_, hrun, State.watchdogEnds_running false hj⟩
  case noWatchdog => exact congrArg Host.Outcome.next (if_pos (by simp [show (s.job p j).wdog = 0 from hw]))

end Sys2Proof.Machine
end

section
/-!
Timers of requests and polls (09 R264; 12 R431; 13 R458; 15 R509; 16 R406, R536; 19 R597, R598): what each does while the module runs,
and the settling of RequestTimersAndPolls from these.
-/
namespace Sys2Proof.Machine
open Sys2Proof

/-! ### A fault of a unit's command -/

/-- The first fault of a running job found by a port or engine ends the job with ECAUSE 2. -/
theorem State.faultUnit_job {s : State} {p j : Nat} (hs : (s.job p j).jstate = 1) (hf : (s.job p j).faulted = false)
    (g : Nat) (pos : Count) (unit : Agent) (e : Event) :
    ((s.faultUnit g p j pos unit e).job p j).jstate = 2 ∧ ((s.faultUnit g p j pos unit e).job p j).ecause = 2 := by
  obtain ⟨hstate, hcause, -⟩ := State.faultJob_job (s.modRing g (fun r => { r with stopped := true })) p j
    { e with unit := unit, ring := g, pos := pos.toNat } hs hf
  exact ⟨hstate, hcause⟩

/-! ### Requests (R597, R598) -/

theorem State.transactionTimeout_held {s : State} (a : Agent) (tag : Nat) (h : s.linkHold = true ∨ s.halted = true) :
    s.transactionTimeout a tag = s :=
  if_pos (by simpa using h)

theorem State.t3Timeout_held {s : State} (a : Agent) (tag : Nat) (h : s.linkHold = true ∨ s.halted = true) :
    s.t3Timeout a tag = s :=
  if_pos (by simpa using h)

section
variable {s : State} (hl : s.linkHold = false) (hh : s.halted = false)
include hl hh

theorem State.transactionTimeout_add {t : Tile} {tag : Nat} (ht : 128 ≤ tag) :
    s.transactionTimeout (.tile t) tag = s.addTimeout t := by
  simp [State.transactionTimeout, hl, hh, show ¬ tag < 64 by omega, show ¬ tag < 128 by omega]

theorem State.transactionTimeout_hod (h : HodId) (tag : Nat) : s.transactionTimeout (.hod h) tag = s.hodTimeout h := by
  simp [State.transactionTimeout, hl, hh]

theorem State.transactionTimeout_intake (n : IntakeId) (tag : Nat) :
    s.transactionTimeout (.intake n) tag = s.intTimeout n := by
  simp [State.transactionTimeout, hl, hh]

/-- A mover access to the pool is answered ERR by the host die; another access has no such timer. -/
theorem State.t3Timeout_tile {t : Tile} {tag : Nat} {x : Txn}
    (hx : (s.tile t).txns.find? (fun z => decide (z.tag = tag)) = some x) : s.t3Timeout (.tile t) tag =
      if isPool (s.txnAddr t x) then s.txnResponse t tag .errOther else s := by
  simp [State.t3Timeout, hl, hh, hx]

end

theorem State.addTimeout_job {s : State} {t : Nat} {d : RemoteAdd} (hd : s.adds.find? (fun z => decide (z.src = tileAgent t)) = some d)
    (hs : (s.job d.panel d.slot).jstate = 1) (hf : (s.job d.panel d.slot).faulted = false) :
    ((s.addTimeout t).job d.panel d.slot).jstate = 2 ∧ ((s.addTimeout t).job d.panel d.slot).ecause = 2 := by
  have hrun : s.addTimeout t = (s.modTile t (fun x => { x with unacked := x.unacked - 1 })).faultJob d.panel d.slot
      { cls := 0x11, cause := 1, unit := tileAgent t } := by
    rw [State.addTimeout, hd]
  obtain ⟨hstate, hcause, -⟩ := State.faultJob_job (s.modTile t (fun x => { x with unacked := x.unacked - 1 })) d.panel d.slot
    { cls := 0x11, cause := 1, unit := tileAgent t } hs hf
  rw [hrun]
  exact ⟨hstate, hcause⟩

theorem State.hodTimeout_job {s : State} {h m : Nat} {x : HodCmd} (hm : s.spanPanel h = some m)
    (hx : (s.hod h).cmds.find? (fun c => decide (0 < c.rOut + c.wOut)) = some x) (hs : (s.job m (x.ring / 16)).jstate = 1)
    (hf : (s.job m (x.ring / 16)).faulted = false) :
    ((s.hodTimeout h).job m (x.ring / 16)).jstate = 2 ∧ ((s.hodTimeout h).job m (x.ring / 16)).ecause = 2 := by
  unfold State.hodTimeout
  rw [hm, hx]
  exact State.faultUnit_job (s := s.modHod h _) hs hf ..

theorem State.intTimeout_job {s : State} {n : Nat} {x : IntCmd}
    (hx : (s.intake n).cmds.find? (fun c => decide (0 < c.rOut + c.wOut)) = some x)
    (hs : (s.job (intPanel x.ring) (intSlot x.ring)).jstate = 1)
    (hf : (s.job (intPanel x.ring) (intSlot x.ring)).faulted = false) :
    ((s.intTimeout n).job (intPanel x.ring) (intSlot x.ring)).jstate = 2 ∧
      ((s.intTimeout n).job (intPanel x.ring) (intSlot x.ring)).ecause = 2 := by
  unfold State.intTimeout
  rw [hx]
  exact State.faultUnit_job (s := s.modIntake n _) hs hf ..

/-! ### The resume check (R406, R536) -/

/-- The one packet accepted, a job start that waits for the other ranks, is refused; the rank it names is free (log 2). -/
theorem State.resumeTimeout_only {s : State} {z : Accepted} {p j : Nat} (hz : s.mgmt.accepted = [z])
    (hw : z.wait = some (.resume p j)) : s.resumeTimeout p j =
      State.answer { s with free := s.free + 1 } z stRefusedResume (Config.freeWord s.free % (bits z.q.params 16 10 + 1)) [] [] := by
  simp [State.resumeTimeout, State.draw, State.refuseWait, hz, hw]

/-! ### Polls (R431) -/

/-- The poll of a course ring is that of its head command, when none of the ring is on its way. -/
theorem State.waitPoll_course {s : State} {g w : Nat} {m : Port} {i : Fin 256} (hg : g = crsRing m i)
    (ha : s.courseActive m i = none) (hh : s.courseHead m i = some w) (hw : ccWaddr w ≠ 0) :
    s.waitPoll g = s.courseStart m i w := by
  have hm := m.isLt
  have hi := i.isLt
  unfold crsRing at hg
  have hlo : ¬ g < 245760 := by omega
  have hhi : g < 253952 := by omega
  have hport : (g - 245760) / 256 = m := by omega
  have hring : (g - 245760) % 256 = i := by omega
  simp [State.waitPoll, hlo, hhi, hport, hring, ha, hh, hw]

theorem State.courseStart_waited {s u : State} {n i w : Nat} (hw : ccWaddr w ≠ 0) {met : Bool}
    (hr : s.waitWord (crsPanel i) (crsSlot i) (ccWaddr w) (ccWval w) = (u, .ok met)) :
    s.courseStart n i w = if met then u.courseBegin n i w else u := by
  cases met <;> simp [State.courseStart, hw, hr]

/-! ### Settling -/

/-- Settles O55: each timer ends the job its request belongs to or answers it; the poll begins the command its word lets start. -/
theorem requestTimersAndPolls : Obligations.RequestTimersAndPolls := by
  unfold Obligations.RequestTimersAndPolls
  intro s t h n ag tag p j runs ended busy
  refine ⟨fun hb => ?held, fun d ⟨hl, hh⟩ htag hd ⟨hs, hf⟩ => ?add, fun x m ⟨hl, hh⟩ hm hx ⟨hs, hf⟩ => ?hod,
    fun x ⟨hl, hh⟩ hx ⟨hs, hf⟩ => ?intake, fun x ⟨hl, hh⟩ hx => ?pool, fun z hz hw => ?resume, fun g m i w u hg ha hh hw => ?poll⟩
  case held =>
    exact ⟨congrArg Host.Outcome.next (State.transactionTimeout_held ag tag.toNat hb),
      congrArg Host.Outcome.next (State.t3Timeout_held ag tag.toNat hb)⟩
  case add =>
    exact ⟨_, congrArg Host.Outcome.next (State.transactionTimeout_add hl hh htag), State.addTimeout_job hd hs hf⟩
  case hod =>
    exact ⟨_, congrArg Host.Outcome.next (State.transactionTimeout_hod hl hh h tag.toNat), State.hodTimeout_job hm hx hs hf⟩
  case intake =>
    exact ⟨_, congrArg Host.Outcome.next (State.transactionTimeout_intake hl hh n tag.toNat), State.intTimeout_job hx hs hf⟩
  case pool =>
    have hrun := State.t3Timeout_tile hl hh hx
    exact ⟨fun hp => congrArg Host.Outcome.next (hrun.trans (if_pos hp)),
      fun hp => congrArg Host.Outcome.next (hrun.trans (if_neg (by simp [hp])))⟩
  case resume => exact congrArg Host.Outcome.next (State.resumeTimeout_only hz hw)
  case poll =>
    have hrun := State.waitPoll_course hg ha hh hw
    exact ⟨fun hr => congrArg Host.Outcome.next (hrun.trans (State.courseStart_waited hw hr)),
      fun hr => congrArg Host.Outcome.next (hrun.trans (State.courseStart_waited hw hr))⟩

end Sys2Proof.Machine
end

section
/-!
Supplies, resets and start-up phases (18 R559 to R564, R577, R578; 20 R619 to R622): what the fall of the rails, a module reset and the
entry into Ready do to the start-up registers, and the settling of SuppliesResetsAndPhasesAct from these.
-/
namespace Sys2Proof.Machine
open Sys2Proof

/-! ### The rails (R561, R620) -/

theorem State.modHosts_only {α : Type} {f : State → α → State} (hf : ∀ (s : State) a, ∃ h, f s a = { s with hosts := h })
    (l : List α) (s : State) : ∃ h, l.foldl f s = { s with hosts := h } := by
  induction l generalizing s with
  | nil => exact ⟨_, rfl⟩
  | cons a l ih =>
    obtain ⟨_, hu⟩ := hf s a
    obtain ⟨_, hv⟩ := ih (f s a)
    exact ⟨_, by rw [List.foldl_cons, hv, hu]⟩

theorem State.selfRefresh_hosts (s : State) (on : Bool) : ∃ h, s.selfRefresh on = { s with hosts := h } :=
  State.modHosts_only (fun s _ => State.modHosts_only (fun _ _ => ⟨_, rfl⟩) _ s) _ s

/-- The rails fall by a reset of the module domain, its host dies' packages in self-refresh or not. -/
theorem State.railsDown_eq (s : State) : ∃ h, s.railsDown = State.domainReset { s with hosts := h } := by
  unfold State.railsDown
  split
  · obtain ⟨h, hs⟩ := s.selfRefresh_hosts true
    exact ⟨h, congrArg State.domainReset hs⟩
  · exact ⟨s.hosts, rfl⟩

/-- What stands when the rails have fallen and the start-up registers named by `f` are written. -/
theorem State.railsDown_modBoot (s : State) (f : Boot → Boot) : ∃ h : Table HostS,
    s.railsDown.modBoot f = (State.domainReset { s with hosts := h }).modBoot f := by
  obtain ⟨h, hs⟩ := s.railsDown_eq
  exact ⟨h, by rw [hs]⟩

/-! ### RST_N (R622) -/

theorem State.rstAssert_ignored {s : State} {usec : Nat} (h : s.boot.p12 = false ∨ usec < 100) : s.rstAssert usec = s :=
  if_pos (by simpa using h)

theorem State.rstAssert_long {s : State} {usec : Nat} (hp : s.boot.p12 = true) (hu : 1000 ≤ usec) : s.rstAssert usec = s.rstN true := by
  simp [State.rstAssert, hp, hu, show ¬ usec < 100 by omega]

/-- Between 100 µs and 1 ms a free value says whether a reset follows (log 2). -/
theorem State.rstAssert_short {s : State} {usec : Nat} (hp : s.boot.p12 = true) (hlo : 100 ≤ usec) (hhi : usec < 1000) :
    s.rstAssert usec = if Config.freeWord s.free % 2 = 1 then State.rstN { s with free := s.free + 1 } false
      else { s with free := s.free + 1 } := by
  have hgo : ¬ (!s.boot.p12 || decide (usec < 100)) = true := by simp [hp, hlo]
  rw [State.rstAssert, if_neg hgo, if_neg (Nat.not_le.mpr hhi)]
  rfl

/-! ### The module reset (R559, R560) -/

theorem foldl_boot {α : Type} {f : State → α → State} (hf : ∀ (s : State) a, (f s a).boot = s.boot) (l : List α) (s : State) :
    (l.foldl f s).boot = s.boot := by
  induction l generalizing s with
  | nil => rfl
  | cons a l ih => exact (ih (f s a)).trans (hf s a)

theorem State.emit_boot (s : State) (e : Event) : (s.emit e).boot = s.boot := (s.emit_rec e).endOnly.boot

theorem State.jobEnds_boot (s : State) : s.jobEnds.boot = s.boot := by
  refine foldl_boot (fun s p => foldl_boot (fun s j => ?_) _ s) _ s
  split
  · rfl
  · exact s.emit_boot _

theorem State.mapOut_boot (s : State) (q : Nat) : (s.mapOut q).boot = s.boot := by
  refine foldl_boot (fun s i => ?_) _ s
  exact State.emit_boot _ _

/-- The module as a reset finds it: every job ended and recorded, failing channels mapped out. -/
def State.beforeReset (s : State) : State := (List.range 32).foldl (fun s q => s.mapOut q) (s.endAllJobs 5).jobEnds

theorem State.beforeReset_boot (s : State) : s.beforeReset.boot = s.boot :=
  (foldl_boot State.mapOut_boot _ _).trans ((State.jobEnds_boot _).trans (s.endAllJobs_endOnly 5).boot)

/-- The start-up registers after a reset with cause `c` that begins on registers `b`, `due` being the ranges to wipe. -/
def Boot.resetWith (b : Boot) (c : Nat) (due : List (Nat × Nat)) : Boot :=
  let b := { b with mepoch := b.mepoch + 1, rcause := c, wipeDue := due, rst := none }
  { b with started := b.mayStart }

/-- A reset that changes neither the life cycle nor the image, no activated image being on trial. -/
theorem State.moduleReset_plain {s : State} {c : Nat} (h6 : c ≠ 6) (h7 : c ≠ 7) (ha : s.boot.attempts = none) :
    s.moduleReset c = s.beforeReset.domainReset.modBoot (fun b => b.resetWith c (s.beforeReset.dueRanges false)) := by
  have hnone : s.beforeReset.boot.attempts = none := by rw [s.beforeReset_boot]; exact ha
  unfold State.moduleReset
  simp only [h6, h7, decide_false, Bool.false_eq_true, if_false]
  generalize hv : s.beforeReset = v at hnone
  unfold State.beforeReset at hv
  rw [hv]
  have hcount : ∀ u : State, u.boot.attempts = none → u.countAttempt c = u := by
    intro u hu
    rw [State.countAttempt, hu]
  refine congrArg (fun u : State => u.modBoot (fun b => { b with started := b.mayStart })) (hcount _ ?_)
  exact hnone

theorem execModuleResetBegin_due {s : State} {c : Nat} (hp : s.boot.p12 = true) (hr : s.boot.rst = some c) (h0 : c ≠ 0) :
    execModuleResetBegin s = .next (s.moduleReset c) := by
  simp [execModuleResetBegin, hr, hp, h0]

theorem execModuleResetBegin_none {s : State} (h : s.boot.rst = none ∨ s.boot.p12 = false) : execModuleResetBegin s = .next s := by
  unfold execModuleResetBegin
  rcases h with h | h
  · rw [h]
  · cases s.boot.rst <;> simp [h]

/-! ### Phases (R563) -/

theorem State.phaseDone_notDue {s : State} (ph : BootPhase) (h : ∀ n, s.boot.due n = false) : s.phaseDone ph = s := by
  cases ph <;> simp [State.phaseDone, h]

theorem State.phaseDone_m1 {s : State} (h : s.boot.due 3 = true) (hs : s.boot.mayStart = true) :
    s.phaseDone .m1 = s.modBoot (fun b => { b with rails := true, phase := 3 }) := by
  simp [State.phaseDone, h, hs]

theorem State.phaseDone_m6_wiping {s : State} (h : s.wipes ≠ []) : s.phaseDone .m6 = s := by
  simp [State.phaseDone, h]

/-! ### M7 (R577, R578) -/

/-- With no packet waiting for the host dies, the release of their cores leaves the start-up registers. -/
theorem State.coresRelease_boot {s : State} (h : s.mgmt.accepted = []) : s.coresRelease.boot = s.boot := by
  have hrel : ∀ u : State, u.mgmt.accepted = [] → (u.release .hosts noParams).boot = u.boot := by
    intro u hu
    rw [State.release_none _ _ hu]
  exact hrel _ h

/-- No cause beside those found earlier. -/
theorem withCauses_found {b : Boot} (hr : b.ref = 1) (h3 : b.lcs ≠ 3) (h4 : b.lcs ≠ 4) :
    withCause (withCause (withCause (withCause b.causes 5 (!true)) 6 (decide (b.ref ≠ 1))) 7 (decide (b.lcs = 3))) 8
      (decide (b.lcs = 4)) = b.causes := by
  simp [withCause, hr, h3, h4]

section
variable {s : State} (cxl : List Nat) (hr : s.boot.ref = 1) (h3 : s.boot.lcs ≠ 3) (h4 : s.boot.lcs ≠ 4)
  (ha : s.mgmt.accepted = [])
include hr h3 h4 ha

/-- Without a hold-out cause the module enters Ready. -/
theorem State.enterReady_ready (hc : s.boot.causes = 0) : (s.enterReady true cxl).boot =
    { s.boot.raiseSvn with
      mstate := 1, holdc := 0, fault := false, attempts := none, prevPref := none
      fatalDue := !s.boot.fatalRecs.isEmpty } := by
  have hcauses := (withCauses_found hr h3 h4).trans hc
  unfold State.enterReady
  dsimp only
  rw [hcauses, if_pos rfl, if_neg (by decide)]
  refine (State.coresRelease_boot ?_).trans ?_
  · exact ha
  · rfl

/-- With a die absent or wrong the module is held out of Ready with cause 2. -/
theorem State.enterReady_heldOut (hc : s.boot.causes = 2 ^ 2) : (s.enterReady true cxl).boot =
    { s.boot with mstate := 2, holdc := 2 } := by
  have hcauses := (withCauses_found hr h3 h4).trans hc
  have hcode : holdCode (2 ^ 2) = 2 := by decide
  unfold State.enterReady
  dsimp only
  rw [hcauses, hcode, if_neg (by decide), if_neg (by decide)]
  refine (State.coresRelease_boot ?_).trans rfl
  exact ha

end

/-- The phase that is due completes by its own act. -/
theorem State.phaseDone_m7 {s : State} (ok : Bool) (cxl : List RootPort) (h : s.boot.due 9 = true) :
    s.phaseDone (.m7 ok cxl) = (s.enterReady ok (cxl.map (·.val))).modBoot (fun b => { b with phase := 9 }) :=
  if_pos h

theorem Boot.raiseSvn_minsvn (b : Boot) :
    b.raiseSvn.minsvn = if b.lcs = 2 ∧ b.minsvn < b.svn ∧ b.raises < 64 then b.svn else b.minsvn := by
  unfold Boot.raiseSvn
  split <;> rfl

/-! ### Settling -/

/-- Settles O59: each command is what the lemma on its operation says. -/
theorem suppliesResetsAndPhasesAct : Obligations.SuppliesResetsAndPhasesAct := by
  unfold Obligations.SuppliesResetsAndPhasesAct
  intro s ok ov usec ph cxl b put down
  refine ⟨fun hp => ?onAlready, fun hp => ?on, fun hp => ?standbyAbsent, fun hp => ?standbyLost, fun hp => ?mainOn,
    fun hp => ?mainLost, fun hp => ?mainAbsent, fun hs h2 => ?start, fun hs => ?noStart, fun hu => ?rstGlitch,
    fun hp hu => ?rstLong, fun hp hlo hhi => ?rstShort, rfl, fun c hp hr h0 h6 h7 ha => ?reset, fun hr => ?noReset,
    fun h => ?notDue, fun h => ?s1, fun h => ?s2, fun h hs => ?m1, fun hw => ?m6, fun h ha =>
    ⟨fun hok hc hr h3 h4 => ?ready, fun hc hok hr h3 h4 => ?heldOut⟩⟩
  case onAlready => exact congrArg Host.Outcome.next (if_pos hp)
  case on => exact congrArg Host.Outcome.next (if_neg (by simp [show s.boot.p12 = false from hp]))
  case standbyAbsent =>
    have hoff : ¬ s.boot.p12 = true := by simp [show s.boot.p12 = false from hp]
    exact ⟨congrArg Host.Outcome.next (if_pos (by simp [hoff])), congrArg Host.Outcome.next (if_pos (by simp [hoff])),
      congrArg Host.Outcome.next (State.rstAssert_ignored (.inl hp)), execModuleResetBegin_none (.inr hp)⟩
  case standbyLost =>
    obtain ⟨h, hs⟩ := s.selfRefresh_hosts false
    have hrun : s.standbyOff = (State.domainReset { s with hosts := h }).standbyLost :=
      (if_neg (by simp [show s.boot.p12 = true from hp])).trans (congrArg (fun u : State => u.domainReset.standbyLost) hs)
    exact ⟨_, congrArg Host.Outcome.next hrun, rfl, rfl, rfl, rfl, rfl, rfl, rfl, rfl, rfl⟩
  case mainOn => exact congrArg Host.Outcome.next (if_neg (by simp [show s.boot.p12 = true from hp]))
  case mainLost =>
    obtain ⟨h, hs⟩ := s.railsDown_modBoot (fun b => { b with p54 := false, charged := false, lost54 := true })
    have hrun : s.mainOff ov = _ := (if_neg (by simp [show s.boot.p54 = true from hp])).trans hs
    exact ⟨_, congrArg Host.Outcome.next hrun, ⟨rfl, rfl, rfl, rfl, rfl, rfl, rfl, rfl⟩, rfl, rfl, rfl⟩
  case mainAbsent => exact congrArg Host.Outcome.next (if_pos (by simp [show s.boot.p54 = false from hp]))
  case start => exact congrArg Host.Outcome.next (if_pos ⟨hs, h2⟩)
  case noStart => exact congrArg Host.Outcome.next (if_neg (by simp [show s.boot.mayStart = false from hs]))
  case rstGlitch => exact congrArg Host.Outcome.next (State.rstAssert_ignored (.inr hu))
  case rstLong =>
    obtain ⟨h, hs⟩ := s.railsDown_modBoot (fun b => { b with rstN := false, tripped := false, rst := some 2 })
    exact ⟨_, congrArg Host.Outcome.next ((State.rstAssert_long hp hu).trans hs), ⟨rfl, rfl, rfl, rfl, rfl, rfl, rfl, rfl⟩, rfl, rfl⟩
  case rstShort =>
    refine ⟨_, congrArg Host.Outcome.next (State.rstAssert_short hp hlo hhi), ?_⟩
    by_cases hv : Config.freeWord s.free % 2 = 0
    · rw [if_pos hv, if_neg (by omega)]
    · obtain ⟨h, hs⟩ := State.railsDown_modBoot { s with free := s.free + 1 }
        (fun b => { b with rstN := true, tripped := false, rst := some 2 })
      rw [if_neg hv, if_pos (by omega), show State.rstN { s with free := s.free + 1 } false = _ from hs]
      exact ⟨⟨rfl, rfl, rfl, rfl, rfl, rfl, rfl, rfl⟩, rfl⟩
  case reset =>
    have hrun := (execModuleResetBegin_due hp hr h0).trans (congrArg Host.Outcome.next (State.moduleReset_plain h6 h7 ha))
    have hb : s.beforeReset.boot = b := s.beforeReset_boot
    have hmepoch : s.beforeReset.boot.mepoch = b.mepoch := congrArg Boot.mepoch hb
    have hphase : s.beforeReset.boot.phase = b.phase := congrArg Boot.phase hb
    have hlcs : s.beforeReset.boot.lcs = b.lcs := congrArg Boot.lcs hb
    have hminsvn : s.beforeReset.boot.minsvn = b.minsvn := congrArg Boot.minsvn hb
    exact ⟨_, hrun, rfl, rfl, congrArg (· + 1) hmepoch, congrArg (min · 2) hphase, rfl, hlcs, hminsvn, rfl, rfl, rfl, rfl⟩
  case noReset => exact execModuleResetBegin_none (.inl hr)
  case notDue => exact congrArg Host.Outcome.next (State.phaseDone_notDue ph h)
  case s1 => exact congrArg Host.Outcome.next (if_pos h)
  case s2 => exact congrArg Host.Outcome.next (if_pos h)
  case m1 => exact congrArg Host.Outcome.next (State.phaseDone_m1 h hs)
  case m6 => exact congrArg Host.Outcome.next (State.phaseDone_m6_wiping hw)
  case ready =>
    subst hok
    have hboot := State.enterReady_ready (cxl.map (·.val)) hr h3 h4 ha hc
    refine ⟨_, congrArg Host.Outcome.next (State.phaseDone_m7 true cxl h), ?_, ?_, rfl, ?_, ?_⟩
    · exact congrArg Boot.mstate hboot
    · exact congrArg Boot.holdc hboot
    · exact congrArg Boot.fault hboot
    · exact (congrArg Boot.minsvn hboot).trans b.raiseSvn_minsvn
  case heldOut =>
    subst hok
    have hboot := State.enterReady_heldOut (cxl.map (·.val)) hr h3 h4 ha hc
    exact ⟨_, congrArg Host.Outcome.next (State.phaseDone_m7 true cxl h), congrArg Boot.mstate hboot, congrArg Boot.holdc hboot⟩

end Sys2Proof.Machine
end

section
/-!
STAMP (17 R553 to R555): it reads the job's context and its input and writes the record of Table 17.5; the settling of
StampWritesTheRecord.
-/
namespace Sys2Proof.Machine
open Sys2Proof

/-! ### A read of memory whose one line no cache holds (R355) -/

/-- Of a line that no cache holds, only the home agent's directory changes. -/
theorem State.takeLines_lineUnheld {s : State} {l : Nat} (hh : s.holders l = []) (inv : Bool) :
    ∃ h, s.takeLines inv [l] = { s with homes := h } := by
  simp only [State.takeLines, List.foldl_cons, List.foldl_nil, hh]
  split
  · exact ⟨s.homes, rfl⟩
  · exact ⟨_, rfl⟩

theorem State.cohRead_lineUnheld {s : State} {n a : Nat} (hl : linesOf a n = [lineOf a]) (hh : s.holders (lineOf a) = []) :
    ∃ h, s.cohRead n a = (s.readBytes n a, { s with homes := h }) := by
  unfold State.cohRead
  split
  · obtain ⟨h, ht⟩ := State.takeLines_lineUnheld hh false
    rw [hl, ht]
    exact ⟨h, rfl⟩
  · exact ⟨s.homes, rfl⟩

theorem State.moverRead_lineUnheld {s : State} {t ad n : Nat} (a : Active) (hi : s.noInjection) (hl : linesOf ad n = [lineOf ad])
    (hh : s.holders (lineOf ad) = []) (hr : s.readResp ad n = .ok) :
    ∃ h, s.moverRead t a ad n false = ({ s with homes := h }, .ok (s.readBytes n ad)) := by
  obtain ⟨h, hread⟩ := State.cohRead_lineUnheld hl hh
  have hfire : (if inOwn t ad then s else s.fireRead ad (s.jobOf t a.c.cmd.slot)) = s := by
    rw [State.fireRead_noInjection hi, ite_self]
  exact ⟨h, by simp [State.moverRead, hfire, hr, State.accessEvent, hread]⟩

/-! ### The end of a command that issues nothing more -/

/-- The running command put back finished leaves its engine free. -/
theorem State.stopMover_putActive {s : State} {t : Nat} {a b : Active} (hc : (s.engine t 2).current = some a) :
    (s.putActive t 2 b).stopMover t a.c.cmd.slot = s.setEngine t 2 { (s.engine t 2).putActive b with running := none } := by
  obtain ⟨hrun, -, -⟩ := current_mem hc
  have hstop : ((s.engine t 2).putActive b).stop a.c.cmd.slot = { (s.engine t 2).putActive b with running := none } :=
    if_pos hrun
  rw [State.stopMover, State.modEngine_eq, State.engine_putActive, hstop, State.putActive_eq, State.modEngine_eq,
    State.setEngine_setEngine]

/-! ### Settling -/

theorem execStamp_running {s : State} {t : Tile} {a : Active} (hh : s.halted = false) (hc : (s.engine t 2).current = some a)
    (ho : a.c.cmd.op = 0x04) : exec (.stamp t) s = .next (s.runStamp t a) := by
  have hrun : s.runMove t 4 = s.runStamp t a := by simp [State.runMove, hh, hc, ho]
  exact congrArg Host.Outcome.next hrun

/-- A run whose two reads answer and whose write is taken finishes the command. -/
theorem State.runStamp_ok {s v w : State} {t p : Nat} {a : Active} {ctx input : List Byte} (hp : s.tilePanel t = some p)
    (hctx : s.moverRead t a ((s.job p a.c.cmd.slot).hdrAddr + 64) 64 false = (v, .ok ctx))
    (hin : v.moverRead t a a.c.a.addr 32 false = (v, .ok input))
    (hout : v.moverWrite t a.c.c.addr (toBytes 64 (v.stampOf a p ctx input)) false = (w, none)) :
    s.runStamp t a = (w.putActive t 2 a.finish).stopMover t a.c.cmd.slot := by
  unfold State.runStamp
  rw [hp, Option.getD_some]
  dsimp only
  rw [hctx]
  dsimp only
  rw [hin]
  dsimp only
  rw [hout]

/-- What stands after the finished command is put back: the memory written, and the engine free. -/
theorem State.finishStamp_keeps {s : State} (t : Nat) (homes : Table Home) (e : Engine) (ad : Nat) {record : List Byte}
    (hn : record.length = 64) : let u := (State.writeBytes { s with homes := homes } ad record).setEngine t 2 e
    u.readBytes 64 ad = record ∧ s.bytesOutside u ad 64 ∧ u.rings = s.rings ∧ u.panels = s.panels ∧ u.engine t 2 = e := by
  let v : State := { s with homes := homes }
  have hread := State.readBytes_writeBytes v ad record
  have hout := State.writeBytes_outside v ad record
  rw [hn] at hread hout
  exact ⟨hread, hout, rfl, rfl, State.engine_setEngine ..⟩

/-- Settles O26: both reads give the bytes, and the record they make is written. -/
theorem stampWritesTheRecord : Obligations.StampWritesTheRecord := by
  unfold Obligations.StampWritesTheRecord
  intro s t a p hi hh hp hc ho ctx hctxOwn hctx hinOwn hinCoh hin houtCoh hout hline hhold
  obtain ⟨h, hfirst⟩ := State.moverRead_lineUnheld (t := t) a hi hline hhold hctx
  let v : State := { s with homes := h }
  have hsecond : v.moverRead t a a.c.a.addr 32 false = (v, .ok (s.readBytes 32 a.c.a.addr)) :=
    State.moverRead_plain a (.inl hinOwn) (.inl hinCoh) hin
  obtain ⟨value, hvalue⟩ : ∃ n, s.stampOf a p (s.readBytes 64 ctx) (s.readBytes 32 a.c.a.addr) = n := ⟨_, rfl⟩
  have hvalue' : v.stampOf a p (s.readBytes 64 ctx) (s.readBytes 32 a.c.a.addr) = value := hvalue
  have hwrite : v.moverWrite t a.c.c.addr (toBytes 64 value) false = (v.writeBytes a.c.c.addr (toBytes 64 value), none) :=
    State.moverWrite_plain t (.inl houtCoh) (by rw [toBytes_length]; exact hout)
  have hrun := State.runStamp_ok hp hfirst hsecond (by rw [hvalue']; exact hwrite)
  have hstop := State.stopMover_putActive (s := v.writeBytes a.c.c.addr (toBytes 64 value)) (b := a.finish) hc
  rw [hvalue]
  exact ⟨_, (execStamp_running hh hc ho).trans (congrArg Host.Outcome.next (hrun.trans hstop)),
    State.finishStamp_keeps t h _ _ (toBytes_length ..)⟩

end Sys2Proof.Machine
end

section
/-!
Runs of engine commands (13 R454, R459; 14 R475, R476): the steps of a run, its sound accesses, and what the state of a hod engine is
after its accesses issue.
-/
namespace Sys2Proof.Machine
open Sys2Proof

/-! ### Steps of a run -/

theorem hodBind_run {α β : Type} {m : HodM α} {f : α → HodM β} {s u : State} {x : α} (h : m s = (u, .ok x)) :
    hodBind m f s = f x u := by
  unfold hodBind
  rw [h]

theorem hodEach_cons_run {α β : Type} {f : α → HodM β} {a : α} {l : List α} {s u v : State} {y : β} {ys : List β}
    (h : f a s = (u, .ok y)) (hl : hodEach f l u = (v, .ok ys)) : hodEach f (a :: l) s = (v, .ok (y :: ys)) := by
  rw [hodEach, hodBind_run h, hodBind_run hl]
  rfl

theorem hodEach_singleton_run {α β : Type} {f : α → HodM β} {a : α} {s u : State} {y : β} (h : f a s = (u, .ok y)) :
    hodEach f [a] s = (u, .ok [y]) := hodEach_cons_run h rfl

/-! ### Sound accesses -/

section
variable {s : State} {n a : Nat} (p j : Nat) (hi : s.noInjection) (h : s.readable a n)
include hi h

theorem hodRead_readable : hodRead p j n a s = (s, .ok (s.readBytes n a)) := by
  obtain ⟨hn, hp, hr⟩ := h
  rw [hodRead, State.unitRead_plain _ hi hn hp hr]

theorem hodNat_readable : hodNat p j n a s = (s, .ok (s.readNat n a)) := by
  rw [hodNat, hodBind_run (hodRead_readable p j hi h)]
  rfl

theorem intRead_readable : intRead p j n a s = (s, .ok (s.readBytes n a)) := by
  obtain ⟨hn, hp, hr⟩ := h
  rw [intRead, State.unitRead_plain _ hi hn hp hr]

theorem intNat_readable : intNat p j n a s = (s, .ok (s.readNat n a)) := by
  rw [intNat, hodBind_run (intRead_readable p j hi h)]
  rfl

end

/-- A write leaves what may be written. -/
theorem State.writable.writeBytes {s : State} {a n : Nat} (h : s.writable a n) (b : Nat) (bs : List Byte) :
    (s.writeBytes b bs).writable a n := by
  obtain ⟨hn, hp, hw⟩ := h
  exact ⟨hn, hp, (State.writeResp_writeBytes ..).trans hw⟩

theorem State.hodWrites_cons {s : State} {a : Nat} {bs : List Byte} (h : s.writable a bs.length) (r : List (Nat × List Byte)) :
    s.hodWrites ((a, bs) :: r) = (s.writeBytes a bs).hodWrites r := by
  obtain ⟨-, hp, hw⟩ := h
  rw [State.hodWrites, State.unitWrite_plain hp hw]

theorem State.intWrites_cons {s : State} {a : Nat} {bs : List Byte} (hp : s.plain a) (hw : s.writeResp a bs.length = .ok)
    (r : List (Nat × List Byte)) : s.intWrites ((a, bs) :: r) = (s.writeBytes a bs).intWrites r := by
  rw [State.intWrites, State.unitWrite_plain hp hw]

/-! ### Faults (R462, R479) -/

theorem State.stopRings_only (f : Nat → Nat) (l : List Nat) (s : State) :
    ∃ r, l.foldl (fun s k => s.modRing (f k) (fun r => { r with stopped := true })) s = { s with rings := r } := by
  induction l generalizing s with
  | nil => exact ⟨s.rings, rfl⟩
  | cons k l ih =>
    obtain ⟨r, hr⟩ := ih (s.modRing (f k) (fun r => { r with stopped := true }))
    exact ⟨r, hr⟩

section
variable {s : State} {p j : Nat} (hs : (s.job p j).jstate = 1) (hf : (s.job p j).faulted = false)
include hs hf

theorem State.hodFault_job (h i : Nat) (pos : Count) (cause : Nat) : ((s.hodFault h p j i pos cause).job p j).jstate = 2 ∧
    ((s.hodFault h p j i pos cause).job p j).ecause = 2 := by
  obtain ⟨r, hr⟩ := s.stopRings_only (fun k => hodRing h (16 * j + k)) (List.range 16)
  unfold State.hodFault
  rw [hr]
  obtain ⟨hstate, hcause, -⟩ := State.faultJob_job (State.modHod { s with rings := r } h (fun x => { x with
      slotFault := x.slotFault ||| 2 ^ j
      cmds := x.cmds.filter (fun c => !(c.ring = i && c.pos = pos)) })) p j
    { cls := 0x0B, cause := cause, unit := hodAgent h, ring := hodRing h i, pos := pos.toNat } hs hf
  exact ⟨hstate, hcause⟩

end

theorem State.intFault_job {s : State} {i : Nat} (hs : (s.job (intPanel i) (intSlot i)).jstate = 1)
    (hf : (s.job (intPanel i) (intSlot i)).faulted = false) (n : Nat) (pos : Count) (cause : Nat) :
    ((s.intFault n i pos cause).job (intPanel i) (intSlot i)).jstate = 2 ∧
      ((s.intFault n i pos cause).job (intPanel i) (intSlot i)).ecause = 2 := by
  obtain ⟨r, hr⟩ := s.stopRings_only (fun k => intRing n (32 * intPanel i + 4 * intSlot i + k)) (List.range 4)
  unfold State.intFault
  dsimp only
  rw [hr]
  obtain ⟨hstate, hcause, -⟩ := State.faultJob_job (State.modIntake { s with rings := r } n (fun x => { x with
      pfault := x.pfault ||| 2 ^ intPanel i
      cmds := x.cmds.filter (fun c => !(c.ring = i && c.pos = pos)) })) (intPanel i) (intSlot i)
    { cls := 0x0C, cause := cause, unit := intakeAgent n, ring := intRing n i, pos := pos.toNat } hs hf
  exact ⟨hstate, hcause⟩

/-! ### Free bytes (log 2) -/

theorem State.drawBytes_free (n : Nat) (s : State) : ∃ k, (s.drawBytes n).1 = { s with free := k } := by
  induction n generalizing s with
  | zero => exact ⟨s.free, rfl⟩
  | succ n ih =>
    obtain ⟨k, hk⟩ := ih s.draw.2
    exact ⟨k, hk⟩

theorem State.drawBytes_length (n : Nat) (s : State) : (s.drawBytes n).2.length = n := by
  induction n generalizing s with
  | zero => rfl
  | succ n ih => exact congrArg (· + 1) (ih s.draw.2)

/-! ### What a run puts out -/

theorem HodOut.join_singleton (o : HodOut) : HodOut.join [o] = { writes := o.writes, flags := gather [o.flags], absent := o.absent } := by
  simp [HodOut.join]

/-! ### A hod engine (R459) -/

@[simp] theorem State.hod_modHod (s : State) (h : Nat) (f : HodS → HodS) : (s.modHod h f).hod h = f (s.hod h) :=
  Table.get_modify_self ..

theorem State.modHod_modHod (s : State) (h : Nat) (f g : HodS → HodS) : (s.modHod h f).modHod h g = s.modHod h (fun y => g (f y)) := by
  simp [State.modHod, Table.modify]

/-- Accesses that issue change the commands and the slots' pointer alone. -/
theorem HodS.issueOne_rows {x y : HodS} {write : Bool} (h : x.issueOne write = some y) : y.rows = x.rows := by
  unfold HodS.issueOne at h
  dsimp only at h
  split at h
  · cases h
  · split at h
    · cases h
    · cases h
      rfl

theorem HodS.issue_rows (write : Bool) (k : Nat) (x : HodS) : (HodS.issue write k x).rows = x.rows := by
  induction k generalizing x with
  | zero => rfl
  | succ k ih =>
    unfold HodS.issue
    cases h : x.issueOne write with
    | none => exact congrArg HodS.rows (ite_self x)
    | some y => simp only [apply_ite HodS.rows, ih, HodS.issueOne_rows h, ite_self]

theorem HodS.issueAll_rows (x : HodS) : x.issueAll.rows = x.rows := (HodS.issue_rows ..).trans (HodS.issue_rows ..)

/-! ### The rows of the hod opcodes -/

section
variable {s : State} {h : HodId} {i : Fin 128} {p : Nat} (hp : s.spanPanel h = some p)
include hp

theorem exec_hodRow_running {op : Nat} {c : Instr} {x : HodCmd} (hc : (op, c) ∈ hodRows h i)
    (hx : (s.hod h).cmds.find? (fun c => decide (c.ring = i.val) && !c.ran && decide (hcOp c.w = op)) = some x) :
    exec c s = .next (s.hodFinish h p x) := by
  have hrow : s.hodRow h i (fun k => decide (k = op)) = s.hodFinish h p x := by
    unfold State.hodRow
    rw [hp]
    dsimp only
    rw [hx]
  rw [← hrow]
  simp only [hodRows, List.mem_cons, Prod.mk.injEq, List.not_mem_nil, or_false] at hc
  obtain ⟨rfl, rfl⟩ | ⟨rfl, rfl⟩ | ⟨rfl, rfl⟩ := hc <;> rfl

/-- H_NOP's row starts the slot's next command, where it is the ring's and no command of the ring is to run. -/
theorem exec_hNop_start {w : Nat}
    (hx : (s.hod h).cmds.find? (fun c => decide (c.ring = i.val) && !c.ran && decide (hcOp c.w = 0 ∨ 3 < hcOp c.w)) = none)
    (hw : s.hodPick h p (i.val / 16) = some (i.val, w)) (ho : hcOp w = 0) : exec (.hNop h i) s = .next (s.hodBegin h p i w) := by
  have hrow : s.hodRow h i (fun op => decide (op = 0 ∨ 3 < op)) = s.hodBegin h p i w := by
    unfold State.hodRow
    rw [hp]
    dsimp only
    rw [hx]
    dsimp only
    rw [hw]
    simp [ho]
  exact congrArg Host.Outcome.next hrow

end

/-- A command whose reads are in runs and makes its writes; the engine then counts no row more. -/
theorem State.hodFinish_ok {s u v : State} {h p : Nat} {x : HodCmd} {out : HodOut} (hran : x.ran = false) (hleft : x.rLeft = 0)
    (hout : x.rOut = 0) (hstop : s.hodStopped x = false) (hrun : hodRun h p (x.ring / 16) x s = (u, .ok out))
    (hw : u.hodWrites out.writes = (v, true)) : ∃ f, s.hodFinish h p x = v.modHod h f ∧ ∀ y, (f y).rows = y.rows := by
  have hfin : ∃ f g, s.hodFinish h p x = (v.modHod h f).modHod h g ∧ ∀ y, (g (f y)).rows = y.rows := by
    unfold State.hodFinish
    dsimp only
    rw [if_neg (by simp [hran, hleft, hout, hstop]), hrun]
    dsimp only
    rw [hw]
    exact ⟨_, _, rfl, fun y => HodS.issueAll_rows _⟩
  obtain ⟨f, g, hfg, hrows⟩ := hfin
  exact ⟨_, hfg.trans (State.modHod_modHod ..), hrows⟩

end Sys2Proof.Machine
end

section
/-!
Hod engines (13 R454, R458, R459, R465 to R469): the runs of commands of one index without bags or weights, the start of H_NOP, and the
settling of HodCommandsRun from these.
-/
namespace Sys2Proof.Machine
open Sys2Proof

/-! ### Parts of a run on one index -/

section
variable {x : HodCmd} (hn : hcNidx x.w = 0) (p j : Nat)
include hn

theorem hodBags_own (hpool : hcPool x.w = 0) : hodBags p j x = hodPure [0, 1] := by
  simp [hodBags, hpool, hn]
  rfl

theorem hodWeights_none (hw : hcWen x.w = false) : hodWeights p j x = hodPure [fp32One] := by
  simp [hodWeights, hw, hn]

theorem hodIndices_one {s : State} (hi : s.noInjection) (hr : s.readable (x.idxA 0) 4)
    (hu : s.readNat 4 (x.idxA 0) < tdRows x.desc) : hodIndices p j x s = (s, .ok [s.readNat 4 (x.idxA 0)]) := by
  have hread : hodEach (fun i => hodNat p j 4 (x.idxA i)) (List.range (hcNidx x.w + 1)) s =
      (s, .ok [s.readNat 4 (x.idxA 0)]) := by
    rw [hn]
    exact hodEach_singleton_run (hodNat_readable p j hi hr)
  rw [hodIndices, hodBind_run hread, if_neg (by simpa using hu)]
  rfl

end

/-- The row of an index in the table is in a slot: what the map's entry says, and the slot. -/
structure HodCmd.Listed (x : HodCmd) (s : State) (u : Nat) : Prop where
  inTable : u < tdRows x.desc
  entry : s.readable (x.addr 7 + 4 * u) 4
  width : s.readNat 4 (x.addr 7 + 4 * u) % 4 < 3
  counted : s.readNat 4 (x.addr 7 + 4 * u) / 4 < tdCnt x.desc (s.readNat 4 (x.addr 7 + 4 * u) % 4)

theorem hodMapEntry_listed {s : State} {x : HodCmd} {u : Nat} (p j : Nat) (hi : s.noInjection) (hl : x.Listed s u) :
    hodMapEntry p j x u s = (s, .ok (s.readNat 4 (x.addr 7 + 4 * u) % 4, s.readNat 4 (x.addr 7 + 4 * u) / 4)) := by
  obtain ⟨htab, hentry, hwidth, hcount⟩ := hl
  rw [hodMapEntry, if_neg (Nat.not_le.mpr htab), hodBind_run (hodNat_readable p j hi hentry),
    if_neg (fun h => absurd h.2 (Nat.not_le.mpr hcount))]
  rfl

/-- The engine has counted a row. -/
def State.countRow (s : State) (h : Nat) : State := s.modHod h (fun y => { y with rows := satAdd 0xFFFFFFFF y.rows 1 })

/-! ### H_GATHER (R465) -/

/-- The bytes of the slot of a row in the table. -/
def State.slotRead (s : State) (x : HodCmd) (u : Nat) : List Byte :=
  s.readBytes (slotSize x.desc (s.readNat 4 (x.addr 7 + 4 * u) % 4))
    (x.slotA (s.readNat 4 (x.addr 7 + 4 * u) % 4) (s.readNat 4 (x.addr 7 + 4 * u) / 4))

/-- The elements of that row. -/
def State.rowRead (s : State) (x : HodCmd) (u : Nat) : List (Nat × NFlags) :=
  (List.range (tdD x.desc)).map (rowElem x.desc (s.readNat 4 (x.addr 7 + 4 * u) % 4) (hcOvf x.w) (s.slotRead x u))

/-- That slot may be read. -/
def State.slotReadable (s : State) (x : HodCmd) (u : Nat) : Prop :=
  s.readable (x.slotA (s.readNat 4 (x.addr 7 + 4 * u) % 4) (s.readNat 4 (x.addr 7 + 4 * u) / 4))
    (slotSize x.desc (s.readNat 4 (x.addr 7 + 4 * u) % 4))

theorem hodRow_listed {s : State} {x : HodCmd} {u : Nat} (h p j : Nat) (hi : s.noInjection) (hl : x.Listed s u)
    (hr : s.slotReadable x u) : hodRow h p j x u s = (s.countRow h, .ok (s.rowRead x u)) := by
  rw [hodRow, hodBind_run (hodMapEntry_listed p j hi hl), if_neg (Nat.ne_of_lt hl.width),
    hodBind_run (hodRead_readable p j hi hr)]
  rfl

/-- An output row of one occurrence: the row times 1.0. -/
def HodCmd.timesOne (x : HodCmd) (row : List (Nat × NFlags)) : List (Nat × NFlags) :=
  row.map (fun y => ((fpOp2 2 (hcOvf x.w) fp32One y.1).1, y.2.or (fpOp2 2 (hcOvf x.w) fp32One y.1).2.noUf))

theorem runGather_one {s : State} {x : HodCmd} (h p j : Nat) (hi : s.noInjection) (hn : hcNidx x.w = 0) (hpool : hcPool x.w = 0)
    (hw : hcWen x.w = false) (hidx : s.readable (x.idxA 0) 4) (hl : x.Listed s (s.readNat 4 (x.idxA 0)))
    (hr : s.slotReadable x (s.readNat 4 (x.idxA 0))) : runGather h p j x s =
      (s.countRow h, .ok (HodOut.join [gatherRow x 0 (x.timesOne (s.rowRead x (s.readNat 4 (x.idxA 0))))])) := by
  rw [runGather, hodBags_own hn p j hpool, hodBind_run rfl, hodBind_run (hodIndices_one hn p j hi hidx hl.inTable),
    hodWeights_none hn p j hw, hodBind_run rfl, hodBind_run (hodEach_singleton_run (hodRow_listed h p j hi hl hr)), if_pos hpool]
  rfl

/-! ### H_MERGE (R466, R467) -/

/-- The gradient of the one occurrence as FP32 elements, with their flags, from the bytes at DATA. -/
def HodCmd.gradient (x : HodCmd) (gb : List Byte) : List (Nat × NFlags) :=
  (List.range (tdD x.desc)).map (fun e =>
    let y := readElem (fmtOf (hcOfmt x.w)) (hcOvf x.w)
      (ofBytes ((gb.drop (e * fmtBytes (hcOfmt x.w))).take (fmtBytes (hcOfmt x.w)))) none
    fmaStep (hcOvf x.w) (0, NFlags.or {} y.2) fp32One y.1)

theorem runMerge_one {s : State} {x : HodCmd} (p j : Nat) (hi : s.noInjection) (hn : hcNidx x.w = 0) (hpool : hcPool x.w = 0)
    (hw : hcWen x.w = false) (hidx : s.readable (x.idxA 0) 4) (hu : s.readNat 4 (x.idxA 0) < tdRows x.desc)
    (hg : s.readable (x.dataA 0) (tdD x.desc * fmtBytes (hcOfmt x.w))) : ∃ o : HodOut, runMerge p j x s = ((s.drawBytes 8).1, .ok o) ∧
      o.writes = [(x.addr 4, toBytes 4 1 ++ toBytes 4 (s.readNat 4 (x.idxA 0))),
        (x.addr 5, (x.gradient (s.readBytes (tdD x.desc * fmtBytes (hcOfmt x.w)) (x.dataA 0))).flatMap (fun c => toBytes 4 c.1)),
        (x.addr 6, (s.drawBytes 8).2)] := by
  have hrows : hcRows x.w = 1 := by simp [hcRows, hpool, hn]
  have hdata : hodEach (fun r => hodRead p j (tdD x.desc * fmtBytes (hcOfmt x.w)) (x.dataA r)) (List.range (hcRows x.w)) s =
      (s, .ok [s.readBytes (tdD x.desc * fmtBytes (hcOfmt x.w)) (x.dataA 0)]) := by
    rw [hrows]
    exact hodEach_singleton_run (hodRead_readable p j hi hg)
  unfold runMerge
  dsimp only
  rw [hodBags_own hn p j hpool, hodBind_run rfl, hodBind_run (hodIndices_one hn p j hi hidx hu),
    hodWeights_none hn p j hw, hodBind_run rfl, hodBind_run hdata, hodBind_run rfl]
  refine ⟨_, rfl, ?_⟩
  simp [HodOut.join, insertRising, hpool, HodCmd.gradient]

/-! ### H_UPDATE (R468, R469) -/

/-- The gradient of a row as H_MERGE wrote it: FP32 codes. -/
def HodCmd.fp32Row (x : HodCmd) (gb : List Byte) : List (Nat × NFlags) :=
  (List.range (tdD x.desc)).map (fun k => (ofBytes ((gb.drop (4 * k)).take 4), {}))

/-- RULE 0: the row less LR times its gradient. -/
def HodCmd.descended (x : HodCmd) (row gs : List (Nat × NFlags)) : List Nat :=
  (row.zip gs).map (fun y => (fpFma (hcOvf x.w) (negCode (tdLr x.desc, {})).1 y.2.1 y.1.1).1)

theorem ruleRow_descends {x : HodCmd} (hrule : tdRule x.desc = 0) (row gs : List (Nat × NFlags)) :
    ∃ l, ruleRow x.desc (hcOvf x.w) row gs 0 = (l, none) ∧ l.map (·.1) = x.descended row gs := by
  refine ⟨_, if_pos hrule, ?_⟩
  rw [List.map_map]
  rfl

/-- What the update of a row writes: the new row, in the width of its slot. -/
def State.updateBytes (s : State) (x : HodCmd) (u : Nat) : List Byte :=
  (slotBytes x (s.readNat 4 (x.addr 7 + 4 * u) % 4) u
    (x.descended (s.rowRead x u) (x.fp32Row (s.readBytes (4 * tdD x.desc) (x.dataA 0))))).1

theorem updateRow_listed {s : State} {x : HodCmd} {u : Nat} (h p j : Nat) (hi : s.noInjection) (hl : x.Listed s u)
    (hr : s.slotReadable x u) (hg : s.readable (x.dataA 0) (4 * tdD x.desc)) (hrule : tdRule x.desc = 0) :
    ∃ o : HodOut, updateRow h p j x none 0 u s = (s.countRow h, .ok o) ∧
      o.writes = [(x.slotA (s.readNat 4 (x.addr 7 + 4 * u) % 4) (s.readNat 4 (x.addr 7 + 4 * u) / 4), s.updateBytes x u)] := by
  obtain ⟨l, hlist, hmap⟩ := ruleRow_descends hrule (s.rowRead x u) (x.fp32Row (s.readBytes (4 * tdD x.desc) (x.dataA 0)))
  have hacc : (if tdRule x.desc = 1 then hodNat p j 4 (x.addr 11 + 4 * u) else hodPure 0) s = (s, .ok 0) := by
    rw [if_neg (by omega)]
    rfl
  have hcount : hodDo (fun s => s.modHod h (fun y => { y with rows := satAdd 0xFFFFFFFF y.rows 1 })) s = (s.countRow h, .ok ()) := rfl
  unfold updateRow
  dsimp only
  rw [hodBind_run (hodMapEntry_listed p j hi hl), if_neg (Nat.ne_of_lt hl.width), hodBind_run (hodRead_readable p j hi hr),
    hodBind_run (hodRead_readable p j hi hg), hodBind_run hacc, hodBind_run hcount]
  dsimp only
  unfold State.rowRead State.slotRead HodCmd.fp32Row at hlist
  rw [hlist]
  exact ⟨_, rfl, by rw [State.updateBytes, ← hmap]⟩

theorem runUpdate_one {s : State} {x : HodCmd} (h p j : Nat) (hi : s.noInjection) (hn : hcNidx x.w = 0)
    (hcount : s.readable (x.idxA 0) 4) (hone : s.readNat 4 (x.idxA 0) = 1) (hidx : s.readable (x.idxA 1) 4)
    (hclip : (hcCond x.w && hcClip x.w) = false) {u : State} {o : HodOut}
    (hrow : updateRow h p j x none 0 (s.readNat 4 (x.idxA 1)) s = (u, .ok o)) :
    runUpdate h p j x s = (u, .ok (HodOut.join [o])) := by
  have hlist : hodEach (fun i => hodNat p j 4 (x.idxA (i + 1))) (List.range 1) s = (s, .ok [s.readNat 4 (x.idxA 1)]) :=
    hodEach_singleton_run (f := fun i => hodNat p j 4 (x.idxA (i + 1))) (a := 0) (hodNat_readable p j hi hidx)
  have hclip' : (if hcCond x.w && hcClip x.w then hodBind (hodNat p j 4 (x.addr 12 + 24)) (fun c => hodPure (some c))
      else hodPure none) s = (s, .ok none) := by
    rw [hclip]
    rfl
  have hrows : hodEach (fun q : Nat × Nat => updateRow h p j x none q.2 q.1) [s.readNat 4 (x.idxA 1)].zipIdx s = (u, .ok [o]) :=
    hodEach_singleton_run hrow
  rw [runUpdate, hodBind_run (hodNat_readable p j hi hcount), hone, if_neg (by omega), hodBind_run hlist, if_neg (by simp [rising]),
    hodBind_run hclip', hodBind_run hrows]
  rfl

/-! ### The run of an opcode -/

section
variable {x : HodCmd} (h p j : Nat)

theorem hodRun_gather (ho : hcOp x.w = 1) : hodRun h p j x = runGather h p j x := by simp [hodRun, ho]
theorem hodRun_merge (ho : hcOp x.w = 2) : hodRun h p j x = runMerge p j x := by simp [hodRun, ho]
theorem hodRun_update (ho : hcOp x.w = 3) : hodRun h p j x = runUpdate h p j x := by simp [hodRun, ho]

end

/-! ### The writes of a merge -/

/-- Writes at three places apart: the first two read back. -/
theorem State.hodWrites_apart {s : State} {a b c : Nat} {as bs cs : List Byte} (ha : s.writable a as.length)
    (hb : s.writable b bs.length) (hc : s.writable c cs.length) (hab : a + as.length ≤ b ∨ b + bs.length ≤ a)
    (hac : a + as.length ≤ c ∨ c + cs.length ≤ a) (hbc : b + bs.length ≤ c ∨ c + cs.length ≤ b) :
    ∃ v, s.hodWrites [(a, as), (b, bs), (c, cs)] = (v, true) ∧ v.readBytes as.length a = as ∧ v.readBytes bs.length b = bs ∧
      v.tiles = s.tiles ∧ v.panels = s.panels := by
  have hrun : s.hodWrites [(a, as), (b, bs), (c, cs)] = (((s.writeBytes a as).writeBytes b bs).writeBytes c cs, true) := by
    rw [State.hodWrites_cons ha, State.hodWrites_cons (hb.writeBytes ..), State.hodWrites_cons ((hc.writeBytes ..).writeBytes ..)]
    rfl
  refine ⟨_, hrun, ?_, ?_, rfl, rfl⟩
  · rw [(State.writeBytes_outside _ c cs).readBytes hac, (State.writeBytes_outside _ b bs).readBytes hab,
      State.readBytes_writeBytes]
  · rw [(State.writeBytes_outside _ c cs).readBytes hbc, State.readBytes_writeBytes]

/-! ### Commands whose reads are in -/

section
variable {s : State} {h p u : Nat} {x : HodCmd} (hi : s.noInjection) (hran : x.ran = false) (hleft : x.rLeft = 0) (hout : x.rOut = 0)
  (hstop : s.hodStopped x = false)

section
include hran hleft hout hstop

/-- A run that reads one row and makes one write. -/
theorem State.hodFinish_oneRow {o : HodOut} {a : Nat} {bs : List Byte}
    (hrun : hodRun h p (x.ring / 16) x s = (s.countRow h, .ok o)) (hw : o.writes = [(a, bs)]) (hput : s.writable a bs.length) :
    (s.hodFinish h p x).readBytes bs.length a = bs ∧ s.bytesOutside (s.hodFinish h p x) a bs.length ∧
      ((s.hodFinish h p x).hod h).rows = satAdd 0xFFFFFFFF (s.hod h).rows 1 ∧ s.onlyHods (s.hodFinish h p x) := by
  have hwrites : (s.countRow h).hodWrites o.writes = ((s.countRow h).writeBytes a bs, true) := by
    rw [hw]
    exact State.hodWrites_cons (s := s.countRow h) hput []
  obtain ⟨f, hfin, hrows⟩ := State.hodFinish_ok hran hleft hout hstop hrun hwrites
  have hcount : (((s.countRow h).writeBytes a bs).hod h).rows = satAdd 0xFFFFFFFF (s.hod h).rows 1 :=
    congrArg HodS.rows (State.hod_modHod s h (fun y => { y with rows := satAdd 0xFFFFFFFF y.rows 1 }))
  rw [hfin]
  refine ⟨State.readBytes_writeBytes (s.countRow h) a bs, State.writeBytes_outside (s.countRow h) a bs, ?_, rfl⟩
  rw [State.hod_modHod, hrows, hcount]

end

variable (hn : hcNidx x.w = 0)
include hi hran hleft hout hstop hn

theorem State.hodFinish_gather (ho : hcOp x.w = 1) (hpool : hcPool x.w = 0) (hw : hcWen x.w = false) (hidx : s.readable (x.idxA 0) 4)
    (hu : s.readNat 4 (x.idxA 0) = u) (hl : x.Listed s u) (hr : s.slotReadable x u) {a : Nat} {bs : List Byte}
    (hwrites : (gatherRow x 0 (x.timesOne (s.rowRead x u))).writes = [(a, bs)]) (hput : s.writable a bs.length) :
    (s.hodFinish h p x).readBytes bs.length a = bs ∧ s.bytesOutside (s.hodFinish h p x) a bs.length ∧
      ((s.hodFinish h p x).hod h).rows = satAdd 0xFFFFFFFF (s.hod h).rows 1 ∧ s.onlyHods (s.hodFinish h p x) := by
  subst hu
  have hrun := (congrFun (hodRun_gather h p (x.ring / 16) ho) s).trans
    (runGather_one h p (x.ring / 16) hi hn hpool hw hidx hl hr)
  exact State.hodFinish_oneRow hran hleft hout hstop hrun (by rw [HodOut.join_singleton, hwrites]) hput

theorem State.hodFinish_update (ho : hcOp x.w = 3) (hcount : s.readable (x.idxA 0) 4) (hone : s.readNat 4 (x.idxA 0) = 1)
    (hidx : s.readable (x.idxA 1) 4) (hclip : (hcCond x.w && hcClip x.w) = false) (hu : s.readNat 4 (x.idxA 1) = u)
    (hl : x.Listed s u) (hr : s.slotReadable x u) (hg : s.readable (x.dataA 0) (4 * tdD x.desc)) (hrule : tdRule x.desc = 0)
    {a : Nat} {bs : List Byte}
    (ha : x.slotA (s.readNat 4 (x.addr 7 + 4 * u) % 4) (s.readNat 4 (x.addr 7 + 4 * u) / 4) = a) (hbs : s.updateBytes x u = bs)
    (hput : s.writable a bs.length) :
    (s.hodFinish h p x).readBytes bs.length a = bs ∧ s.bytesOutside (s.hodFinish h p x) a bs.length ∧
      ((s.hodFinish h p x).hod h).rows = satAdd 0xFFFFFFFF (s.hod h).rows 1 ∧ s.onlyHods (s.hodFinish h p x) := by
  subst hu ha hbs
  obtain ⟨o, hrow, hwrites⟩ := updateRow_listed h p (x.ring / 16) hi hl hr hg hrule
  have hrun := (congrFun (hodRun_update h p (x.ring / 16) ho) s).trans
    (runUpdate_one h p (x.ring / 16) hi hn hcount hone hidx hclip hrow)
  exact State.hodFinish_oneRow hran hleft hout hstop hrun (by rw [HodOut.join_singleton, hwrites]) hput

theorem State.hodFinish_merge (ho : hcOp x.w = 2) (hpool : hcPool x.w = 0) (hw : hcWen x.w = false) (hidx : s.readable (x.idxA 0) 4)
    (hu : s.readNat 4 (x.idxA 0) = u) (htab : u < tdRows x.desc)
    (hg : s.readable (x.dataA 0) (tdD x.desc * fmtBytes (hcOfmt x.w))) {bs : List Byte}
    (hbs : (x.gradient (s.readBytes (tdD x.desc * fmtBytes (hcOfmt x.w)) (x.dataA 0))).flatMap (fun c => toBytes 4 c.1) = bs)
    (hlist : s.writable (x.addr 4) 8) (hput : s.writable (x.addr 5) bs.length) (hscr : s.writable (x.addr 6) 8)
    (hab : x.addr 4 + 8 ≤ x.addr 5 ∨ x.addr 5 + bs.length ≤ x.addr 4) (hac : x.addr 4 + 8 ≤ x.addr 6 ∨ x.addr 6 + 8 ≤ x.addr 4)
    (hbc : x.addr 5 + bs.length ≤ x.addr 6 ∨ x.addr 6 + 8 ≤ x.addr 5) :
    (s.hodFinish h p x).readBytes 8 (x.addr 4) = toBytes 4 1 ++ toBytes 4 u ∧
      (s.hodFinish h p x).readBytes bs.length (x.addr 5) = bs ∧ (s.hodFinish h p x).tiles = s.tiles ∧
      (s.hodFinish h p x).panels = s.panels := by
  subst hu hbs
  obtain ⟨o, hrun, hwrites⟩ := runMerge_one p (x.ring / 16) hi hn hpool hw hidx htab hg
  obtain ⟨k, hfree⟩ := s.drawBytes_free 8
  have hlen : (toBytes 4 1 ++ toBytes 4 (s.readNat 4 (x.idxA 0))).length = 8 := by simp
  have hscrLen := State.drawBytes_length 8 s
  obtain ⟨v, hv, hfirst, hsecond, htiles, hpanels⟩ := State.hodWrites_apart (s := { s with free := k }) (b := x.addr 5) (c := x.addr 6)
    (as := toBytes 4 1 ++ toBytes 4 (s.readNat 4 (x.idxA 0))) (cs := (s.drawBytes 8).2)
    (by rw [hlen]; exact hlist) hput (by rw [hscrLen]; exact hscr) (by rw [hlen]; exact hab) (by rw [hlen, hscrLen]; exact hac)
    (by rw [hscrLen]; exact hbc)
  rw [← hfree, ← hwrites] at hv
  obtain ⟨f, hfin, -⟩ := State.hodFinish_ok hran hleft hout hstop ((congrFun (hodRun_merge h p (x.ring / 16) ho) s).trans hrun) hv
  rw [hlen] at hfirst
  rw [hfin]
  exact ⟨hfirst, hsecond, htiles, hpanels⟩

end

/-! ### Start of H_NOP (R458) -/

/-- H_NOP needs nothing but its own checks. -/
theorem hodPrepare_nop {s : State} {p j : Nat} {b : HodCmd} (ho : hcOp b.w = 0) (hc : s.hodCauses p j b.w = [])
    (hw : hcWaiten b.w = false) (hcond : hcCond b.w = false) : hodPrepare p j b s = (s, .ok { b with ran := true }) := by
  have hnone : hodState (fun s => lowest (s.hodCauses p j b.w)) s = (s, .ok none) := by
    rw [hodState, hc]
    rfl
  have hread : ∀ wa, (if hcWaiten b.w then hodNat p j 8 wa else hodPure 0) s = (s, .ok 0) := by
    intro wa
    rw [hw]
    rfl
  have htest : ∀ ca, (if hcCond b.w then hodNat p j 4 ca else hodPure 1) s = (s, .ok 1) := by
    intro ca
    rw [hcond]
    rfl
  rw [hodPrepare, hodBind_run hnone]
  dsimp only
  rw [hodBind_run rfl, hodBind_run (hread _), hodBind_run rfl, hodBind_run (htest _), if_neg (by decide), if_pos ho]
  rfl

theorem State.hodBegin_nop {s : State} {h p i w : Nat} (hn : s.noTrace) (ho : hcOp w = 0) (hc : s.hodCauses p (i / 16) w = [])
    (hw : hcWaiten w = false) (hcond : hcCond w = false) : s.hodBegin h p i w =
      (s.setRing (hodRing h i) ((s.ring (hodRing h i)).pass 2)).modHod h (fun y => HodS.issueAll
        { y with ringPtr := y.ringPtr.set 0 (i / 16) ((i + 1) % 16)
                 cmds := y.cmds ++ [{ ring := i, pos := (s.ring (hodRing h i)).head, w := w, ran := true }] }) := by
  unfold State.hodBegin
  dsimp only
  have hprep := hodPrepare_nop (p := p) (b := { ring := i, pos := (s.ring (hodRing h i)).head, w := w })
    (s := (s.modRing (hodRing h i) (fun r => r.pass 2)).modHod h (fun x => { x with ringPtr := x.ringPtr.set 0 (i / 16) ((i + 1) % 16) }))
    ho hc hw hcond
  rw [State.unitStarts, State.traceUnit_noTrace (s := s.modRing _ _) hn, hprep]
  exact State.modHod_modHod ..

/-! ### Responses (R459, R462) -/

section
variable {s : State} {h p : Nat} {write : Bool} {x : HodCmd} (hp : s.spanPanel h = some p)
  (hx : (s.hod h).cmds.find? (fun c => decide (0 < (if write then c.wOut else c.rOut))) = some x)
include hp hx

theorem State.hodResponse_ok : s.hodResponse h write .ok = (s.modHodCmd h x.ring x.pos (fun c =>
    if write then { c with wOut := c.wOut - 1 } else { c with rOut := c.rOut - 1 })).modHod h HodS.issueAll := by
  unfold State.hodResponse
  rw [hp, hx]
  exact if_pos rfl

theorem State.hodResponse_bad {r : Resp} (hr : r ≠ .ok) :
    s.hodResponse h write r = s.hodFault h p (x.ring / 16) x.ring x.pos 9 := by
  unfold State.hodResponse
  rw [hp, hx]
  exact if_neg hr

end

/-! ### Completion (R463) -/

theorem State.hodComplete_ready {s : State} {h i p : Nat} {x : HodCmd} (hn : s.noTrace) (hp : s.spanPanel h = some p)
    (hx : (s.hod h).cmds.find? (fun c => c.ring = i) = some x) (hran : x.ran = true) (hr : x.rOut = 0) (hl : x.wLeft = 0)
    (hw : x.wOut = 0) (hrec : hcRec x.w = false) : s.hodComplete h i =
      let u := s.modHod h (fun y => { y with cmds := y.cmds.filter (fun c => !(c.ring = i && c.pos = x.pos)) })
      if hcSigen x.w then u.sendAdd (hodAgent h) p (hcSigtile x.w) (i / 16) (hcSigctr x.w) (hcSigval x.w) else u := by
  unfold State.hodComplete
  rw [hp, hx]
  dsimp only
  rw [if_pos (by simp [hran, hr, hl, hw]), hrec, State.unitDone_unrecorded (s := s.modHod h _) hn]

/-! ### Settling -/

/-- Settles O45: each run is that of its opcode on one index, whose writes are made; a start, a response and a completion are what the
lemmas on them say. -/
theorem hodCommandsRun : Obligations.HodCommandsRun := by
  unfold Obligations.HodCommandsRun
  intro s h i p hp hn hi j g hd
  refine ⟨fun w hx hw ho hc hwait hcond => ?nop, fun op c x hc ho hran hleft hout hstop hx hone hpool hwen => ?runs,
    fun x write hx => ⟨?answered, fun r hr hs hf => ?refused⟩,
    fun x hx hran hr hl hw hrec => ⟨fun hsig => ?added, fun hsig => ?plain⟩⟩
  case nop =>
    exact (exec_hNop_start hp hx hw ho).trans (congrArg Host.Outcome.next (State.hodBegin_nop hn ho hc hwait hcond))
  case runs =>
    intro d sat u0 e n a row hu0 hidx
    have hexec := exec_hodRow_running hp hc hx
    refine ⟨fun h1 hentry hwidth hcount hslot => ?gather, fun h2 => ?merge,
      fun h3 hlen hidx1 hentry hwidth hcount hslot hgrad hrule hclip => ?update⟩
    case gather =>
      subst h1
      intro es bs hwrite
      exact ⟨_, hexec, State.hodFinish_gather hi hran hleft hout hstop hone ho hpool hwen hidx (u := u0) rfl
        ⟨hu0, hentry, hwidth, hcount⟩ hslot rfl hwrite⟩
    case merge =>
      subst h2
      intro eb gb es bs hgrad hlist hmout hscr hab hac hbc
      have hbytes : (x.gradient gb).flatMap (fun c => toBytes 4 c.1) = bs := by
        simp only [HodCmd.gradient, bs, es, List.flatMap_map]
        rfl
      exact ⟨_, hexec, State.hodFinish_merge hi hran hleft hout hstop hone ho hpool hwen hidx (u := u0) rfl hu0 hgrad hbytes hlist
        hmout hscr hab hac hbc⟩
    case update =>
      subst h3
      intro gs new bs hwrite
      exact ⟨_, hexec, State.hodFinish_update hi hran hleft hout hstop hone ho hidx hlen hidx1 hclip (u := u0) rfl
        ⟨hu0, hentry, hwidth, hcount⟩ hslot hgrad hrule rfl rfl hwrite⟩
  case answered =>
    exact congrArg Host.Outcome.next (State.hodResponse_ok hp hx)
  case refused =>
    exact ⟨_, congrArg Host.Outcome.next (State.hodResponse_bad hp hx hr), State.hodFault_job hs hf ..⟩
  case added =>
    have hrun := State.hodComplete_ready hn hp hx hran hr hl hw hrec
    rw [if_pos hsig] at hrun
    exact congrArg Host.Outcome.next hrun
  case plain =>
    have hrun := State.hodComplete_ready hn hp hx hran hr hl hw hrec
    rw [if_neg (by simp [hsig])] at hrun
    exact congrArg Host.Outcome.next hrun

end Sys2Proof.Machine
end

section
/-!
Intake engines (14 R475, R476, R480, R482 to R494): what a finished run leaves, the run of each opcode, start, responses and
completion, and the settling of IntakeCommandsRun from these.
-/
namespace Sys2Proof.Machine
open Sys2Proof

/-! ### An intake engine -/

@[simp] theorem State.intake_modIntake (s : State) (n : Nat) (f : IntS → IntS) : (s.modIntake n f).intake n = f (s.intake n) :=
  Table.get_modify_self ..

theorem State.modIntake_modIntake (s : State) (n : Nat) (f g : IntS → IntS) :
    (s.modIntake n f).modIntake n g = s.modIntake n (fun y => g (f y)) := by
  simp [State.modIntake, Table.modify]

/-- An update of an engine acts on what it finds. -/
theorem State.modIntake_congr {s : State} {n : Nat} {f g : IntS → IntS} (h : f (s.intake n) = g (s.intake n)) :
    s.modIntake n f = s.modIntake n g :=
  congrArg (fun y : IntS => ({ s with intakes := s.intakes.set {} n y } : State)) h

/-! ### The rows of the intake opcodes -/

/-- The command of the ring runs under its opcode's row. -/
theorem State.intRow_running {s : State} {n i op : Nat} {x : IntCmd}
    (hx : (s.intake n).cmds.find? (fun c => decide (c.ring = i) && !c.ran && decide (icOp c.w = op)) = some x) :
    s.intRow n i (fun k => decide (k = op)) = s.intFinish n x := by
  unfold State.intRow
  rw [hx]

theorem exec_iNop_start {s : State} {n : IntakeId} {i : Fin 512} {w : Nat}
    (hx : (s.intake n).cmds.find? (fun c => decide (c.ring = i.val) && !c.ran && decide (icOp c.w = 0 ∨ 4 < icOp c.w)) = none)
    (hw : s.intPick n = some (i.val, w)) (ho : icOp w = 0) : exec (.iNop n i) s = .next (s.intBegin n i w) := by
  have hrow : s.intRow n i (fun op => decide (op = 0 ∨ 4 < op)) = s.intBegin n i w := by
    unfold State.intRow
    rw [hx]
    dsimp only
    rw [hw]
    simp [ho]
  exact congrArg Host.Outcome.next hrow

/-! ### A finished run (R476, R482) -/

/-- What a run of command `x` leaves, its writes made in `v`: the command has run, and the counters are those given. -/
def State.intRan (v : State) (n : Nat) (x : IntCmd) (out : HodOut) (st : IcStat) (pics rej drop : Nat) : State :=
  (v.modIntCmd n x.ring x.pos (fun c => { c with
    ran := true, wLeft := (out.writes.map (fun w => accessPieces w.1 w.2.length)).sum, flags := out.flags.toNat
    status := st.code })).modIntake n (fun y => IntS.issueAll { y with pics := pics, rej := rej, drop := drop })

/-- The counters of an engine are given by the engine as the writes leave it. -/
theorem State.intRan_eq {v : State} {n : Nat} {x : IntCmd} {out : HodOut} {st : IcStat} (pics rej drop : IntS → Nat)
    (hp : ∀ y c, pics { y with cmds := c } = pics y) (hr : ∀ y c, rej { y with cmds := c } = rej y)
    (hd : ∀ y c, drop { y with cmds := c } = drop y) :
    (v.modIntCmd n x.ring x.pos (fun c => { c with
      ran := true, wLeft := (out.writes.map (fun w => accessPieces w.1 w.2.length)).sum, flags := out.flags.toNat
      status := st.code })).modIntake n (fun y => IntS.issueAll { y with pics := pics y, rej := rej y, drop := drop y }) =
      v.intRan n x out st (pics (v.intake n)) (rej (v.intake n)) (drop (v.intake n)) := by
  refine State.modIntake_congr ?_
  unfold State.modIntCmd
  rw [State.intake_modIntake, hp, hr, hd]

section
variable {s u v : State} {n : Nat} {x : IntCmd} {out : HodOut} {st : IcStat} (hran : x.ran = false) (hleft : x.rLeft = 0)
  (hout : x.rOut = 0) (hheld : s.intakeHeld n = false)
  (hrun : intRun (intPanel x.ring) (intSlot x.ring) x s = (u, .ok (out, st))) (hw : u.intWrites out.writes = (v, none))
include hran hleft hout hheld hrun hw

theorem State.intFinish_ok : s.intFinish n x = v.intRan n x out st
    (if decide (icOp x.w = 1 ∨ icOp x.w = 2) then satAdd 0xFFFFFFFF (v.intake n).pics st.outN else (v.intake n).pics)
    (if st.status = 1 then satAdd 0xFFFF (v.intake n).rej 1 else (v.intake n).rej)
    (if decide (icOp x.w = 1 ∨ icOp x.w = 2) then satAdd 0xFFFF (v.intake n).drop st.dropN else (v.intake n).drop) := by
  unfold State.intFinish
  rw [if_neg (by simp [hran, hleft, hout, hheld]), hrun]
  dsimp only
  rw [hw]
  exact State.intRan_eq
    (fun y => if decide (icOp x.w = 1 ∨ icOp x.w = 2) then satAdd 0xFFFFFFFF y.pics st.outN else y.pics)
    (fun y => if st.status = 1 then satAdd 0xFFFF y.rej 1 else y.rej)
    (fun y => if decide (icOp x.w = 1 ∨ icOp x.w = 2) then satAdd 0xFFFF y.drop st.dropN else y.drop)
    (fun _ _ => rfl) (fun _ _ => rfl) (fun _ _ => rfl)

/-- A command that outputs pictures counts them, and those it lost. -/
theorem State.intFinish_picture (ho : icOp x.w = 1 ∨ icOp x.w = 2) : s.intFinish n x = v.intRan n x out st
    (satAdd 0xFFFFFFFF (v.intake n).pics st.outN) (if st.status = 1 then satAdd 0xFFFF (v.intake n).rej 1 else (v.intake n).rej)
    (satAdd 0xFFFF (v.intake n).drop st.dropN) := by
  rw [State.intFinish_ok hran hleft hout hheld hrun hw, decide_eq_true ho, if_pos rfl, if_pos rfl]

/-- Another command counts nothing unless it is rejected. -/
theorem State.intFinish_other (ho : icOp x.w ≠ 1 ∧ icOp x.w ≠ 2) (hst : st.status ≠ 1) : s.intFinish n x = v.intRan n x out st
    (v.intake n).pics (v.intake n).rej (v.intake n).drop := by
  rw [State.intFinish_ok hran hleft hout hheld hrun hw, decide_eq_false (not_or.mpr ho), if_neg Bool.false_ne_true,
    if_neg Bool.false_ne_true, if_neg hst]

end

/-! ### Pictures (R482 to R492) -/

theorem runNorm_none {x : IntCmd} (hn : icNen x.w = false) (p j : Nat) : runNorm p j x = hodPure [] := by
  simp [runNorm, hn]

theorem workOut_run (x : IntCmd) (k : Nat) (s : State) : workOut x k s =
    ((s.drawBytes (min k (icWorklen x.w))).1, .ok { writes := [(x.addr 3, (s.drawBytes (min k (icWorklen x.w))).2)] }) := rfl

@[simp] theorem headStat_status (w : Nat) (h : Config.PicHead) : (headStat w h).status = 0 := by
  unfold headStat
  split <;> rfl

@[simp] theorem headStat_outN (w : Nat) (h : Config.PicHead) : (headStat w h).outN = 0 := by
  unfold headStat
  split <;> rfl

@[simp] theorem headStat_dropN (w : Nat) (h : Config.PicHead) : (headStat w h).dropN = 0 := by
  unfold headStat
  split <;> rfl

/-- The status of a video of which `k` pictures come out. -/
def videoStat (w : Nat) (h : Config.PicHead) (v : Config.VideoRun) (k : Nat) : IcStat :=
  if v.dropped = 0 then { headStat w h with outN := k }
  else { headStat w h with
    status := 2, cause := if v.cause10 then 10 else 9, outN := k, dropN := v.dropped, first := v.first }

section
variable {s : State} {x : IntCmd} (p j : Nat) (hi : s.noInjection) (hr : s.readable (x.addr 0) (icInlen x.w)) (hn : icNen x.w = false)
include hi hr hn

/-- A check before decoding rejects the picture. -/
theorem runImage_rejected {bs : List Byte} (hbs : s.readBytes (icInlen x.w) (x.addr 0) = bs) {c : Nat}
    (hc : rejectCause x.w (Config.picHead 0 bs) (Config.jpegError bs) = some c) (h8 : c ≠ 8 ∨ (Config.picHead 0 bs).bad = true) :
    runImage p j x s = (s, .ok ({}, { headStat x.w (Config.picHead 0 bs) with status := 1, cause := c, cs := 0 })) := by
  subst hbs
  rw [runImage, hodBind_run (intRead_readable p j hi hr), runNorm_none hn, hodBind_run rfl]
  dsimp only
  rw [hc]
  dsimp only
  rw [if_neg (by simpa [or_iff_not_imp_left] using h8)]
  rfl

/-- Decoding rejects the picture: WORK has been written. -/
theorem runImage_undecodable {bs : List Byte} (hbs : s.readBytes (icInlen x.w) (x.addr 0) = bs)
    (hc : rejectCause x.w (Config.picHead 0 bs) (Config.jpegError bs) = some 8) (hbad : (Config.picHead 0 bs).bad = false) :
    let wk := s.drawBytes (min (decodedBytes (Config.picHead 0 bs)) (icWorklen x.w))
    runImage p j x s = (wk.1, .ok ({ writes := [(x.addr 3, wk.2)] },
      { headStat x.w (Config.picHead 0 bs) with status := 1, cause := 8, cs := 0 })) := by
  subst hbs
  dsimp only
  rw [runImage, hodBind_run (intRead_readable p j hi hr), runNorm_none hn, hodBind_run rfl]
  dsimp only
  rw [hc]
  dsimp only
  rw [if_pos (by simp [hbad]), hodBind_run (workOut_run x _ s)]
  rfl

theorem runImage_decoded {bs : List Byte} (hbs : s.readBytes (icInlen x.w) (x.addr 0) = bs)
    (hc : rejectCause x.w (Config.picHead 0 bs) (Config.jpegError bs) = none) :
    let wk := s.drawBytes (min (decodedBytes (Config.picHead 0 bs)) (icWorklen x.w))
    runImage p j x s = (wk.1, .ok (HodOut.join [{ writes := [(x.addr 3, wk.2)] },
      pictureOut x.w (x.addr 1) bs (Config.picHead 0 bs) [] 0 (icPos x.w)], { headStat x.w (Config.picHead 0 bs) with outN := 1 })) := by
  subst hbs
  dsimp only
  rw [runImage, hodBind_run (intRead_readable p j hi hr), runNorm_none hn, hodBind_run rfl]
  dsimp only
  rw [hc]
  dsimp only
  rw [hodBind_run (workOut_run x _ s)]
  rfl

/-- A check rejects the video. -/
theorem runVideo_rejected {bs : List Byte} (hbs : s.readBytes (icInlen x.w) (x.addr 0) = bs) {c : Nat}
    (hc : rejectCause x.w (Config.picHead (icCoding x.w) bs) (Config.videoRun (icCoding x.w) bs (icPics x.w)).early = some c) :
    runVideo p j x s = (s, .ok ({}, { headStat x.w (Config.picHead (icCoding x.w) bs) with status := 1, cause := c, cs := 0 })) := by
  subst hbs
  rw [runVideo, hodBind_run (intRead_readable p j hi hr), runNorm_none hn, hodBind_run rfl]
  dsimp only
  rw [hc]
  rfl

theorem runVideo_decoded {bs : List Byte} (hbs : s.readBytes (icInlen x.w) (x.addr 0) = bs) {h : Config.PicHead}
    (hh : Config.picHead (icCoding x.w) bs = h) {v : Config.VideoRun} (hv : Config.videoRun (icCoding x.w) bs (icPics x.w) = v)
    (hc : rejectCause x.w h v.early = none) :
    let wk := s.drawBytes (min ((h.dpb + 1) * decodedBytes h) (icWorklen x.w))
    runVideo p j x s = (wk.1, .ok (HodOut.join ({ writes := [(x.addr 3, wk.2)] } :: (List.range (min v.pics (icPics x.w))).map (fun q =>
      pictureOut x.w (x.addr 1) bs h [] q (icPos x.w + q))), videoStat x.w h v (min v.pics (icPics x.w)))) := by
  subst hbs hh hv
  dsimp only
  rw [runVideo, hodBind_run (intRead_readable p j hi hr), runNorm_none hn, hodBind_run rfl]
  dsimp only
  rw [hc]
  dsimp only
  rw [hodBind_run (workOut_run x _ s)]
  rfl

end

/-! ### Alignment (R493) -/

/-- A stream's one sample, in order. -/
def oneSample (t : Nat) : Nat × Bool × Bool := (bits t 0 63, bit t 63, false)

theorem markOrder_one (t : Nat) : markOrder none [t] = [oneSample t] := rfl

/-- One sample is never out of order. -/
theorem inOrder_one (t : Nat) : [oneSample t].filter (fun a => a.2.2) = [] := rfl

theorem inOrder_refs (t : Nat) : [oneSample t].zipIdx.filter (fun r => !r.1.2.2) = [(oneSample t, 0)] := rfl

/-- The one sample of the other stream is the member when it is of the same kind and near enough. -/
theorem pickMember_one (tol t u : Nat) : pickMember tol (oneSample t) [oneSample u] =
    if bit u 63 = bit t 63 ∧ natDist (bits u 0 63) (bits t 0 63) ≤ tol then some 0 else none := by
  by_cases hb : bit u 63 = bit t 63
  · simp [pickMember, oneSample, hb]
    rfl
  · simp [pickMember, oneSample, hb]

/-- The group of sample 0 with its member, or without. -/
def groupBytes (m : Option Nat) : List Byte := toBytes 4 0 ++ toBytes 4 (m.getD 0xFFFFFFFF)

section
variable {s : State} {x : IntCmd} (p j : Nat) (hi : s.noInjection)
  (hs : ∀ k, k < 2 → s.readable (x.addr 0 + 16 + 16 * k) 16 ∧ alCount (s.readNat 16 (x.addr 0 + 16 + 16 * k)) = 1 ∧
    s.readable (x.addr (5 + k)) 8)
include hi hs

/-- The one sample of stream `k` is read. -/
theorem alignArray_one {k : Nat} (hk : k < 2) :
    hodEach (fun q => intNat p j 8 (x.addr (5 + k) + 8 * q)) (List.range (alCount (s.readNat 16 (x.addr 0 + 16 + 16 * k)))) s =
      (s, .ok [s.readNat 8 (x.addr (5 + k))]) := by
  obtain ⟨-, hone, hread⟩ := hs k hk
  rw [hone]
  exact hodEach_singleton_run (f := fun q => intNat p j 8 (x.addr (5 + k) + 8 * q)) (a := 0) (intNat_readable p j hi hread)

theorem runAlign_two {m : Option Nat} (hr : s.readable (x.addr 0) 16) (hn : alStreams (s.readNat 16 (x.addr 0)) = 2)
    (hm : pickMember (alTol (s.readNat 16 (x.addr 0))) (oneSample (s.readNat 8 (x.addr (5 + 0)))) [oneSample (s.readNat 8 (x.addr (5 + 1)))] = m) :
    runAlign p j x s = (s, .ok (
      { writes := [(x.addr 1, if alMode1 (s.readNat 16 (x.addr 0)) ∨ m.isSome then groupBytes m else [])] },
      { status := if m.isSome then 0 else 2, outN := if alMode1 (s.readNat 16 (x.addr 0)) ∨ m.isSome then 1 else 0
        dropN := if m.isSome then 0 else 1 })) := by
  obtain ⟨hr0, -, -⟩ := hs 0 (by omega)
  obtain ⟨hr1, -, -⟩ := hs 1 (by omega)
  have hentries : hodEach (fun i => intNat p j 16 (x.addr 0 + 16 + 16 * i)) (List.range (alStreams (s.readNat 16 (x.addr 0)))) s =
      (s, .ok [s.readNat 16 (x.addr 0 + 16 + 16 * 0), s.readNat 16 (x.addr 0 + 16 + 16 * 1)]) := by
    rw [hn]
    exact hodEach_cons_run (f := fun i => intNat p j 16 (x.addr 0 + 16 + 16 * i)) (intNat_readable p j hi hr0)
      (hodEach_singleton_run (f := fun i => intNat p j 16 (x.addr 0 + 16 + 16 * i)) (intNat_readable p j hi hr1))
  have harrays : hodEach (fun e : Nat × Nat => hodEach (fun k => intNat p j 8 (x.addr (5 + e.2) + 8 * k)) (List.range (alCount e.1)))
      [s.readNat 16 (x.addr 0 + 16 + 16 * 0), s.readNat 16 (x.addr 0 + 16 + 16 * 1)].zipIdx s =
      (s, .ok [[s.readNat 8 (x.addr (5 + 0))], [s.readNat 8 (x.addr (5 + 1))]]) :=
    hodEach_cons_run (f := fun e : Nat × Nat => hodEach (fun k => intNat p j 8 (x.addr (5 + e.2) + 8 * k)) (List.range (alCount e.1)))
      (alignArray_one p j hi hs (k := 0) (by omega))
      (hodEach_singleton_run (f := fun e : Nat × Nat => hodEach (fun k => intNat p j 8 (x.addr (5 + e.2) + 8 * k)) (List.range (alCount e.1)))
        (alignArray_one p j hi hs (k := 1) (by omega)))
  rw [runAlign, hodBind_run (intNat_readable p j hi hr), hodBind_run hentries, hodBind_run harrays]
  simp only [List.map_cons, List.map_nil, markOrder_one, List.drop_one, List.tail_cons, List.headD_cons, inOrder_one, inOrder_refs, hm]
  cases m <;> cases alMode1 (s.readNat 16 (x.addr 0)) <;> simp [hodPure, groupBytes]

end

section
variable {s : State} {x : IntCmd} (p j : Nat) (hi : s.noInjection)
  (hs : ∀ k, k < 2 → s.readable (x.addr 0 + 16 + 16 * k) 16 ∧ alCount (s.readNat 16 (x.addr 0 + 16 + 16 * k)) = 1 ∧
    s.readable (x.addr (5 + k)) 8)
  (hr : s.readable (x.addr 0) 16) (hn : alStreams (s.readNat 16 (x.addr 0)) = 2)

/-- The samples of the two streams belong together. -/
def State.near (s : State) (x : IntCmd) : Prop :=
  bit (s.readNat 8 (x.addr (5 + 1))) 63 = bit (s.readNat 8 (x.addr (5 + 0))) 63 ∧
    natDist (bits (s.readNat 8 (x.addr (5 + 1))) 0 63) (bits (s.readNat 8 (x.addr (5 + 0))) 0 63) ≤ alTol (s.readNat 16 (x.addr 0))

include hi hs hr hn

theorem runAlign_near (hnear : s.near x) :
    runAlign p j x s = (s, .ok ({ writes := [(x.addr 1, groupBytes (some 0))] }, { outN := 1 })) := by
  rw [runAlign_two p j hi hs hr hn ((pickMember_one ..).trans (if_pos hnear))]
  simp

/-- Under MODE 1 a group that lacks its member is put out. -/
theorem runAlign_lacking (hfar : ¬ s.near x) (hmode : alMode1 (s.readNat 16 (x.addr 0)) = true) :
    runAlign p j x s = (s, .ok ({ writes := [(x.addr 1, groupBytes none)] }, { status := 2, outN := 1, dropN := 1 })) := by
  rw [runAlign_two p j hi hs hr hn ((pickMember_one ..).trans (if_neg hfar)), hmode]
  simp

/-- Under MODE 0 it is dropped. -/
theorem runAlign_dropped (hfar : ¬ s.near x) (hmode : alMode1 (s.readNat 16 (x.addr 0)) = false) :
    runAlign p j x s = (s, .ok ({ writes := [(x.addr 1, [])] }, { status := 2, dropN := 1 })) := by
  rw [runAlign_two p j hi hs hr hn ((pickMember_one ..).trans (if_neg hfar)), hmode]
  simp

end

/-! ### Start (R479), responses and completion (R476, R480) -/

/-- I_NOP needs nothing but its own checks. -/
theorem intPrepare_nop {s : State} {p j : Nat} {b : IntCmd} (ho : icOp b.w = 0) (hm : s.intakeMalformed p j b.w = false)
    (hw : icWaiten b.w = false) : intPrepare p j b s = (s, .ok { b with
      tr := (intakeUses b.w).map (fun u => (s.segAddr p j u.1 u.2.1 u.2.2.1 u.2.2.2 [3]).getD 0), ran := true }) := by
  have hgood : hodState (fun s => s.intakeMalformed p j b.w) s = (s, .ok false) := by
    rw [hodState, hm]
  have hread : ∀ wa, (if icWaiten b.w then intNat p j 8 wa else hodPure 0) s = (s, .ok 0) := by
    intro wa
    rw [hw]
    rfl
  rw [intPrepare, hodBind_run hgood, if_neg Bool.false_ne_true, hodBind_run rfl, hodBind_run (hread _), hodBind_run rfl, ho]
  rfl

theorem State.intBegin_nop {s : State} {n i w : Nat} (hn : s.noTrace) (ho : icOp w = 0)
    (hm : s.intakeMalformed (intPanel i) (intSlot i) w = false) (hw : icWaiten w = false) : s.intBegin n i w =
      (s.setRing (intRing n i) ((s.ring (intRing n i)).pass 2)).modIntake n (fun y => IntS.issueAll
        { y with panelPtr := (intPanel i + 1) % 16, ringPtr := y.ringPtr.set 0 (intPanel i) ((i % 32 + 1) % 32)
                 cmds := y.cmds ++ [{ ring := i, pos := (s.ring (intRing n i)).head, w := w, ran := true
                                      tr := (intakeUses w).map (fun u =>
                                        (s.segAddr (intPanel i) (intSlot i) u.1 u.2.1 u.2.2.1 u.2.2.2 [3]).getD 0) }] }) := by
  have hprep := intPrepare_nop (p := intPanel i) (b := { ring := i, pos := (s.ring (intRing n i)).head, w := w })
    (s := (s.modRing (intRing n i) (fun r => r.pass 2)).modIntake n (fun x => { x with
      panelPtr := (intPanel i + 1) % 16, ringPtr := x.ringPtr.set 0 (intPanel i) ((i % 32 + 1) % 32) })) ho hm hw
  unfold State.intBegin
  dsimp only
  rw [State.unitStarts, State.traceUnit_noTrace (s := s.modRing _ _) hn, hprep]
  exact State.modIntake_modIntake ..

section
variable {s : State} {n : Nat} {write : Bool} {x : IntCmd}
  (hx : (s.intake n).cmds.find? (fun c => decide (0 < (if write then c.wOut else c.rOut))) = some x)
include hx

theorem State.intResponse_ok : s.intResponse n write .ok = (s.modIntCmd n x.ring x.pos (fun c =>
    if write then { c with wOut := c.wOut - 1 } else { c with rOut := c.rOut - 1 })).modIntake n IntS.issueAll := by
  unfold State.intResponse
  rw [hx]
  exact if_pos rfl

theorem State.intResponse_bad {r : Resp} (hr : r ≠ .ok) :
    s.intResponse n write r = s.intFault n x.ring x.pos (if r = .poisoned then 2 else 3) := by
  unfold State.intResponse
  rw [hx]
  exact if_neg hr

end

/-- The status record with the time of completion (Table 14.5). -/
def State.intStatus (s : State) (x : IntCmd) : Nat := x.status + b2n s.time.lock * 2 ^ 16 + s.now % 2 ^ 64 * 2 ^ 192

theorem State.intComplete_ready {s : State} {n i : Nat} {x : IntCmd} (hn : s.noTrace) (hheld : s.intakeHeld n = false)
    (hx : (s.intake n).cmds.find? (fun c => c.ring = i) = some x) (hran : x.ran = true) (hr : x.rOut = 0) (hl : x.wLeft = 0)
    (hw : x.wOut = 0) (hrec : icRec x.w = false) (ho : icOp x.w ≠ 0) (hsig : icSigen x.w = false)
    (hput : s.writable (x.addr 2) 32) : s.intComplete n i = (s.writeBytes (x.addr 2) (toBytes 32 (s.intStatus x))).modIntake n
      (fun y => { y with cmds := y.cmds.filter (fun c => !(c.ring = i && c.pos = x.pos)) }) := by
  obtain ⟨-, hp, hwr⟩ := hput
  obtain ⟨v, hv⟩ : ∃ v, s.intStatus x = v := ⟨_, rfl⟩
  have hstatus : x.status + b2n s.time.lock * 2 ^ 16 + s.now % 2 ^ 64 * 2 ^ 192 = v := hv
  have hwrite := State.unitWrite_plain (bs := toBytes 32 v) hp (by rw [toBytes_length]; exact hwr)
  rw [hv]
  unfold State.intComplete
  rw [hx]
  dsimp only
  rw [if_pos (by simp [hran, hr, hl, hw, hheld]), if_neg ho, hstatus, hwrite]
  dsimp only
  rw [hrec, State.unitDone_unrecorded (s := (s.writeBytes _ _).modIntake n _) hn, hsig]
  rfl

/-! ### Commands whose reads are in -/

@[simp] theorem videoStat_outN (w : Nat) (h : Config.PicHead) (v : Config.VideoRun) (k : Nat) : (videoStat w h v k).outN = k := by
  unfold videoStat
  split <;> rfl

@[simp] theorem videoStat_dropN (w : Nat) (h : Config.PicHead) (v : Config.VideoRun) (k : Nat) :
    (videoStat w h v k).dropN = v.dropped := by
  unfold videoStat
  split
  · next h0 => rw [h0]; exact headStat_dropN w h
  · rfl

theorem videoStat_status (w : Nat) (h : Config.PicHead) (v : Config.VideoRun) (k : Nat) : (videoStat w h v k).status ≠ 1 := by
  unfold videoStat
  split
  · show (headStat w h).status ≠ 1
    simp
  · simp

/-- The command of ring `i` with opcode `op` is to run, its reads in. -/
structure State.IntRunning (s : State) (n i : Nat) (x : IntCmd) (op : Nat) : Prop where
  ran : x.ran = false
  left : x.rLeft = 0
  out : x.rOut = 0
  opcode : icOp x.w = op
  found : (s.intake n).cmds.find? (fun c => decide (c.ring = i) && !c.ran && decide (icOp c.w = op)) = some x
  held : s.intakeHeld n = false

section
variable {s u v : State} {n i op : Nat} {x : IntCmd} (hx : s.IntRunning n i x op)
include hx

theorem State.IntRunning.ring : x.ring = i := by
  have h := List.find?_some hx.found
  simp only [Bool.and_eq_true, decide_eq_true_eq] at h
  exact h.1.1

variable {out : HodOut} {st : IcStat} (hrun : intRun (intPanel i) (intSlot i) x s = (u, .ok (out, st)))
  (hw : u.intWrites out.writes = (v, none))
include hrun hw

theorem State.intRow_rejected (ho : op = 1 ∨ op = 2) (hst : st.status = 1) (hk : st.outN = 0) (hd : st.dropN = 0) :
    s.intRow n i (fun k => decide (k = op)) = v.intRan n x out st (satAdd 0xFFFFFFFF (v.intake n).pics 0)
      (satAdd 0xFFFF (v.intake n).rej 1) (satAdd 0xFFFF (v.intake n).drop 0) := by
  rw [← hx.ring] at hrun
  rw [State.intRow_running hx.found,
    State.intFinish_picture hx.ran hx.left hx.out hx.held hrun hw (by rw [hx.opcode]; exact ho), if_pos hst, hk, hd]

theorem State.intRow_pictures (ho : op = 1 ∨ op = 2) (hst : st.status ≠ 1) {k d : Nat} (hk : st.outN = k) (hd : st.dropN = d) :
    s.intRow n i (fun k => decide (k = op)) = v.intRan n x out st (satAdd 0xFFFFFFFF (v.intake n).pics k) (v.intake n).rej
      (satAdd 0xFFFF (v.intake n).drop d) := by
  rw [← hx.ring] at hrun
  rw [State.intRow_running hx.found,
    State.intFinish_picture hx.ran hx.left hx.out hx.held hrun hw (by rw [hx.opcode]; exact ho), if_neg hst, hk, hd]

theorem State.intRow_other (ho : op ≠ 1 ∧ op ≠ 2) (hst : st.status ≠ 1) :
    s.intRow n i (fun k => decide (k = op)) = v.intRan n x out st (v.intake n).pics (v.intake n).rej (v.intake n).drop := by
  rw [← hx.ring] at hrun
  rw [State.intRow_running hx.found,
    State.intFinish_other hx.ran hx.left hx.out hx.held hrun hw (by rw [hx.opcode]; exact ho) hst]

end

section
variable {x : IntCmd} (p j : Nat)

theorem intRun_image (ho : icOp x.w = 1) : intRun p j x = runImage p j x := by simp [intRun, ho]
theorem intRun_video (ho : icOp x.w = 2) : intRun p j x = runVideo p j x := by simp [intRun, ho]
theorem intRun_align (ho : icOp x.w = 3) : intRun p j x = runAlign p j x := by simp [intRun, ho]
theorem intRun_shuffle (ho : icOp x.w = 4) : intRun p j x = runShuffle x := by simp [intRun, ho]

end

/-- A run of one write at OUT that neither outputs pictures nor is rejected. -/
theorem State.intRow_oneWrite {s : State} {n i op : Nat} {x : IntCmd} (hx : s.IntRunning n i x op) {bs : List Byte} {st : IcStat}
    (hrun : intRun (intPanel i) (intSlot i) x s = (s, .ok ({ writes := [(x.addr 1, bs)] }, st))) (ho : op ≠ 1 ∧ op ≠ 2)
    (hst : st.status ≠ 1) (hp : s.plain (x.addr 1)) (hw : s.writeResp (x.addr 1) bs.length = .ok) :
    s.intRow n i (fun k => decide (k = op)) = (s.writeBytes (x.addr 1) bs).intRan n x { writes := [(x.addr 1, bs)] } st
      (s.intake n).pics (s.intake n).rej (s.intake n).drop :=
  State.intRow_other hx hrun (State.intWrites_cons hp hw []) ho hst

/-- What a run leaves is its writes, the intake engines apart. -/
theorem State.intRan_only (v : State) (n : Nat) (x : IntCmd) (out : HodOut) (st : IcStat) (pics rej drop : Nat) :
    ∃ t, v.intRan n x out st pics rej drop = { v with intakes := t } := ⟨_, rfl⟩

/-- After a run of one write its bytes stand, and tiles and panels are as before. -/
theorem State.intRan_writeBytes (s : State) (n : Nat) (x : IntCmd) (ad : Nat) (bs : List Byte) (out : HodOut) (st : IcStat)
    (pics rej drop : Nat) : let u := (s.writeBytes ad bs).intRan n x out st pics rej drop
    u.readBytes bs.length ad = bs ∧ s.bytesOutside u ad bs.length ∧ u.tiles = s.tiles ∧ u.panels = s.panels := by
  obtain ⟨t, ht⟩ := (s.writeBytes ad bs).intRan_only n x out st pics rej drop
  dsimp only
  rw [ht]
  exact ⟨State.readBytes_writeBytes s ad bs, State.writeBytes_outside s ad bs, rfl, rfl⟩

/-- What a completion leaves: its status record written, and the command forgotten. -/
theorem State.writeBytes_modIntake (s : State) (n ad : Nat) (f : IntS → IntS) (bs : List Byte) :
    let u := (s.writeBytes ad bs).modIntake n f
    s.bytesOutside u ad bs.length ∧ u.readBytes bs.length ad = bs ∧ u.intake n = f (s.intake n) ∧ u.adds = s.adds ∧ u.rings = s.rings :=
  ⟨State.writeBytes_outside s ad bs, State.readBytes_writeBytes s ad bs, State.intake_modIntake (s.writeBytes ad bs) n f, rfl, rfl⟩

/-! ### Settling -/

/-- Settles O46: each run is that of its opcode, whose writes are made; a start, a response and a completion are what the lemmas on them
say. -/
theorem intakeCommandsRun : Obligations.IntakeCommandsRun := by
  unfold Obligations.IntakeCommandsRun
  intro s n i hn hi hheld p j g it running done
  have hrunning {x : IntCmd} {op : Nat} (hx : running x op) : s.IntRunning n i x op := by
    obtain ⟨hran, hleft, hout, ho, hfind⟩ := hx
    exact ⟨hran, hleft, hout, ho, hfind, hheld⟩
  refine ⟨fun w hx hw ho hm hwait => ?nop, fun x hx hr hnorm => ?image, fun x hx hr hnorm => ?video,
    fun x hx v out st hrun t hw hst => ?align, fun x hx => ?alignTwo, fun x hx => ?shuffle,
    fun x write hx => ⟨?answered, fun r hr => ?refused⟩, fun x hx hran hr hl hw hrec ho hsig hput => ?complete⟩
  case nop =>
    exact (exec_iNop_start hx hw ho).trans (congrArg Host.Outcome.next (State.intBegin_nop hn ho hm hwait))
  case image =>
    intro bs hd wk rej
    have hx := hrunning hx
    have himage := congrFun (intRun_image p j hx.opcode) s
    refine ⟨fun c hc h8 => ?early, fun hc hbad v hw => ?late, fun hc => ?decoded⟩
    case early =>
      exact congrArg Host.Outcome.next (State.intRow_rejected hx (himage.trans (runImage_rejected p j hi hr hnorm rfl hc h8)) rfl
        (.inl rfl) rfl (headStat_outN ..) (headStat_dropN ..))
    case late =>
      exact congrArg Host.Outcome.next (State.intRow_rejected hx (himage.trans (runImage_undecodable p j hi hr hnorm rfl hc hbad)) hw
        (.inl rfl) rfl (headStat_outN ..) (headStat_dropN ..))
    case decoded =>
      intro out v hw
      have hstatus : ({ headStat x.w hd with outN := 1 } : IcStat).status ≠ 1 := by simp
      exact congrArg Host.Outcome.next (State.intRow_pictures hx (himage.trans (runImage_decoded p j hi hr hnorm rfl hc)) hw
        (.inl rfl) hstatus rfl (headStat_dropN ..))
  case video =>
    intro bs hd vr k wk
    have hx := hrunning hx
    have hvideo := congrFun (intRun_video p j hx.opcode) s
    refine ⟨fun c hc => ?early, fun hc => ?decoded⟩
    case early =>
      exact congrArg Host.Outcome.next (State.intRow_rejected hx (hvideo.trans (runVideo_rejected p j hi hr hnorm rfl hc)) rfl
        (.inr rfl) rfl (headStat_outN ..) (headStat_dropN ..))
    case decoded =>
      intro out st v hw
      exact congrArg Host.Outcome.next (State.intRow_pictures hx (hvideo.trans (runVideo_decoded p j hi hr hnorm rfl rfl rfl hc)) hw
        (.inr rfl) (videoStat_status _ _ _ _) (videoStat_outN ..) (videoStat_dropN ..))
  case align =>
    have hx := hrunning hx
    exact congrArg Host.Outcome.next (State.intRow_other hx ((congrFun (intRun_align p j hx.opcode) s).trans hrun) hw (by decide) hst)
  case alignTwo =>
    intro h t near wrote hr htwo hstreams hput
    have hx := hrunning hx
    obtain ⟨-, hplain, hwr⟩ := hput
    have halign := congrFun (intRun_align p j hx.opcode) s
    refine ⟨fun hnear => ?near, fun hfar hmode => ?kept, fun hfar hmode => ?dropped⟩
    case near =>
      exact congrArg Host.Outcome.next (State.intRow_oneWrite hx (halign.trans (runAlign_near p j hi hstreams hr htwo hnear))
        (by decide) (by decide) hplain hwr)
    case kept =>
      exact congrArg Host.Outcome.next (State.intRow_oneWrite hx (halign.trans (runAlign_lacking p j hi hstreams hr htwo hfar hmode))
        (by decide) (by decide) hplain hwr)
    case dropped =>
      exact congrArg Host.Outcome.next (State.intRow_oneWrite hx (halign.trans (runAlign_dropped p j hi hstreams hr htwo hfar hmode))
        (by decide) (by decide) hplain rfl)
  case shuffle =>
    intro bs hput
    have hx := hrunning hx
    obtain ⟨-, hplain, hwr⟩ := hput
    have hrun : intRun p j x s = (s, .ok ({ writes := [(x.addr 1, bs)] }, { outN := icCnt x.w })) :=
      congrFun (intRun_shuffle p j hx.opcode) s
    exact ⟨_, congrArg Host.Outcome.next (State.intRow_oneWrite hx hrun (by decide) (by simp) hplain hwr),
      State.intRan_writeBytes s n x (x.addr 1) bs ..⟩
  case answered => exact congrArg Host.Outcome.next (State.intResponse_ok hx)
  case refused =>
    intro q k hs hf
    exact ⟨_, congrArg Host.Outcome.next (State.intResponse_bad hx hr), State.intFault_job hs hf ..⟩
  case complete =>
    have hrun := State.intComplete_ready hn hheld hx hran hr hl hw hrec ho hsig hput
    obtain ⟨v, hv⟩ : ∃ v, s.intStatus x = v := ⟨_, rfl⟩
    have hstatus : x.status + b2n s.time.lock * 2 ^ 16 + s.now % 2 ^ 64 * 2 ^ 192 = v := hv
    obtain ⟨hout, hread, hint, hadds, hrings⟩ := s.writeBytes_modIntake n (x.addr 2)
      (fun y => { y with cmds := y.cmds.filter (fun c => !(c.ring = i && c.pos = x.pos)) }) (toBytes 32 v)
    rw [toBytes_length] at hout hread
    rw [hv] at hrun
    rw [hstatus]
    exact ⟨_, congrArg Host.Outcome.next hrun, hout, hread, congrArg IntS.cmds hint, hadds, hrings⟩

end Sys2Proof.Machine
end
